-- ==== Sys2Proof/Word.lean ====
section
/-! DEFINITION. Sys2Proof/Word.lean: the word types and the names of places, streams, queues and decode refusals. -/

namespace Sys2Proof

/-- A byte. -/
abbrev Byte := BitVec 8
/-- A word, 32 bits (R3). -/
abbrev Word := BitVec 32
/-- A dword, 64 bits (R3). -/
abbrev DWord := BitVec 64

/-- A slot of a core: global core number × 4 + slot (R1, R32). -/
abbrev Place := Fin 512
/-- A core die, C0 to C3 (R1). -/
abbrev DieId := Fin 4
/-- A global core number: die × 32 + cluster × 4 + local core (R1). -/
abbrev CoreId := Fin 128
/-- A cluster: die × 8 + cluster of the die (R1). -/
abbrev ClusterId := Fin 32

/-- The five streams of a group, in ring order from CTL (R1, R43). -/
inductive StreamId where
  | ctl | ldr | mxe | vec | str
  deriving DecidableEq, Repr

/-- The number of a stream, as IDENT codes it (R169). -/
def StreamId.toFin : StreamId → Fin 5
  | .ctl => 0 | .ldr => 1 | .mxe => 2 | .vec => 3 | .str => 4

/-- The next stream of the ring (R43). -/
def StreamId.next : StreamId → StreamId
  | .ctl => .ldr | .ldr => .mxe | .mxe => .vec | .vec => .str | .str => .ctl

/-- The previous stream of the ring (R43). -/
def StreamId.prev : StreamId → StreamId
  | .ctl => .str | .ldr => .ctl | .mxe => .ldr | .vec => .mxe | .str => .vec

/-- The streams in ring order from CTL. -/
def StreamId.all : List StreamId := [.ctl, .ldr, .mxe, .vec, .str]

/-- The six engine queues of a slot, in the QUEUE order of R388. -/
inductive QueueId where
  | matrix | vector | loader | storer | scatter | collective
  deriving DecidableEq, Repr

/-- The QUEUE code of a queue (R388). -/
def QueueId.toFin : QueueId → Fin 6
  | .matrix => 0 | .vector => 1 | .loader => 2 | .storer => 3 | .scatter => 4 | .collective => 5

/-- The queues in QUEUE order. -/
def QueueId.all : List QueueId := [.matrix, .vector, .loader, .storer, .scatter, .collective]

/-- Who performs a write: a stream through its store queue, or an engine for a started command (R86). -/
inductive Agent where
  | stream (st : StreamId)
  | engine (q : QueueId) (entry : Nat)
  deriving DecidableEq, Repr

/-- Why a word is not an instruction (R165); truncated: the bytes end inside an instruction, which no fetch of the machine gives. -/
inductive EncError where
  | zero | perm | major | func | rsvd | truncated
  deriving DecidableEq, Repr

end Sys2Proof
end

