-- ==== Sys2Proof/Config.lean ====
section
/-! DEFINITION. Sys2Proof/Config.lean: the free values, constants without a body. Nothing can evaluate one or prove a value of it, so a
claim that holds is true whatever it is. Each names what the spec leaves open and the log entry. -/

namespace Sys2Proof.Config

/-- Free bits, drawn by a counter of the state (log 5). -/
opaque freeBits : Nat → (w : Nat) → BitVec w

/-- A free choice between two happenings the spec leaves open, drawn by a counter of the state (log 5). -/
opaque freeBool : Nat → Bool

/-- R369: byte `pa` of a line written in key epoch `old` and read in epoch `now`: the decryption under the new key of the old
ciphertext, a function of the line's bytes (log 4). -/
opaque cipherByte : (pa old now : Nat) → (line : List Byte) → Byte

/-- R73: whether a line of a step's B operand is taken after a write that overlapped the step (log 9). -/
opaque bLineLate : (draw line : Nat) → Bool

/-- R291: whether an overlapped destination byte takes the source byte after the copy's own write (log 8). -/
opaque overlapLate : (draw byte : Nat) → Bool

/-- R362: a byte of the boot ROM, which the spec does not give (log 12). -/
opaque romByte : Nat → Byte

/-- R364: whether the staged image carries a signature that verifies (log 12). -/
opaque imageSigned : List (Nat × Byte) → Bool

/-- R364, R435: the configuration image of a core die, and whether its digest is the one the signed firmware image carries (log 12). -/
opaque configImage : DieId → List Byte
/-- R435 (log 12). -/
opaque configDigestGood : DieId → List (Nat × Byte) → Bool

/-- R366, R367: the certificate chain of slot 0 (log 12). -/
opaque certChain : List Byte
/-- R367: the code of the vendor-defined registry of the extended algorithms (log 12). -/
opaque vendorRegistry : Byte
/-- R366: whether a measurement block is of the trusted computing base, as a measurement summary of type 1 asks (log 12). -/
opaque tcbBlock : Nat → Bool
/-- R367: the SLH-DSA-SHAKE-256s signature over a transcript, 29,792 bytes (log 12). -/
opaque sign : List Byte → Vector Byte 29792
/-- R366: a random field of an SPDM response, drawn by a counter (log 12). -/
opaque spdmRandom : Nat → BitVec 256

/-- R29, R330: the energy in 1 µJ units that a core is estimated to use in a run of cycles, drawn by a counter (log 13). -/
opaque coreEnergy : Nat → Nat
/-- R330: the share of it accounted to a slot (log 13). -/
opaque slotEnergy : (draw slot : Nat) → Nat

/-- R420: the repair fuses of array `m` of a core: RET, SPU, SCG, LDEAD (log 6). -/
opaque fuseRet : CoreId → Fin 2 → Bool
/-- R420 (log 6). -/
opaque fuseSpu : CoreId → Fin 2 → Bool
/-- R420 (log 6). -/
opaque fuseScg : CoreId → Fin 2 → BitVec 2
/-- R420 (log 6). -/
opaque fuseDead : CoreId → Fin 2 → BitVec 16

end Sys2Proof.Config
end

