-- ==== Sys2Proof/Machine/Num.lean ====
section
/-! DEFINITION. Sys2Proof/Machine/Num.lean: number formats (R110 to R119), accumulator words and step sums (R120 to R122), rounding and conversion
(R123 to R128), canonical nodes, the functions of R130 and the reduction tree (R129 to R131). Values are exact: a sign, a natural number and a power of two. -/

namespace Sys2Proof.Machine

open Sys2Proof

/-! ## Exact values -/

/-- An exact value, or NaN, or an infinity: fin neg m e is ± m × 2^e, a zero keeping its sign. -/
inductive Val where
  | nan
  | inf (neg : Bool)
  | fin (neg : Bool) (m : Nat) (e : Int)
  deriving DecidableEq, Repr

/-- Whether a value is a zero. -/
def Val.isZero : Val → Bool
  | .fin _ m _ => m == 0
  | _ => false

/-- Whether a value is finite. -/
def Val.isFin : Val → Bool
  | .fin _ _ _ => true
  | _ => false

/-- The sign of a value. -/
def Val.neg : Val → Bool
  | .nan => false
  | .inf n => n
  | .fin n _ _ => n

/-- The value with the other sign. -/
def Val.flip : Val → Val
  | .nan => .nan
  | .inf n => .inf (!n)
  | .fin n m e => .fin (!n) m e

/-- An integer as a value. -/
def Val.ofInt (i : Int) : Val := .fin (decide (i < 0)) i.natAbs 0

/-- A value times 2^k. -/
def Val.scale (v : Val) (k : Int) : Val :=
  match v with
  | .fin n m e => .fin n m (e + k)
  | x => x

/-- floor(log2 (m × 2^e)) for m > 0. -/
def log2Of (m : Nat) (e : Int) : Int := (Nat.log2 m : Int) + e

/-- Signed exact numbers: i × 2^e. -/
structure Dyad where
  i : Int
  e : Int
  deriving DecidableEq, Repr

/-- The sum of two exact numbers. -/
def Dyad.add (a b : Dyad) : Dyad :=
  if a.e ≤ b.e then { i := a.i + b.i * 2 ^ (b.e - a.e).toNat, e := a.e }
  else { i := a.i * 2 ^ (a.e - b.e).toNat + b.i, e := b.e }

/-- The number of a finite value. -/
def Val.dyad : Val → Dyad
  | .fin n m e => { i := if n then -(m : Int) else m, e := e }
  | _ => { i := 0, e := 0 }

/-- An exact sum as a value, with the sign of an exact zero as R125 gives it: −0 when every addend is −0 or the mode is RDN. -/
def Val.ofSum (d : Dyad) (allNegZero rdn : Bool) : Val :=
  if d.i = 0 then .fin (allNegZero || rdn) 0 0 else .fin (decide (d.i < 0)) d.i.natAbs d.e

/-- a + b (R125, R247). -/
def Val.add (rdn : Bool) (a b : Val) : Val :=
  match a, b with
  | .nan, _ | _, .nan => .nan
  | .inf n, .inf m => if n = m then .inf n else .nan
  | .inf n, _ | _, .inf n => .inf n
  | .fin n x e, .fin m y f => Val.ofSum (Dyad.add (Val.dyad (.fin n x e)) (Val.dyad (.fin m y f))) (n && m && x == 0 && y == 0) rdn

/-- a × b (R247). -/
def Val.mul (a b : Val) : Val :=
  match a, b with
  | .nan, _ | _, .nan => .nan
  | .inf n, .inf m => .inf (n != m)
  | .inf n, .fin m y _ => if y = 0 then .nan else .inf (n != m)
  | .fin n x _, .inf m => if x = 0 then .nan else .inf (n != m)
  | .fin n x e, .fin m y f => .fin (n != m) (x * y) (e + f)

/-- The order of two magnitudes of finite values: m × 2^e < n × 2^f. -/
def magLt (m : Nat) (e : Int) (n : Nat) (f : Int) : Bool :=
  if e ≤ f then decide (m < n * 2 ^ (f - e).toNat) else decide (m * 2 ^ (e - f).toNat < n)

/-- a < b for values that are no NaN; the zeros are equal. -/
def Val.lt (a b : Val) : Bool :=
  match a, b with
  | .nan, _ | _, .nan => false
  | .inf n, .inf m => n && !m
  | .inf n, .fin _ _ _ => n
  | .fin _ _ _, .inf m => !m
  | .fin n x e, .fin m y f =>
    let d := Dyad.add (Val.dyad (.fin n x e)) (Val.dyad (.fin (!m) y f))
    decide (d.i < 0)

/-- a = b as numbers: +0 and −0 are equal, a NaN equals nothing. -/
def Val.eq (a b : Val) : Bool :=
  match a, b with
  | .nan, _ | _, .nan => false
  | a, b => !a.lt b && !b.lt a

/-- a below b where −0 lies below +0 (R131, R247). -/
def Val.below (a b : Val) : Bool := a.lt b || (a.isZero && b.isZero && a.neg && !b.neg)

/-- The minimum and the maximum with −0 below +0; NaN when either is NaN (R131, R247). -/
def Val.min2 (a b : Val) : Val := if a = .nan ∨ b = .nan then .nan else if b.below a then b else a
/-- The maximum (R131, R247). -/
def Val.max2 (a b : Val) : Val := if a = .nan ∨ b = .nan then .nan else if a.below b then b else a

/-! ## Floating formats (R115) -/

/-- The floating formats. -/
inductive FFmt where
  | fp32 | bf16 | fp16 | e4m3 | e5m2
  deriving DecidableEq, Repr

/-- The width in bits. -/
def FFmt.width : FFmt → Nat
  | .fp32 => 32 | .bf16 => 16 | .fp16 => 16 | .e4m3 => 8 | .e5m2 => 8
/-- The bits of the fraction. -/
def FFmt.frac : FFmt → Nat
  | .fp32 => 23 | .bf16 => 7 | .fp16 => 10 | .e4m3 => 3 | .e5m2 => 2
/-- The least exponent of a normal value. -/
def FFmt.emin : FFmt → Int
  | .fp32 => -126 | .bf16 => -126 | .fp16 => -14 | .e4m3 => -6 | .e5m2 => -14
/-- The exponent of the top binade. -/
def FFmt.emax : FFmt → Int
  | .fp32 => 127 | .bf16 => 127 | .fp16 => 15 | .e4m3 => 8 | .e5m2 => 15
/-- The bits of the largest finite magnitude. -/
def FFmt.maxBits : FFmt → Nat
  | .fp32 => 0x7F7FFFFF | .bf16 => 0x7F7F | .fp16 => 0x7BFF | .e4m3 => 0x7E | .e5m2 => 0x7B
/-- The canonical NaN (R116). -/
def FFmt.nanBits : FFmt → Nat
  | .fp32 => 0x7FC00000 | .bf16 => 0x7FC0 | .fp16 => 0x7E00 | .e4m3 => 0x7F | .e5m2 => 0x7E
/-- The bits of +∞; none in E4M3. -/
def FFmt.infBits : FFmt → Option Nat
  | .fp32 => some 0x7F800000 | .bf16 => some 0x7F80 | .fp16 => some 0x7C00 | .e4m3 => none | .e5m2 => some 0x7C
/-- Whether a result narrows under R127. -/
def FFmt.narrow : FFmt → Bool
  | .e4m3 => true | .e5m2 => true | _ => false

/-- The bits of a magnitude with a sign. -/
def FFmt.signed (f : FFmt) (neg : Bool) (mag : Nat) : Nat := if neg then mag + 2 ^ (f.width - 1) else mag

/-- The value of a bit pattern (R115). -/
def FFmt.decode (f : FFmt) (bits : Nat) : Val :=
  let neg := decide (2 ^ (f.width - 1) ≤ bits % 2 ^ f.width)
  let mag := bits % 2 ^ (f.width - 1)
  if mag ≤ f.maxBits then
    let x := mag / 2 ^ f.frac
    let fr := mag % 2 ^ f.frac
    if x = 0 then .fin neg fr (f.emin - f.frac) else .fin neg (2 ^ f.frac + fr) (f.emin - f.frac + (x - 1 : Nat))
  else if f.infBits = some mag then .inf neg
  else .nan

/-! ## Rounding (R123 to R127) -/

/-- The word a rounding under DSR compares with (R126). -/
def dsrHash (seed row col step : BitVec 32) : BitVec 32 :=
  let h := seed ^^^ (row * 0x9E3779B1#32) ^^^ (col * 0x85EBCA77#32) ^^^ (step * 0xC2B2AE35#32)
  let h := h ^^^ (h >>> 15)
  let h := h * 0x2C1B3C6D#32
  let h := h ^^^ (h >>> 12)
  let h := h * 0x297A2D39#32
  h ^^^ (h >>> 15)

/-- How a value is rounded: the mode of R123, the OVF bit of R124, and the word of R126. -/
structure Rnd where
  mode : BitVec 3
  ovf  : BitVec 1
  hash : BitVec 32
  deriving DecidableEq, Repr

/-- Rounding to nearest even (R121, R129). -/
def Rnd.rne : Rnd := { mode := 0, ovf := 0, hash := 0 }

/-- Whether the mode is RDN. -/
def Rnd.rdn (r : Rnd) : Bool := r.mode == 3#3

/-- up of round_to (R125): the discarded fraction is n/d of the gap, lsb the low bit of lo's encoding. A MODE of 6 or 7, which only a saved image can
bring into a rounding state and for which the spec names no rounding, rounds here as DSR does, with the word it is given (log 61). -/
def Rnd.up (r : Rnd) (neg lsb : Bool) (n d : Nat) : Bool :=
  if n = 0 then false
  else
    match r.mode.toNat with
    | 0 => decide (d < 2 * n) || (decide (2 * n = d) && lsb)
    | 1 => false
    | 2 => !neg
    | 3 => neg
    | 4 => decide (d ≤ 2 * n)
    | _ => decide (r.hash.toNat * d < n * 2 ^ 32)

/-- m × 2^e cut at a multiple of 2^q: the quotient, and the rest over its denominator. -/
def cutAt (m : Nat) (e q : Int) : Nat × Nat × Nat :=
  if q ≤ e then (m * 2 ^ (e - q).toNat, 0, 1)
  else
    let d := 2 ^ (q - e).toNat
    (m / d, m % d, d)

/-- sat_narrow of an E4M3 or E5M2 result (R127). -/
def FFmt.sat (f : FFmt) (ovf : BitVec 1) (neg : Bool) : Nat := if ovf = 1#1 then f.nanBits else f.signed neg f.maxBits

/-- round_to into a floating format, as a bit pattern (R125). -/
def FFmt.round (f : FFmt) (r : Rnd) (x : Val) : Nat :=
  match x with
  | .nan => f.nanBits
  | .inf neg =>
    match f.infBits with
    | some i => f.signed neg i
    | none => f.sat r.ovf neg
  | .fin neg m e =>
    if m = 0 then f.signed neg 0
    else
      let E := if log2Of m e < f.emin then f.emin else if f.emax < log2Of m e then f.emax else log2Of m e
      let (k, n, d) := cutAt m e (E - f.frac)
      let k := if r.up neg (k % 2 == 1) n d then k + 1 else k
      let mag := k + (E - f.emin).toNat * 2 ^ f.frac
      if mag ≤ f.maxBits then f.signed neg mag
      else if f.narrow then f.sat r.ovf neg
      else
        let toMax := r.mode = 1#3 ∨ (r.mode = 2#3 ∧ neg = true) ∨ (r.mode = 3#3 ∧ neg = false)
        if toMax then f.signed neg f.maxBits else f.signed neg ((f.infBits).getD 0)

/-- round_to into a two's complement format of w bits (R125). -/
def roundInt (w : Nat) (r : Rnd) (x : Val) : BitVec w :=
  match x with
  | .nan => 0
  | .inf neg => if neg then BitVec.intMin w else BitVec.intMax w
  | .fin neg m e =>
    let (k, n, d) := cutAt m e 0
    let k := if r.up neg (k % 2 == 1) n d then k + 1 else k
    if neg then (if 2 ^ (w - 1) < k then BitVec.intMin w else -(BitVec.ofNat w k))
    else (if 2 ^ (w - 1) ≤ k then BitVec.intMax w else BitVec.ofNat w k)

/-- The magnitudes of the Q4 types 01, 10 and 11, in eighths (R118). -/
def q4Table : Nat → List Nat
  | 1 => [0, 4, 8, 12, 16, 24, 32, 48]
  | 2 => [0, 1, 2, 4, 8, 16, 32, 64]
  | _ => [0, 8, 16, 24, 32, 48, 64, 128]

/-- The largest magnitude L of a Q4 type (R118). -/
def q4Largest : Nat → Nat
  | 0 => 7 | 1 => 6 | 2 => 8 | _ => 16

/-- round_to into the elements of a Q4 type, of a finite value; none makes the containing block NaN (R125, R127). -/
def roundQ4 (t : Nat) (r : Rnd) (x : Val) : Option (BitVec 4) :=
  match x with
  | .fin neg m e =>
    if t = 0 then
      let (k, n, d) := cutAt m e 0
      let k := if r.up neg (k % 2 == 1) n d then k + 1 else k
      let top := if neg then 8 else 7
      if k ≤ top then some (if neg then -(BitVec.ofNat 4 k) else BitVec.ofNat 4 k)
      else if r.ovf = 1#1 then none
      else some (if neg then 8#4 else 7#4)
    else if m = 0 then some (if neg then 8#4 else 0#4)
    else
      let (k, n, d) := cutAt m e (-3)
      let tab := q4Table t
      let top := tab.getD 7 0
      let i := ((List.range 8).filter (fun j => tab.getD j 0 ≤ k)).length - 1
      let gap := top - tab.getD 6 0
      let lo := if top ≤ k then top + (k - top) / gap * gap else tab.getD i 0
      let hi := if top ≤ k then lo + gap else tab.getD (i + 1) 0
      let up := r.up neg (i % 2 == 1) ((k - lo) * d + n) ((hi - lo) * d)
      let code (j : Nat) : BitVec 4 := BitVec.ofBool neg ++ BitVec.ofNat 3 j
      if top < (if up then hi else lo) then (if r.ovf = 1#1 then none else some (code 7))
      else some (code (if up then i + 1 else i))
  | _ => none

/-! ## Blocks (R117 to R119, R128) -/

/-- mx_scale of an E8M0 byte: a power of two, or NaN (R119). -/
def mxScale (b : Byte) : Option Int := if b = 0xFF#8 then none else some ((b.toNat : Int) - 127)

/-- mx_scale of a Q4 scale byte (R119). -/
def q4Scale (b : Byte) : Option Int := if b.extractLsb' 0 6 = 63#6 then none else some ((b.extractLsb' 0 6).toNat - 31)

/-- q4_value (R119). -/
def q4Value (code : BitVec 4) (b : Byte) : Val :=
  match q4Scale b with
  | none => .nan
  | some k =>
    let t := (b.extractLsb' 6 2).toNat
    if t = 0 then (Val.ofInt code.toInt).scale k
    else .fin (code.getLsbD 3) ((q4Table t).getD (code.extractLsb' 0 3).toNat 0) (k - 3)

/-- The value of an MX8 element (R117). -/
def mxValue (f : FFmt) (el : Byte) (b : Byte) : Val :=
  match mxScale b with
  | none => .nan
  | some k => (f.decode el.toNat).scale k

/-- The largest magnitude of a list of finite values: m × 2^e. -/
def amax (xs : List Val) : Nat × Int :=
  xs.foldl (fun acc x => match x with
    | .fin _ m e => if magLt acc.1 acc.2 m e then (m, e) else acc
    | _ => acc) (0, 0)

/-- An integer clamped. -/
def clampInt (x lo hi : Int) : Int := if x < lo then lo else if hi < x then hi else x

/-- A block of 32 values into MX8: the scale byte and the elements, element i rounded by r i (R128). -/
def blockMx (f : FFmt) (r : Nat → Rnd) (xs : List Val) : Byte × List Byte :=
  if xs.any (fun x => !x.isFin) then (0xFF#8, List.replicate 32 0#8)
  else
    let (m, e) := amax xs
    let s : Int := if m = 0 then 0 else clampInt (log2Of m e - f.emax + 127) 0 254
    (BitVec.ofInt 8 s, xs.zipIdx.map (fun x => BitVec.ofNat 8 (f.round (r x.2) (x.1.scale (127 - s)))))

/-- ceil(log2(m × 2^e / L)) for m > 0 (R128). -/
def ceilLogOver (m : Nat) (e : Int) (l : Nat) : Int :=
  let k := log2Of m e - (Nat.log2 l : Int)
  if magLt l k m e then k + 1 else k

/-- A block of 32 values into Q4 of a type: the scale byte and the codes (R127, R128). -/
def blockQ4 (t : Nat) (r : Nat → Rnd) (xs : List Val) : Byte × List (BitVec 4) :=
  let nan : Byte × List (BitVec 4) := (BitVec.ofNat 8 (t * 64 + 63), List.replicate 32 0#4)
  if xs.any (fun x => !x.isFin) then nan
  else
    let (m, e) := amax xs
    let s : Int := if m = 0 then 0 else clampInt (ceilLogOver m e (q4Largest t) + 31) 0 62
    let codes := xs.zipIdx.map (fun x => roundQ4 t (r x.2) (x.1.scale (31 - s)))
    if codes.any (fun c => c.isNone) then nan
    else (BitVec.ofNat 8 (t * 64 + s.toNat), codes.map (fun c => c.getD 0))

/-! ## Accumulator words (R120, R121) -/

/-- W48_NAN. -/
def w48Nan : BitVec 48 := 0x800000000000#48

/-- An integer held in the finite range, and whether it overflowed. -/
def w48Sat (m : Int) : BitVec 48 × Bool :=
  if 2 ^ 47 - 1 < m then (BitVec.ofInt 48 (2 ^ 47 - 1), true)
  else if m < -(2 ^ 47 - 1) then (BitVec.ofInt 48 (-(2 ^ 47 - 1)), true)
  else (BitVec.ofInt 48 m, false)

/-- w48_round (R121); a value that is not finite counts as NaN (R122). -/
def w48Round (x : Val) (e : BitVec 16) : BitVec 48 × Bool :=
  match x with
  | .fin neg m f =>
    let (k, n, d) := cutAt m f (e.toInt - 32)
    let k := if Rnd.rne.up neg (k % 2 == 1) n d then k + 1 else k
    w48Sat (if neg then -(k : Int) else k)
  | _ => (w48Nan, false)

/-- w48_add (R121). -/
def w48Add (a b : BitVec 48) : BitVec 48 × Bool :=
  if a = w48Nan ∨ b = w48Nan then (w48Nan, false) else w48Sat (a.toInt + b.toInt)

/-- The value of an element word under an exponent word (R120). -/
def w48Value (m : BitVec 48) (e : BitVec 16) : Val :=
  if m = w48Nan then .nan else (Val.ofInt m.toInt).scale (e.toInt - 32)

/-! ## Step sums (R122) -/

/-- align16 (R122). -/
def align16 (ps : List Val) : Val :=
  let top := ps.foldl (fun (acc : Option Int) p => match p with
    | .fin _ m e => if m = 0 then acc else (match acc with
      | none => some (log2Of m e)
      | some a => if a < log2Of m e then some (log2Of m e) else some a)
    | _ => acc) none
  match top with
  | none => .fin false 0 0
  | some t =>
    let q := t - 46
    let s := ps.foldl (fun (acc : Int) p => match p with
      | .fin n m e => let k : Int := (cutAt m e q).1; if n then acc - k else acc + k
      | _ => acc) 0
    .fin (decide (s < 0)) s.natAbs q

/-- The exact sum of finite values. -/
def exactSum (ps : List Val) : Val :=
  let d := ps.foldl (fun (acc : Dyad) p => if p.isZero then acc else if acc.i = 0 then p.dyad else acc.add p.dyad) { i := 0, e := 0 }
  .fin (decide (d.i < 0)) d.i.natAbs d.e

/-- The step sum of one element from its operands (R122): NaN when an operand is NaN or infinite; al: the products are aligned. -/
def stepSum (al : Bool) (xs ys : List Val) : Val :=
  if xs.any (fun x => !x.isFin) || ys.any (fun y => !y.isFin) then .nan
  else
    let ps := List.zipWith Val.mul xs ys
    if al then align16 ps else exactSum ps

/-! ## Canonical nodes and the reduction tree (R129, R131) -/

/-- canon_node and canon_add on bit patterns (R129, R131). -/
def canonNode (f : FFmt) (l r : Nat) : Nat := f.round Rnd.rne (Val.add false (f.decode l) (f.decode r))

/-- The operations of VRED. -/
inductive RedOp where
  | add | max | min
  deriving DecidableEq, Repr

/-- node of R131 for INT32. -/
def redInt (o : RedOp) (a b : BitVec 32) : BitVec 32 :=
  match o with
  | .add => a + b
  | .max => if a.slt b then b else a
  | .min => if b.slt a then b else a

/-- node of R131 for a floating format. -/
def redFloat (f : FFmt) (o : RedOp) (a b : Nat) : Nat :=
  match o with
  | .add => canonNode f a b
  | .max => f.round Rnd.rne (Val.max2 (f.decode a) (f.decode b))
  | .min => f.round Rnd.rne (Val.min2 (f.decode a) (f.decode b))

/-- One level of vred_tree (R131). -/
def redLevel {α : Type} (node : α → α → α) : List α → List α
  | a :: b :: rest => node a b :: redLevel node rest
  | l => l

/-- vred_tree over a list of 2^k values (R131). -/
def redTree {α : Type} (node : α → α → α) : Nat → List α → List α
  | 0, l => l
  | k + 1, l => redTree node k (redLevel node l)

/-- The identity of an operation (R131). -/
def redIdInt : RedOp → BitVec 32
  | .add => 0 | .max => BitVec.intMin 32 | .min => BitVec.intMax 32
/-- The identity of an operation in a floating format (R131). -/
def redIdFloat (f : FFmt) : RedOp → Nat
  | .add => f.signed true 0
  | .max => f.signed true (f.infBits.getD 0)
  | .min => f.signed false (f.infBits.getD 0)

/-! ## The functions of R130

A quotient or a root is carried with enough bits for every comparison of round_to, and its lowest bit set when the rest is not zero. -/

/-- floor of the square root, bit by bit from 2^k. -/
def isqrtFrom : Nat → Nat → Nat → Nat
  | 0, _, r => r
  | k + 1, n, r =>
    let t := r + 2 ^ k
    isqrtFrom k n (if t * t ≤ n then t else r)

/-- floor(√n). -/
def isqrt (n : Nat) : Nat := isqrtFrom (Nat.log2 n / 2 + 1) n 0

/-- The quotient of two finite values, b not zero. -/
def quotient (m : Nat) (e : Int) (n : Nat) (f : Int) : Nat × Int :=
  let sh := 160 + Nat.log2 n
  let a := m * 2 ^ sh
  (2 * (a / n) + (if a % n = 0 then 0 else 1), e - f - sh - 1)

/-- Division (R130). -/
def Val.div (a b : Val) : Val :=
  match a, b with
  | .nan, _ | _, .nan => .nan
  | .inf _, .inf _ => .nan
  | .inf n, .fin m _ _ => .inf (n != m)
  | .fin n _ _, .inf m => .fin (n != m) 0 0
  | .fin n x e, .fin m y f =>
    if y = 0 then (if x = 0 then .nan else .inf (n != m))
    else if x = 0 then .fin (n != m) 0 0
    else
      let (k, g) := quotient x e y f
      .fin (n != m) k g

/-- The square root of m × 2^e, m > 0: 160 bits of it. -/
def rootOf (m : Nat) (e : Int) : Nat × Int :=
  let e' := e - 320 - (e % 2)
  let n := m * 2 ^ (e - e').toNat
  let k := isqrt n
  (2 * k + (if k * k = n then 0 else 1), e' / 2 - 1)

/-- VSQRT (R130). -/
def Val.sqrt : Val → Val
  | .nan => .nan
  | .inf n => if n then .nan else .inf false
  | .fin n m e => if m = 0 then .fin n 0 0 else if n then .nan else let (k, g) := rootOf m e; .fin false k g

/-- 1/√ of m × 2^e, m > 0: the root of the quotient 2^s / m, taken exactly as a floor. -/
def rsqrtOf (m : Nat) (e : Int) : Nat × Int :=
  -- 1/sqrt(m 2^e) = sqrt(2^(-e) / m); with t even, floor(sqrt(2^t / m)) = isqrt(2^t / m)
  let t : Int := 400 + 2 * (Nat.log2 m : Int) + (e % 2)
  let q := 2 ^ t.toNat / m
  let k := isqrt q
  (2 * k + (if k * k * m = 2 ^ t.toNat then 0 else 1), (-e - t) / 2 - 1)

/-- VRSQ (R130). -/
def Val.rsqrt : Val → Val
  | .nan => .nan
  | .inf n => if n then .nan else .fin false 0 0
  | .fin n m e => if m = 0 then .inf n else if n then .nan else let (k, g) := rsqrtOf m e; .fin false k g

/-- VRCP (R130). -/
def Val.recip (x : Val) : Val := Val.div (.fin false 1 0) x

/-- Working bits of the bounds below. -/
def workBits : Nat := 256

/-- Bounds of 2^f for f = 0.b1 b2 … in binary, with root the working value of 2^(2^-i) from below and above: the factors of the set bits are
multiplied. -/
def exp2Bounds : List Bool → Nat → Nat → Nat → Nat → Nat × Nat
  | [], _, _, lo, hi => (lo, hi)
  | b :: rest, rl, rh, lo, hi =>
    let one := 2 ^ workBits
    let rl' := isqrt (rl * one)
    let rh' := isqrt (rh * one) + 1
    if b then exp2Bounds rest rl' rh' (lo * rl' / one) (hi * rh' / one + 1) else exp2Bounds rest rl' rh' lo hi

/-- Bounds of log2 of y / 2^workBits in [1, 2): bit after bit; it ends early where the bounds of y allow both bits. -/
def log2Bounds : Nat → Nat → Nat → Nat → Nat → Nat × Nat
  | 0, _, _, acc, k => (acc * 2 ^ (workBits - k), (acc + 1) * 2 ^ (workBits - k))
  | n + 1, yl, yh, acc, k =>
    let one := 2 ^ workBits
    let l := yl * yl / one
    let h := yh * yh / one + 1
    if 2 * one ≤ l then log2Bounds n (l / 2) (h / 2 + 1) (2 * acc + 1) (k + 1)
    else if h < 2 * one then log2Bounds n l h (2 * acc) (k + 1)
    else (acc * 2 ^ (workBits - k), (acc + 1) * 2 ^ (workBits - k))

/-- Bounds of a number brought to one unit by halving: ge says whether the number is at least a candidate. -/
def narrow (ge : Int → Bool) : Nat → Int → Int → Int
  | 0, lo, _ => lo
  | n + 1, lo, hi =>
    if hi - lo ≤ 1 then lo
    else if ge ((lo + hi) / 2) then narrow ge n ((lo + hi) / 2) hi
    else narrow ge n lo ((lo + hi) / 2)

/-- A number of units of 2^q, as a value. -/
def units (i q : Int) : Val := .fin (decide (i < 0)) i.natAbs q

/-- A result that is no multiple of 2^q, known to lie between lo and hi units of it (R130): where both round alike that is the result; else exact
comparisons find the unit that it lies in, of which no inner point is a boundary of any rounding (log 10). -/
def between (r : Rnd) (q lo hi : Int) (ge : Int → Bool) : Nat :=
  let a := FFmt.fp32.round r (units lo q)
  if a = FFmt.fp32.round r (units hi q) then a else FFmt.fp32.round r (units (2 * narrow ge (2 * workBits) lo hi + 1) (q - 1))

/-- VEXP2 (R130). -/
def exp2 (r : Rnd) (x : BitVec 32) : Nat :=
  let f := FFmt.fp32
  match f.decode x.toNat with
  | .nan => f.nanBits
  | .inf n => if n then 0 else f.round r (.inf false)
  | .fin neg m e =>
    if m = 0 then f.round r (.fin false 1 0)
    else if 9 < log2Of m e then
      f.round r (if neg then .fin false 1 (-100000) else .fin false 1 100000)
    else
      -- x = i + k / 2^151 with i an integer and k below 2^151
      let d := Val.dyad (.fin neg m e)
      let n : Int := d.i * 2 ^ (d.e + 151).toNat
      let i := n / 2 ^ 151
      let k := (n % 2 ^ 151).toNat
      if k = 0 then f.round r (.fin false 1 i)
      else
        let bits := (List.range 151).map (fun j => k.testBit (150 - j))
        let one := 2 ^ workBits
        let (lo, hi) := exp2Bounds bits (2 * one) (2 * one) one one
        -- 2^(k / 2^151) is at least u / 2^256 when 2^(k + 256 * 2^151) is at least u^(2^151)
        between r (i - workBits) lo hi (fun u => decide (u.toNat ^ 2 ^ 151 ≤ 2 ^ (k + workBits * 2 ^ 151)))

/-- VLOG2 (R130). -/
def log2 (r : Rnd) (x : BitVec 32) : Nat :=
  let f := FFmt.fp32
  match f.decode x.toNat with
  | .nan => f.nanBits
  | .inf n => if n then f.nanBits else f.round r (.inf false)
  | .fin neg m e =>
    if m = 0 then f.round r (.inf true)
    else if neg then f.nanBits
    else
      let i := log2Of m e
      let y := m * 2 ^ (workBits - Nat.log2 m)
      if m = 2 ^ Nat.log2 m then f.round r (Val.ofInt i)
      else
        let (lo, hi) := log2Bounds 120 y y 0 0
        -- with m = y * 2^t, log2 y is at least u / 2^256 when m^(2^256) is at least 2^(u + t * 2^256)
        let whole : Int := i * 2 ^ workBits
        between r (-workBits) (whole + lo) (whole + hi)
          (fun u => decide (2 ^ ((u - whole).toNat + Nat.log2 m * 2 ^ workBits) ≤ m ^ 2 ^ workBits))

end Sys2Proof.Machine
end

