-- ==== Sys2Proof/Syntax.lean ====
section
/-! DEFINITION. Sys2Proof/Syntax.lean: the instructions and events of spec/opcode_table.json, one constructor per row.
An encoded row carries its ring bits r (R44) first, a two-word row its event field ev (R46) next, then its operand fields
at the widths of the encoding. A row without an encoding is an event: its arguments say where it happens and what the outside supplies. -/

namespace Sys2Proof

/-- The opcode table, row by row (R174 to R177 and 95_what_each_step_holds). -/
inductive Instr where
  | add (r : BitVec 4) (d a b : BitVec 6)
  | sub (r : BitVec 4) (d a b : BitVec 6)
  | and (r : BitVec 4) (d a b : BitVec 6)
  | or (r : BitVec 4) (d a b : BitVec 6)
  | xor (r : BitVec 4) (d a b : BitVec 6)
  | shl (r : BitVec 4) (d a b : BitVec 6)
  | shr (r : BitVec 4) (d a b : BitVec 6)
  | sra (r : BitVec 4) (d a b : BitVec 6)
  | mul (r : BitVec 4) (d a b : BitVec 6)
  | mulh (r : BitVec 4) (d a b : BitVec 6)
  | mulhu (r : BitVec 4) (d a b : BitVec 6)
  | div (r : BitVec 4) (d a b : BitVec 6)
  | divu (r : BitVec 4) (d a b : BitVec 6)
  | rem (r : BitVec 4) (d a b : BitVec 6)
  | remu (r : BitVec 4) (d a b : BitVec 6)
  | min (r : BitVec 4) (d a b : BitVec 6)
  | max (r : BitVec 4) (d a b : BitVec 6)
  | minu (r : BitVec 4) (d a b : BitVec 6)
  | maxu (r : BitVec 4) (d a b : BitVec 6)
  | clz (r : BitVec 4) (d a : BitVec 6)
  | ctz (r : BitVec 4) (d a : BitVec 6)
  | popc (r : BitVec 4) (d a : BitVec 6)
  | brev (r : BitVec 4) (d a : BitVec 6)
  | addi (r : BitVec 4) (d a : BitVec 6) (i : BitVec 9)
  | andi (r : BitVec 4) (d a : BitVec 6) (i : BitVec 9)
  | ori (r : BitVec 4) (d a : BitVec 6) (i : BitVec 9)
  | xori (r : BitVec 4) (d a : BitVec 6) (i : BitVec 9)
  | shli (r : BitVec 4) (d a k : BitVec 6)
  | shri (r : BitVec 4) (d a k : BitVec 6)
  | srai (r : BitVec 4) (d a k : BitVec 6)
  | lis (r : BitVec 4) (d : BitVec 6) (i : BitVec 15)
  | liw (r ev : BitVec 4) (d : BitVec 6) (ih : BitVec 15) (il : BitVec 28)
  | lihi (r ev : BitVec 4) (d : BitVec 6) (v : BitVec 21)
  | lea (r : BitVec 4) (d a b : BitVec 6) (s : BitVec 2)
  | mvc (r : BitVec 4) (d : BitVec 6) (a : BitVec 3)
  | mvb (r : BitVec 4) (d : BitVec 6) (a : BitVec 3)
  | mvtV (r : BitVec 4) (d a : BitVec 6)
  | mvtT (r : BitVec 4) (d : BitVec 6) (a : BitVec 2)
  | bfx (r ev : BitVec 4) (d a pos len : BitVec 6) (sg : BitVec 1)
  | bfi (r ev : BitVec 4) (d a b pos len : BitVec 6)
  | sel (r ev : BitVec 4) (d a b : BitVec 6) (c : BitVec 3)
  | cmp (r : BitVec 4) (c : BitVec 3) (a b : BitVec 6) (k : BitVec 3)
  | cmpi (r : BitVec 4) (k c : BitVec 3) (a : BitVec 6) (i : BitVec 9)
  | cand (r : BitVec 4) (d a b : BitVec 3)
  | cor (r : BitVec 4) (d a b : BitVec 3)
  | cnot (r : BitVec 4) (d a : BitVec 3)
  | vany (r : BitVec 4) (d a : BitVec 3) (w : BitVec 1)
  | vall (r : BitVec 4) (d a : BitVec 3) (w : BitVec 1)
  | pand (r : BitVec 4) (d a b : BitVec 3)
  | por (r : BitVec 4) (d a b : BitVec 3)
  | pxor (r : BitVec 4) (d a b : BitVec 3)
  | pnot (r : BitVec 4) (d a : BitVec 3)
  | pcnt (r : BitVec 4) (d : BitVec 6) (a : BitVec 3) (w : BitVec 1)
  | pset (r : BitVec 4) (d : BitVec 3) (a : BitVec 6) (i : BitVec 9)
  | prep (r : BitVec 4) (b : BitVec 3) (i : BitVec 18)
  | prepr (r : BitVec 4) (b : BitVec 3) (a : BitVec 6)
  | xfer (r : BitVec 4) (b : BitVec 3)
  | xferC (r : BitVec 4) (b c : BitVec 3)
  | xferNc (r : BitVec 4) (b c : BitVec 3)
  | loop (r : BitVec 4) (l : BitVec 1) (a : BitVec 6) (n : BitVec 12)
  | loopi (r ev : BitVec 4) (l : BitVec 1) (len : BitVec 12) (n : BitVec 28)
  | nop (r : BitVec 4)
  | endg (r : BitVec 4)
  | yield (r : BitVec 4)
  | ifence (r : BitVec 4)
  | suspend (r : BitVec 4) (a b : BitVec 6)
  /-- SUSPEND_SEAL. R313: after the drains and write-backs of a SUSPEND, its sections and STATE 0 are written and the group ends. -/
  | suspendSeal (p : Place)
  | resume (r : BitVec 4) (a b : BitVec 6)
  | discard (r : BitVec 4) (a b : BitVec 6)
  | trap (r : BitVec 4) (n : BitVec 9)
  | sysr (r : BitVec 4) (d : BitVec 6) (n : BitVec 12)
  | sysw (r : BitVec 4) (d : BitVec 6) (n : BitVec 12)
  | perfr (r : BitVec 4) (d : BitVec 6) (n : BitVec 12)
  | tret (r : BitVec 4)
  | brk (r : BitVec 4) (n : BitVec 12)
  | locq (r : BitVec 4) (d a : BitVec 6)
  | ldB (r : BitVec 4) (d a : BitVec 6) (i : BitVec 9)
  | ldBu (r : BitVec 4) (d a : BitVec 6) (i : BitVec 9)
  | ldH (r : BitVec 4) (d a : BitVec 6) (i : BitVec 9)
  | ldHu (r : BitVec 4) (d a : BitVec 6) (i : BitVec 9)
  | ldW (r : BitVec 4) (d a : BitVec 6) (i : BitVec 9)
  | ldWu (r : BitVec 4) (d a : BitVec 6) (i : BitVec 9)
  | ldD (r : BitVec 4) (d a : BitVec 6) (i : BitVec 9)
  | stB (r : BitVec 4) (s a : BitVec 6) (i : BitVec 9)
  | stH (r : BitVec 4) (s a : BitVec 6) (i : BitVec 9)
  | stW (r : BitVec 4) (s a : BitVec 6) (i : BitVec 9)
  | stD (r : BitVec 4) (s a : BitVec 6) (i : BitVec 9)
  | lds (r : BitVec 4) (d a : BitVec 6)
  | stf (r : BitVec 4) (s a : BitVec 6)
  | waita (r : BitVec 4) (d a b : BitVec 6)
  | qmark (r : BitVec 4)
  | fence (r : BitVec 4) (s : BitVec 3) (k : BitVec 2)
  | epop (r : BitVec 4) (d : BitVec 6) (e : BitVec 4)
  | pref (r : BitVec 4) (a : BitVec 6) (w e : BitVec 1)
  | evpost (r : BitVec 4) (e : BitVec 5)
  | evpostG (r : BitVec 4) (e : BitVec 5) (a : BitVec 6)
  | evwait (r : BitVec 4) (e : BitVec 5)
  | bara (r : BitVec 4) (d a b : BitVec 6)
  | barex (r : BitVec 4) (a b : BitVec 6)
  | barw (r : BitVec 4) (d a b : BitVec 6)
  | l2unpin (r : BitVec 4) (a : BitVec 6)
  | l2pin (r ev : BitVec 4) (d a b : BitVec 6) (ways : BitVec 4)
  | rgtkt (r : BitVec 4) (d a : BitVec 6)
  | rgfill (r : BitVec 4) (a b : BitVec 6)
  | rgtake (r : BitVec 4) (d a b : BitVec 6)
  | rgrel (r : BitVec 4) (a b : BitVec 6)
  | jobnx (r : BitVec 4) (d a : BitVec 6)
  | jobgo (r : BitVec 4) (a b : BitVec 6)
  | tqadd (r : BitVec 4) (a : BitVec 6)
  | wpclr (r : BitVec 4) (a : BitVec 6)
  | wpset (r ev : BitVec 4) (d a : BitVec 6) (once : BitVec 1)
  | vadd (r : BitVec 4) (d a b : BitVec 6) (p : BitVec 3)
  | vsub (r : BitVec 4) (d a b : BitVec 6) (p : BitVec 3)
  | vmul (r : BitVec 4) (d a b : BitVec 6) (p : BitVec 3)
  | vfma (r : BitVec 4) (d a b : BitVec 6) (p : BitVec 3)
  | vfms (r : BitVec 4) (d a b : BitVec 6) (p : BitVec 3)
  | vmin (r : BitVec 4) (d a b : BitVec 6) (p : BitVec 3)
  | vmax (r : BitVec 4) (d a b : BitVec 6) (p : BitVec 3)
  | vdiv (r : BitVec 4) (d a b : BitVec 6) (p : BitVec 3)
  | vand (r : BitVec 4) (d a b : BitVec 6) (p : BitVec 3)
  | vor (r : BitVec 4) (d a b : BitVec 6) (p : BitVec 3)
  | vxor (r : BitVec 4) (d a b : BitVec 6) (p : BitVec 3)
  | vshl (r : BitVec 4) (d a b : BitVec 6) (p : BitVec 3)
  | vshr (r : BitVec 4) (d a b : BitVec 6) (p : BitVec 3)
  | vsra (r : BitVec 4) (d a b : BitVec 6) (p : BitVec 3)
  | vsel (r : BitVec 4) (d a b : BitVec 6) (p : BitVec 3)
  | vcmp (r : BitVec 4) (k d : BitVec 3) (a b : BitVec 6) (p : BitVec 3)
  | vmov (r : BitVec 4) (d a : BitVec 6) (p : BitVec 3)
  | vabs (r : BitVec 4) (d a : BitVec 6) (p : BitVec 3)
  | vneg (r : BitVec 4) (d a : BitVec 6) (p : BitVec 3)
  | vrcp (r : BitVec 4) (d a : BitVec 6) (p : BitVec 3)
  | vrsq (r : BitVec 4) (d a : BitVec 6) (p : BitVec 3)
  | vsqrt (r : BitVec 4) (d a : BitVec 6) (p : BitVec 3)
  | vexp2 (r : BitVec 4) (d a : BitVec 6) (p : BitVec 3)
  | vlog2 (r : BitVec 4) (d a : BitVec 6) (p : BitVec 3)
  | vred (r : BitVec 4) (d a : BitVec 6) (o : BitVec 2) (p : BitVec 3)
  | vcvt (r ev : BitVec 4) (d a : BitVec 6) (p : BitVec 3) (tgt : BitVec 4) (dyn : BitVec 1) (rm pos : BitVec 3) (qt : BitVec 2)
  | vbcast (r : BitVec 4) (d a : BitVec 6) (t : BitVec 4) (p : BitVec 3)
  | vext (r : BitVec 4) (d a b : BitVec 6) (p : BitVec 3)
  | vperm (r : BitVec 4) (d a b : BitVec 6) (p : BitVec 3)
  | vlane (r : BitVec 4) (d a b : BitVec 6) (p : BitVec 3)
  | vld (r : BitVec 4) (d a : BitVec 6) (t : BitVec 4) (p : BitVec 3)
  | vst (r : BitVec 4) (s a : BitVec 6) (p : BitVec 3)
  | vlds (r : BitVec 4) (d a b : BitVec 6) (p : BitVec 3)
  | vgat (r : BitVec 4) (d a b : BitVec 6) (p : BitVec 3)
  | vtag (r : BitVec 4) (d a : BitVec 6) (t : BitVec 4)
  | vscl (r : BitVec 4) (d a b : BitVec 6) (p : BitVec 3)
  | vpack (r : BitVec 4) (d a b : BitVec 6) (p : BitVec 3)
  | vunpk (r : BitVec 4) (d a : BitVec 6) (h : BitVec 1) (p : BitVec 3)
  | tld (r ev : BitVec 4) (t : BitVec 2) (h : BitVec 4) (b c : BitVec 6)
  | tst (r ev : BitVec 4) (t : BitVec 2) (h : BitVec 4) (b c : BitVec 6)
  | shld (r h : BitVec 4) (a : BitVec 6)
  | shset (r h : BitVec 4) (a f : BitVec 6)
  | shget (r : BitVec 4) (d : BitVec 6) (h : BitVec 4) (f : BitVec 6)
  | mma (r ev : BitVec 4) (s : BitVec 6) (t : BitVec 2) (slot : BitVec 6) (m : BitVec 1) (chain : BitVec 12) (btag : BitVec 4)
  | mmas (r ev : BitVec 4) (s a slot : BitVec 6) (m : BitVec 1) (chain : BitVec 12) (btag atag : BitVec 4)
  | mmaw (r ev : BitVec 4) (s : BitVec 6) (t : BitVec 2) (slot : BitVec 6) (chain : BitVec 12) (btag : BitVec 4)
  | chbld (r : BitVec 4) (a : BitVec 6)
  | chclose (r ev d : BitVec 4) (a b : BitVec 6) (keep dst : BitVec 1) (chain : BitVec 12) (out : BitVec 4) (smode qt : BitVec 2) (c : BitVec 6)
  | chstat (r : BitVec 4) (d a : BitVec 6)
  | chfree (r : BitVec 4) (a : BitVec 6)
  | chsplice (r : BitVec 4) (a b : BitVec 6)
  | chrd (r ev : BitVec 4) (d a : BitVec 6) (sp : BitVec 1) (plane : BitVec 2) (part : BitVec 5)
  | lnorm (r ev : BitVec 4) (a b k : BitVec 6)
  | lset (r ev : BitVec 4) (a b : BitVec 6) (e : BitVec 16)
  | rmode (r : BitVec 4) (o : BitVec 1) (m : BitVec 3)
  | rmodeSeed (r : BitVec 4) (o : BitVec 1) (m : BitVec 3) (a : BitVec 6)
  | mself (r : BitVec 4) (t : BitVec 2) (a : BitVec 6)
  | cpy (r ev d s : BitVec 4) (br : BitVec 6) (ch : BitVec 3) (dk sk : BitVec 1) (od os : BitVec 6)
  | cpyw (r ev d s : BitVec 4) (br : BitVec 6) (ch : BitVec 3) (dk sk : BitVec 1) (od os fa fv : BitVec 6)
  | cpstat (r : BitVec 4) (d : BitVec 6) (k : BitVec 1) (c : BitVec 3)
  | stgnx (r : BitVec 4) (a : BitVec 6)
  | saq (r ev : BitVec 4) (v i b : BitVec 6) (p : BitVec 3) (op : BitVec 2) (fmt : BitVec 4)
  | sahist (r ev : BitVec 4) (i b : BitVec 6) (p : BitVec 3) (limit : BitVec 12)
  | safl (r : BitVec 4)
  | salat (r : BitVec 4) (a : BitVec 6)
  | colld (r : BitVec 4) (a b : BitVec 6)
  | colgo (r : BitVec 4) (a b : BitVec 6)
  | colwait (r : BitVec 4) (a : BitVec 6)
  | clwb (r : BitVec 4) (a : BitVec 6)
  | clinv (r : BitVec 4) (a : BitVec 6)
  /-- ILLEGAL_ENCODING. R165, R385: the word at the PC of the current stream is never executed. -/
  | illegalEncoding (cause : EncError)
  /-- LOAD_DATA_RETURN. R65, R87: the load at the head of a load queue (k = 0), or arrival k - 1 of another long-latency producer, reaches its register. -/
  | loadDataReturn (p : Place) (st : StreamId) (k : Nat)
  /-- STORE_PERFORM. R86: a store at the head of a store queue, or line k of a started command of an engine queue, is performed. -/
  | storePerform (p : Place) (ag : Agent) (k : Nat)
  /-- CLUSTER_BUFFER_DRAIN. R88: entry k of a cluster store buffer drains to its home point. -/
  | clusterBufferDrain (cl : ClusterId) (k : Nat)
  /-- SCRATCHPAD_FRAME_FILL. R68: the fill of the frame taken for a page ends. -/
  | scratchpadFrameFill (p : Place) (page : Fin 64)
  /-- ENGINE_HEAD_START. R42: the engine takes the ring tokens of the first unstarted command of a queue, makes its head checks and starts it. -/
  | engineHeadStart (p : Place) (q : QueueId)
  /-- ENGINE_COMPLETION. R41, R45: entry k of a queue completes, and completion signals that are due are delivered. -/
  | engineCompletion (p : Place) (q : QueueId) (k : Nat)
  /-- MATRIX_STEP_COMPLETE. R141, R417: the step of matrix queue entry k reaches its link; bad names the strips and row paths whose checksums disagree. -/
  | matrixStepComplete (p : Place) (k : Nat) (bad : BitVec 10)
  /-- CHECKSUM_RERUN_END. R418, R419: the rerun of a mismatched step ends. -/
  | checksumRerunEnd (p : Place) (k : Nat) (bad : BitVec 10)
  /-- ARRAY_SELF_TEST_END. R420: the self-test of an array ends; bad names the strips with a mismatching byte. -/
  | arraySelfTestEnd (core : CoreId) (m : Fin 2) (bad : BitVec 4)
  /-- LINK_FORWARD_RECEIVE. R142: the forward of link i arrives at its parent. -/
  | linkForwardReceive (chain : BitVec 12) (i : Nat)
  /-- LINK_NOTICE_RECEIVE. R147: the completion notice of tree link i arrives at its parent. -/
  | linkNoticeReceive (chain : BitVec 12) (i : Nat)
  /-- LINK_FREEZE. R423: an uncorrectable error is found in the entry that holds link i. -/
  | linkFreeze (chain : BitVec 12) (i : Nat)
  /-- COPY_BARRIER_PORTION. R292: a copy subtracts its next delivered portion from its barrier. -/
  | copyBarrierPortion (p : Place) (q : QueueId) (k : Nat)
  /-- SCATTER_UPDATE. R298: the next pending scatter update of a group is performed. -/
  | scatterUpdate (p : Place)
  /-- COLLD_READY. R343: the switches have answered the reservations and the other members the weight exchange of a COLLD: the weights told, and the
  signatures. -/
  | colldReady (p : Place) (granted : Bool) (told : List Nat × List (BitVec 32))
  /-- COL_CHUNK_ARRIVE. R345, R346: a chunk arrives for a started receiving operation. -/
  | colChunkArrive (die : DieId) (ctx : Fin 64) (op : Nat) (chunk : Nat) (sig : BitVec 32) (bytes : List (BitVec 8))
  /-- CELLAR_FOLD. R348: the adders of a stack fold the oldest part of its cellar queue; ok is false when the adder faults (R432). -/
  | cellarFold (die : DieId) (k : Fin 3) (ok : Bool)
  /-- SLOT_FREE_NOTICE. R346: a slot-free notice arrives for a SEND. -/
  | slotFreeNotice (die : DieId) (ctx : Fin 64) (op : Nat)
  /-- COL_ABORT. R432: an abort of a replay reaches this member. -/
  | colAbort (die : DieId) (ctx : Fin 64) (cause : BitVec 10)
  /-- PORT_WINDOW_END. R338: a window of 2^20 cycles ends at a port. -/
  | portWindowEnd (port : Fin 18) (util : BitVec 11)
  /-- LAUNCH_CONSUME. R318: the management core consumes the next record of the launch queue. -/
  | launchConsume
  /-- SCHEDULE_PICK. R321: the management core picks the next work and writes its bind record; the save frame and the slice are its choice. -/
  | schedulePick (save : BitVec 40) (slice : BitVec 32)
  /-- BIND_RECORD_WRITE. R322, R323: the first dword of a bind record or of the standby record (k = 4) is written. -/
  | bindRecordWrite (core : CoreId) (k : Fin 5) (v : BitVec 64)
  /-- BIND. R326: a bind completes. -/
  | bind (p : Place)
  /-- SWITCH_COMPLETE. R327 step 4: every stream has passed the fence and every started command has completed. -/
  | switchComplete (p : Place)
  /-- SAVE_COMPLETE. R327 steps 5, 6: the save frame is written and the slot becomes free or binds. -/
  | saveComplete (p : Place)
  /-- SLICE_END. R329: LEFT reaches 0. -/
  | sliceEnd (p : Place)
  /-- GANG_RELEASE. R332: OP 1 of the gang register. -/
  | gangRelease (die : DieId)
  /-- GANG_SAVE_PERMIT. R332, R333: OP 2 of the gang register. -/
  | gangSavePermit (die : DieId)
  /-- TLB_INVALIDATE. R334: writing BUSY starts an invalidation. -/
  | tlbInvalidate (die : DieId)
  /-- TLB_INVALIDATE_DONE. R334: the invalidation of a die is done. -/
  | tlbInvalidateDone (die : DieId)
  /-- DEMAND_FILL. R336: the management core serves open request k of a die by a demand fill. -/
  | demandFill (die : DieId) (k : Nat)
  /-- FAULT_ANSWER. R398: open request k of a die is answered; 0 is retry. -/
  | faultAnswer (die : DieId) (k : Nat) (ans : BitVec 10)
  /-- CUT_COMPLETE. R386, R390: the cut of a group completes and its trap is delivered. -/
  | cutComplete (p : Place)
  /-- WATCHDOG_STREAM. R401: COUNT of a stream has reached its limit. -/
  | watchdogStream (p : Place) (st : StreamId)
  /-- WATCHDOG_QUEUE_HEAD. R402: the count of a queue head has reached its limit. -/
  | watchdogQueueHead (p : Place) (q : QueueId)
  /-- DEBUG_RUN. R404, R405: RUN of a debug block. -/
  | debugRun (p : Place)
  /-- DEBUG_HALT_REQUEST. R403: HREQ of a debug block. -/
  | debugHaltRequest (p : Place)
  /-- REKEY. R369: BUSY of the rekey register is written for a die. -/
  | rekey (die : DieId)
  /-- REKEY_DONE. R369: the rekey is done. -/
  | rekeyDone
  /-- SAG_LOCK_CLEAR. R437: CLR of the sag register. -/
  | sagLockClear (die : DieId)
  /-- REGISTER_WRITE. R216, R363: the management core writes a dword of a control register. -/
  | registerWrite (pa : BitVec 52) (v : BitVec 64)
  /-- SAG_TRIP. R30, R31, R437: a supply-sag detector trips. -/
  | sagTrip (die : DieId)
  /-- SAG_RECOVER. R30: the clock of a die returns to 3.0 GHz. -/
  | sagRecover (die : DieId)
  /-- CORRECTED_ERROR. R412: a corrected error is written back, recorded and counted. -/
  | correctedError (src : BitVec 4) (die : DieId) (core : CoreId) (sub : BitVec 5) (addr : BitVec 64) (synd : BitVec 64)
  /-- DIE_LOST. R429: the management core declares a die lost. -/
  | dieLost (die : DieId)
  /-- D2D_FLIT_CRC_FAIL. R430: a die-to-die flit fails its CRC and is replayed. -/
  | d2dFlitCrcFail (a : DieId) (b : DieId)
  /-- D2D_RETRAIN_END. R430: the retraining of a die-to-die link ends. -/
  | d2dRetrainEnd (a : DieId) (b : DieId) (ok : Bool)
  /-- FABRIC_FLIT_CRC_FAIL. R431: a fabric flit fails its CRC and is replayed. -/
  | fabricFlitCrcFail (port : Fin 18)
  /-- FABRIC_PORT_DOWN. R431: a port loses training. -/
  | fabricPortDown (port : Fin 18)
  /-- POWER_ON. R364: package power-on; the boot ROM sets LIVE from the harvest fuses. -/
  | powerOn (live : BitVec 4)
  /-- BOOT_GO. R364: BOOT_GO; the ROM measures and verifies the image. -/
  | bootGo (seq : BitVec 32)
  /-- DIE_RELEASE. R364: the firmware starts the release of a die. -/
  | dieRelease (die : DieId)
  /-- DIE_ANSWER. R364: the stacks, attic and L2 of a die being released answer. -/
  | dieAnswer (die : DieId)
  /-- DIE_RELEASE_TIMEOUT. R435: a die being released does not answer in time. -/
  | dieReleaseTimeout (die : DieId)
  /-- WR. R371: a frame from the host. -/
  | wr (hdr : BitVec 128) (pay : List (BitVec 64)) (trailer : BitVec 64)
  /-- RD. R371: a frame from the host. -/
  | rd (hdr : BitVec 128) (pay : List (BitVec 64)) (trailer : BitVec 64)
  /-- SCHED_BIND. R373: SCHED_BIND. -/
  | schedBind (seq : BitVec 32) (pa : BitVec 64) (rec : Vector (BitVec 64) 4)
  /-- PF_ACK. R373, R398: PF_ACK. -/
  | pfAck (seq : BitVec 32) (ans : BitVec 10)
  /-- COL_ACK. R373, R343: COL_ACK. -/
  | colAck (seq : BitVec 32) (granted : Bool) (ws : List Nat)
  /-- TRAP_ACK. R373, R395: TRAP_ACK. -/
  | trapAck (seq : BitVec 32) (ans : BitVec 64)
  /-- PF_DECL. R336: PF_DECL. -/
  | pfDecl (seq : BitVec 32) (body : Vector (BitVec 64) 6)
  /-- GET_VERSION. R366: SPDM GET_VERSION. -/
  | getVersion
  /-- GET_CAPABILITIES. R366: SPDM GET_CAPABILITIES. -/
  | getCapabilities
  /-- NEGOTIATE_ALGORITHMS. R367: SPDM NEGOTIATE_ALGORITHMS; whether the request offers each extended algorithm. -/
  | negotiateAlgorithms (asym : Bool) (hash : Bool)
  /-- GET_DIGESTS. R366: SPDM GET_DIGESTS. -/
  | getDigests
  /-- GET_CERTIFICATE. R366: SPDM GET_CERTIFICATE. -/
  | getCertificate (slot : BitVec 4) (off : BitVec 16) (len : BitVec 16)
  /-- CHALLENGE. R366: SPDM CHALLENGE: slot and kind of measurement summary, nonce and requester's context. -/
  | challenge (ask : BitVec 8 × BitVec 8) (sent : BitVec 256 × BitVec 64)
  /-- GET_MEASUREMENTS. R365, R366: SPDM GET_MEASUREMENTS: the operation, whether it is signed and by which slot, nonce and requester's context. -/
  | getMeasurements (op : BitVec 8) (sign : Bool × BitVec 4) (sent : BitVec 256 × BitVec 64)
  /-- CHUNK_SEND. R366: SPDM CHUNK_SEND: handle and number of the chunk, whether it is the last, its bytes. -/
  | chunkSend (chunk : BitVec 8 × BitVec 16) (last : Bool) (bytes : List (BitVec 8))
  /-- CHUNK_GET. R366: SPDM CHUNK_GET. -/
  | chunkGet (handle : BitVec 8) (seq : BitVec 16)
  /-- NODE_READ_RECEIVE. R146, R147: the node value of tree link i is received at its parent. -/
  | nodeReadReceive (chain : BitVec 12) (i : Nat)
  /-- FABRIC_PORT_RETRAIN. R431: the management core retrains a port. -/
  | fabricPortRetrain (port : Fin 18) (rate : BitVec 11)
  /-- RESERVATION_LOST. R432: a switch loses a reservation of a context. -/
  | reservationLost (die : DieId) (ctx : Fin 64)
  /-- UNSUPPORTED_REQUEST. R366: any other SPDM request. -/
  | unsupportedRequest (code : BitVec 8)
  deriving DecidableEq, Repr

end Sys2Proof
end

