-- ==== Sys2Proof/WellFormed.lean ====
section
/-! DEFINITION. Sys2Proof/WellFormed.lean: which instructions an encoding can denote: coded fields hold no reserved value, reserved bits are zero (R9, R165, R385). -/

namespace Sys2Proof

/-- The field numbers of SHSET and SHGET that R269 assigns. -/
def shapeFieldOk (f : BitVec 6) : Bool :=
  decide (f.toNat ≤ 5) || (decide (8 ≤ f.toNat) && decide (f.toNat ≤ 12)) ||
  (decide (16 ≤ f.toNat) && decide (f.toNat ≤ 20)) || (decide (24 ≤ f.toNat) && decide (f.toNat ≤ 28))

/-- Coded fields hold no value that R385 lists as reserved, and reserved bits that hold a field of another form are zero. -/
def Instr.wf : Instr → Bool
  | .fence _ s k => decide (s.toNat < 6 ∧ k ≠ 0#2)
  | .epop _ _ e => decide (e.toNat < 5)
  | .vred _ _ _ o _ => decide (o ≠ 3#2)
  | .vcvt _ _ _ _ _ tgt dyn rm _ qt => decide (((qt = 0#2 ∨ tgt = 8#4) ∧ (dyn = 0#1 ∨ rm = 0#3)))
  | .shset _ _ _ f => decide (shapeFieldOk f = true)
  | .shget _ _ _ f => decide (shapeFieldOk f = true)
  | .chclose _ _ d _ b _ dst _ out _ qt c => decide (((out = 8#4 ∨ qt = 0#2) ∧ (dst = 1#1 ∨ (d.toNat < 4 ∧ b = 0#6 ∧ c = 0#6))))
  | .chrd _ _ _ _ _ plane _ => decide (plane ≠ 3#2)
  | .cpy _ _ d s _ _ dk sk _ _ => decide (((dk = 0#1 ∨ d.toNat < 4) ∧ (sk = 0#1 ∨ s.toNat < 4)))
  | .cpyw _ _ d s _ _ dk sk _ _ _ _ => decide (((dk = 0#1 ∨ d.toNat < 4) ∧ (sk = 0#1 ∨ s.toNat < 4)))
  | .saq _ _ _ _ _ _ op _ => decide (op ≠ 3#2)
  | _ => true

/-- Whether an instruction has an encoding; the others are events of the opcode table. -/
def Instr.encodable : Instr → Bool
  | .suspendSeal .. | .illegalEncoding .. | .loadDataReturn .. | .storePerform .. | .clusterBufferDrain .. | .scratchpadFrameFill ..
  | .engineHeadStart .. | .engineCompletion .. | .matrixStepComplete .. | .checksumRerunEnd .. | .arraySelfTestEnd .. | .linkForwardReceive ..
  | .linkNoticeReceive .. | .linkFreeze .. | .copyBarrierPortion .. | .scatterUpdate .. | .colldReady .. | .colChunkArrive .. | .cellarFold ..
  | .slotFreeNotice .. | .colAbort .. | .portWindowEnd .. | .launchConsume | .schedulePick .. | .bindRecordWrite .. | .bind .. | .switchComplete ..
  | .saveComplete .. | .sliceEnd .. | .gangRelease .. | .gangSavePermit .. | .tlbInvalidate .. | .tlbInvalidateDone .. | .demandFill ..
  | .faultAnswer .. | .cutComplete .. | .watchdogStream .. | .watchdogQueueHead .. | .debugRun .. | .debugHaltRequest .. | .rekey .. | .rekeyDone
  | .sagLockClear .. | .registerWrite .. | .sagTrip .. | .sagRecover .. | .correctedError .. | .dieLost .. | .d2dFlitCrcFail .. | .d2dRetrainEnd ..
  | .fabricFlitCrcFail .. | .fabricPortDown .. | .powerOn .. | .bootGo .. | .dieRelease .. | .dieAnswer .. | .dieReleaseTimeout .. | .wr .. | .rd ..
  | .schedBind .. | .pfAck .. | .colAck .. | .trapAck .. | .pfDecl .. | .getVersion | .getCapabilities | .negotiateAlgorithms .. | .getDigests
  | .getCertificate .. | .challenge .. | .getMeasurements .. | .chunkSend .. | .chunkGet .. | .nodeReadReceive .. | .fabricPortRetrain ..
  | .reservationLost .. | .unsupportedRequest .. => false
  | _ => true

/-- The ring bits of an instruction, WP WN SP SN from the top (R44); an event has none. -/
def Instr.ring : Instr → BitVec 4
  | .add r .. | .sub r .. | .and r .. | .or r .. | .xor r .. | .shl r .. | .shr r .. | .sra r .. | .mul r .. | .mulh r .. | .mulhu r .. | .div r ..
  | .divu r .. | .rem r .. | .remu r .. | .min r .. | .max r .. | .minu r .. | .maxu r .. | .clz r .. | .ctz r .. | .popc r .. | .brev r ..
  | .addi r .. | .andi r .. | .ori r .. | .xori r .. | .shli r .. | .shri r .. | .srai r .. | .lis r .. | .liw r .. | .lihi r .. | .lea r ..
  | .mvc r .. | .mvb r .. | .mvtV r .. | .mvtT r .. | .bfx r .. | .bfi r .. | .sel r .. | .cmp r .. | .cmpi r .. | .cand r .. | .cor r ..
  | .cnot r .. | .vany r .. | .vall r .. | .pand r .. | .por r .. | .pxor r .. | .pnot r .. | .pcnt r .. | .pset r .. | .prep r .. | .prepr r ..
  | .xfer r .. | .xferC r .. | .xferNc r .. | .loop r .. | .loopi r .. | .nop r .. | .endg r .. | .yield r .. | .ifence r .. | .suspend r ..
  | .resume r .. | .discard r .. | .trap r .. | .sysr r .. | .sysw r .. | .perfr r .. | .tret r .. | .brk r .. | .locq r .. | .ldB r .. | .ldBu r ..
  | .ldH r .. | .ldHu r .. | .ldW r .. | .ldWu r .. | .ldD r .. | .stB r .. | .stH r .. | .stW r .. | .stD r .. | .lds r .. | .stf r .. | .waita r ..
  | .qmark r .. | .fence r .. | .epop r .. | .pref r .. | .evpost r .. | .evpostG r .. | .evwait r .. | .bara r .. | .barex r .. | .barw r ..
  | .l2unpin r .. | .l2pin r .. | .rgtkt r .. | .rgfill r .. | .rgtake r .. | .rgrel r .. | .jobnx r .. | .jobgo r .. | .tqadd r .. | .wpclr r ..
  | .wpset r .. | .vadd r .. | .vsub r .. | .vmul r .. | .vfma r .. | .vfms r .. | .vmin r .. | .vmax r .. | .vdiv r .. | .vand r .. | .vor r ..
  | .vxor r .. | .vshl r .. | .vshr r .. | .vsra r .. | .vsel r .. | .vcmp r .. | .vmov r .. | .vabs r .. | .vneg r .. | .vrcp r .. | .vrsq r ..
  | .vsqrt r .. | .vexp2 r .. | .vlog2 r .. | .vred r .. | .vcvt r .. | .vbcast r .. | .vext r .. | .vperm r .. | .vlane r .. | .vld r .. | .vst r ..
  | .vlds r .. | .vgat r .. | .vtag r .. | .vscl r .. | .vpack r .. | .vunpk r .. | .tld r .. | .tst r .. | .shld r .. | .shset r .. | .shget r ..
  | .mma r .. | .mmas r .. | .mmaw r .. | .chbld r .. | .chclose r .. | .chstat r .. | .chfree r .. | .chsplice r .. | .chrd r .. | .lnorm r ..
  | .lset r .. | .rmode r .. | .rmodeSeed r .. | .mself r .. | .cpy r .. | .cpyw r .. | .cpstat r .. | .stgnx r .. | .saq r .. | .sahist r ..
  | .safl r .. | .salat r .. | .colld r .. | .colgo r .. | .colwait r .. | .clwb r .. | .clinv r .. => r
  | _ => 0

/-- The event field of a two-word instruction (R46); 0 for any other. -/
def Instr.ev : Instr → BitVec 4
  | .liw _ ev .. | .lihi _ ev .. | .bfx _ ev .. | .bfi _ ev .. | .sel _ ev .. | .loopi _ ev .. | .l2pin _ ev .. | .wpset _ ev .. | .vcvt _ ev ..
  | .tld _ ev .. | .tst _ ev .. | .mma _ ev .. | .mmas _ ev .. | .mmaw _ ev .. | .chclose _ ev .. | .chrd _ ev .. | .lnorm _ ev .. | .lset _ ev ..
  | .cpy _ ev .. | .cpyw _ ev .. | .saq _ ev .. | .sahist _ ev .. => ev
  | _ => 0

end Sys2Proof
end

