-- ==== Sys2Proof/Decode.lean ====
section
/-! DEFINITION. Sys2Proof/Decode.lean: instruction words to instructions, total, refusing by the cause of R165 in its order, and the encoder
written from the same encodings (R161 to R164, R174 to R177, and the encoding tables of the entries). -/

namespace Sys2Proof

/-- The majors of two-word instructions (R161). -/
def isTwoWordMajor (m : BitVec 7) : Bool :=
  [0x0C, 0x0D, 0x0F, 0x1C, 0x2F, 0x42, 0x50, 0x51, 0x53, 0x54, 0x55, 0x57, 0x59, 0x5A, 0x5B, 0x60, 0x61, 0x63, 0x64].contains m.toNat

/-- Bits [27:21] of a first word (R161). -/
def majorOf (w : BitVec 32) : BitVec 7 := w.extractLsb' 21 7

/-- The length in bytes that the major of a first word fixes (R161). -/
def lengthOf (w : BitVec 32) : Nat := if isTwoWordMajor (majorOf w) then 8 else 4

/-- A first word from its ring bits, major and the boxes [20:15], [14:9], [8:3], [2:0] of format X3 (R162). -/
def word (r : BitVec 4) (maj : BitVec 7) (d a b : BitVec 6) (f : BitVec 3) : BitVec 32 :=
  r ++ maj ++ d ++ a ++ b ++ f

/-- A decoded instruction: reserved values are ENC_FUNC, caught before reserved bits, ENC_RSVD (R165). -/
def pick (valid rsvdZero : Bool) (i : Instr) : Except EncError Instr :=
  if valid then (if rsvdZero then .ok i else .error .rsvd) else .error .func

/-- Decoding by major, from the boxes of the first word and the extension word's EV and operand bits. -/
def decodeBoxes (r : BitVec 4) (maj : BitVec 7) (d a b : BitVec 6) (f : BitVec 3) (ev : BitVec 4) (e : BitVec 28) :
    Except EncError Instr :=
  match maj.toNat with
  | 0x00 => .error .zero
  | 0x01 =>
    if f = 0#3 then pick (true) (true) (.add r d a b) else
    if f = 1#3 then pick (true) (true) (.sub r d a b) else
    if f = 2#3 then pick (true) (true) (.and r d a b) else
    if f = 3#3 then pick (true) (true) (.or r d a b) else
    if f = 4#3 then pick (true) (true) (.xor r d a b) else
    if f = 5#3 then pick (true) (true) (.shl r d a b) else
    if f = 6#3 then pick (true) (true) (.shr r d a b) else
    if f = 7#3 then pick (true) (true) (.sra r d a b) else
    .error .func
  | 0x02 =>
    if f = 0#3 then pick (true) (true) (.mul r d a b) else
    if f = 1#3 then pick (true) (true) (.mulh r d a b) else
    if f = 2#3 then pick (true) (true) (.mulhu r d a b) else
    if f = 3#3 then pick (true) (true) (.div r d a b) else
    if f = 4#3 then pick (true) (true) (.divu r d a b) else
    if f = 5#3 then pick (true) (true) (.rem r d a b) else
    if f = 6#3 then pick (true) (true) (.remu r d a b) else
    .error .func
  | 0x03 =>
    if f = 0#3 then pick (true) (true) (.min r d a b) else
    if f = 1#3 then pick (true) (true) (.max r d a b) else
    if f = 2#3 then pick (true) (true) (.minu r d a b) else
    if f = 3#3 then pick (true) (true) (.maxu r d a b) else
    if f = 4#3 then pick (true) (decide (b = 0#6)) (.clz r d a) else
    if f = 5#3 then pick (true) (decide (b = 0#6)) (.ctz r d a) else
    if f = 6#3 then pick (true) (decide (b = 0#6)) (.popc r d a) else
    if f = 7#3 then pick (true) (decide (b = 0#6)) (.brev r d a) else
    .error .func
  | 0x04 => pick (true) (true) (.addi r d a (b ++ f))
  | 0x05 => pick (true) (true) (.andi r d a (b ++ f))
  | 0x06 => pick (true) (true) (.ori r d a (b ++ f))
  | 0x07 => pick (true) (true) (.xori r d a (b ++ f))
  | 0x08 => pick (true) (decide ((b.extractLsb' 3 3) = 0#3)) (.shli r d a ((b.extractLsb' 0 3) ++ f))
  | 0x09 => pick (true) (decide ((b.extractLsb' 3 3) = 0#3)) (.shri r d a ((b.extractLsb' 0 3) ++ f))
  | 0x0A => pick (true) (decide ((b.extractLsb' 3 3) = 0#3)) (.srai r d a ((b.extractLsb' 0 3) ++ f))
  | 0x0B => pick (true) (true) (.lis r d (a ++ b ++ f))
  | 0x0C => pick (true) (true) (.liw r ev d (a ++ b ++ f) e)
  | 0x0D => pick (true) (decide (a = 0#6 ∧ b = 0#6 ∧ f = 0#3 ∧ e.extractLsb' 21 7 = 0#7)) (.lihi r ev d (e.extractLsb' 0 21))
  | 0x0E =>
    if (f.extractLsb' 2 1) = 0#1 then pick (true) (true) (.lea r d a b (f.extractLsb' 0 2)) else
    if f = 4#3 then pick (true) (decide ((a.extractLsb' 3 3) = 0#3 ∧ b = 0#6)) (.mvc r d (a.extractLsb' 0 3)) else
    if f = 5#3 then pick (true) (decide ((a.extractLsb' 3 3) = 0#3 ∧ b = 0#6)) (.mvb r d (a.extractLsb' 0 3)) else
    if (b.extractLsb' 0 1) = 0#1 ∧ f = 6#3 then pick (true) (decide ((b.extractLsb' 1 5) = 0#5)) (.mvtV r d a) else
    if (b.extractLsb' 0 1) = 1#1 ∧ f = 6#3 then pick (true) (decide ((a.extractLsb' 2 4) = 0#4 ∧ (b.extractLsb' 1 5) = 0#5)) (.mvtT r d (a.extractLsb' 0 2)) else
    .error .func
  | 0x0F =>
    if f = 0#3 then pick (true) (decide (b = 0#6 ∧ e.extractLsb' 0 15 = 0#15)) (.bfx r ev d a (e.extractLsb' 22 6) (e.extractLsb' 16 6) (e.extractLsb' 15 1)) else
    if f = 1#3 then pick (true) (decide (e.extractLsb' 0 16 = 0#16)) (.bfi r ev d a b (e.extractLsb' 22 6) (e.extractLsb' 16 6)) else
    if f = 2#3 then pick (true) (decide (e.extractLsb' 0 25 = 0#25)) (.sel r ev d a b (e.extractLsb' 25 3)) else
    .error .func
  | 0x10 => pick (true) (decide ((d.extractLsb' 3 3) = 0#3)) (.cmp r (d.extractLsb' 0 3) a b f)
  | 0x11 => pick (true) (true) (.cmpi r (d.extractLsb' 3 3) (d.extractLsb' 0 3) a (b ++ f))
  | 0x12 =>
    if f = 0#3 then pick (true) (decide ((d.extractLsb' 3 3) = 0#3 ∧ (a.extractLsb' 3 3) = 0#3 ∧ (b.extractLsb' 3 3) = 0#3)) (.cand r (d.extractLsb' 0 3) (a.extractLsb' 0 3) (b.extractLsb' 0 3)) else
    if f = 1#3 then pick (true) (decide ((d.extractLsb' 3 3) = 0#3 ∧ (a.extractLsb' 3 3) = 0#3 ∧ (b.extractLsb' 3 3) = 0#3)) (.cor r (d.extractLsb' 0 3) (a.extractLsb' 0 3) (b.extractLsb' 0 3)) else
    if f = 2#3 then pick (true) (decide ((d.extractLsb' 3 3) = 0#3 ∧ (a.extractLsb' 3 3) = 0#3 ∧ b = 0#6)) (.cnot r (d.extractLsb' 0 3) (a.extractLsb' 0 3)) else
    .error .func
  | 0x13 =>
    if f = 0#3 then pick (true) (decide ((d.extractLsb' 3 3) = 0#3 ∧ (a.extractLsb' 3 3) = 0#3 ∧ (b.extractLsb' 1 5) = 0#5)) (.vany r (d.extractLsb' 0 3) (a.extractLsb' 0 3) (b.extractLsb' 0 1)) else
    if f = 1#3 then pick (true) (decide ((d.extractLsb' 3 3) = 0#3 ∧ (a.extractLsb' 3 3) = 0#3 ∧ (b.extractLsb' 1 5) = 0#5)) (.vall r (d.extractLsb' 0 3) (a.extractLsb' 0 3) (b.extractLsb' 0 1)) else
    .error .func
  | 0x14 =>
    if f = 0#3 then pick (true) (decide ((d.extractLsb' 3 3) = 0#3 ∧ (a.extractLsb' 3 3) = 0#3 ∧ (b.extractLsb' 3 3) = 0#3)) (.pand r (d.extractLsb' 0 3) (a.extractLsb' 0 3) (b.extractLsb' 0 3)) else
    if f = 1#3 then pick (true) (decide ((d.extractLsb' 3 3) = 0#3 ∧ (a.extractLsb' 3 3) = 0#3 ∧ (b.extractLsb' 3 3) = 0#3)) (.por r (d.extractLsb' 0 3) (a.extractLsb' 0 3) (b.extractLsb' 0 3)) else
    if f = 2#3 then pick (true) (decide ((d.extractLsb' 3 3) = 0#3 ∧ (a.extractLsb' 3 3) = 0#3 ∧ (b.extractLsb' 3 3) = 0#3)) (.pxor r (d.extractLsb' 0 3) (a.extractLsb' 0 3) (b.extractLsb' 0 3)) else
    if f = 3#3 then pick (true) (decide ((d.extractLsb' 3 3) = 0#3 ∧ (a.extractLsb' 3 3) = 0#3 ∧ b = 0#6)) (.pnot r (d.extractLsb' 0 3) (a.extractLsb' 0 3)) else
    if f = 4#3 then pick (true) (decide ((a.extractLsb' 3 3) = 0#3 ∧ (b.extractLsb' 1 5) = 0#5)) (.pcnt r d (a.extractLsb' 0 3) (b.extractLsb' 0 1)) else
    .error .func
  | 0x15 => pick (true) (decide ((d.extractLsb' 3 3) = 0#3)) (.pset r (d.extractLsb' 0 3) a (b ++ f))
  | 0x18 => pick (true) (true) (.prep r (d.extractLsb' 3 3) ((d.extractLsb' 0 3) ++ a ++ b ++ f))
  | 0x19 => pick (true) (decide ((d.extractLsb' 0 3) = 0#3 ∧ b = 0#6 ∧ f = 0#3)) (.prepr r (d.extractLsb' 3 3) a)
  | 0x1A =>
    if (d.extractLsb' 1 2) = 0#2 then pick (true) (decide ((d.extractLsb' 0 1) = 0#1 ∧ a = 0#6 ∧ b = 0#6 ∧ f = 0#3)) (.xfer r (d.extractLsb' 3 3)) else
    if (d.extractLsb' 1 2) = 1#2 then pick (true) (decide ((a.extractLsb' 0 4) = 0#4 ∧ b = 0#6 ∧ f = 0#3)) (.xferC r (d.extractLsb' 3 3) ((d.extractLsb' 0 1) ++ (a.extractLsb' 4 2))) else
    if (d.extractLsb' 1 2) = 2#2 then pick (true) (decide ((a.extractLsb' 0 4) = 0#4 ∧ b = 0#6 ∧ f = 0#3)) (.xferNc r (d.extractLsb' 3 3) ((d.extractLsb' 0 1) ++ (a.extractLsb' 4 2))) else
    .error .func
  | 0x1B => pick (true) (decide ((d.extractLsb' 3 2) = 0#2)) (.loop r (d.extractLsb' 5 1) ((d.extractLsb' 0 3) ++ (a.extractLsb' 3 3)) ((a.extractLsb' 0 3) ++ b ++ f))
  | 0x1C => pick (true) (decide ((d.extractLsb' 0 5) = 0#5 ∧ (a.extractLsb' 3 3) = 0#3)) (.loopi r ev (d.extractLsb' 5 1) ((a.extractLsb' 0 3) ++ b ++ f) e)
  | 0x1D =>
    if f = 0#3 then pick (true) (decide (d = 0#6 ∧ a = 0#6 ∧ b = 0#6)) (.nop r) else
    if f = 1#3 then pick (true) (decide (d = 0#6 ∧ a = 0#6 ∧ b = 0#6)) (.endg r) else
    if f = 2#3 then pick (true) (decide (d = 0#6 ∧ a = 0#6 ∧ b = 0#6)) (.yield r) else
    if f = 3#3 then pick (true) (decide (d = 0#6 ∧ a = 0#6 ∧ b = 0#6)) (.ifence r) else
    if f = 4#3 then pick (true) (decide (d = 0#6)) (.suspend r a b) else
    if f = 5#3 then pick (true) (decide (d = 0#6)) (.resume r a b) else
    if f = 6#3 then pick (true) (decide (d = 0#6)) (.discard r a b) else
    .error .func
  | 0x1E => pick (true) (decide (d = 0#6 ∧ a = 0#6)) (.trap r (b ++ f))
  | 0x1F =>
    if f = 0#3 then pick (true) (true) (.sysr r d (a ++ b)) else
    if f = 1#3 then pick (true) (true) (.sysw r d (a ++ b)) else
    if f = 2#3 then pick (true) (true) (.perfr r d (a ++ b)) else
    if f = 3#3 then pick (true) (decide (d = 0#6 ∧ a = 0#6 ∧ b = 0#6)) (.tret r) else
    if f = 4#3 then pick (true) (decide (d = 0#6)) (.brk r (a ++ b)) else
    if f = 5#3 then pick (true) (decide (b = 0#6)) (.locq r d a) else
    .error .func
  | 0x20 => pick (true) (true) (.ldB r d a (b ++ f))
  | 0x21 => pick (true) (true) (.ldBu r d a (b ++ f))
  | 0x22 => pick (true) (true) (.ldH r d a (b ++ f))
  | 0x23 => pick (true) (true) (.ldHu r d a (b ++ f))
  | 0x24 => pick (true) (true) (.ldW r d a (b ++ f))
  | 0x25 => pick (true) (true) (.ldWu r d a (b ++ f))
  | 0x26 => pick (true) (true) (.ldD r d a (b ++ f))
  | 0x27 => pick (true) (true) (.stB r d a (b ++ f))
  | 0x28 => pick (true) (true) (.stH r d a (b ++ f))
  | 0x29 => pick (true) (true) (.stW r d a (b ++ f))
  | 0x2A => pick (true) (true) (.stD r d a (b ++ f))
  | 0x2B =>
    if f = 0#3 then pick (true) (decide (b = 0#6)) (.lds r d a) else
    if f = 1#3 then pick (true) (decide (b = 0#6)) (.stf r d a) else
    if f = 2#3 then pick (true) (true) (.waita r d a b) else
    if f = 3#3 then pick (true) (decide (d = 0#6 ∧ a = 0#6 ∧ b = 0#6)) (.qmark r) else
    if f = 4#3 then pick (decide ((b.extractLsb' 3 3).toNat < 6 ∧ (b.extractLsb' 1 2) ≠ 0#2)) (decide (d = 0#6 ∧ a = 0#6 ∧ (b.extractLsb' 0 1) = 0#1)) (.fence r (b.extractLsb' 3 3) (b.extractLsb' 1 2)) else
    if f = 5#3 then pick (decide ((a.extractLsb' 0 4).toNat < 5)) (decide ((a.extractLsb' 4 2) = 0#2 ∧ b = 0#6)) (.epop r d (a.extractLsb' 0 4)) else
    if f = 6#3 then pick (true) (decide (d = 0#6 ∧ (b.extractLsb' 2 4) = 0#4)) (.pref r a (b.extractLsb' 1 1) (b.extractLsb' 0 1)) else
    .error .func
  | 0x2C =>
    if (b.extractLsb' 0 1) = 0#1 ∧ f = 0#3 then pick (true) (decide ((d.extractLsb' 5 1) = 0#1 ∧ a = 0#6 ∧ (b.extractLsb' 1 5) = 0#5)) (.evpost r (d.extractLsb' 0 5)) else
    if (b.extractLsb' 0 1) = 1#1 ∧ f = 0#3 then pick (true) (decide ((d.extractLsb' 5 1) = 0#1 ∧ (b.extractLsb' 1 5) = 0#5)) (.evpostG r (d.extractLsb' 0 5) a) else
    if f = 1#3 then pick (true) (decide ((d.extractLsb' 5 1) = 0#1 ∧ a = 0#6 ∧ b = 0#6)) (.evwait r (d.extractLsb' 0 5)) else
    if f = 2#3 then pick (true) (true) (.bara r d a b) else
    if f = 3#3 then pick (true) (decide (d = 0#6)) (.barex r a b) else
    if f = 4#3 then pick (true) (true) (.barw r d a b) else
    if f = 5#3 then pick (true) (decide (d = 0#6 ∧ b = 0#6)) (.l2unpin r a) else
    .error .func
  | 0x2D =>
    if f = 0#3 then pick (true) (decide (b = 0#6)) (.rgtkt r d a) else
    if f = 1#3 then pick (true) (decide (d = 0#6)) (.rgfill r a b) else
    if f = 2#3 then pick (true) (true) (.rgtake r d a b) else
    if f = 3#3 then pick (true) (decide (d = 0#6)) (.rgrel r a b) else
    .error .func
  | 0x2E =>
    if f = 0#3 then pick (true) (decide (b = 0#6)) (.jobnx r d a) else
    if f = 1#3 then pick (true) (decide (d = 0#6)) (.jobgo r a b) else
    if f = 2#3 then pick (true) (decide (d = 0#6 ∧ b = 0#6)) (.tqadd r a) else
    if f = 3#3 then pick (true) (decide (d = 0#6 ∧ b = 0#6)) (.wpclr r a) else
    .error .func
  | 0x2F =>
    if f = 0#3 then pick (true) (decide (e.extractLsb' 4 24 = 0#24)) (.l2pin r ev d a b (e.extractLsb' 0 4)) else
    if f = 1#3 then pick (true) (decide (b = 0#6 ∧ e.extractLsb' 1 27 = 0#27)) (.wpset r ev d a (e.extractLsb' 0 1)) else
    .error .func
  | 0x30 => pick (true) (true) (.vadd r d a b f)
  | 0x31 => pick (true) (true) (.vsub r d a b f)
  | 0x32 => pick (true) (true) (.vmul r d a b f)
  | 0x33 => pick (true) (true) (.vfma r d a b f)
  | 0x34 => pick (true) (true) (.vfms r d a b f)
  | 0x35 => pick (true) (true) (.vmin r d a b f)
  | 0x36 => pick (true) (true) (.vmax r d a b f)
  | 0x37 => pick (true) (true) (.vdiv r d a b f)
  | 0x38 => pick (true) (true) (.vand r d a b f)
  | 0x39 => pick (true) (true) (.vor r d a b f)
  | 0x3A => pick (true) (true) (.vxor r d a b f)
  | 0x3B => pick (true) (true) (.vshl r d a b f)
  | 0x3C => pick (true) (true) (.vshr r d a b f)
  | 0x3D => pick (true) (true) (.vsra r d a b f)
  | 0x3E => pick (true) (true) (.vsel r d a b f)
  | 0x3F => pick (true) (true) (.vcmp r (d.extractLsb' 3 3) (d.extractLsb' 0 3) a b f)
  | 0x40 =>
    if b = 0#6 then pick (true) (true) (.vmov r d a f) else
    if b = 1#6 then pick (true) (true) (.vabs r d a f) else
    if b = 2#6 then pick (true) (true) (.vneg r d a f) else
    if b = 3#6 then pick (true) (true) (.vrcp r d a f) else
    if b = 4#6 then pick (true) (true) (.vrsq r d a f) else
    if b = 5#6 then pick (true) (true) (.vsqrt r d a f) else
    if b = 6#6 then pick (true) (true) (.vexp2 r d a f) else
    if b = 7#6 then pick (true) (true) (.vlog2 r d a f) else
    .error .func
  | 0x41 =>
    if (b.extractLsb' 2 4) = 0#4 then pick (decide ((b.extractLsb' 0 2) ≠ 3#2)) (true) (.vred r d a (b.extractLsb' 0 2) f) else
    .error .func
  | 0x42 => pick (true) (decide (b = 0#6 ∧ (((e.extractLsb' 15 2) = 0#2 ∨ (e.extractLsb' 24 4) = 8#4) ∧ ((e.extractLsb' 23 1) = 0#1 ∨ (e.extractLsb' 20 3) = 0#3)) ∧ e.extractLsb' 0 15 = 0#15)) (.vcvt r ev d a f (e.extractLsb' 24 4) (e.extractLsb' 23 1) (e.extractLsb' 20 3) (e.extractLsb' 17 3) (e.extractLsb' 15 2))
  | 0x43 => pick (true) (decide ((b.extractLsb' 4 2) = 0#2)) (.vbcast r d a (b.extractLsb' 0 4) f)
  | 0x44 => pick (true) (true) (.vext r d a b f)
  | 0x45 => pick (true) (true) (.vperm r d a b f)
  | 0x46 => pick (true) (true) (.vlane r d a b f)
  | 0x47 => pick (true) (decide ((b.extractLsb' 4 2) = 0#2)) (.vld r d a (b.extractLsb' 0 4) f)
  | 0x48 => pick (true) (decide (b = 0#6)) (.vst r d a f)
  | 0x49 => pick (true) (true) (.vlds r d a b f)
  | 0x4A => pick (true) (true) (.vgat r d a b f)
  | 0x4B => pick (true) (decide ((b.extractLsb' 4 2) = 0#2 ∧ f = 0#3)) (.vtag r d a (b.extractLsb' 0 4))
  | 0x4C => pick (true) (true) (.vscl r d a b f)
  | 0x4D => pick (true) (true) (.vpack r d a b f)
  | 0x4E => pick (true) (decide ((b.extractLsb' 1 5) = 0#5)) (.vunpk r d a (b.extractLsb' 0 1) f)
  | 0x50 => pick (true) (decide ((d.extractLsb' 2 4) = 0#4 ∧ (a.extractLsb' 4 2) = 0#2 ∧ f = 0#3 ∧ e.extractLsb' 0 22 = 0#22)) (.tld r ev (d.extractLsb' 0 2) (a.extractLsb' 0 4) b (e.extractLsb' 22 6))
  | 0x51 => pick (true) (decide ((d.extractLsb' 2 4) = 0#4 ∧ (a.extractLsb' 4 2) = 0#2 ∧ f = 0#3 ∧ e.extractLsb' 0 22 = 0#22)) (.tst r ev (d.extractLsb' 0 2) (a.extractLsb' 0 4) b (e.extractLsb' 22 6))
  | 0x52 =>
    if f = 0#3 then pick (true) (decide ((d.extractLsb' 4 2) = 0#2 ∧ b = 0#6)) (.shld r (d.extractLsb' 0 4) a) else
    if f = 1#3 then pick (decide (shapeFieldOk b = true)) (decide ((d.extractLsb' 4 2) = 0#2)) (.shset r (d.extractLsb' 0 4) a b) else
    if f = 2#3 then pick (decide (shapeFieldOk b = true)) (decide ((a.extractLsb' 4 2) = 0#2)) (.shget r d (a.extractLsb' 0 4) b) else
    .error .func
  | 0x53 => pick (true) (decide ((a.extractLsb' 2 4) = 0#4 ∧ (f.extractLsb' 1 2) = 0#2 ∧ e.extractLsb' 0 12 = 0#12)) (.mma r ev d (a.extractLsb' 0 2) b (f.extractLsb' 0 1) (e.extractLsb' 16 12) (e.extractLsb' 12 4))
  | 0x54 => pick (true) (decide ((f.extractLsb' 1 2) = 0#2 ∧ e.extractLsb' 0 8 = 0#8)) (.mmas r ev d a b (f.extractLsb' 0 1) (e.extractLsb' 16 12) (e.extractLsb' 12 4) (e.extractLsb' 8 4))
  | 0x55 => pick (true) (decide ((a.extractLsb' 2 4) = 0#4 ∧ f = 0#3 ∧ e.extractLsb' 0 12 = 0#12)) (.mmaw r ev d (a.extractLsb' 0 2) b (e.extractLsb' 16 12) (e.extractLsb' 12 4))
  | 0x56 =>
    if f = 0#3 then pick (true) (decide (d = 0#6 ∧ b = 0#6)) (.chbld r a) else
    .error .func
  | 0x57 =>
    if (f.extractLsb' 1 1) = 0#1 then pick (true) (decide ((d.extractLsb' 4 2) = 0#2 ∧ (((e.extractLsb' 12 4) = 8#4 ∨ (e.extractLsb' 8 2) = 0#2) ∧ ((f.extractLsb' 0 1) = 1#1 ∨ ((d.extractLsb' 0 4).toNat < 4 ∧ b = 0#6 ∧ (e.extractLsb' 2 6) = 0#6))) ∧ e.extractLsb' 0 2 = 0#2)) (.chclose r ev (d.extractLsb' 0 4) a b (f.extractLsb' 2 1) (f.extractLsb' 0 1) (e.extractLsb' 16 12) (e.extractLsb' 12 4) (e.extractLsb' 10 2) (e.extractLsb' 8 2) (e.extractLsb' 2 6)) else
    .error .func
  | 0x58 =>
    if f = 0#3 then pick (true) (decide (b = 0#6)) (.chstat r d a) else
    if f = 1#3 then pick (true) (decide (d = 0#6 ∧ b = 0#6)) (.chfree r a) else
    if f = 2#3 then pick (true) (decide (d = 0#6)) (.chsplice r a b) else
    .error .func
  | 0x59 => pick (decide ((e.extractLsb' 26 2) ≠ 3#2)) (decide (b = 0#6 ∧ (f.extractLsb' 1 2) = 0#2 ∧ e.extractLsb' 0 21 = 0#21)) (.chrd r ev d a (f.extractLsb' 0 1) (e.extractLsb' 26 2) (e.extractLsb' 21 5))
  | 0x5A => pick (true) (decide (d = 0#6 ∧ f = 0#3 ∧ e.extractLsb' 0 22 = 0#22)) (.lnorm r ev a b (e.extractLsb' 22 6))
  | 0x5B => pick (true) (decide (d = 0#6 ∧ f = 0#3 ∧ e.extractLsb' 0 12 = 0#12)) (.lset r ev a b (e.extractLsb' 12 16))
  | 0x5C =>
    if (d.extractLsb' 4 1) = 0#1 then pick (true) (decide ((d.extractLsb' 5 1) = 0#1 ∧ a = 0#6 ∧ b = 0#6 ∧ f = 0#3)) (.rmode r (d.extractLsb' 3 1) (d.extractLsb' 0 3)) else
    if (d.extractLsb' 4 1) = 1#1 then pick (true) (decide ((d.extractLsb' 5 1) = 0#1 ∧ b = 0#6 ∧ f = 0#3)) (.rmodeSeed r (d.extractLsb' 3 1) (d.extractLsb' 0 3) a) else
    .error .func
  | 0x5D =>
    if f = 0#3 then pick (true) (decide ((d.extractLsb' 2 4) = 0#4 ∧ b = 0#6)) (.mself r (d.extractLsb' 0 2) a) else
    .error .func
  | 0x60 => pick (true) (decide ((d.extractLsb' 4 2) = 0#2 ∧ (a.extractLsb' 4 2) = 0#2 ∧ (((e.extractLsb' 27 1) = 0#1 ∨ (d.extractLsb' 0 4).toNat < 4) ∧ ((e.extractLsb' 26 1) = 0#1 ∨ (a.extractLsb' 0 4).toNat < 4)) ∧ e.extractLsb' 0 14 = 0#14)) (.cpy r ev (d.extractLsb' 0 4) (a.extractLsb' 0 4) b f (e.extractLsb' 27 1) (e.extractLsb' 26 1) (e.extractLsb' 20 6) (e.extractLsb' 14 6))
  | 0x61 => pick (true) (decide ((d.extractLsb' 4 2) = 0#2 ∧ (a.extractLsb' 4 2) = 0#2 ∧ (((e.extractLsb' 27 1) = 0#1 ∨ (d.extractLsb' 0 4).toNat < 4) ∧ ((e.extractLsb' 26 1) = 0#1 ∨ (a.extractLsb' 0 4).toNat < 4)) ∧ e.extractLsb' 12 2 = 0#2)) (.cpyw r ev (d.extractLsb' 0 4) (a.extractLsb' 0 4) b f (e.extractLsb' 27 1) (e.extractLsb' 26 1) (e.extractLsb' 20 6) (e.extractLsb' 14 6) (e.extractLsb' 6 6) (e.extractLsb' 0 6))
  | 0x62 =>
    if f = 0#3 then pick (true) (decide (a = 0#6 ∧ (b.extractLsb' 4 2) = 0#2)) (.cpstat r d (b.extractLsb' 3 1) (b.extractLsb' 0 3)) else
    if f = 1#3 then pick (true) (decide (d = 0#6 ∧ b = 0#6)) (.stgnx r a) else
    .error .func
  | 0x63 => pick (decide ((e.extractLsb' 26 2) ≠ 3#2)) (decide (e.extractLsb' 0 22 = 0#22)) (.saq r ev d a b f (e.extractLsb' 26 2) (e.extractLsb' 22 4))
  | 0x64 => pick (true) (decide (d = 0#6 ∧ e.extractLsb' 0 16 = 0#16)) (.sahist r ev a b f (e.extractLsb' 16 12))
  | 0x65 =>
    if f = 0#3 then pick (true) (decide (d = 0#6 ∧ a = 0#6 ∧ b = 0#6)) (.safl r) else
    if f = 1#3 then pick (true) (decide (d = 0#6 ∧ b = 0#6)) (.salat r a) else
    .error .func
  | 0x66 =>
    if f = 0#3 then pick (true) (decide (d = 0#6)) (.colld r a b) else
    if f = 1#3 then pick (true) (decide (d = 0#6)) (.colgo r a b) else
    if f = 2#3 then pick (true) (decide (d = 0#6 ∧ b = 0#6)) (.colwait r a) else
    .error .func
  | 0x67 =>
    if f = 0#3 then pick (true) (decide (d = 0#6 ∧ b = 0#6)) (.clwb r a) else
    if f = 1#3 then pick (true) (decide (d = 0#6 ∧ b = 0#6)) (.clinv r a) else
    .error .func
  | 0x7F => .error .perm
  | _ => .error .major

/-- Decoding of a first word and the word after it (read only for a two-word major). -/
def decodeWords (w0 w1 : BitVec 32) : Except EncError Instr :=
  decodeBoxes (w0.extractLsb' 28 4) (majorOf w0) (w0.extractLsb' 15 6) (w0.extractLsb' 9 6) (w0.extractLsb' 3 6)
    (w0.extractLsb' 0 3) (w1.extractLsb' 28 4) (w1.extractLsb' 0 28)

/-- The words of a well-formed instruction, first word first; an event has none. -/
def encode : Instr → List (BitVec 32)
  | .add r d a b => [word r 0x01#7 d a b 0#3]
  | .sub r d a b => [word r 0x01#7 d a b 1#3]
  | .and r d a b => [word r 0x01#7 d a b 2#3]
  | .or r d a b => [word r 0x01#7 d a b 3#3]
  | .xor r d a b => [word r 0x01#7 d a b 4#3]
  | .shl r d a b => [word r 0x01#7 d a b 5#3]
  | .shr r d a b => [word r 0x01#7 d a b 6#3]
  | .sra r d a b => [word r 0x01#7 d a b 7#3]
  | .mul r d a b => [word r 0x02#7 d a b 0#3]
  | .mulh r d a b => [word r 0x02#7 d a b 1#3]
  | .mulhu r d a b => [word r 0x02#7 d a b 2#3]
  | .div r d a b => [word r 0x02#7 d a b 3#3]
  | .divu r d a b => [word r 0x02#7 d a b 4#3]
  | .rem r d a b => [word r 0x02#7 d a b 5#3]
  | .remu r d a b => [word r 0x02#7 d a b 6#3]
  | .min r d a b => [word r 0x03#7 d a b 0#3]
  | .max r d a b => [word r 0x03#7 d a b 1#3]
  | .minu r d a b => [word r 0x03#7 d a b 2#3]
  | .maxu r d a b => [word r 0x03#7 d a b 3#3]
  | .clz r d a => [word r 0x03#7 d a 0#6 4#3]
  | .ctz r d a => [word r 0x03#7 d a 0#6 5#3]
  | .popc r d a => [word r 0x03#7 d a 0#6 6#3]
  | .brev r d a => [word r 0x03#7 d a 0#6 7#3]
  | .addi r d a i => [word r 0x04#7 d a (i.extractLsb' 3 6) (i.extractLsb' 0 3)]
  | .andi r d a i => [word r 0x05#7 d a (i.extractLsb' 3 6) (i.extractLsb' 0 3)]
  | .ori r d a i => [word r 0x06#7 d a (i.extractLsb' 3 6) (i.extractLsb' 0 3)]
  | .xori r d a i => [word r 0x07#7 d a (i.extractLsb' 3 6) (i.extractLsb' 0 3)]
  | .shli r d a k => [word r 0x08#7 d a (0#3 ++ (k.extractLsb' 3 3)) (k.extractLsb' 0 3)]
  | .shri r d a k => [word r 0x09#7 d a (0#3 ++ (k.extractLsb' 3 3)) (k.extractLsb' 0 3)]
  | .srai r d a k => [word r 0x0A#7 d a (0#3 ++ (k.extractLsb' 3 3)) (k.extractLsb' 0 3)]
  | .lis r d i => [word r 0x0B#7 d (i.extractLsb' 9 6) (i.extractLsb' 3 6) (i.extractLsb' 0 3)]
  | .liw r ev d ih il => [word r 0x0C#7 d (ih.extractLsb' 9 6) (ih.extractLsb' 3 6) (ih.extractLsb' 0 3), ev ++ (il : BitVec 28)]
  | .lihi r ev d v => [word r 0x0D#7 d 0#6 0#6 0#3, ev ++ (0#7 ++ v : BitVec 28)]
  | .lea r d a b s => [word r 0x0E#7 d a b (0#1 ++ s)]
  | .mvc r d a => [word r 0x0E#7 d (0#3 ++ a) 0#6 4#3]
  | .mvb r d a => [word r 0x0E#7 d (0#3 ++ a) 0#6 5#3]
  | .mvtV r d a => [word r 0x0E#7 d a 0#6 6#3]
  | .mvtT r d a => [word r 0x0E#7 d (0#4 ++ a) 1#6 6#3]
  | .bfx r ev d a pos len sg => [word r 0x0F#7 d a 0#6 0#3, ev ++ (pos ++ len ++ sg ++ 0#15 : BitVec 28)]
  | .bfi r ev d a b pos len => [word r 0x0F#7 d a b 1#3, ev ++ (pos ++ len ++ 0#16 : BitVec 28)]
  | .sel r ev d a b c => [word r 0x0F#7 d a b 2#3, ev ++ (c ++ 0#25 : BitVec 28)]
  | .cmp r c a b k => [word r 0x10#7 (0#3 ++ c) a b k]
  | .cmpi r k c a i => [word r 0x11#7 (k ++ c) a (i.extractLsb' 3 6) (i.extractLsb' 0 3)]
  | .cand r d a b => [word r 0x12#7 (0#3 ++ d) (0#3 ++ a) (0#3 ++ b) 0#3]
  | .cor r d a b => [word r 0x12#7 (0#3 ++ d) (0#3 ++ a) (0#3 ++ b) 1#3]
  | .cnot r d a => [word r 0x12#7 (0#3 ++ d) (0#3 ++ a) 0#6 2#3]
  | .vany r d a w => [word r 0x13#7 (0#3 ++ d) (0#3 ++ a) (0#5 ++ w) 0#3]
  | .vall r d a w => [word r 0x13#7 (0#3 ++ d) (0#3 ++ a) (0#5 ++ w) 1#3]
  | .pand r d a b => [word r 0x14#7 (0#3 ++ d) (0#3 ++ a) (0#3 ++ b) 0#3]
  | .por r d a b => [word r 0x14#7 (0#3 ++ d) (0#3 ++ a) (0#3 ++ b) 1#3]
  | .pxor r d a b => [word r 0x14#7 (0#3 ++ d) (0#3 ++ a) (0#3 ++ b) 2#3]
  | .pnot r d a => [word r 0x14#7 (0#3 ++ d) (0#3 ++ a) 0#6 3#3]
  | .pcnt r d a w => [word r 0x14#7 d (0#3 ++ a) (0#5 ++ w) 4#3]
  | .pset r d a i => [word r 0x15#7 (0#3 ++ d) a (i.extractLsb' 3 6) (i.extractLsb' 0 3)]
  | .prep r b i => [word r 0x18#7 (b ++ (i.extractLsb' 15 3)) (i.extractLsb' 9 6) (i.extractLsb' 3 6) (i.extractLsb' 0 3)]
  | .prepr r b a => [word r 0x19#7 (b ++ 0#3) a 0#6 0#3]
  | .xfer r b => [word r 0x1A#7 (b ++ 0#3) 0#6 0#6 0#3]
  | .xferC r b c => [word r 0x1A#7 (b ++ 1#2 ++ (c.extractLsb' 2 1)) ((c.extractLsb' 0 2) ++ 0#4) 0#6 0#3]
  | .xferNc r b c => [word r 0x1A#7 (b ++ 2#2 ++ (c.extractLsb' 2 1)) ((c.extractLsb' 0 2) ++ 0#4) 0#6 0#3]
  | .loop r l a n => [word r 0x1B#7 (l ++ 0#2 ++ (a.extractLsb' 3 3)) ((a.extractLsb' 0 3) ++ (n.extractLsb' 9 3)) (n.extractLsb' 3 6) (n.extractLsb' 0 3)]
  | .loopi r ev l len n => [word r 0x1C#7 (l ++ 0#5) (0#3 ++ (len.extractLsb' 9 3)) (len.extractLsb' 3 6) (len.extractLsb' 0 3), ev ++ (n : BitVec 28)]
  | .nop r => [word r 0x1D#7 0#6 0#6 0#6 0#3]
  | .endg r => [word r 0x1D#7 0#6 0#6 0#6 1#3]
  | .yield r => [word r 0x1D#7 0#6 0#6 0#6 2#3]
  | .ifence r => [word r 0x1D#7 0#6 0#6 0#6 3#3]
  | .suspend r a b => [word r 0x1D#7 0#6 a b 4#3]
  | .resume r a b => [word r 0x1D#7 0#6 a b 5#3]
  | .discard r a b => [word r 0x1D#7 0#6 a b 6#3]
  | .trap r n => [word r 0x1E#7 0#6 0#6 (n.extractLsb' 3 6) (n.extractLsb' 0 3)]
  | .sysr r d n => [word r 0x1F#7 d (n.extractLsb' 6 6) (n.extractLsb' 0 6) 0#3]
  | .sysw r d n => [word r 0x1F#7 d (n.extractLsb' 6 6) (n.extractLsb' 0 6) 1#3]
  | .perfr r d n => [word r 0x1F#7 d (n.extractLsb' 6 6) (n.extractLsb' 0 6) 2#3]
  | .tret r => [word r 0x1F#7 0#6 0#6 0#6 3#3]
  | .brk r n => [word r 0x1F#7 0#6 (n.extractLsb' 6 6) (n.extractLsb' 0 6) 4#3]
  | .locq r d a => [word r 0x1F#7 d a 0#6 5#3]
  | .ldB r d a i => [word r 0x20#7 d a (i.extractLsb' 3 6) (i.extractLsb' 0 3)]
  | .ldBu r d a i => [word r 0x21#7 d a (i.extractLsb' 3 6) (i.extractLsb' 0 3)]
  | .ldH r d a i => [word r 0x22#7 d a (i.extractLsb' 3 6) (i.extractLsb' 0 3)]
  | .ldHu r d a i => [word r 0x23#7 d a (i.extractLsb' 3 6) (i.extractLsb' 0 3)]
  | .ldW r d a i => [word r 0x24#7 d a (i.extractLsb' 3 6) (i.extractLsb' 0 3)]
  | .ldWu r d a i => [word r 0x25#7 d a (i.extractLsb' 3 6) (i.extractLsb' 0 3)]
  | .ldD r d a i => [word r 0x26#7 d a (i.extractLsb' 3 6) (i.extractLsb' 0 3)]
  | .stB r s a i => [word r 0x27#7 s a (i.extractLsb' 3 6) (i.extractLsb' 0 3)]
  | .stH r s a i => [word r 0x28#7 s a (i.extractLsb' 3 6) (i.extractLsb' 0 3)]
  | .stW r s a i => [word r 0x29#7 s a (i.extractLsb' 3 6) (i.extractLsb' 0 3)]
  | .stD r s a i => [word r 0x2A#7 s a (i.extractLsb' 3 6) (i.extractLsb' 0 3)]
  | .lds r d a => [word r 0x2B#7 d a 0#6 0#3]
  | .stf r s a => [word r 0x2B#7 s a 0#6 1#3]
  | .waita r d a b => [word r 0x2B#7 d a b 2#3]
  | .qmark r => [word r 0x2B#7 0#6 0#6 0#6 3#3]
  | .fence r s k => [word r 0x2B#7 0#6 0#6 (s ++ k ++ 0#1) 4#3]
  | .epop r d e => [word r 0x2B#7 d (0#2 ++ e) 0#6 5#3]
  | .pref r a w e => [word r 0x2B#7 0#6 a (0#4 ++ w ++ e) 6#3]
  | .evpost r e => [word r 0x2C#7 (0#1 ++ e) 0#6 0#6 0#3]
  | .evpostG r e a => [word r 0x2C#7 (0#1 ++ e) a 1#6 0#3]
  | .evwait r e => [word r 0x2C#7 (0#1 ++ e) 0#6 0#6 1#3]
  | .bara r d a b => [word r 0x2C#7 d a b 2#3]
  | .barex r a b => [word r 0x2C#7 0#6 a b 3#3]
  | .barw r d a b => [word r 0x2C#7 d a b 4#3]
  | .l2unpin r a => [word r 0x2C#7 0#6 a 0#6 5#3]
  | .l2pin r ev d a b ways => [word r 0x2F#7 d a b 0#3, ev ++ (0#24 ++ ways : BitVec 28)]
  | .rgtkt r d a => [word r 0x2D#7 d a 0#6 0#3]
  | .rgfill r a b => [word r 0x2D#7 0#6 a b 1#3]
  | .rgtake r d a b => [word r 0x2D#7 d a b 2#3]
  | .rgrel r a b => [word r 0x2D#7 0#6 a b 3#3]
  | .jobnx r d a => [word r 0x2E#7 d a 0#6 0#3]
  | .jobgo r a b => [word r 0x2E#7 0#6 a b 1#3]
  | .tqadd r a => [word r 0x2E#7 0#6 a 0#6 2#3]
  | .wpclr r a => [word r 0x2E#7 0#6 a 0#6 3#3]
  | .wpset r ev d a once => [word r 0x2F#7 d a 0#6 1#3, ev ++ (0#27 ++ once : BitVec 28)]
  | .vadd r d a b p => [word r 0x30#7 d a b p]
  | .vsub r d a b p => [word r 0x31#7 d a b p]
  | .vmul r d a b p => [word r 0x32#7 d a b p]
  | .vfma r d a b p => [word r 0x33#7 d a b p]
  | .vfms r d a b p => [word r 0x34#7 d a b p]
  | .vmin r d a b p => [word r 0x35#7 d a b p]
  | .vmax r d a b p => [word r 0x36#7 d a b p]
  | .vdiv r d a b p => [word r 0x37#7 d a b p]
  | .vand r d a b p => [word r 0x38#7 d a b p]
  | .vor r d a b p => [word r 0x39#7 d a b p]
  | .vxor r d a b p => [word r 0x3A#7 d a b p]
  | .vshl r d a b p => [word r 0x3B#7 d a b p]
  | .vshr r d a b p => [word r 0x3C#7 d a b p]
  | .vsra r d a b p => [word r 0x3D#7 d a b p]
  | .vsel r d a b p => [word r 0x3E#7 d a b p]
  | .vcmp r k d a b p => [word r 0x3F#7 (k ++ d) a b p]
  | .vmov r d a p => [word r 0x40#7 d a 0#6 p]
  | .vabs r d a p => [word r 0x40#7 d a 1#6 p]
  | .vneg r d a p => [word r 0x40#7 d a 2#6 p]
  | .vrcp r d a p => [word r 0x40#7 d a 3#6 p]
  | .vrsq r d a p => [word r 0x40#7 d a 4#6 p]
  | .vsqrt r d a p => [word r 0x40#7 d a 5#6 p]
  | .vexp2 r d a p => [word r 0x40#7 d a 6#6 p]
  | .vlog2 r d a p => [word r 0x40#7 d a 7#6 p]
  | .vred r d a o p => [word r 0x41#7 d a (0#4 ++ o) p]
  | .vcvt r ev d a p tgt dyn rm pos qt => [word r 0x42#7 d a 0#6 p, ev ++ (tgt ++ dyn ++ rm ++ pos ++ qt ++ 0#15 : BitVec 28)]
  | .vbcast r d a t p => [word r 0x43#7 d a (0#2 ++ t) p]
  | .vext r d a b p => [word r 0x44#7 d a b p]
  | .vperm r d a b p => [word r 0x45#7 d a b p]
  | .vlane r d a b p => [word r 0x46#7 d a b p]
  | .vld r d a t p => [word r 0x47#7 d a (0#2 ++ t) p]
  | .vst r s a p => [word r 0x48#7 s a 0#6 p]
  | .vlds r d a b p => [word r 0x49#7 d a b p]
  | .vgat r d a b p => [word r 0x4A#7 d a b p]
  | .vtag r d a t => [word r 0x4B#7 d a (0#2 ++ t) 0#3]
  | .vscl r d a b p => [word r 0x4C#7 d a b p]
  | .vpack r d a b p => [word r 0x4D#7 d a b p]
  | .vunpk r d a h p => [word r 0x4E#7 d a (0#5 ++ h) p]
  | .tld r ev t h b c => [word r 0x50#7 (0#4 ++ t) (0#2 ++ h) b 0#3, ev ++ (c ++ 0#22 : BitVec 28)]
  | .tst r ev t h b c => [word r 0x51#7 (0#4 ++ t) (0#2 ++ h) b 0#3, ev ++ (c ++ 0#22 : BitVec 28)]
  | .shld r h a => [word r 0x52#7 (0#2 ++ h) a 0#6 0#3]
  | .shset r h a f => [word r 0x52#7 (0#2 ++ h) a f 1#3]
  | .shget r d h f => [word r 0x52#7 d (0#2 ++ h) f 2#3]
  | .mma r ev s t slot m chain btag => [word r 0x53#7 s (0#4 ++ t) slot (0#2 ++ m), ev ++ (chain ++ btag ++ 0#12 : BitVec 28)]
  | .mmas r ev s a slot m chain btag atag => [word r 0x54#7 s a slot (0#2 ++ m), ev ++ (chain ++ btag ++ atag ++ 0#8 : BitVec 28)]
  | .mmaw r ev s t slot chain btag => [word r 0x55#7 s (0#4 ++ t) slot 0#3, ev ++ (chain ++ btag ++ 0#12 : BitVec 28)]
  | .chbld r a => [word r 0x56#7 0#6 a 0#6 0#3]
  | .chclose r ev d a b keep dst chain out smode qt c => [word r 0x57#7 (0#2 ++ d) a b (keep ++ 0#1 ++ dst), ev ++ (chain ++ out ++ smode ++ qt ++ c ++ 0#2 : BitVec 28)]
  | .chstat r d a => [word r 0x58#7 d a 0#6 0#3]
  | .chfree r a => [word r 0x58#7 0#6 a 0#6 1#3]
  | .chsplice r a b => [word r 0x58#7 0#6 a b 2#3]
  | .chrd r ev d a sp plane part => [word r 0x59#7 d a 0#6 (0#2 ++ sp), ev ++ (plane ++ part ++ 0#21 : BitVec 28)]
  | .lnorm r ev a b k => [word r 0x5A#7 0#6 a b 0#3, ev ++ (k ++ 0#22 : BitVec 28)]
  | .lset r ev a b e => [word r 0x5B#7 0#6 a b 0#3, ev ++ (e ++ 0#12 : BitVec 28)]
  | .rmode r o m => [word r 0x5C#7 (0#2 ++ o ++ m) 0#6 0#6 0#3]
  | .rmodeSeed r o m a => [word r 0x5C#7 (1#2 ++ o ++ m) a 0#6 0#3]
  | .mself r t a => [word r 0x5D#7 (0#4 ++ t) a 0#6 0#3]
  | .cpy r ev d s br ch dk sk od os => [word r 0x60#7 (0#2 ++ d) (0#2 ++ s) br ch, ev ++ (dk ++ sk ++ od ++ os ++ 0#14 : BitVec 28)]
  | .cpyw r ev d s br ch dk sk od os fa fv => [word r 0x61#7 (0#2 ++ d) (0#2 ++ s) br ch, ev ++ (dk ++ sk ++ od ++ os ++ 0#2 ++ fa ++ fv : BitVec 28)]
  | .cpstat r d k c => [word r 0x62#7 d 0#6 (0#2 ++ k ++ c) 0#3]
  | .stgnx r a => [word r 0x62#7 0#6 a 0#6 1#3]
  | .saq r ev v i b p op fmt => [word r 0x63#7 v i b p, ev ++ (op ++ fmt ++ 0#22 : BitVec 28)]
  | .sahist r ev i b p limit => [word r 0x64#7 0#6 i b p, ev ++ (limit ++ 0#16 : BitVec 28)]
  | .safl r => [word r 0x65#7 0#6 0#6 0#6 0#3]
  | .salat r a => [word r 0x65#7 0#6 a 0#6 1#3]
  | .colld r a b => [word r 0x66#7 0#6 a b 0#3]
  | .colgo r a b => [word r 0x66#7 0#6 a b 1#3]
  | .colwait r a => [word r 0x66#7 0#6 a 0#6 2#3]
  | .clwb r a => [word r 0x67#7 0#6 a 0#6 0#3]
  | .clinv r a => [word r 0x67#7 0#6 a 0#6 1#3]
  | _ => []

/-- Four bytes as a little-endian word (R2). -/
def wordOfBytes (b0 b1 b2 b3 : BitVec 8) : BitVec 32 := b3 ++ b2 ++ b1 ++ b0

/-- The little-endian bytes of a word (R2). -/
def bytesOfWord (w : BitVec 32) : List (BitVec 8) :=
  [w.extractLsb' 0 8, w.extractLsb' 8 8, w.extractLsb' 16 8, w.extractLsb' 24 8]

/-- Decoding of the instruction at the front of a byte string, with the bytes after it. -/
def decode : List (BitVec 8) → Except EncError (Instr × List (BitVec 8))
  | b0 :: b1 :: b2 :: b3 :: rest =>
    let w0 := wordOfBytes b0 b1 b2 b3
    if isTwoWordMajor (majorOf w0) then
      match rest with
      | c0 :: c1 :: c2 :: c3 :: rest' =>
        match decodeWords w0 (wordOfBytes c0 c1 c2 c3) with
        | .ok i => .ok (i, rest')
        | .error x => .error x
      | _ => .error .truncated
    else
      match decodeWords w0 0#32 with
      | .ok i => .ok (i, rest)
      | .error x => .error x
  | _ => .error .truncated

/-- The bytes of an instruction in memory, lowest address first (R160). -/
def encodeBytes (i : Instr) : List (BitVec 8) := (encode i).flatMap bytesOfWord

/-- The bytes of the instruction whose table bits are w: two words, the bits above nbits zero. -/
def tableBytes (nbits w : Nat) : List (BitVec 8) :=
  let v : BitVec 64 := BitVec.ofNat 64 (w % 2 ^ nbits)
  bytesOfWord (v.extractLsb' 0 32) ++ bytesOfWord (v.extractLsb' 32 32)

/-- The instruction the decoder reads from the bits w of a row of the opcode table. -/
def decodeTableWord (nbits w : Nat) : Option Instr :=
  match decode (tableBytes nbits w) with
  | .ok (i, _) => some i
  | .error _ => none

end Sys2Proof
end

