-- ==== Sys2Proof/Machine/State.lean ====
section
/-! DEFINITION. Sys2Proof/Machine/State.lean: the state of the package as plain data, its reset, and the reasons a step can stop.
INVENTORY.md lists every piece with the rule that names it. -/

namespace Sys2Proof.Machine

open Sys2Proof

/-! ## Why a step stops -/

/-- The faults of the model. -/
inductive Fault where
  /-- Raised by step when the next turn says that an instruction with an encoding happens as an event: the list of turns is the
  model's own and such a turn stands for nothing the spec describes. Safe: no behaviour of the hardware is lost (log 1). -/
  | malformedTurn
  deriving DecidableEq, Repr

/-- The refusals of the model. -/
inductive Refusal where
  /-- An instruction without a meaning, by its mnemonic. Raised by exec only. Safe. -/
  | notModelled (mnemonic : String)
  deriving DecidableEq, Repr

/-! ## Registers of a stream -/

/-- A hardware-loop register pair (R170). -/
structure LoopPair where
  act   : Bool
  len   : BitVec 12
  count : BitVec 32
  start : BitVec 57
  deriving DecidableEq, Repr

/-- A scratchpad or physical location: a byte offset of the group's window (R66), or a physical address (R18). -/
inductive Loc where
  | spad (off : Nat)
  | mem (pa : Nat)
  deriving DecidableEq, Repr

/-- Where the data of a load goes. -/
inductive LoadDest where
  /-- x(d), with the access size and whether it is sign-extended (R215). -/
  | scalar (d : BitVec 6) (n : Nat) (signed : Bool)
  /-- v(d), with the element width in bits (R260). -/
  | vector (d : BitVec 6) (w : Nat) (entry : Nat)
  /-- h(d) of SHLD (R270). -/
  | shape (d : BitVec 4)
  deriving DecidableEq, Repr

/-- One element of a load: where it lies, how many bytes, and its byte position in the destination (a position from 2,048 on is the sideband). -/
structure LoadPart where
  loc : Loc
  /-- The virtual address, by which a retention register tags the request (R78). -/
  va  : Nat
  n   : Nat
  pos : Nat
  deriving DecidableEq, Repr

/-- An entry of a load queue (R87). -/
structure LoadReq where
  fpc   : BitVec 64
  va    : BitVec 64
  dest  : LoadDest
  parts : List LoadPart
  /-- The number of the stream's stores that came before it: it forwards from those still queued (R87). -/
  after : Nat
  /-- The queue marks before it (R91). -/
  mark  : Nat
  /-- The core's local count when it issued (R440). -/
  issued : BitVec 64
  deriving DecidableEq, Repr

/-- What an entry of a store queue does when it is performed. -/
inductive StoreOp where
  | write (bytes : List Byte)
  | clwb
  | clinv
  deriving DecidableEq, Repr

/-- The scale byte of an MX8 or Q4 block on its way to its home point, and whether its line is then poisoned (R103, R413). -/
structure ScaleByte where
  loc    : Loc
  va     : Nat
  byte   : Byte
  poison : Bool := false
  deriving DecidableEq, Repr

/-- One element of a store. -/
structure StorePart where
  loc : Loc
  va  : Nat
  op  : StoreOp
  /-- The scale byte of an MX8 or Q4 block, performed with it (R103). -/
  scale : Option ScaleByte
  /-- It lies on an HT page, or its scale byte does (R85, R103). -/
  ht : Bool := false
  deriving DecidableEq, Repr

/-- An entry of a store queue (R87); ht: an HT page (R85); before: the earlier loads it is held back for. -/
structure StoreReq where
  fpc    : BitVec 64
  ht     : Bool
  parts  : List StorePart
  entry  : Option Nat
  id     : Nat
  before : Nat
  /-- The queue marks before it (R91). -/
  mark   : Nat
  /-- How many cycles of the package had ended when it issued (R109; log 69). -/
  age    : Nat
  deriving DecidableEq, Repr

/-- A fault offered to the page-fault service (R396, R397). -/
structure PageFault where
  asid : BitVec 16
  page : Nat
  /-- 0 read, 1 write, 2 fetch (R388). -/
  kind : BitVec 2
  /-- The walk level (R388). -/
  lvl  : BitVec 3
  /-- The cause the walk met. -/
  cause : BitVec 10
  /-- The answer an engine command has had and not yet acted on: 0 to walk again, else a cause. -/
  ans   : Option (BitVec 10)
  deriving DecidableEq, Repr

/-- What a waiting instruction of a stream waits for (R50, R106, R109, R220). -/
inductive WaitFor where
  /-- LDS: the sync word at an offset of the window is empty. -/
  | word (off : Nat)
  /-- EPOP: the result queue of an engine is empty. -/
  | result (eng : Nat)
  /-- Anything else. -/
  | other
  deriving DecidableEq, Repr

/-- A stream of a group (R33, R309). -/
structure Stream where
  x      : Vector (BitVec 64) 64
  full   : BitVec 64
  c      : BitVec 8
  b      : Vector (BitVec 57) 8
  prepd  : BitVec 8
  loops  : Vector LoopPair 2
  late   : BitVec 1
  pc     : BitVec 64
  npc    : BitVec 64
  /-- NPC follows the instruction at PC, whose word could not be read when PC was set: it is fixed when that instruction issues (log 17). -/
  npcOpen : Bool
  ended  : Bool
  femode : BitVec 1
  wdlim  : BitVec 48
  wdcnt  : Nat
  seq    : BitVec 32
  retired : BitVec 64
  loads  : List LoadReq
  stores : List StoreReq
  /-- Loads performed and stores accepted so far: their difference orders HT stores and forwarding. -/
  loadsDone : Nat
  storesIn  : Nat
  loadsIn   : Nat
  /-- The ring bits of the instruction at PC, once its takes have been made (R45). -/
  took   : Option (BitVec 4)
  /-- The cumulative sets that those tokens carried: from prev(S), from next(S) (R97). -/
  tookSets : List Nat × List Nat
  /-- What the instruction at PC waits for, the destination it has marked empty (R65; 0: none), and the core's local count when it issued (R440). -/
  waiting : Option (WaitFor × BitVec 6 × BitVec 64)
  /-- x registers left empty by LD.b to LD.d, LDS or WAITA (DECSTALL of R172). -/
  byLoad : BitVec 64
  /-- Entries of the cluster store buffer in the stream's cumulative set (R93). -/
  cum    : List Nat
  /-- Those of them that its acquires and takes have brought it, which order its engine commands too (R94). -/
  acq    : List Nat
  /-- The cumulative set of the stream's latest FENCE of kind .rel or .full, which its tokens carry (R97). -/
  fenced : List Nat
  /-- The releases whose writes its loads have read: the releasing stream's place and the set (R94). -/
  seen   : List (Place × List Nat)
  /-- Entries of the cluster store buffer that hold the stream's own stores, with the queue mark and the number of the first of them
  (R91, R95). -/
  own    : List (Nat × Nat × Nat)
  /-- Queue marks passed (R91). -/
  mark   : Nat
  /-- Values on their way to scalar registers from producers other than the load queue (R65), those of LDS and WAITA with the core's local count when they
  issued (R440). -/
  arrivals : List (BitVec 6 × BitVec 64 × Option (BitVec 64))
  /-- The instruction at PC waits for these page-fault answers (R397). -/
  faults : List PageFault
  /-- A fault that was answered with a cause, to be raised where the instruction meets its page (R398). -/
  answer : Option PageFault
  /-- A step of this stream has been granted by RUN and has not ended (R405). -/
  mayStep : Bool
  /-- The instruction at PC is a BARA waiting at its slice: it is applied before a stop cancels anything (R228, R313). -/
  atSlice : Bool
  /-- Words fetched ahead (R199, R203): virtual address, word, order of fetching. -/
  pre    : List (Nat × BitVec 32 × Nat)
  preNo  : Nat
  /-- The order number at which each target register was prepared (R203). -/
  prepAt : Vector Nat 8
  /-- The order number from which on a word fetched ahead may be the one at PC, and that of the target of a taken transfer whose delay slot is at PC
  (R203). -/
  floor  : Nat
  floorNext : Option Nat
  /-- The length in bytes of the instruction at PC as it was last fetched (R185, R206). -/
  len    : Nat
  /-- The scalar registers that a load or an engine command has made full in this cycle: what waits for one issues in the next (R167, R440). -/
  woken  : BitVec 64
  /-- The stream has raised a cause of the cut in progress (R386, R389). -/
  raised : Bool
  deriving DecidableEq, Repr

/-! ## Shared registers of a group -/

/-- A vector register (R64, R114). -/
structure VReg where
  data : BitVec 16384
  tag  : BitVec 4
  full : Bool
  side : BitVec 1024
  deriving DecidableEq, Repr

/-- A tile register (R64, R114). -/
structure TReg where
  data : BitVec 65536
  tag  : BitVec 4
  full : Bool
  side : BitVec 4096
  deriving DecidableEq, Repr

/-- A rounding state (R124). -/
structure RState where
  seed : BitVec 32
  ovf  : BitVec 1
  mode : BitVec 3
  dcnt : BitVec 32
  deriving DecidableEq, Repr

/-- An entry of the scratchpad page list (R67). -/
structure PageEntry where
  back  : BitVec 36
  alloc : Bool
  deriving DecidableEq, Repr

/-- A copy channel (R288): its counters, and the transfers above WM that are complete. -/
structure Chan where
  nextid : BitVec 48
  wm     : BitVec 48
  done   : List (BitVec 48)
  deriving DecidableEq, Repr

/-- A stage counter and cursor (R295). -/
structure Stage where
  stage  : BitVec 16
  cursor : BitVec 16
  deriving DecidableEq, Repr

/-- The fields of a launch record that a group keeps (R53). -/
structure LaunchRec where
  id      : BitVec 64
  rights  : BitVec 4
  ecc     : BitVec 2
  ovf     : BitVec 1
  rmode   : BitVec 3
  gang    : Bool
  cls     : BitVec 3
  asid    : BitVec 16
  g       : Nat
  entries : Vector (BitVec 64) 5
  jobcard : BitVec 64
  cpsched : BitVec 64
  handler : BitVec 64
  budget  : BitVec 64
  refill  : BitVec 64
  nlev    : BitVec 3
  user    : BitVec 64
  levels  : Vector (BitVec 8) 8
  deriving DecidableEq, Repr

/-! ## Engine commands -/

/-- The bytes of one line that a command writes, by their positions in it, and whether the line is written poisoned (R416). -/
structure LineBytes where
  loc    : Loc
  va     : Nat
  bytes  : List (Nat × Byte)
  poison : Bool
  deriving DecidableEq, Repr

/-- A write of a started command that has not been performed: the bytes of one line, and of the further lines that a block of it reaches into. -/
structure LineWrite where
  loc    : Loc
  va     : Nat
  /-- Byte positions after loc, with the bytes. -/
  bytes  : List (Nat × Byte)
  /-- Lines that hold the rest of a block of this line, performed with it (R103). -/
  more   : List LineBytes := []
  /-- Scale bytes of the line's blocks, performed with it (R103). -/
  scales : List ScaleByte
  poison : Bool
  /-- The evict-first hint of the shape side it is written through (R75, R291). -/
  ef     : Bool
  deriving DecidableEq, Repr

/-- A copy in flight (R288, R292): its channel and transfer identifier, the lines it has not performed, the tile it writes, its barrier's physical
address, the bytes delivered and not yet subtracted from it, the flag word to write after them, the status of its element, whether it is complete. -/
structure CopyRun where
  chan    : BitVec 3
  tid     : BitVec 48
  lines   : List LineWrite
  tile    : Option (BitVec 2 × TReg)
  barrier : Option Nat
  /-- The virtual address that the barrier was reached at. -/
  barVa   : Nat := 0
  owed    : Nat
  flagw   : Option LineWrite
  status  : BitVec 8
  fin     : Bool
  deriving DecidableEq, Repr

/-- A step in flight (R141): the operand A as read, and the B lines as they stood at the start (R73). -/
structure StepWork where
  chain  : BitVec 12
  /-- The chain's building, and the link with its entry when the step started: a step whose link has been freed or spliced adds nothing (R155, R423). -/
  born   : Nat
  idx    : Nat
  home   : CoreId × Fin 2 × Nat
  /-- Elements of A by row, as bit patterns, with the sideband. -/
  aData  : BitVec 65536
  aSide  : BitVec 4096
  aTag   : BitVec 4
  bTag   : BitVec 4
  slot   : Nat
  /-- Arrays used: M0, M1. -/
  arrays : BitVec 2
  /-- The B bytes of each array at the start. -/
  bOld   : List (List Byte)
  /-- A rerun is in progress: the strips and row paths that disagreed (R418). -/
  rerun  : Option (BitVec 10)
  /-- The sites that became lasting by it: array, and strip 0 to 3 or 4 for the row path. -/
  due    : List (Fin 2 × Nat)
  /-- A cause with which the step is refused when it would complete (R416). -/
  refused : Option (BitVec 10)
  /-- MSELF: the seed (R286). -/
  self   : Option (BitVec 8)
  deriving DecidableEq, Repr

/-- The work of a started command. -/
structure Work where
  vw      : List (BitVec 6 × VReg)
  tw      : List (BitVec 2 × TReg)
  pw      : List (BitVec 3 × BitVec 1024)
  xw      : Option (BitVec 6 × BitVec 64)
  lines   : List LineWrite
  step    : Option StepWork
  /-- A chain the command closes: its number and building, and whether KEEP is set (R154). -/
  close   : Option (BitVec 12 × Nat × Bool)
  /-- The copies the command runs, in order (R289, R295). -/
  copies  : List CopyRun
  /-- A cause taken at the stream when the command completes (R416). -/
  cause   : Option (BitVec 10)
  status  : BitVec 8
  /-- The scratchpad regions the command keeps locked: start and length (R71). -/
  locks   : List (Nat × Nat)
  /-- A vector access placed in a queue of VEC: the command completes when that entry is performed (R260). -/
  access  : Bool
  /-- The command waits for the scatter updates of earlier commands (R300). -/
  flush   : Bool
  /-- The collective context whose replay the command waits for (R304). -/
  ctx     : Option (DieId × Fin 64)
  /-- A COLWAIT: the context, and how many of its replays must be over at every member (R306). -/
  await   : Option (DieId × Fin 64 × Nat)
  /-- The links whose re-forward a CHSPLICE waits for: chain and link. -/
  splice  : Option (BitVec 12 × Nat)
  deriving DecidableEq, Repr

/-- An entry of an engine queue (R311), with what its execution has reached. -/
structure QEntry where
  instr   : Instr
  stream  : StreamId
  xops    : Vector (BitVec 64) 6
  shops   : Vector (BitVec 512) 2
  rs      : RState
  fpc     : BitVec 64
  tid     : BitVec 48
  /-- A number that names the entry while it is in its queue. -/
  id      : Nat
  took    : Bool
  /-- The cumulative sets of the tokens it took (R97). -/
  tookSets : List Nat × List Nat
  /-- The entries of the cluster store buffer that its writes have merged into (R96, R260). -/
  wrote   : List Nat
  started : Bool
  /-- It has raised a cause and is not tried again until the group runs again (R389, R406). -/
  raised  : Bool
  done    : Bool
  /-- Result elements not yet pushed (R98). -/
  elems   : List (BitVec 64)
  headCnt : Nat
  /-- The command returned to the head with this cause (R419, R423), raised at its next attempt. -/
  refused : Option (BitVec 10)
  work    : Option Work
  /-- Page-fault answers the head waits for (R397). -/
  faults  : List PageFault
  /-- Stores of the placing stream accepted before the push (R95). -/
  afterSt : Nat
  /-- Loads of the placing stream accepted before the push (R95). -/
  afterLd : Nat
  /-- The entries of the cluster store buffer that the placing stream had acquired before the push (R94). -/
  behind  : List Nat
  deriving DecidableEq, Repr

/-- A pending scatter update: the command it is of and the stream and address it came from, the target, the format, the operation and the merged
value (R298). -/
structure ScatUpd where
  cmd    : Nat
  /-- Loads of the placing stream before the push (R95). -/
  afterLd : Nat
  stream : StreamId
  fpc    : BitVec 64
  va  : Nat := 0
  loc : Loc
  fmt : BitVec 4
  op  : BitVec 2
  v   : BitVec 32
  deriving DecidableEq, Repr

/-! ## Traps -/

/-- A cut in progress: the trap record as it is being formed (R388, R389). -/
structure Cut where
  hdl    : Bool
  async  : Bool
  isq    : Bool
  queue  : BitVec 3
  more   : BitVec 8
  cause2 : BitVec 10
  /-- The rank of the unit that raised CAUSE2 in the cycle of the cut (R389). -/
  rank2  : Nat := 0
  stream : StreamId
  cause  : BitVec 10
  info0  : BitVec 64
  lvl    : BitVec 3
  kind   : BitVec 2
  fpc    : BitVec 64
  cycle  : BitVec 64
  who    : BitVec 64
  deriving DecidableEq, Repr

/-- A halt of a debugged group in force or asked for. -/
inductive HaltReq where
  | none
  | asked (reason : BitVec 10)
  deriving DecidableEq, Repr

/-- Why a group is being stopped. -/
inductive Stopping where
  /-- Running. -/
  | no
  /-- A pre-emption (R327). -/
  | preempt
  /-- A trap (R386). -/
  | trap (c : Cut)
  /-- A SUSPEND and the physical pages of its object (R313). -/
  | suspend (va : BitVec 64) (mask : BitVec 4) (pages : List Nat) (phase : Nat)
  /-- A TRET of the handler, checked and waiting for nothing more (R392). -/
  | tret
  deriving DecidableEq, Repr

/-- A register unit with an uncorrectable error (R416). -/
inductive RegUnit where
  | v (r : BitVec 6) (unit : Nat)
  | t (r : BitVec 2) (unit : Nat)
  | p (r : BitVec 3) (unit : Nat)
  deriving DecidableEq, Repr

/-- The trapped group a handler group serves (R391): the physical address of its frame, its bind record and core, and its record's primary cause. -/
structure Trapped where
  frame  : Nat
  core   : CoreId
  dw0    : BitVec 64
  gindex : BitVec 16
  cause  : BitVec 10
  deriving DecidableEq, Repr

/-- A group bound to a slot (R33). -/
structure Group where
  lr      : LaunchRec
  /-- The group's index in its launch (R52). -/
  gindex  : BitVec 16
  cls     : BitVec 3
  streams : Vector Stream 5
  v       : Vector VReg 64
  t       : Vector TReg 4
  p       : Vector (BitVec 1024) 8
  h       : Vector (BitVec 512) 16
  ev      : Vector (BitVec 16) 32
  evstat  : BitVec 32
  /-- Byte 2k: S to next(S); byte 2k + 1: S to prev(S), for S the stream numbered k (R310). -/
  tokens  : Vector Nat 10
  /-- The cumulative sets that the latest tokens of each queue carry, oldest first (R96, R97). -/
  tokSets : Vector (List (List Nat)) 10
  /-- The same for the posts of each event (R52). -/
  evSets  : Vector (List (List Nat)) 32
  queues  : Vector (List QEntry) 6
  mrs     : RState
  vrs     : RState
  pages   : Vector PageEntry 64
  syncf   : BitVec 8192
  chans   : Vector Chan 8
  stages  : Vector Stage 2
  rq      : Vector (List (BitVec 64)) 5
  cnum    : Vector (BitVec 48) 5
  tkts    : List (BitVec 64 × BitVec 64)
  lostTkt : BitVec 8
  qdone   : Vector (BitVec 32) 6
  qacc    : Vector (BitVec 32) 6
  /-- Streams waiting in an EVWAIT, earliest first (R50). -/
  evwait  : List (StreamId × BitVec 5)
  scat    : List ScatUpd
  decstall : BitVec 64
  headwait : BitVec 64
  stopping : Stopping
  halt     : HaltReq
  trapped  : Option Trapped
  damaged  : List RegUnit
  nextId   : Nat
  deriving DecidableEq, Repr

/-! ## Slots, cores, clusters, dies -/

/-- A bind record (R322): its four dwords. -/
structure BindRec where
  dw0  : BitVec 64
  lid  : BitVec 64
  obj  : BitVec 64
  save : BitVec 64
  deriving DecidableEq, Repr

/-- The states of a slot (R324). -/
inductive SlotState where
  | free | binding | running | fencing | saving | halted | held
  deriving DecidableEq, Repr

/-- The debug block of a slot (R403). -/
structure Debug where
  att    : Bool
  halted : Bool
  step   : BitVec 5
  /-- Issue was restarted by a RUN with a non-zero STEP (R405). -/
  stepping : Bool
  /-- HREQ has been written while the slot was binding (R403). -/
  hreq   : Bool
  reason : BitVec 10
  record : Vector (BitVec 64) 16
  deriving DecidableEq, Repr

/-- A slot (R32, R322 to R329). -/
structure Slot where
  brec    : BindRec
  /-- The record that bound the occupant (R323). -/
  latched : BindRec
  state   : SlotState
  err     : Bool
  left    : BitVec 32
  debt    : BitVec 32
  sle     : BitVec 64
  /-- SLE at the start of the current slice (R330). -/
  sleMark : BitVec 64
  gen     : BitVec 16
  dbg     : Debug
  group   : Option Group
  /-- The written record waits for the slot, to bind at the slice end or when it becomes free. -/
  pending : Bool
  /-- OP 2 has been written for the occupant's launch (R333). -/
  permit  : Bool
  /-- The standby occupies the slot for one slice (R331). -/
  dusk    : Bool
  /-- A pre-emption was under way when the group's cut began (R337). -/
  preempting : Bool
  /-- The group's cut began in the cycle in progress: what its streams and heads do in that cycle still counts (R386, R389). -/
  cutNow  : Bool
  deriving DecidableEq, Repr

/-- A scratchpad frame in use (R68): its index, the group and page it holds, whether its fill is still in progress, and whether
the page is pinned. -/
structure Frame where
  idx     : Fin 64
  lid     : BitVec 64
  gindex  : BitVec 16
  hdl     : Bool
  page    : Fin 64
  pinned  : Bool
  filling : Bool
  /-- The page's backing frame, for its write-back: none while not allocated. -/
  back    : Option (BitVec 36)
  deriving DecidableEq, Repr

/-- A cached translation (R84). -/
structure TlbEntry where
  asid : BitVec 16
  /-- The first address the leaf maps, and its size as a power of two. -/
  va   : Nat
  logSize : Nat
  leaf : BitVec 64
  /-- Where the leaf lies. -/
  pte  : Nat
  deriving DecidableEq, Repr

/-- The health of an array (R420). -/
structure Health where
  ret   : Bool
  spu   : Bool
  test  : Bool
  scg   : BitVec 2
  ldead : BitVec 16
  ckcnt : BitVec 8
  /-- The lasting strips being tested; none for the row path. -/
  under : List (BitVec 2)
  deriving DecidableEq, Repr

/-- A core. -/
structure Core where
  cycle  : BitVec 64
  energy : BitVec 64
  steps  : BitVec 64
  /-- Frames in use, most recently used first. -/
  frames : List Frame
  tlb    : List TlbEntry
  arrays : Vector Health 2
  standby : BindRec
  duskCnt : Nat
  /-- The slot whose command each engine started last (R42). -/
  served  : Vector (Fin 4) 6
  deriving DecidableEq, Repr

/-- An entry of a cluster store buffer (R88): a line and the bytes written, by position. -/
structure BufEntry where
  id    : Nat
  line  : Nat
  /-- The address space and virtual address of the latest store merged, by which a retention register tags the write (R78). -/
  asid  : BitVec 16
  va    : Nat
  bytes : List (Nat × Byte)
  /-- Entries that hold the rest of a block of this entry, which drain with it (R103). -/
  mates : List Nat
  deriving DecidableEq, Repr

/-- A release of a stream whose cumulative set has not all reached its home points (R93, R94): the stream, the scope (R175), the number from which on the
group's engine commands were placed after it, the entries of the cluster's buffer that hold the set, and the runs of bytes the stream has written after
the release. -/
structure Release where
  place  : Place
  stream : StreamId
  scope  : Nat
  before : Nat
  ids    : List Nat
  wrote  : List (Loc × Nat)
  deriving DecidableEq, Repr

/-- A cluster: its store buffer, oldest entry first, and the releases of narrow scope made in it (R93). -/
structure Cluster where
  buf      : List BufEntry
  released : List Release
  nextId   : Nat
  deriving DecidableEq, Repr

/-- A retention register (R77); owned: the way indices it owns (R76). -/
structure RetReg where
  base : BitVec 41
  last : BitVec 41
  v    : Bool
  ways : BitVec 4
  asid : BitVec 16
  hit  : BitVec 64
  miss : BitVec 64
  ovf  : BitVec 64
  owned : List (Fin 16)
  lid  : BitVec 64
  deriving DecidableEq, Repr

/-- A line held in an L2 (R75): its number PA / 128, its way, whether it is dirty, the retention register that placed it, and the virtual page of the
request that did (R78, R79). -/
structure L2Line where
  line  : Nat
  way   : Fin 16
  dirty : Bool
  reg   : Option (Fin 8)
  vpage : Nat
  /-- Its poison was found in the L2 while the line was clean: HBM holds it whole (R411, R413). -/
  bad   : Bool
  deriving DecidableEq, Repr

/-- An open service request of a die (R397). -/
structure SvcReq where
  fault : PageFault
  sent  : Bool
  seq   : BitVec 32
  /-- It has been answered with retry, and its page is being invalidated (R398). -/
  retry : Bool := false
  deriving DecidableEq, Repr

/-- A watch entry of a slice (R237, R238). -/
structure Watch where
  slice : Fin 16
  entry : Fin 16
  lo    : Nat
  hi    : Nat
  mask  : BitVec 64
  value : BitVec 64
  task  : Vector (BitVec 64) 4
  once  : Bool
  owner : BitVec 64
  asid  : BitVec 16
  deriving DecidableEq, Repr

/-- A path of a loaded graph (R339), with its split (R344) and credits (R346). -/
structure GPath where
  weight : Nat
  ring   : Bool
  cred   : Nat
  pieces : Nat
  ports  : BitVec 18
  n      : Nat
  start  : Nat
  deriving DecidableEq, Repr

/-- An operation of a loaded graph (R339). -/
structure GOp where
  kind  : BitVec 3
  port  : Nat
  path  : Nat
  piece : Nat
  base  : Nat
  base2 : Nat
  tag   : BitVec 16
  dep   : Nat
  succ0 : BitVec 16
  succ1 : BitVec 16
  ev    : BitVec 5
  deriving DecidableEq, Repr

/-- A loaded graph. -/
structure Graph where
  count : Nat
  sig   : BitVec 32
  etype : BitVec 4
  op    : BitVec 2
  fixw  : Bool
  logc  : Nat
  nb    : Nat
  paths : List GPath
  ops   : List GOp
  deriving DecidableEq, Repr

/-- The progress of one operation of a replay (R345, R346): its counter, whether it has started and finished, the chunks sent or
received, those acknowledged, and the chunks of a fold in progress. -/
structure OpRun where
  cnt   : Nat
  started : Bool
  finished : Bool
  sent  : Nat
  acked : Nat
  got   : List Nat
  folds : Nat
  deriving DecidableEq, Repr

/-- A replay of a COLGO (R304, R345): the group's place and the command's entry, its base table, the physical addresses of the pages of each base
(none for one in the scratchpad), whether its split is fixed, and how it has failed, with a cause and a step. -/
structure Replay where
  place  : Place
  entry  : Nat
  asid   : BitVec 16
  table  : Loc
  tva    : BitVec 64
  bases  : List (BitVec 64)
  pages  : List (Option (List Nat))
  /-- It is the one in progress and has begun (R304). -/
  began  : Bool
  /-- The exchange with which a replay under ADAPT = 1 begins has been opened (R347). -/
  asked  : Bool
  /-- Its failure has come from an abort, or its own aborts have been sent (R432). -/
  aborted : Bool
  split  : Bool
  ops    : List OpRun
  failed : Option (BitVec 10 × Nat)
  zeroed : Bool
  deriving DecidableEq, Repr

/-- How far the load of a context has come (R343): a COLLD at a place waits for its answers, has been answered with a cause (0: granted), or is done. -/
inductive CtxPhase where
  | loading (p : Place) (entry : Nat)
  | answered (p : Place) (entry : Nat) (cause : BitVec 10)
  | loaded
  deriving DecidableEq, Repr

/-- A chunk that has left and whose slot-free notice has not come (R346): its operation, port and path, the replay that sent it, and whether its slot is
one of those reserved for the graph that the context now holds. -/
structure OutChunk where
  ctx   : Fin 64
  op    : Nat
  port  : Nat
  path  : Nat
  place : Place
  entry : Nat
  live  : Bool
  deriving DecidableEq, Repr

/-- A collective context (R302): its replays, the one in progress first. One that is being loaded stands beside the one it will replace (log 70). -/
structure Ctx where
  owner : BitVec 64
  level : BitVec 3
  /-- The domain of its level (R54). -/
  domain : Nat
  /-- The place that loads or loaded it (R54). -/
  loader : Place
  /-- This member's weights as it read them at each exchange, those of its launch's earlier loads of the context among them (R343, R353; log 66). -/
  weights : List (List Nat)
  /-- The replays that COLGOs have put to the context, in all its launch's loads of it (R306; log 66). -/
  begun : Nat
  adapt : Bool
  graph : Graph
  phase : CtxPhase
  /-- A switch has lost a reservation of the context (R432). -/
  lost  : Bool
  replays : List Replay
  deriving DecidableEq, Repr

/-- An abort that a member has sent on a path of its graph (R432). -/
structure FabricAbort where
  die   : DieId
  ctx   : Fin 64
  path  : Nat
  ports : BitVec 18
  cause : BitVec 10
  deriving DecidableEq, Repr

/-- A chunk that has left on a port (R345, R347). -/
structure FabricChunk where
  port  : Nat
  path  : Nat
  piece : Nat
  tag   : BitVec 16
  chunk : Nat
  sig   : BitVec 32
  bytes : List Byte
  deriving DecidableEq, Repr

/-- A part of a RECVRED chunk in a cellar queue (R348). -/
structure Part where
  /-- The physical address of each byte. -/
  addrs : List Nat
  bytes : List Byte
  die   : DieId
  ctx   : Fin 64
  op    : Nat
  deriving DecidableEq, Repr

/-- A core die. -/
structure Die where
  rways  : BitVec 4
  regs   : Vector RetReg 8
  /-- Lines held, most recently used first. -/
  l2     : List L2Line
  badWays : List (Fin 16 × Fin 16)
  poolBase : BitVec 36
  poolCount : BitVec 20
  /-- Frames of the pool that are taken, by number. -/
  poolTaken : List Nat
  atabBase : BitVec 32
  atabEn : Bool
  invBusy : Bool
  invAll : Bool
  invPages : BitVec 32
  invAsid : BitVec 16
  invVa  : BitVec 41
  gangId : BitVec 64
  svc    : List SvcReq
  watch  : List Watch
  ctxs   : Vector (Option Ctx) 64
  /-- Contexts being loaded (R343). -/
  loads  : List (Fin 64 × Ctx)
  /-- Chunks that have left the die's contexts and whose notices have not come (R338, R346). -/
  outs   : List OutChunk
  cellar : Vector (List Part) 3
  trips  : BitVec 32
  slow   : Bool
  slowRun : Nat
  lock   : Bool
  tripw  : BitVec 8
  stale  : BitVec 32
  incs   : Vector (BitVec 8) 4
  cycle  : BitVec 64
  deriving DecidableEq, Repr

/-- A fabric port (R338). -/
structure Port where
  up    : Bool
  util  : BitVec 11
  bwm   : BitVec 11
  txb   : BitVec 64
  rxb   : BitVec 64
  notices : BitVec 64
  held  : BitVec 64
  avail : BitVec 11
  /-- The number of the last window of the carrying die that the port has counted (R338). -/
  window : Nat
  deriving DecidableEq, Repr

/-- A site that faults are counted at (R408): the source code of R409, the die, and what names it on the die. -/
structure Site where
  src   : BitVec 4
  die   : DieId
  key   : Nat
  count : BitVec 8
  wstart : BitVec 64
  deriving DecidableEq, Repr

/-! ## Chains -/

/-- The states of a link (R134) other than FREE and SPARE, which an entry has when no link stands in it. -/
inductive LinkState where
  | built | open | done | frozen
  deriving DecidableEq, Repr

/-- A forward or notice on its way to the parent, with the incarnations of both dies (R157, R428). -/
structure Flight where
  src : BitVec 8
  dst : BitVec 8
  deriving DecidableEq, Repr

/-- A link of a built chain (R133, R136). -/
structure Link where
  die    : DieId
  core   : Fin 32
  array  : Fin 2
  fused  : Bool
  slot   : Nat
  hop    : BitVec 2
  parent : Nat
  cslot  : BitVec 3
  decl   : BitVec 20
  slo    : Nat
  scnt   : Nat
  state  : LinkState
  recv   : BitVec 20
  mask   : BitVec 8
  /-- Element words by row (R120); node values once the node has been computed (R133). -/
  m      : List (List (BitVec 48))
  e      : List (BitVec 16)
  ovr    : BitVec 64
  noded  : Bool
  /-- The forward or notice in flight. -/
  flight : Option Flight
  /-- The forward or notice has been received by the parent. -/
  landed : Bool
  /-- Tree children whose node value this link has asked for and received, with that value (R147, R157). -/
  reads  : List (Nat × List (List (BitVec 48)))
  /-- Tree children whose node value it has asked for, with the read in flight (R157); none: the read has been discarded as stale (R428). -/
  asks   : List (Nat × Option Flight) := []
  /-- Groups that hold the link (R158): launch and group index. -/
  holders : List (BitVec 64 × BitVec 16)
  /-- Its entries that are lasting and are retired when next freed: of the lower array, of the other array of a fused link (R425). -/
  lasting : BitVec 2
  deriving DecidableEq, Repr

/-- A built chain, an entry of the chain directory (R132). -/
structure Chain where
  num   : BitVec 12
  /-- A number of this building of the chain. -/
  born  : Nat
  owner : BitVec 64
  satok : Bool
  tf    : BitVec 2
  level : Nat
  e0    : BitVec 16
  links : List Link
  deriving DecidableEq, Repr

/-! ## The Dawn die and its management core -/

/-- Work waiting to be bound (R321). -/
inductive Waiting where
  /-- A group of an accepted launch. -/
  | fresh (lid : BitVec 64) (gindex : Nat)
  /-- A pre-empted group: its launch, index, save frame and core, its class and slice in the first dword of its record, and for a handler group the
  trapped group it serves. -/
  | saved (lid : BitVec 64) (gindex : BitVec 16) (frame : Nat) (core : CoreId) (dw0 : BitVec 64) (handler : Option Trapped)
  /-- A resume that has passed its compare: the physical addresses of the object's 4 KiB pages, its class, INSP, for a copy the frames taken, its place in the order
  in which the queues accepted it, and, where a core has translated the object's address, that core's die, the ASID and the address (R334). -/
  | resume (lid : BitVec 64) (obj : List Nat) (cls : BitVec 3) (insp : Bool) (frames : List Nat) (poolDie : DieId) (copy : Bool)
      (handler : Option Trapped) (no : Nat) (seen : Option (DieId × BitVec 16 × Nat))
  deriving DecidableEq, Repr

/-- A live launch (R320). -/
structure Launch where
  lrec    : LaunchRec
  recPa   : Nat
  recVa   : BitVec 64
  /-- Current class, spent energy and budget (R330). -/
  cls     : BitVec 3
  spent   : Nat
  budget  : Nat
  /-- Groups of the launch bound for the first time so far; with resumed and ended: resumes that gave it a group again, and groups ended (R320). -/
  bound   : Nat
  /-- Groups that have been given a first bind record, in ascending index (R321). -/
  issued  : Nat
  resumed : Nat
  ended   : Nat
  /-- Sealed continuation objects with STATE 0, by physical address (R320). -/
  sealed  : List Nat
  index   : BitVec 32
  /-- The launch is being ended with this cause (R394). -/
  ending  : Option (BitVec 10)
  deriving DecidableEq, Repr

/-- A record of a task queue (R235), with the ASID in which its object is named, the launch that placed it, and its place in the order in which the
queues accepted their records (R321). -/
structure Task where
  dws  : Vector (BitVec 64) 4
  asid : BitVec 16
  lid  : BitVec 64
  no   : Nat
  deriving DecidableEq, Repr

/-- A completion entry waiting to be written (R318). -/
structure Completion where
  lid : BitVec 64
  dw1 : BitVec 64
  /-- A SCHED_EVT reports it once it is written, under SCHED = 1 (R335, R372). -/
  evt : Bool := false
  deriving DecidableEq, Repr

/-- A demand-fill declaration (R336): its range, pool, permissions, and the frames given. -/
structure PfRange where
  asid  : BitVec 16
  first : Nat
  last  : Nat
  pool  : Nat
  nframe : Nat
  perms : BitVec 64
  given : Nat
  deriving DecidableEq, Repr

/-- A frame sent to the host, as it travels (R370, R371). -/
structure Sent where
  header  : BitVec 128
  payload : List (BitVec 64)
  trailer : BitVec 64
  deriving DecidableEq, Repr

/-- A trap forwarded to the host and not yet answered (R395). -/
structure Forwarded where
  seq : BitVec 32
  grp : Trapped
  lid : BitVec 64
  deriving DecidableEq, Repr

/-- The Dawn die (R362 to R374) and the work of the management core. -/
structure Dawn where
  inc    : Vector (BitVec 8) 4
  rel    : BitVec 4
  live   : BitVec 4
  lqaddr : BitVec 52
  stage  : BitVec 4
  cause  : BitVec 10
  rekeyBusy : Bool
  rekeyDie : BitVec 2
  /-- The die whose rekey is under way, while rekeyBusy (R369). -/
  rekeyOf : DieId
  crcf   : BitVec 32
  badf   : BitVec 32
  msplit : BitVec 5
  /-- The key in force on each die, counted from power-on (R368, R369). -/
  epoch  : Vector Nat 4
  /-- The package has been powered on (R364). -/
  powered : Bool
  /-- Measurement blocks 1 to 7 (R365). -/
  meas   : Vector (BitVec 512) 7
  logNext : BitVec 64
  /-- Dies being released, and dies whose release has been tried since the firmware started (R364, R435). -/
  releasing : List DieId
  tried  : List DieId
  launches : List Launch
  waiting : List Waiting
  /-- The task queues of the eight classes, in order (R25, R59, R235; log 68). -/
  tasks  : Vector (List Task) 8
  /-- Records of watchpoint matches that wait for their full queues (R236; log 55). -/
  held   : List Task
  /-- Records and resumes that the queues have accepted (R321). -/
  accepted : Nat
  cpls   : List Completion
  ranges : List PfRange
  forwarded : List Forwarded
  /-- COLLDs whose graph the host has been sent: sequence number, place (R335). -/
  colReqs : List (BitVec 32 × Place)
  seq    : BitVec 32
  out    : List Sent
  negotiated : Bool
  large  : List Byte
  handle : BitVec 8
  /-- A request that comes in chunks: its bytes so far, its handle and the number of its next chunk (R366). -/
  chunks : List Byte
  chunkHandle : BitVec 8
  chunkNext : Nat
  /-- Die-to-die links being retrained, lower die first (R430). -/
  retraining : List (DieId × DieId)
  /-- The die to which the chain directory has moved; none: it lies on the lowest-numbered live die (R132, R429). -/
  directory : Option DieId
  /-- The chain directory is being rebuilt (R429). -/
  rebuilding : Bool
  /-- Responses and forwards of lost dies still on their way: the die that receives one, and the lost die (R428). -/
  late : List (DieId × DieId)
  deriving DecidableEq, Repr

/-! ## Turns -/

/-- Who moves next (log 1). -/
inductive Turn where
  /-- A stream of the group at a place issues, or tries to. -/
  | issue (p : Place) (st : StreamId)
  /-- An event of the opcode table happens. -/
  | happen (i : Instr)
  /-- Cycles of a die pass (log 2). -/
  | tick (d : DieId) (n : Nat)
  /-- An uncorrectable error is found in the line that holds an address: the line is poisoned (R411). -/
  | poison (pa : Nat)
  /-- The same in the scratchpad SRAM of a core. -/
  | poisonSpad (c : CoreId) (off : Nat)
  /-- An uncorrectable error is found in a register of the group at a place (R416). -/
  | damage (p : Place) (u : RegUnit)
  /-- A stream fetches the word at an address ahead (R199, R203). -/
  | prefetch (p : Place) (st : StreamId) (va : BitVec 64)
  /-- A core drops a cached translation (log 7). -/
  | dropTlb (c : CoreId) (k : Nat)
  /-- The next n turns fall in one cycle: they happen in the order that R109, R159, R240 and R389 give (log 1). -/
  | cycle (n : Nat)
  /-- The updates of a cycle opened by a cycle turn are over: the barriers are tested (R228). -/
  | settle
  /-- A cycle opened by a cycle turn is over. -/
  | cycleEnd
  /-- An uncorrectable error is found in a link store entry in which no link stands (R408). -/
  | entryFault (c : CoreId) (m : Fin 2) (slot : Fin 16)
  /-- The rebuilt chain directory is in place (R429). -/
  | directoryReady
  /-- A response of a lost die arrives (R428, R429). -/
  | lateResponse (k : Nat)
  deriving DecidableEq, Repr

/-- The state of the package. -/
structure State where
  /-- The place and stream whose instruction exec runs. -/
  curPlace  : Place
  curStream : StreamId
  turns    : List Turn
  /-- A cycle turn is being worked off. -/
  inCycle  : Bool
  /-- How many cycles have ended, on any die: what tells an older request from one of the same cycle (R109; log 69). -/
  now      : Nat
  fresh    : Nat
  mem      : List Host.Cell
  sram     : List Host.Cell
  epochs   : List (Nat × Nat)
  poison   : List Nat
  spadPoison : List Nat
  slots    : Vector Slot 512
  cores    : Vector Core 128
  clusters : Vector Cluster 32
  dies     : Vector Die 4
  ports    : Vector Port 18
  /-- Chunks sent on the fabric ports, in order. -/
  fabric   : List FabricChunk
  /-- Aborts sent, in order (R432). -/
  aborts   : List FabricAbort
  sites    : List Site
  chains   : List Chain
  /-- BARAs that wait at a slice, in order of arrival: the barrier object, the place and the stream (R228). -/
  barriers : List (Nat × Place × StreamId)
  /-- Barrier objects that updates have reached in the cycle in progress and that have not been tested yet (R228). -/
  touched  : List Nat
  /-- Streams saved before the length of the instruction at PC was known: launch, group index, stream, PC (R185; log 17). -/
  openPcs  : List (BitVec 64 × BitVec 16 × StreamId × BitVec 64)
  dawn     : Dawn
  deriving DecidableEq, Repr

/-! ## Reset -/

/-- A loop pair at reset (R170). -/
def LoopPair.reset : LoopPair := { act := false, len := 0, count := 0, start := 0 }

/-- A stream when its group is first bound, but for what the launch record gives (R35). -/
def Stream.reset : Stream :=
  { x := Vector.replicate 64 0, full := BitVec.allOnes 64, c := 0, b := Vector.replicate 8 0, prepd := 0,
    loops := Vector.replicate 2 LoopPair.reset, late := 0, pc := 0, npc := 0, npcOpen := false, ended := true, femode := 0,
    wdlim := 0x100000000, wdcnt := 0, seq := 0, retired := 0, loads := [], stores := [], loadsDone := 0, storesIn := 0, loadsIn := 0,
    took := none, tookSets := ([], []), waiting := none, byLoad := 0, cum := [], acq := [], fenced := [], seen := [], own := [], mark := 0, arrivals := [], faults := [], answer := none, mayStep := false, atSlice := false, pre := [], preNo := 0, prepAt := Vector.replicate 8 0,
    floor := 0, floorNext := none, len := 4, woken := 0, raised := false }

/-- A vector register when its group is first bound (R35). -/
def VReg.reset : VReg := { data := 0, tag := 0, full := true, side := 0 }
/-- A tile register when its group is first bound (R35). -/
def TReg.reset : TReg := { data := 0, tag := 0, full := true, side := 0 }
/-- A bind record at reset (R322). -/
def BindRec.reset : BindRec := { dw0 := 0, lid := 0, obj := 0, save := 0 }
/-- A debug block at reset (R403). -/
def Debug.reset : Debug := { att := false, halted := false, step := 0, stepping := false, hreq := false, reason := 0, record := Vector.replicate 16 0 }

/-- A slot at reset (R322, R324): free. -/
def Slot.reset : Slot :=
  { brec := BindRec.reset, latched := BindRec.reset, state := .free, err := false, left := 0, debt := 0, sle := 0, sleMark := 0,
    gen := 0, dbg := Debug.reset, group := none, pending := false, permit := false, dusk := false, preempting := false, cutNow := false }

/-- An array at reset (R420; log 6). -/
def Health.reset : Health := { ret := false, spu := false, test := false, scg := 0, ldead := 0, ckcnt := 0, under := [] }

/-- A core at reset. -/
def Core.reset : Core :=
  { cycle := 0, energy := 0, steps := 0, frames := [], tlb := [], arrays := Vector.replicate 2 Health.reset,
    standby := BindRec.reset, duskCnt := 0, served := Vector.replicate 6 0 }

/-- A cluster at reset. -/
def Cluster.reset : Cluster := { buf := [], released := [], nextId := 0 }

/-- A retention register at reset (R77). -/
def RetReg.reset : RetReg :=
  { base := 0, last := 0, v := false, ways := 0, asid := 0, hit := 0, miss := 0, ovf := 0, owned := [], lid := 0 }

/-- A die at reset (R70, R76, R80, R332, R334, R428, R437). RWAYS is an L field, loaded with 8 at release (R76). -/
def Die.reset : Die :=
  { rways := 8, regs := Vector.replicate 8 RetReg.reset, l2 := [], badWays := [], poolBase := 0, poolCount := 0, poolTaken := [],
    atabBase := 0, atabEn := false, invBusy := false, invAll := false, invPages := 0, invAsid := 0, invVa := 0, gangId := 0,
    svc := [], watch := [], ctxs := Vector.replicate 64 none, loads := [], outs := [], cellar := Vector.replicate 3 [], trips := 0, slow := false,
    slowRun := 0, lock := false, tripw := 0, stale := 0, incs := Vector.replicate 4 0, cycle := 0 }

/-- A port at reset (R338). -/
def Port.reset : Port := { up := false, util := 0, bwm := 0, txb := 0, rxb := 0, notices := 0, held := 0, avail := 0, window := 0 }

/-- The Dawn die at reset (R363). -/
def Dawn.reset : Dawn :=
  { inc := Vector.replicate 4 0, rel := 0, live := 0, lqaddr := 0, stage := 0, cause := 0, rekeyBusy := false, rekeyDie := 0, rekeyOf := 0,
    crcf := 0, badf := 0, msplit := 0, epoch := Vector.replicate 4 0, powered := false, meas := Vector.replicate 7 0, logNext := 0,
    releasing := [], tried := [], launches := [], waiting := [], tasks := Vector.replicate 8 [], held := [], accepted := 0, cpls := [], ranges := [],
    forwarded := [], colReqs := [], seq := 0, out := [], negotiated := false, large := [], handle := 0, chunks := [], chunkHandle := 0, chunkNext := 0,
    retraining := [], directory := none, rebuilding := false, late := [] }

/-- The package right after power-on reset: only the Dawn die runs, at STAGE 0 (R364); no die is live, no group is bound. -/
def State.reset : State :=
  { curPlace := 0, curStream := .ctl, turns := [], inCycle := false, now := 0, fresh := 0, mem := [], sram := [], epochs := [], poison := [], spadPoison := [],
    slots := Vector.replicate 512 Slot.reset, cores := Vector.replicate 128 Core.reset,
    clusters := Vector.replicate 32 Cluster.reset, dies := Vector.replicate 4 Die.reset, ports := Vector.replicate 18 Port.reset, fabric := [], aborts := [],
    sites := [], chains := [], barriers := [], touched := [], openPcs := [], dawn := Dawn.reset }

end Sys2Proof.Machine
end

