-- ==== Sys2Proof/Machine/Wire.lean ====
section
/-! DEFINITION. Sys2Proof/Machine/Wire.lean: the frames of the Drepel port as they travel: header, payload and trailer with its CRC-32 (R370, R371). -/

namespace Sys2Proof.Machine

open Sys2Proof

/-- Little-endian value of a byte list (R2). -/
def leNat : List Byte → Nat
  | [] => 0
  | b :: bs => b.toNat + 256 * leNat bs

/-- The n little-endian bytes of a number (R2). -/
def leBytes : Nat → Nat → List Byte
  | 0, _ => []
  | n + 1, v => BitVec.ofNat 8 v :: leBytes n (v / 256)

/-- The bytes of dwords (R2). -/
def dwordBytes (ds : List (BitVec 64)) : List Byte := ds.flatMap (fun d => leBytes 8 d.toNat)

/-! ## The CRC-32 of IEEE 802.3: the spec names the polynomial; the start value, the bit order and the final complement are that standard's (log 12). -/

/-- One bit of a CRC. -/
def crcBit (c : BitVec 32) : BitVec 32 := if c.getLsbD 0 then (c >>> 1) ^^^ 0xEDB88320#32 else c >>> 1

/-- One byte of a CRC. -/
def crcByte (c : BitVec 32) (b : Byte) : BitVec 32 := crcBit (crcBit (crcBit (crcBit (crcBit (crcBit (crcBit (crcBit (c ^^^ b.zeroExtend 32))))))))

/-- The CRC-32 of a byte string. -/
def crc32 (bs : List Byte) : BitVec 32 := ~~~(bs.foldl crcByte (BitVec.allOnes 32))

/-! ## Frames (R371) -/

/-- The trailer of a frame: the CRC-32 over header and payload, and zeros (R370). -/
def trailerOf (hdr : BitVec 128) (pay : List (BitVec 64)) : BitVec 64 :=
  0#32 ++ crc32 (dwordBytes ([hdr.extractLsb' 0 64, hdr.extractLsb' 64 64] ++ pay))

/-- A frame that the device sends, with its LEN, an ADDR of 0 and its trailer. -/
def sentFrame (typ : BitVec 4) (tag status : BitVec 8) (pay : List (BitVec 64)) : Sent :=
  let hdr : BitVec 128 := typ ++ BitVec.ofNat 12 pay.length ++ tag ++ status ++ 0#44 ++ 0#52
  { header := hdr, payload := pay, trailer := trailerOf hdr pay }

end Sys2Proof.Machine
end

