-- ==== Sys2Proof/Machine/Mem.lean ====
section
/-! DEFINITION. Sys2Proof/Machine/Mem.lean: memory as canonical lists of cells, the physical address space, scratchpad frames, and little-endian access. -/

namespace Sys2Proof.Machine

open Sys2Proof

/-! ## Cells -/

/-- What an address that no entry lists reads as (log 3). -/
def unlisted : Byte := 0#8

/-- The byte at an address. -/
def readByte (m : List Host.Cell) (a : Nat) : Byte :=
  match m.find? (fun c => c.1 == a) with
  | some c => c.2
  | none => unlisted

/-- The entries that a run of bytes from an address needs: those that differ from what an unlisted address reads as. -/
def cellsOf : Nat → List Byte → List Host.Cell
  | _, [] => []
  | a, b :: bs => if b = unlisted then cellsOf (a + 1) bs else (a, b) :: cellsOf (a + 1) bs

/-- The memory with a run of bytes written. -/
def splice (m : List Host.Cell) (a : Nat) (bs : List Byte) : List Host.Cell :=
  m.filter (fun c => c.1 < a) ++ cellsOf a bs ++ m.filter (fun c => a + bs.length ≤ c.1)

/-- The bytes of a run. -/
def readBytes (m : List Host.Cell) (a n : Nat) : List Byte := (List.range n).map (fun i => readByte m (a + i))

/-- The canonical form: addresses strictly rising, no entry equal to what an unlisted address reads as. -/
abbrev Memory.wf (m : List Host.Cell) : Prop :=
  m.Pairwise (fun c d => c.1 < d.1) ∧ ∀ c ∈ m, c.2 ≠ unlisted

/-! ## The physical address space -/

/-- The parts of the physical address space (R18, R19, R362). -/
inductive Region where
  | hbm (d : DieId)
  | dcr (d : DieId) (off : Nat)
  | attic (d : DieId)
  | dawn (off : Nat)
  | none
  deriving DecidableEq, Repr

/-- A die is live when its LIVE and REL bits are both set (R26). -/
def dieLive (s : State) (d : DieId) : Bool := s.dawn.live.getLsbD d.val && s.dawn.rel.getLsbD d.val

/-- The part of the window of a die that an offset lies in, whether or not the die is live (R19). -/
def windowRegion (d : DieId) (off : Nat) : Region :=
  if off < 0x3000000000 then .hbm d
  else if 0xE00000000000 ≤ off ∧ off < 0xE00040000000 then .dcr d (off - 0xE00000000000)
  else if 0xF00000000000 ≤ off ∧ off < 0xF00020000000 then .attic d
  else .none

/-- The part of the address space an address lies in: a die that is not live has none (R23, R26). -/
def region (s : State) (pa : Nat) : Region :=
  let w := pa / 2 ^ 48
  let off := pa % 2 ^ 48
  if h : w < 4 then
    (if dieLive s ⟨w, h⟩ then windowRegion ⟨w, h⟩ off else .none)
  else if w = 8 then
    (if off < 0x40000 ∨ (0x1000000 ≤ off ∧ off < 0x2000000) ∨ (0x10000000 ≤ off ∧ off < 0x10001000) ∨
        (0x20000000 ≤ off ∧ off < 0x20100000) then .dawn off else .none)
  else .none

/-- Whether a region is an HBM range (R19). -/
def Region.isHbm : Region → Bool
  | .hbm _ => true
  | _ => false

/-- Whether a region is an attic range (R19). -/
def Region.isAttic : Region → Bool
  | .attic _ => true
  | _ => false

/-- The die of an address's window, for addresses below 4 × 2^48 (R18). -/
def dieOf (pa : Nat) : DieId := ⟨pa / 2 ^ 48 % 4, Nat.mod_lt _ (by decide)⟩

/-- The home L2 slice of a line (R75). -/
def sliceOf (pa : Nat) : Fin 16 :=
  ⟨(pa / 2 ^ 7 ^^^ pa / 2 ^ 11 ^^^ pa / 2 ^ 15 ^^^ pa / 2 ^ 19) % 16, Nat.mod_lt _ (by decide)⟩

/-- The set of a line in its slice (R75). -/
def setOf (pa : Nat) : Nat := pa / 2 ^ 7 % 2048

/-- The global stack of an HBM address (R20). -/
def stackOf (pa : Nat) : Nat := (dieOf pa).val * 3 + pa % 2 ^ 48 / 2 ^ 11 % 3

/-- The address of an HBM offset within its stack (R20). -/
def stackAddr (pa : Nat) : Nat := pa % 2 ^ 48 / 2 ^ 11 / 3 * 2 ^ 11 + pa % 2 ^ 11

/-- The core whose attic share an offset of an attic range lies in, on its die (R21). -/
def atticCore (pa : Nat) : Nat := (pa % 2 ^ 48 - 0xF00000000000) / 2 ^ 24

/-- The first address of the B window of an array (R21). -/
def bWindow (core : CoreId) (m : Fin 2) : Nat :=
  core.val / 32 * 2 ^ 48 + 0xF00000000000 + core.val % 32 * 2 ^ 24 + m.val * 2 ^ 20

/-! ## Home points -/

/-- The key epoch in which a line was last written (log 4). -/
def epochOf (s : State) (line : Nat) : Nat :=
  match s.epochs.find? (fun e => e.1 == line) with
  | some e => e.2
  | none => 0

/-- The epochs with one line's set, in canonical form: lines rising, no entry of epoch 0. -/
def setEpoch (es : List (Nat × Nat)) (line ep : Nat) : List (Nat × Nat) :=
  es.filter (fun e => e.1 < line) ++ (if ep = 0 then [] else [(line, ep)]) ++ es.filter (fun e => line < e.1)

/-- The key epoch in force on the die that holds an address. -/
def epochNow (s : State) (pa : Nat) : Nat := s.dawn.epoch.get (dieOf pa)

/-- Whether the L2 of its home die holds a line (R22). -/
def inL2 (s : State) (pa : Nat) : Bool := (s.dies.get (dieOf pa)).l2.any (fun x => x.line == pa / 128)

/-- Whether a line of HBM is read through a key other than the one it was written under: the L2 holds plain text, so only a line that it does not hold
is (R368, R369). -/
def otherKey (s : State) (pa : Nat) : Bool :=
  decide (pa / 2 ^ 48 < 4 ∧ pa % 2 ^ 48 < 0x3000000000) && epochOf s (pa / 128) != epochNow s pa && !inL2 s pa

/-- A byte at its home point (R86): HBM through the encryption of R368 and R369, the boot ROM from its free contents (R362). -/
def homeByte (s : State) (pa : Nat) : Byte :=
  if pa / 2 ^ 48 = 8 ∧ pa % 2 ^ 48 < 0x40000 then Config.romByte (pa % 2 ^ 48)
  else if otherKey s pa then
    Config.cipherByte pa (epochOf s (pa / 128)) (epochNow s pa) (readBytes s.mem (pa / 128 * 128) 128)
  else readByte s.mem pa

/-- A run of bytes at home points. -/
def homeBytes (s : State) (pa n : Nat) : List Byte := (List.range n).map (fun i => homeByte s (pa + i))

/-- A little-endian number at home points. -/
def homeNat (s : State) (pa n : Nat) : Nat := leNat (homeBytes s pa n)

/-- A line written under an older key holds, from now on, what it decrypts to (R369). -/
def refreshLine (s : State) (line : Nat) : State :=
  let pa := line * 128
  if otherKey s pa then
    { s with mem := splice s.mem pa (homeBytes s pa 128), epochs := setEpoch s.epochs line (epochNow s pa) }
  else s

/-- A line that the L2 of its home die holds is newer there than in HBM, and its poison is the line's own (R75, R411). -/
def dirtyLine (s : State) (pa : Nat) : State :=
  if inL2 s pa then
    let die := s.dies.get (dieOf pa)
    { s with dies := s.dies.set (dieOf pa).val { die with l2 := die.l2.map (fun x => if x.line = pa / 128 then { x with dirty := true, bad := false } else x) } }
  else s

/-- Whether the line of an address is poisoned (R411). -/
def poisoned (s : State) (pa : Nat) : Bool := s.poison.contains (pa / 128)

/-- A run of bytes within one line reaches its home point: a write of the whole line clears the poison (R413). -/
def putHome (s : State) (pa : Nat) (bs : List Byte) : State :=
  let s := dirtyLine (refreshLine s (pa / 128)) pa
  { s with
    mem := splice s.mem pa bs
    poison := if pa % 128 = 0 ∧ bs.length = 128 then s.poison.filter (fun l => l ≠ pa / 128) else s.poison }

/-- A line becomes poisoned (R411, R413). -/
def putPoison (s : State) (pa : Nat) : State :=
  if poisoned s pa then s else { s with poison := (pa / 128) :: s.poison }

/-! ## Messages to the host and the error log -/

/-- A message leaves for the host (R373): the MTYPE dword, then the body. -/
def sendMsg (s : State) (mtype : BitVec 8) (seq : BitVec 32) (body : List (BitVec 64)) : State :=
  { s with dawn := { s.dawn with
      out := s.dawn.out ++ [sentFrame 4 0 0 ((mtype ++ 0#24 ++ seq) :: body)] } }

/-- A message of the device's own, with the next sequence number. -/
def sendNew (s : State) (mtype : BitVec 8) (body : List (BitVec 64)) : State × BitVec 32 :=
  let q := s.dawn.seq
  (sendMsg { s with dawn := { s.dawn with seq := q + 1 } } mtype q body, q)

/-- The bits of MSPLIT (R171). -/
def msplitBit (s : State) (i : Nat) : Bool := s.dawn.msplit.getLsbD i

/-- The physical address of an offset of the Dawn window (R362). -/
def dawnAddr (off : Nat) : Nat := 8 * 2 ^ 48 + off

/-- The parts of an error record (R409). -/
structure ErrRec where
  src   : BitVec 4
  kind  : BitVec 4
  die   : BitVec 4
  core  : BitVec 7
  sub   : BitVec 5
  count : BitVec 8
  cause : BitVec 10
  addr  : BitVec 64
  lid   : BitVec 64
  cycle : BitVec 64
  synd  : BitVec 64
  deriving DecidableEq, Repr

/-- The eight dwords of an error record (R409). -/
def ErrRec.dwords (e : ErrRec) : List (BitVec 64) :=
  [e.src ++ e.kind ++ e.die ++ e.core ++ e.sub ++ e.count ++ 0#22 ++ e.cause, e.addr, e.lid, e.cycle, e.synd, 0, 0, 0]

/-- A 64-byte record enters the error log, then NEXT rises; or it is sent (R410). -/
def logDwords (s : State) (ds : List (BitVec 64)) : State :=
  if msplitBit s 3 then (sendNew s 0x08 ds).1
  else
    let n := s.dawn.logNext.toNat
    let s := putHome s (dawnAddr (0x20000000 + 0x40 + 64 * (n % 16383))) (dwordBytes ds)
    let s := putHome s (dawnAddr 0x20000008) (leBytes 8 (s.dawn.logNext + 1).toNat)
    { s with dawn := { s.dawn with logNext := s.dawn.logNext + 1 } }

/-- An error record is kept or sent (R410). -/
def logErr (s : State) (e : ErrRec) : State := logDwords s e.dwords

/-- The COUNT of a site as it stands (R409). -/
def siteCount (s : State) (src : BitVec 4) (d : DieId) (key : Nat) : BitVec 8 :=
  match s.sites.find? (fun x => x.src == src && x.die == d && x.key == key) with
  | some x => x.count
  | none => 0

/-- The source code and SUB field of a line's storage (R409): an L2 when the home die holds the line there, else the HBM or the attic. -/
def lineSource (s : State) (pa : Nat) : BitVec 4 × BitVec 5 :=
  if (dieOf pa |> s.dies.get).l2.any (fun l => l.line == pa / 128) then (2, BitVec.ofNat 5 (sliceOf pa).val)
  else if pa % 2 ^ 48 < 0x3000000000 then (1, BitVec.ofNat 5 (stackOf pa % 3)) else (3, 0)

/-- The slice and way in which an L2 holds the line of an address. -/
def l2Way (s : State) (pa : Nat) : Option (Fin 16 × Fin 16) := ((s.dies.get (dieOf pa)).l2.find? (fun l => l.line == pa / 128)).map (fun l => (sliceOf pa, l.way))

/-- What names the site of a line's storage on its die (R408): a way of a slice, a 64 KiB frame of HBM, an attic bank (log 21). -/
def lineKey (s : State) (pa : Nat) : Nat :=
  match l2Way s pa with
  | some x => x.1.val * 16 + x.2.val
  | none => if pa % 2 ^ 48 < 0x3000000000 then pa / 65536 else atticCore pa

/-- A read of a poisoned line of HBM or of the attic as zero is recorded for a launch (R409, R415). -/
def recordZeroRead (was s : State) (lid : BitVec 64) (pa : Nat) : State :=
  let (src, sub) := lineSource was pa
  let d := dieOf pa
  logErr { s with fresh := s.fresh + 1 }
    { src := src, kind := 1, die := BitVec.ofNat 4 d.val, core := 0, sub := sub, count := siteCount s src d (lineKey was pa), cause := 0x301,
      addr := BitVec.ofNat 64 (pa / 128 * 128), lid := lid, cycle := (s.dies.get d).cycle, synd := Config.freeBits s.fresh 64 }

/-! ## Watchpoints -/

/-- A dword at its home point. -/
def homeDword (s : State) (pa : Nat) : BitVec 64 := BitVec.ofNat 64 (homeNat s pa 8)

/-- The ECC policy of a live launch (R53); 0 when it is not live. -/
def eccOf (s : State) (lid : BitVec 64) : BitVec 2 :=
  match s.dawn.launches.find? (fun l => l.lrec.id == lid) with
  | some l => l.lrec.ecc
  | none => 0

/-- Whether a write matches a watch entry, tested after the write on the dwords it touches (R238, R414). -/
def watchMatch (s : State) (w : Watch) (touched : Nat → Bool) : Bool :=
  (List.range 16).any fun i =>
    let a := w.lo / 128 * 128 + 8 * i
    decide (w.lo ≤ a ∧ a + 7 ≤ w.hi) && touched a &&
      (if poisoned s a then (eccOf s w.owner == 1#2 && (w.value &&& w.mask) == 0#64)
       else (homeDword s a &&& w.mask) == (w.value &&& w.mask))

/-- The class field of a task record (R235). -/
def taskClass (t : Vector (BitVec 64) 4) : Fin 8 := (t[0].extractLsb' 16 3).toFin

/-- Whether the queue of a class can accept a record: it holds fewer than 65,536, and none waits for it (R236). -/
def queueRoom (s : State) (c : Fin 8) : Bool :=
  decide ((s.dawn.tasks.get c).length < 65536) && !s.dawn.held.any (fun t => taskClass t.dws == c)

/-- A task record enters the queue of its class (R59). -/
def acceptTask (s : State) (t : Task) : State :=
  let c := taskClass t.dws
  { s with dawn := { s.dawn with
      tasks := s.dawn.tasks.set c.val (s.dawn.tasks.get c ++ [{ t with no := s.dawn.accepted }]), accepted := s.dawn.accepted + 1 } }

/-- A task record is placed: into a full queue it waits (R236). The spec says so of every placement and says nothing more of a watchpoint's; the model
lets the record of a match wait outside the queue while the write goes on (log 55). -/
def pushTask (s : State) (t : Task) : State :=
  if queueRoom s (taskClass t.dws) then acceptTask s t else { s with dawn := { s.dawn with held := s.dawn.held ++ [t] } }

/-- The first record that waits for a queue enters it when there is room (R236). -/
def admitTask (s : State) (c : Fin 8) : State :=
  match s.dawn.held.find? (fun t => taskClass t.dws == c) with
  | none => s
  | some t =>
    if 65536 ≤ (s.dawn.tasks.get c).length then s else acceptTask { s with dawn := { s.dawn with held := s.dawn.held.erase t } } t

/-- The compare of an entry under ECC policy 1 reads a poisoned line as zero, and a record tells of it (R414, R415). -/
def watchFill (s : State) (w : Watch) (touched : Nat → Bool) : State :=
  let a := w.lo / 128 * 128
  if eccOf s w.owner = 1#2 ∧ poisoned s a = true ∧
      (List.range 16).any (fun i => decide (w.lo ≤ a + 8 * i ∧ a + 8 * i + 7 ≤ w.hi) && touched (a + 8 * i)) = true then recordZeroRead s s w.owner a else s

/-- The entries of a die that a write matches push their records in order; a ONCE entry becomes free (R60, R238). -/
def watchHits (s : State) (d : DieId) (touched : Nat → Bool) : State :=
  let hit := (s.dies.get d).watch.filter (fun w => watchMatch s w touched)
  let s := (s.dies.get d).watch.foldl (fun s w => watchFill s w touched) s
  let s := hit.foldl (fun s w => pushTask s { dws := w.task, asid := w.asid, lid := w.owner, no := 0 }) s
  let die := s.dies.get d
  { s with dies := s.dies.set d.val { die with watch := die.watch.filter (fun w => !(w.once && hit.contains w)) } }

/-- The watchpoints of the home slice test a write in HBM (R86, R104, R238). -/
def watchTest (s : State) (pa : Nat) (touched : Nat → Bool) : State :=
  if pa / 2 ^ 48 < 4 ∧ pa % 2 ^ 48 < 0x3000000000 then
    (if (s.dies.get (dieOf pa)).watch = [] then s else watchHits s (dieOf pa) touched)
  else s

/-- A write of bytes within one line is performed at its home point. -/
def homeWrite (s : State) (pa : Nat) (bs : List Byte) : State :=
  watchTest (putHome s pa bs) pa (fun a => decide (a < pa + bs.length ∧ pa < a + 8))

/-- Bytes of one line, given by their positions in it, are performed at once; a write of the whole line clears its poison (R101, R413). -/
def homeWriteLine (s : State) (line : Nat) (bs : List (Nat × Byte)) : State :=
  let s := bs.foldl (fun s b => putHome s (128 * line + b.1) [b.2]) s
  let s := if (List.range 128).all (fun i => bs.any (fun b => b.1 == i)) then { s with poison := s.poison.filter (fun l => l ≠ line) } else s
  watchTest s (128 * line) (fun a => bs.any (fun b => decide (a ≤ 128 * line + b.1 ∧ 128 * line + b.1 < a + 8)))

/-- Bytes that a slice updates as one write (R104), given by their addresses on one die: the watchpoints test it once (R60). -/
def homeWriteAll (s : State) (bs : List (Nat × Byte)) : State :=
  match bs with
  | [] => s
  | b :: _ =>
    watchTest (bs.foldl (fun s b => putHome s b.1 [b.2]) s) b.1 (fun a => bs.any (fun b => decide (a ≤ b.1 ∧ b.1 < a + 8)))

/-- A run of bytes of any length, performed line by line from the lowest. -/
def homeWriteRun : Nat → State → Nat → List Byte → State
  | 0, s, _, _ => s
  | fuel + 1, s, pa, bs =>
    if bs = [] then s
    else
      let k := 128 - pa % 128
      homeWriteRun fuel (homeWrite s pa (bs.take k)) (pa + k) (bs.drop k)

/-- A dword is written at its home point. -/
def homeWrite8 (s : State) (pa : Nat) (v : BitVec 64) : State := homeWrite s pa (leBytes 8 v.toNat)

/-! ## Records of the state -/

/-- A slot replaced. -/
def State.setSlot (s : State) (p : Place) (x : Slot) : State := { s with slots := s.slots.set p.val x }
/-- A core replaced. -/
def State.setCore (s : State) (c : CoreId) (x : Core) : State := { s with cores := s.cores.set c.val x }
/-- A cluster replaced. -/
def State.setCluster (s : State) (c : ClusterId) (x : Cluster) : State := { s with clusters := s.clusters.set c.val x }
/-- A die replaced. -/
def State.setDie (s : State) (d : DieId) (x : Die) : State := { s with dies := s.dies.set d.val x }
/-- The slot of a place. -/
def State.slot (s : State) (p : Place) : Slot := s.slots.get p
/-- The group bound at a place. -/
def State.group (s : State) (p : Place) : Option Group := (s.slots.get p).group
/-- The group of a place replaced. -/
def State.setGroup (s : State) (p : Place) (g : Group) : State := s.setSlot p { s.slot p with group := some g }
/-- A stream of a group. -/
def Group.stream (g : Group) (st : StreamId) : Stream := g.streams.get st.toFin
/-- A stream of a group replaced. -/
def Group.setStream (g : Group) (st : StreamId) (t : Stream) : Group := { g with streams := g.streams.set st.toFin.val t }
/-- A queue of a group. -/
def Group.queue (g : Group) (q : QueueId) : List QEntry := g.queues.get q.toFin
/-- A queue of a group replaced. -/
def Group.setQueue (g : Group) (q : QueueId) (l : List QEntry) : Group := { g with queues := g.queues.set q.toFin.val l }

/-- The core of a place (R1, R32). -/
def coreOf (p : Place) : CoreId := ⟨p.val / 4, by omega⟩
/-- The die of a core (R1). -/
def dieOfCore (c : CoreId) : DieId := ⟨c.val / 32, by omega⟩
/-- The cluster of a core (R1). -/
def clusterOf (c : CoreId) : ClusterId := ⟨c.val / 4, by omega⟩
/-- The die of a place. -/
def dieOfPlace (p : Place) : DieId := dieOfCore (coreOf p)
/-- The cluster of a place. -/
def clusterOfPlace (p : Place) : ClusterId := clusterOf (coreOf p)
/-- The local slot of a place. -/
def slotOfPlace (p : Place) : Nat := p.val % 4

/-! ## Scratchpad -/

/-- The first address of the scratchpad window (R66). -/
def windowBase : Nat := 0x1FFFFFFFFC00000

/-- Whether an address lies in the scratchpad window (R66). -/
def inWindow (va : BitVec 64) : Bool := decide (windowBase ≤ va.toNat ∧ va.toNat < 2 ^ 57)

/-- The frame that holds a page of the group at a place (R68). -/
def frameOf (s : State) (p : Place) (g : Group) (page : Fin 64) : Option Frame :=
  (s.cores.get (coreOf p)).frames.find? fun f =>
    f.lid == g.lr.id && f.gindex == g.gindex && f.hdl == g.trapped.isSome && f.page == page

/-- The address of a byte of a frame in the scratchpad SRAM. -/
def sramAddr (c : CoreId) (f : Fin 64) (off : Nat) : Nat := c.val * 2 ^ 22 + f.val * 2 ^ 16 + off % 2 ^ 16

/-- The page of a window offset. -/
def pageOf (off : Nat) : Fin 64 := ⟨off / 2 ^ 16 % 64, Nat.mod_lt _ (by decide)⟩

/-- The backing address of a window offset (R67). -/
def backAddr (g : Group) (off : Nat) : Nat := (g.pages.get (pageOf off)).back.toNat * 2 ^ 16 + off % 2 ^ 16

/-- A byte of the group's scratchpad (R66 to R68): from its frame, from its backing frame while it holds none, zero while not allocated. -/
def spadByte (s : State) (p : Place) (g : Group) (off : Nat) : Byte :=
  match frameOf s p g (pageOf off) with
  | some f => if f.filling then homeByte s (backAddr g off) else readByte s.sram (sramAddr (coreOf p) f.idx off)
  | none => if (g.pages.get (pageOf off)).alloc then homeByte s (backAddr g off) else 0#8

/-- Whether a scratchpad byte's line is poisoned (R411). -/
def spadPoisoned (s : State) (p : Place) (g : Group) (off : Nat) : Bool :=
  match frameOf s p g (pageOf off) with
  | some f => if f.filling then poisoned s (backAddr g off) else s.spadPoison.contains (sramAddr (coreOf p) f.idx off / 128)
  | none => (g.pages.get (pageOf off)).alloc && poisoned s (backAddr g off)

/-- A run of bytes within one line of the group's scratchpad is written, at the frame or at the backing frame. -/
def spadWrite (s : State) (p : Place) (g : Group) (off : Nat) (bs : List Byte) : State :=
  match frameOf s p g (pageOf off) with
  | some f =>
    if f.filling then homeWrite s (backAddr g off) bs
    else
      let a := sramAddr (coreOf p) f.idx off
      { s with
        sram := splice s.sram a bs
        spadPoison := if a % 128 = 0 ∧ bs.length = 128 then s.spadPoison.filter (fun l => l ≠ a / 128) else s.spadPoison }
  | none => if (g.pages.get (pageOf off)).alloc then homeWrite s (backAddr g off) bs else s

/-- A scratchpad line becomes poisoned (R416). -/
def spadPoison (s : State) (p : Place) (g : Group) (off : Nat) : State :=
  match frameOf s p g (pageOf off) with
  | some f =>
    if f.filling then putPoison s (backAddr g off)
    else { s with spadPoison := sramAddr (coreOf p) f.idx off / 128 :: s.spadPoison }
  | none => if (g.pages.get (pageOf off)).alloc then putPoison s (backAddr g off) else s

/-! ## Reads of either kind of location -/

/-- A byte at its home point. -/
def locByte (s : State) (p : Place) (g : Group) : Loc → Byte
  | .spad off => spadByte s p g off
  | .mem pa => homeByte s pa

/-- Whether a location's line is poisoned. -/
def locPoisoned (s : State) (p : Place) (g : Group) : Loc → Bool
  | .spad off => spadPoisoned s p g off
  | .mem pa => poisoned s pa

/-- A location some bytes further on. -/
def Loc.plus : Loc → Nat → Loc
  | .spad off, k => .spad (off + k)
  | .mem pa, k => .mem (pa + k)

/-- The bytes at home points. -/
def locBytes (s : State) (p : Place) (g : Group) (l : Loc) (n : Nat) : List Byte :=
  (List.range n).map (fun i => locByte s p g (l.plus i))

/-- A run of bytes within one line is performed. -/
def locWrite (s : State) (p : Place) (g : Group) (l : Loc) (bs : List Byte) : State :=
  match l with
  | .spad off => spadWrite s p g off bs
  | .mem pa => homeWrite s pa bs

end Sys2Proof.Machine
end

