-- ==== Sys2Proof/Machine/Flags.lean ====
section
/-! DEFINITION. Sys2Proof/Machine/Flags.lean: the conditions. The device has no arithmetic flags (R116, R184): a comparison gives one truth value,
coded as R178 lays down. -/

namespace Sys2Proof.Machine

open Sys2Proof

/-- The cond codes on scalar registers and integer elements (R178). -/
def condInt {w : Nat} (k : BitVec 3) (a b : BitVec w) : Bool :=
  match k.toNat with
  | 0 => a == b
  | 1 => a != b
  | 2 => a.slt b
  | 3 => !(a.slt b)
  | 4 => a.ult b
  | 5 => !(a.ult b)
  | 6 => (a &&& b) != 0
  | _ => (a &&& b) == 0

/-- The cond codes on floating elements (R178), from whether the pair is unordered, equal and below; none for the reserved codes. -/
def condFloat (k : BitVec 3) (unordered eq lt : Bool) : Option Bool :=
  match k.toNat with
  | 0 => some (!unordered && eq)
  | 1 => some (unordered || !eq)
  | 2 => some (!unordered && lt)
  | 3 => some (!unordered && !lt)
  | 4 => some (unordered || lt)
  | 5 => some (unordered || !lt)
  | _ => none

end Sys2Proof.Machine
end

