-- ==== Sys2Proof/Machine/Operands.lean ====
section
/-! DEFINITION. Sys2Proof/Machine/Operands.lean: what an instruction of a stream can do with its registers, the causes, and what it answers. -/

namespace Sys2Proof.Machine

open Sys2Proof

/-! ## Causes (R376 to R382) -/

namespace Cause
def encZero : BitVec 10 := 0x001
def encPerm : BitVec 10 := 0x002
def encMajor : BitVec 10 := 0x003
def encFunc : BitVec 10 := 0x004
def encRsvd : BitVec 10 := 0x005
def streamRole : BitVec 10 := 0x006
def feEmpty : BitVec 10 := 0x081
def tagRsvd : BitVec 10 := 0x082
def tagMismatch : BitVec 10 := 0x083
def predBlock : BitVec 10 := 0x084
def opRange : BitVec 10 := 0x085
def rmRsvd : BitVec 10 := 0x086
def levelRange : BitVec 10 := 0x087
def shInval : BitVec 10 := 0x088
def tlAlign : BitVec 10 := 0x089
def tlBox : BitVec 10 := 0x08A
def memAlign : BitVec 10 := 0x101
def paNodie : BitVec 10 := 0x102
def trVarange : BitVec 10 := 0x103
def trInvalid : BitVec 10 := 0x104
def trRsvd : BitVec 10 := 0x105
def trLevel : BitVec 10 := 0x106
def trAlign : BitVec 10 := 0x107
def trPerm : BitVec 10 := 0x108
def spPool : BitVec 10 := 0x109
def feRange : BitVec 10 := 0x10A
def dcrSize : BitVec 10 := 0x10B
def l2Noreg : BitVec 10 := 0x10C
def l2Noways : BitVec 10 := 0x10D
def l2Overlap : BitVec 10 := 0x10E
def l2Handle : BitVec 10 := 0x10F
def tgtUnprep : BitVec 10 := 0x181
def tgtAlign : BitVec 10 := 0x182
def xferSlot : BitVec 10 := 0x183
def loopLen : BitVec 10 := 0x184
def loopBusy : BitVec 10 := 0x185
def loopNest : BitVec 10 := 0x186
def loopTail : BitVec 10 := 0x187
def coDesc : BitVec 10 := 0x188
def coPlace : BitVec 10 := 0x189
def coLink : BitVec 10 := 0x18A
def coGang : BitVec 10 := 0x18B
def coAsid : BitVec 10 := 0x18C
def coRights : BitVec 10 := 0x18D
def coVersion : BitVec 10 := 0x18E
def coResumed : BitVec 10 := 0x18F
def coDiscarded : BitVec 10 := 0x190
def chDesc : BitVec 10 := 0x201
def chLive : BitVec 10 := 0x202
def chPlace : BitVec 10 := 0x203
def chBusy : BitVec 10 := 0x204
def chCount : BitVec 10 := 0x205
def chAlign : BitVec 10 := 0x206
def chOwner : BitVec 10 := 0x207
def chNostep : BitVec 10 := 0x208
def chFused : BitVec 10 := 0x209
def chNotroot : BitVec 10 := 0x20A
def chOverflow : BitVec 10 := 0x20B
def chState : BitVec 10 := 0x20C
def chRemote : BitVec 10 := 0x20D
def chFrozen : BitVec 10 := 0x20E
def mxFmt : BitVec 10 := 0x20F
def cpShape : BitVec 10 := 0x210
def cpDesc : BitVec 10 := 0x211
def cpNosched : BitVec 10 := 0x212
def evRemote : BitVec 10 := 0x281
def evNogrp : BitVec 10 := 0x282
def barPlace : BitVec 10 := 0x283
def barDesc : BitVec 10 := 0x284
def rgDesc : BitVec 10 := 0x285
def rgTicket : BitVec 10 := 0x286
def jobDesc : BitVec 10 := 0x287
def jobLive : BitVec 10 := 0x288
def tqDesc : BitVec 10 := 0x289
def wpDesc : BitVec 10 := 0x28A
def wpNoslot : BitVec 10 := 0x28B
def wpHandle : BitVec 10 := 0x28C
def launchBad : BitVec 10 := 0x28D
def launchLive : BitVec 10 := 0x28E
def saTarget : BitVec 10 := 0x28F
def saDesc : BitVec 10 := 0x290
def colDesc : BitVec 10 := 0x291
def colBusy : BitVec 10 := 0x292
def colCtx : BitVec 10 := 0x293
def colSig : BitVec 10 := 0x294
def colResv : BitVec 10 := 0x295
def colPort : BitVec 10 := 0x296
def mcEcc : BitVec 10 := 0x301
def mcCksum : BitVec 10 := 0x302
def mcLink : BitVec 10 := 0x303
def mcDie : BitVec 10 := 0x304
def mcAdder : BitVec 10 := 0x305
def mcSag : BitVec 10 := 0x306
def mcMeas : BitVec 10 := 0x307
def mcFw : BitVec 10 := 0x308
def trapInsn : BitVec 10 := 0x381
def priv : BitVec 10 := 0x382
def brkNodbg : BitVec 10 := 0x383
def watchdog : BitVec 10 := 0x384
def sysNum : BitVec 10 := 0x385
def step : BitVec 10 := 0x386
def dbgHalt : BitVec 10 := 0x387
def hdlFail : BitVec 10 := 0x388
def brkHit : BitVec 10 := 0x389
end Cause

/-- A cause with what a trap record holds of it (R388): INFO0, the walk level and the access kind. -/
structure Trap where
  cause : BitVec 10
  info0 : BitVec 64
  lvl   : BitVec 3
  kind  : BitVec 2
  deriving DecidableEq, Repr

/-- A cause without an address (R388). -/
def Trap.plain (c : BitVec 10) : Trap := { cause := c, info0 := 0, lvl := 0, kind := 0 }

/-- A cause met at an address, with its access kind: 0 read, 1 write, 2 fetch. INFO0 is the address for a cause of class 1 or 2, and LVL the walk
level for a cause of translation (R388). -/
def Trap.walked (c : BitVec 10) (va : BitVec 64) (lvl : BitVec 3) (kind : BitVec 2) : Trap :=
  let cls : BitVec 3 := c.extractLsb' 7 3
  { cause := c, info0 := if cls = 1#3 ∨ cls = 2#3 then va else 0, lvl := if Cause.trVarange ≤ c ∧ c ≤ Cause.trPerm then lvl else 0, kind := kind }

/-- A cause about an address that no walk met. -/
def Trap.at (c : BitVec 10) (va : BitVec 64) (kind : BitVec 2) : Trap := Trap.walked c va 0 kind

/-- What an instruction of a stream answers, over what it may change. -/
inductive Act (α : Type) where
  /-- It takes its effect and retires; the PC pair advances (R185). -/
  | done (a : α)
  /-- It takes its effect and retires, and sets the PC itself; NPC is given, or follows the instruction there (R185, R201, R205). -/
  | jump (a : α) (pc : BitVec 64) (npc : Option (BitVec 64))
  /-- It cannot issue yet: an operand is empty, or a queue has no room. -/
  | hold
  /-- It has issued and waits; its PC is kept. -/
  | wait (a : α)
  /-- It raises a cause, without effect (R383). -/
  | trap (t : Trap)
  /-- It raises a cause, and what came before in its entry stays (R11). -/
  | trapIn (a : α) (t : Trap)

/-- An answer carried into a larger state. -/
def Act.map {α β : Type} (f : α → β) : Act α → Act β
  | .done a => .done (f a)
  | .jump a pc npc => .jump (f a) pc npc
  | .hold => .hold
  | .wait a => .wait (f a)
  | .trap t => .trap t
  | .trapIn a t => .trapIn (f a) t

/-! ## Registers of a stream -/

/-- x(i); x0 reads 0 (R35, R163). -/
def Stream.getX (t : Stream) (i : BitVec 6) : BitVec 64 := if i = 0#6 then 0 else t.x.get i.toFin

/-- Whether the full bit of x(i) is set; x0 is always full (R64). -/
def Stream.hasFull (t : Stream) (i : BitVec 6) : Bool := i == 0#6 || t.full.getLsbD i.toNat

/-- Whether an instruction can use x(i): it is full, and did not become so in this very cycle (R65, R167, R440). -/
def Stream.isFull (t : Stream) (i : BitVec 6) : Bool := i == 0#6 || (t.full.getLsbD i.toNat && !t.woken.getLsbD i.toNat)

/-- x(i) := v, full; a write of x0 is discarded (R163). -/
def Stream.setX (t : Stream) (i : BitVec 6) (v : BitVec 64) : Stream :=
  if i = 0#6 then t
  else { t with x := t.x.set i.toNat v i.isLt, full := t.full ||| (1#64 <<< i.toNat), byLoad := t.byLoad &&& ~~~(1#64 <<< i.toNat) }

/-- The data of a load or of an engine command reaches x(i): what waits for it issues in the next cycle (R167, R440). -/
def Stream.fill (t : Stream) (i : BitVec 6) (v : BitVec 64) : Stream := { t.setX i v with woken := t.woken ||| (1#64 <<< i.toNat) }

/-- x(i) becomes empty (R65); x0 stays full (R64). -/
def Stream.markEmpty (t : Stream) (i : BitVec 6) : Stream :=
  if i = 0#6 then t else { t with full := t.full &&& ~~~(1#64 <<< i.toNat) }

/-- A value on its way to x(d), which is empty until it arrives (R65). -/
def Stream.arrive (t : Stream) (d : BitVec 6) (v : BitVec 64) : Stream :=
  { t.markEmpty d with arrivals := t.arrivals ++ [(d, v, none)] }

/-- The local count at which the instruction at PC issued: that of its first try, if it waits (R440). -/
def Stream.issuedAt (t : Stream) (now : BitVec 64) : BitVec 64 := match t.waiting with | some (_, _, c) => c | none => now

/-- The same for LDS and WAITA, whose value arrives no sooner than eight cycles after they issue (R440). -/
def Stream.arriveLater (t : Stream) (d : BitVec 6) (v : BitVec 64) (now : BitVec 64) : Stream :=
  { t.markEmpty d with arrivals := t.arrivals ++ [(d, v, some (t.issuedAt now))] }

/-- The instruction at PC waits, and its destination is empty meanwhile (R65). -/
def Stream.waitIn (t : Stream) (w : WaitFor) (d : BitVec 6) (now : BitVec 64) : Stream :=
  { t.markEmpty d with waiting := some (w, d, t.issuedAt now) }

/-- The destination of a waiting instruction as it was before it issued (R65). -/
def Stream.refill (t : Stream) : Stream :=
  match t.waiting with
  | none => t
  | some (_, d, _) => { t with full := t.full ||| (1#64 <<< d.toNat) }

/-- What a waiting instruction found: it waits no more, its destination as it was (R313). -/
def Stream.unwait (t : Stream) : Stream := { t.refill with waiting := none }

/-- Whether eight cycles have passed since a producer issued: its destination becomes full no sooner (R440). -/
def dueFrom (now issued : BitVec 64) : Bool := decide (8 ≤ (now - issued).toNat)

/-- c(i). -/
def Stream.getC (t : Stream) (i : BitVec 3) : Bool := t.c.getLsbD i.toNat

/-- c(i) := v. -/
def Stream.setC (t : Stream) (i : BitVec 3) (v : Bool) : Stream :=
  { t with c := (t.c &&& ~~~(1#8 <<< i.toNat)) ||| (if v then 1#8 <<< i.toNat else 0) }

/-- Whether b(i) is prepared. -/
def Stream.isPrep (t : Stream) (i : BitVec 3) : Bool := t.prepd.getLsbD i.toNat

/-- b(i).addr := a, prepared (R197). -/
def Stream.setB (t : Stream) (i : BitVec 3) (a : BitVec 57) : Stream :=
  { t with b := t.b.set i.toNat a i.isLt, prepd := t.prepd ||| (1#8 <<< i.toNat),
           prepAt := t.prepAt.set i.toNat t.preNo i.isLt, preNo := t.preNo + 1 }

/-- An instruction that reads the registers of the list issues when all are full; an empty one waits or raises FE_EMPTY as FEMODE
directs (R65). -/
def Stream.reads {α : Type} (t : Stream) (rs : List (BitVec 6)) (k : Act α) : Act α :=
  if rs.all t.isFull then k else if t.femode = 1#1 ∧ rs.all t.hasFull = false then .trap (.plain Cause.feEmpty) else .hold

/-- An instruction that writes x(d) waits while it is empty because of an earlier producer (R65). -/
def Stream.writes {α : Type} (t : Stream) (d : BitVec 6) (k : Act α) : Act α := if t.isFull d then k else .hold

/-- An operation on two scalar registers into a third (R186). -/
def Stream.op2 (t : Stream) (d a b : BitVec 6) (f : BitVec 64 → BitVec 64 → BitVec 64) : Act Stream :=
  t.reads [a, b] (t.writes d (.done (t.setX d (f (t.getX a) (t.getX b)))))

/-- An operation on one scalar register into another (R186, R188). -/
def Stream.op1 (t : Stream) (d a : BitVec 6) (f : BitVec 64 → BitVec 64) : Act Stream :=
  t.reads [a] (t.writes d (.done (t.setX d (f (t.getX a)))))

/-! ## Immediates -/

/-- imm9, sign-extended (R164). -/
def imm9 (i : BitVec 9) : BitVec 64 := i.signExtend 64

/-- The effective address of a load or store of n bytes (R164, R215). -/
def effAddr (x : BitVec 64) (i : BitVec 9) (n : Nat) : BitVec 64 := x + imm9 i * BitVec.ofNat 64 n

/-! ## Predicates -/

/-- p(i); p0 is all true (R35). -/
def Group.pred (g : Group) (i : BitVec 3) : BitVec 1024 := if i = 0#3 then BitVec.allOnes 1024 else g.p.get i.toFin

/-- p(i) := v; a write of p0 is discarded (R163). -/
def Group.setPred (g : Group) (i : BitVec 3) (v : BitVec 1024) : Group :=
  if i = 0#3 then g else { g with p := g.p.set i.toNat v i.isLt }

/-- The bits that VANY, VALL and PCNT look at (R194). -/
def predBits (w : BitVec 1) : List Nat := if w = 1#1 then (List.range 512).map (2 * ·) else List.range 1024

/-! ## Tags (R111, R114) -/

/-- Whether a tag is reserved (R111). -/
def tagRsvd (t : BitVec 4) : Bool := decide (13 ≤ t.toNat)
/-- Whether a tag names a block format. -/
def tagBlock (t : BitVec 4) : Bool := t == 8#4 || t == 9#4 || t == 10#4

/-- The scale bytes a tag uses in a register with n of them (R114). -/
def sideUsed (t : BitVec 4) (n : Nat) : Nat := if t = 8#4 then n else if t = 9#4 ∨ t = 10#4 then n / 2 else 0

/-- A sideband with the bytes a tag does not use zero (R114). -/
def sideOf {w : Nat} (t : BitVec 4) (x : BitVec w) : BitVec w := BitVec.ofNat w (x.toNat % 2 ^ (8 * sideUsed t (w / 8)))

/-! ## Extraction helpers (R173) -/

/-- The low n bits of x, read as two's complement, mod 2^64 (R173). -/
def sext64 (x : BitVec 64) (n : Nat) : BitVec 64 :=
  if n = 0 then 0 else if n ≥ 64 then x
  else if x.getLsbD (n - 1) then (x &&& (BitVec.ofNat 64 (2 ^ n - 1))) - BitVec.ofNat 64 (2 ^ n) else x &&& BitVec.ofNat 64 (2 ^ n - 1)

/-- The low n bits of x (R173). -/
def zext64 (x : BitVec 64) (n : Nat) : BitVec 64 := if n ≥ 64 then x else x &&& BitVec.ofNat 64 (2 ^ n - 1)

/-- The unsigned number in bits [hi:lo]. -/
def fieldOf {w : Nat} (x : BitVec w) (hi lo : Nat) : Nat := (x.extractLsb' lo (hi + 1 - lo)).toNat

end Sys2Proof.Machine
end

