-- ==== Sys2Proof/Machine/L2.lean ====
section
/-! DEFINITION. Sys2Proof/Machine/L2.lean: which lines the L2 slices hold (R75, R76, R78, R222). What a read returns does not depend on it
(R22); the counters of the retention registers and the record of an error do. -/

namespace Sys2Proof.Machine

open Sys2Proof

/-- A request's address space and virtual page, by which it is tagged (R78). -/
abbrev ReqTag := Option (BitVec 16 × Nat)

/-- The retention register of a die that tags a request (R78). -/
def tagReg (die : Die) (tag : ReqTag) : Option (Fin 8) :=
  match tag with
  | none => none
  | some (asid, va) =>
    (List.finRange 8).find? fun i =>
      let r := die.regs.get i
      r.v && r.asid == asid && decide (r.base.toNat ≤ va / 65536 ∧ va / 65536 ≤ r.last.toNat)

/-- Two lines of one set of one slice (R75). -/
def sameSet (a b : Nat) : Bool := sliceOf (128 * a) == sliceOf (128 * b) && setOf (128 * a) == setOf (128 * b)

/-- The ways of a slice that a normal line may take: those that no valid register owns and that are not disabled (R76, R408). -/
def normalWays (die : Die) (slice : Fin 16) : List (Fin 16) :=
  (List.finRange 16).filter fun w => !die.badWays.contains (slice, w) && !die.regs.toList.any (fun r => r.v && r.owned.contains w)

/-- A line becomes resident in a way, in place of what stands there; the evict-first hint makes it its set's least recently used line. -/
def placeLine (die : Die) (l : L2Line) (evictFirst : Bool) : Die :=
  let rest := die.l2.filter (fun x => !(sameSet x.line l.line && x.way == l.way))
  { die with l2 := if evictFirst then rest ++ [l] else l :: rest }

/-- A normal fill (R75): a way that holds no line, or that of the least recently used line among the ways open to it. -/
def normalFill (die : Die) (line : Nat) (dirty evictFirst : Bool) : Die :=
  let ways := normalWays die (sliceOf (128 * line))
  let here := die.l2.filter (fun x => sameSet x.line line && ways.contains x.way)
  match ways.find? (fun w => !here.any (fun x => x.way == w)) with
  | some w => placeLine die { line := line, way := w, dirty := dirty, reg := none, vpage := 0, bad := false } evictFirst
  | none =>
    match here.getLast? with
    | some x => placeLine die { line := line, way := x.way, dirty := dirty, reg := none, vpage := 0, bad := false } evictFirst
    | none => die

/-- A counter of a retention register rises. -/
def bumpReg (die : Die) (i : Fin 8) (hit miss ovf : Nat) : Die :=
  let r := die.regs.get i
  let r' := { r with hit := r.hit + BitVec.ofNat 64 hit, miss := r.miss + BitVec.ofNat 64 miss, ovf := r.ovf + BitVec.ofNat 64 ovf }
  { die with regs := die.regs.set i.val r' }

/-- A request at the slice of a line (R75, R78). -/
def l2Request (die : Die) (line : Nat) (tag : ReqTag) (evictFirst write : Bool) : Die :=
  let reg := tagReg die tag
  match die.l2.find? (fun x => x.line == line) with
  | some x =>
    let x' := { x with dirty := x.dirty || write, bad := x.bad && !write }
    let die := match reg with | some i => bumpReg die i 1 0 0 | none => die
    let rest := die.l2.filter (fun y => y.line ≠ line)
    if evictFirst && reg.isNone then { die with l2 := die.l2.map (fun y => if y.line = line then x' else y) } else { die with l2 := x' :: rest }
  | none =>
    match reg with
    | none => normalFill die line write evictFirst
    | some i =>
      let slice := sliceOf (128 * line)
      let own := (die.regs.get i).owned.filter (fun w => !die.badWays.contains (slice, w))
      match own.find? (fun w => !die.l2.any (fun x => sameSet x.line line && x.way == w && x.reg == some i)) with
      | some w => placeLine (bumpReg die i 0 1 0) { line := line, way := w, dirty := write, reg := some i, vpage := (match tag with | some t => t.2 / 65536 | none => 0), bad := false } false
      | none => normalFill (bumpReg die i 0 1 1) line write false

/-- Whether no line of a die was written under a key of its own: then nothing tells the keys apart. -/
def epochs0 (s : State) (d : DieId) : Bool := s.dawn.epoch.get d == 0 && s.epochs.isEmpty

/-- Dirty lines of a die that its L2 has given up are in HBM under the key in force (R75, R368, R369). -/
def writtenBack (s : State) (d : DieId) (old : List L2Line) : State :=
  if epochs0 s d then s
  else
    let gone := old.filter (fun x => x.dirty && dieOf (128 * x.line) == d && !(s.dies.get d).l2.any (fun y => y.line == x.line && y.dirty))
    { s with epochs := gone.foldl (fun es x => setEpoch es x.line (s.dawn.epoch.get d)) s.epochs }

/-- Lines whose poison was found in the L2 while they were clean, and which it has given up, are whole again: HBM holds them so (R411, R413). -/
def shedPoison (s : State) (d : DieId) (old : List L2Line) : State :=
  let gone := old.filter (fun x => x.bad && !(s.dies.get d).l2.any (fun y => y.line == x.line))
  if gone.isEmpty then s else { s with poison := s.poison.filter (fun l => !gone.any (fun x => x.line == l)) }

/-- The L2 of a die is replaced; what it gives up goes to HBM. -/
def setL2 (s : State) (d : DieId) (die : Die) : State :=
  let old := (s.dies.get d).l2
  shedPoison (writtenBack (s.setDie d die) d old) d old

/-- A request for a line of HBM reaches the L2 of its live home die; other addresses are not cached (R22). A line brought in holds what it decrypts
to (R368). -/
def l2Touch (s : State) (pa : Nat) (tag : ReqTag) (evictFirst write : Bool) : State :=
  match region s pa with
  | .hbm d =>
    let s := refreshLine s (pa / 128)
    setL2 s d (l2Request (s.dies.get d) (pa / 128) tag evictFirst write)
  | _ => s

/-- Requests for the lines of a run of bytes. -/
def l2Run (s : State) (pa n : Nat) (tag : ReqTag) (evictFirst write : Bool) : State :=
  (List.range ((pa % 128 + n + 127) / 128)).foldl (fun s i =>
    l2Touch s (if i = 0 then pa else pa / 128 * 128 + 128 * i) (tag.map (fun t => (t.1, if i = 0 then t.2 else t.2 - pa % 128 + 128 * i))) evictFirst write) s

/-- A line is written back, and with `drop` is invalidated (R222). -/
def l2Clean (s : State) (pa : Nat) (drop : Bool) : State :=
  match region s pa with
  | .hbm d =>
    let die := s.dies.get d
    setL2 s d { die with l2 := if drop then die.l2.filter (fun x => x.line ≠ pa / 128)
                               else die.l2.map (fun x => if x.line = pa / 128 then { x with dirty := false } else x) }
  | _ => s

/-- A die's retained lines of an address space's pages are written back and become normal lines (R79, R334). -/
def unpinLines (s : State) (d : DieId) (asid : BitVec 16) (pages : Nat → Bool) : State :=
  let die := s.dies.get d
  let own (i : Option (Fin 8)) : Bool := match i with | some i => (die.regs.get i).asid == asid | none => false
  setL2 s d { die with l2 := die.l2.map (fun x => if own x.reg ∧ pages x.vpage then { x with dirty := false, reg := none } else x) }

/-! ## Frames of the scratchpad (R67, R68, R70) -/

/-- A frame's contents go back to its page's backing frame (R68), line by line through the L2 with the evict-first hint, poison with them (R413). -/
def writeBackFrame (s : State) (c : CoreId) (f : Frame) : State :=
  match f.back with
  | none => s
  | some b =>
    if f.filling || !(region s (b.toNat * 2 ^ 16)).isHbm then s
    else
      (List.range 512).foldl (fun s i =>
        let a := sramAddr c f.idx (128 * i)
        let pa := b.toNat * 2 ^ 16 + 128 * i
        let s := l2Touch s pa none true true
        let s' := homeWrite s pa (readBytes s.sram a 128)
        if s.spadPoison.contains (a / 128) then putPoison s' pa else s') s

/-- A page's frame receives the page's contents from its backing frame (R68). -/
def fillFrame (s : State) (c : CoreId) (f : Frame) : State :=
  let a := sramAddr c f.idx 0
  match f.back with
  | none => { s with sram := splice s.sram a (List.replicate 65536 0#8) }
  | some b =>
    let src := b.toNat * 2 ^ 16
    let s := l2Run s src 65536 none false false
    let dead := (List.range 512).filter (fun i => poisoned s (src + 128 * i))
    { s with
      sram := splice s.sram a (homeBytes s src 65536)
      spadPoison := dead.map (fun i => a / 128 + i) ++ s.spadPoison.filter (fun l => ¬ (a / 128 ≤ l ∧ l < a / 128 + 512)) }

/-- The frame indices of a core that no page holds. -/
def freeFrames (c : Core) : List (Fin 64) :=
  ((List.finRange 64).filter (fun i => !(c.frames.any (fun f => f.idx == i))))

/-- The frame that a new page takes (R68): a free one; the least recently used frame of an unpinned page of any group; when the group
pins 16 or more, its own least recently used pinned frame. -/
def victimFrame (c : Core) (lid : BitVec 64) (gi : BitVec 16) (hdl : Bool) : Option (Fin 64 × Option Frame) :=
  match freeFrames c with
  | i :: _ => some (i, none)
  | [] =>
    match c.frames.reverse.find? (fun f => !f.pinned && !f.filling) with
    | some f => some (f.idx, some f)
    | none =>
      let own := c.frames.filter (fun f => f.pinned && f.lid == lid && f.gindex == gi && f.hdl == hdl)
      if 16 ≤ own.length then
        (match own.reverse.find? (fun f => !f.filling) with
         | some f => some (f.idx, some f)
         | none => none)
      else none

/-- A page takes a frame, its contents still to be filled; none when no frame can be taken (R68). -/
def takeFrame (s : State) (p : Place) (g : Group) (page : Fin 64) : Option State :=
  let c := coreOf p
  let core := s.cores.get c
  match victimFrame core g.lr.id g.gindex g.trapped.isSome with
  | none => none
  | some (i, old) =>
    let s := match old with | some f => writeBackFrame s c f | none => s
    let e := g.pages.get page
    let f : Frame := { idx := i, lid := g.lr.id, gindex := g.gindex, hdl := g.trapped.isSome, page := page, pinned := true,
                       filling := true, back := if e.alloc then some e.back else none }
    some (s.setCore c { core with frames := f :: core.frames.filter (fun x => x.idx ≠ i) })

/-- A page's frame becomes the most recently used. -/
def touchFrame (s : State) (p : Place) (f : Frame) : State :=
  let c := coreOf p
  let core := s.cores.get c
  s.setCore c { core with frames := f :: core.frames.filter (fun x => x.idx ≠ f.idx) }

/-- Whether a page of the group can be accessed now (R68): it holds a filled frame, or it is read while not allocated (R67). -/
inductive FrameRes where
  | ready (s : State)
  | wait (s : State)

/-- A page is touched by a stream: it waits for a frame and for its fill (R68). -/
def ensureFrame (s : State) (p : Place) (g : Group) (page : Fin 64) : FrameRes :=
  match frameOf s p g page with
  | some f => if f.filling then .wait s else .ready (touchFrame s p f)
  | none =>
    if (g.pages.get page).alloc then
      (match takeFrame s p g page with
       | some s' => .wait s'
       | none => .wait s)
    else .ready s

/-- The lowest-numbered free frame of a pool (R67, R70). -/
def poolFree (d : Die) : Option Nat := (List.range d.poolCount.toNat).find? (fun i => !d.poolTaken.contains i)

/-- The number of free frames of a pool (R70). -/
def poolFreeCount (d : Die) : Nat := d.poolCount.toNat - d.poolTaken.length

/-- A frame leaves the pool of a die and is filled with zeros: its number PA / 2^16 (R67). -/
def takePool (s : State) (d : DieId) : Option (BitVec 36 × State) :=
  match poolFree (s.dies.get d) with
  | none => none
  | some i =>
    let die := s.dies.get d
    let fr := die.poolBase.toNat + i
    let s := s.setDie d { die with poolTaken := i :: die.poolTaken }
    some (BitVec.ofNat 36 fr, homeWriteRun 513 (l2Run s (fr * 2 ^ 16) 65536 none false true) (fr * 2 ^ 16) (List.replicate 65536 0#8))

/-- A frame returns to the pool it lies in. -/
def returnPool (s : State) (fr : BitVec 36) : State :=
  let d := dieOf (fr.toNat * 2 ^ 16)
  let die := s.dies.get d
  s.setDie d { die with poolTaken := die.poolTaken.filter (fun i => die.poolBase.toNat + i ≠ fr.toNat) }

/-- A page of the group at a place is allocated (R67); none when the pool has no free frame (SP_POOL). -/
def allocPage (s : State) (p : Place) (g : Group) (page : Fin 64) : Option (State × Group) :=
  if (g.pages.get page).alloc then some (s, g)
  else
    match takePool s (dieOfPlace p) with
    | none => none
    | some (fr, s) =>
      let g := { g with pages := g.pages.set page.val { back := fr, alloc := true } }
      some (s.setGroup p g, g)

/-- Several pages are allocated in order; none, with no effect, when the pool cannot supply them all (R67). -/
def allocPages : State → Place → Group → List (Fin 64) → Option (State × Group)
  | s, _, g, [] => some (s, g)
  | s, p, g, pg :: rest =>
    match allocPage s p g pg with
    | none => none
    | some (s, g) => allocPages s p g rest

/-- An engine touches a page: its frame is taken and filled; none while no frame can be taken for it, and the engine waits (R68). -/
def touchNow (s : State) (p : Place) (g : Group) (page : Fin 64) : Option State :=
  match ensureFrame s p g page with
  | .ready s => some s
  | .wait s =>
    match frameOf s p g page with
    | none => none
    | some f => some (touchFrame (fillFrame s (coreOf p) f) p { f with filling := false })

end Sys2Proof.Machine
end

