-- ==== Sys2Proof/Machine/Regs.lean ====
section
/-! DEFINITION. Sys2Proof/Machine/Regs.lean: bind records (R322), and the die control registers as they read (R7, R8, R23, R216). -/

namespace Sys2Proof.Machine

open Sys2Proof

/-! ## Bind records (R322) -/

/-- V of a bind record. -/
def BindRec.valid (r : BindRec) : Bool := r.dw0.getLsbD 63
/-- KIND of a bind record. -/
def BindRec.kind (r : BindRec) : BitVec 3 := r.dw0.extractLsb' 60 3
/-- PRE of a bind record. -/
def BindRec.pre (r : BindRec) : Bool := r.dw0.getLsbD 59
/-- HOLD of a bind record. -/
def BindRec.hold (r : BindRec) : Bool := r.dw0.getLsbD 58
/-- HALT of a bind record. -/
def BindRec.halt (r : BindRec) : Bool := r.dw0.getLsbD 57
/-- CLASS of a bind record. -/
def BindRec.cls (r : BindRec) : BitVec 3 := r.dw0.extractLsb' 54 3
/-- SLICE of a bind record: values below 4,096 act as 4,096. -/
def BindRec.slice (r : BindRec) : Nat := Nat.max 4096 (fieldOf r.dw0 51 20)
/-- GINDEX of a bind record. -/
def BindRec.gindex (r : BindRec) : BitVec 16 := r.dw0.extractLsb' 0 16
/-- The address in OBJ. -/
def BindRec.objPa (r : BindRec) : Nat := fieldOf r.obj 51 0
/-- The address of the save frame; 0 when the group is not pre-emptible. -/
def BindRec.savePa (r : BindRec) : Nat := fieldOf r.save 51 12 * 4096
/-- The first dword of a bind record. -/
def bindDw0 (kind : BitVec 3) (pre hold halt : Bool) (cls : BitVec 3) (slice : BitVec 32) (gi : BitVec 16) : BitVec 64 :=
  1#1 ++ kind ++ BitVec.ofBool pre ++ BitVec.ofBool hold ++ BitVec.ofBool halt ++ cls ++ 0#2 ++ slice ++ 0#4 ++ gi
/-- A bind record with another class. -/
def BindRec.setClass (r : BindRec) (c : BitVec 3) : BindRec :=
  { r with dw0 := (r.dw0 &&& ~~~(7#64 <<< 54)) ||| (c.zeroExtend 64 <<< 54) }

/-! ## Die control registers as they read -/

/-- FREE of a pool (R70). -/
def Die.poolFreeField (d : Die) : BitVec 64 := BitVec.ofNat 64 (poolFreeCount d)

/-- A dword of a bind record. -/
def BindRec.dword (r : BindRec) : Nat → BitVec 64
  | 0 => r.dw0
  | 1 => r.lid
  | 2 => r.obj
  | _ => r.save

/-- A bind record with a dword other than the first replaced; reserved fields stay zero. -/
def BindRec.setDword (r : BindRec) (k : Nat) (v : BitVec 64) : BindRec :=
  match k with
  | 1 => { r with lid := v }
  | 2 => { r with obj := v &&& 0xFFFFFFFFFFFFF#64 }
  | 3 => { r with save := v &&& 0xFFFFFFFFFF000#64 }
  | _ => r

/-- The code of a slot's state (R324). -/
def SlotState.code : SlotState → BitVec 3
  | .free => 0 | .binding => 1 | .running => 2 | .fencing => 3 | .saving => 4 | .halted => 5 | .held => 6

/-- A dword of a slot's status record (R324). -/
def Slot.status (sl : Slot) : Nat → BitVec 64
  | 0 => sl.state.code ++ BitVec.ofBool sl.err ++ (match sl.group with | some g => g.cls | none => if sl.state = SlotState.binding then sl.latched.cls else 0) ++
      0#41 ++ (match sl.group with | some g => g.gindex | none => if sl.state = SlotState.binding then sl.latched.gindex else 0)
  | 1 => match sl.group with | some g => g.lr.id | none => if sl.state = SlotState.binding then sl.latched.lid else 0
  | 2 => sl.debt ++ sl.left
  | _ => sl.sle

/-- A dword of a debug block (R403). -/
def Debug.dword (d : Debug) (off : Nat) : BitVec 64 :=
  if off = 0 then BitVec.ofBool d.att ++ BitVec.ofBool d.halted ++ 0#9 ++ d.step ++ 0#38 ++ d.reason
  else if 0x80 ≤ off then d.record.toList.getD ((off - 0x80) / 8) 0 else 0

/-- The health dword of an array (R420). -/
def Health.dword (h : Health) : BitVec 64 :=
  BitVec.ofBool h.ret ++ BitVec.ofBool h.spu ++ BitVec.ofBool h.test ++ 0#11 ++ h.scg ++ h.ldead ++ 0#24 ++ h.ckcnt

/-- A dword of a retention register (R77). -/
def RetReg.dword (r : RetReg) : Nat → BitVec 64
  | 0 => 0#7 ++ r.base ++ 0#16
  | 1 => 0#7 ++ r.last ++ 0#16
  | 2 => BitVec.ofBool r.v ++ 0#43 ++ r.ways ++ r.asid
  | 3 => r.hit
  | 4 => r.miss
  | 5 => r.ovf
  | _ => 0

/-- A dword of a port's counters (R338). -/
def Port.dword (q : Port) : Nat → BitVec 64
  | 0 => BitVec.ofBool q.up ++ 0#20 ++ q.util ++ 0#21 ++ q.bwm
  | 1 => q.txb
  | 2 => q.rxb
  | 3 => q.notices
  | 4 => q.held
  | 5 => q.avail.zeroExtend 64
  | _ => 0

/-- The die that carries a port (R15). -/
def portDie (q : Nat) : DieId := if h : q < 16 then ⟨q / 4, by omega⟩ else if q = 16 then 0 else 3

/-- The place of a slot of a core of a die. -/
def placeAt (d : DieId) (c : Fin 32) (k : Fin 4) : Place := ⟨d.val * 128 + c.val * 4 + k.val, by omega⟩
/-- A core of a die. -/
def coreAt (d : DieId) (c : Fin 32) : CoreId := ⟨d.val * 32 + c.val, by omega⟩
/-- A number below 32. -/
def fin32 (n : Nat) : Fin 32 := ⟨n % 32, by omega⟩
/-- A number below 4. -/
def fin4 (n : Nat) : Fin 4 := ⟨n % 4, by omega⟩

/-- The dword at an offset of a die's control registers, a multiple of 8; an offset that no register occupies reads as zero (R23). -/
def dcrRead (s : State) (d : DieId) (off : Nat) : BitVec 64 :=
  let die := s.dies.get d
  if off = 0 then die.rways.zeroExtend 64
  else if off = 0x1000 then 0#12 ++ die.poolBase ++ 0#16
  else if off = 0x1008 then die.poolCount.zeroExtend 64
  else if off = 0x1010 then die.poolFreeField
  else if off = 0x2000 then 0#12 ++ die.atabBase ++ 0#19 ++ BitVec.ofBool die.atabEn
  else if 0x10000 ≤ off ∧ off < 0x10200 then (die.regs.get ⟨(off - 0x10000) / 0x40 % 8, by omega⟩).dword (off % 0x40 / 8)
  else if 0x20000 ≤ off ∧ off < 0x22000 then
    let c := fin32 ((off - 0x20000) / 0x100)
    let k := off % 0x100
    if k < 0x80 then (s.slot (placeAt d c (fin4 (k / 0x20)))).brec.dword (k % 0x20 / 8)
    else if k < 0xA0 then (s.cores.get (coreAt d c)).standby.dword (k % 0x20 / 8) else 0
  else if 0x22000 ≤ off ∧ off < 0x23000 then
    (s.slot (placeAt d (fin32 ((off - 0x22000) / 0x80)) (fin4 (off % 0x80 / 0x20)))).status (off % 0x20 / 8)
  else if off = 0x23000 then BitVec.ofBool die.invBusy ++ BitVec.ofBool die.invAll ++ 0#14 ++ die.invPages ++ die.invAsid
  else if off = 0x23008 then 0#7 ++ die.invVa ++ 0#16
  else if off = 0x23040 then die.gangId
  else if 0x24000 ≤ off ∧ off < 0x2C000 then
    (s.slot (placeAt d (fin32 ((off - 0x24000) / 0x400)) (fin4 (off % 0x400 / 0x100)))).dbg.dword (off % 0x100)
  else if 0x30000 ≤ off ∧ off < 0x30480 then
    let q := (off - 0x30000) / 0x40
    if portDie q = d then (s.ports.get ⟨q % 18, by omega⟩).dword (off % 0x40 / 8) else 0
  else if 0x40000 ≤ off ∧ off < 0x40200 then
    ((s.cores.get (coreAt d (fin32 ((off - 0x40000) / 0x10)))).arrays.get ⟨off / 8 % 2, by omega⟩).dword
  else if off = 0x41000 then BitVec.ofBool die.lock ++ 0#55 ++ die.tripw
  else if off = 0x41008 then die.stale.zeroExtend 64
  else if off = 0x41010 then die.trips.zeroExtend 64
  else if 0x42000 ≤ off ∧ off < 0x42100 then (s.cores.get (coreAt d (fin32 ((off - 0x42000) / 8)))).energy
  else 0

end Sys2Proof.Machine
end

