-- ==== Sys2Proof/Machine/Ops.lean ====
section
/-! DEFINITION. Sys2Proof/Machine/Ops.lean: the operations the instructions share: translation (R83), the page-fault service (R396 to R398),
tokens and events (R44 to R50), raising a cause (R386 to R389), the issue of an instruction and its retirement (R45, R185, R206), and the
acceptance of an engine command (R40). -/

namespace Sys2Proof.Machine

open Sys2Proof

/-- An event is counted at a site (R408): the state, the site's COUNT after it, and whether the site became lasting by it. -/
def countSite (s : State) (src : BitVec 4) (d : DieId) (key window limit : Nat) : State × BitVec 8 × Bool :=
  let t := (s.dies.get d).cycle
  let old : Site := match s.sites.find? (fun x => x.src == src && x.die == d && x.key == key) with
    | some x => x
    | none => { src := src, die := d, key := key, count := 0, wstart := 0 }
  let x := if old.count = 0 ∨ window ≤ (t - old.wstart).toNat then { old with wstart := t, count := 0 } else old
  let n := if x.count = 255#8 then x.count else x.count + 1
  let x := { x with count := n }
  let rest := s.sites.filter (fun y => !(y.src == src && y.die == d && y.key == key))
  ({ s with sites := x :: rest }, n, decide (n.toNat = limit))

/-! ## Translation (R80 to R84) -/

/-- What a walk without side effects finds: a leaf, where it lies and the size it maps as a power of two; or the cause and the level at
which it stopped (7: no table entry was read, R388). -/
inductive WalkRes where
  | leaf (e : BitVec 64) (pte logSize : Nat)
  | bad (cause : BitVec 10) (lvl : BitVec 3)
  deriving DecidableEq, Repr

/-- The index of a level and the size of its leaf as a power of two (R81). -/
def vaIndex (va : Nat) : Nat → Nat
  | 4 => va / 2 ^ 44 % 8192
  | 3 => va / 2 ^ 32 % 4096
  | 2 => va / 2 ^ 28 % 16
  | 1 => va / 2 ^ 21 % 128
  | _ => va / 2 ^ 16 % 32

/-- The size a leaf of a level maps, as a power of two (R81). -/
def leafLog : Nat → Nat
  | 3 => 32
  | 2 => 28
  | 1 => 21
  | _ => 16

/-- A dword as the walker reads it: memory at its home point, and a control register as it reads (R23, R83); none where no live die has the address. -/
def walkDword (s : State) (pa : Nat) : Option (BitVec 64) :=
  match region s pa with
  | .hbm _ | .attic _ => some (homeDword s pa)
  | .dcr d off => some (dcrRead s d off)
  | _ => none

/-- The walk from a table, over the remaining levels (R83). -/
def walkFrom (s : State) (va : Nat) : List Nat → Nat → WalkRes
  | [], _ => .bad Cause.trLevel 0
  | n :: rest, base =>
    let pa := base + 8 * vaIndex va n
    let l : BitVec 3 := BitVec.ofNat 3 n
    match walkDword s pa with
    | none => .bad Cause.paNodie l
    | some e =>
      if poisoned s pa then .bad Cause.mcEcc l
      else if e.getLsbD 0 = false then .bad Cause.trInvalid l
      else if e.extractLsb' 52 12 ≠ 0#12 ∨ e.extractLsb' 8 3 ≠ 0#3 then .bad Cause.trRsvd l
      else if e.getLsbD 4 then
        (if n = 4 then .bad Cause.trLevel l
         else if fieldOf e 51 12 * 4096 % 2 ^ leafLog n ≠ 0 then .bad Cause.trAlign l
         else .leaf e pa (leafLog n))
      else if n = 0 then .bad Cause.trLevel l
      else walkFrom s va rest (fieldOf e 51 12 * 4096)

/-- The walk of R83 on a die, without the permission check and the A and D updates. -/
def walk (s : State) (d : DieId) (asid : BitVec 16) (va : BitVec 64) : WalkRes :=
  let die := s.dies.get d
  if va.extractLsb' 57 7 ≠ 0#7 then .bad Cause.trVarange 7
  else if die.atabEn = false then .bad Cause.trInvalid 7
  else
    let ent := die.atabBase.toNat * 2 ^ 20 + 16 * asid.toNat
    match walkDword s ent with
    | none => .bad Cause.paNodie 7
    | some e =>
      if poisoned s ent then .bad Cause.mcEcc 7
      else if e.getLsbD 0 = false then .bad Cause.trInvalid 7
      else walkFrom s va.toNat [4, 3, 2, 1, 0] (fieldOf e 51 12 * 4096)

/-- The addresses of the entries that a walk reads from a table on. -/
def walkPath (s : State) (va : Nat) : List Nat → Nat → List Nat
  | [], _ => []
  | n :: rest, base =>
    let pa := base + 8 * vaIndex va n
    match walkDword s pa with
    | none => []
    | some e => if e.getLsbD 0 && !e.getLsbD 4 && !poisoned s pa then pa :: walkPath s va rest (fieldOf e 51 12 * 4096) else [pa]

/-- The addresses that a walk reads, in order: the entry of the address space, then the entries of the tables (R80, R83). -/
def walkReqs (s : State) (d : DieId) (asid : BitVec 16) (va : BitVec 64) : List Nat :=
  let die := s.dies.get d
  if va.extractLsb' 57 7 ≠ 0#7 ∨ die.atabEn = false then []
  else
    let ent := die.atabBase.toNat * 2 ^ 20 + 16 * asid.toNat
    match walkDword s ent with
    | none => []
    | some e => ent :: if e.getLsbD 0 && !poisoned s ent then walkPath s va.toNat [4, 3, 2, 1, 0] (fieldOf e 51 12 * 4096) else []

/-- The requests of a walk at the L2 slices (R75). -/
def walkTouch (s : State) (d : DieId) (asid : BitVec 16) (va : BitVec 64) : State :=
  (walkReqs s d asid va).foldl (fun s pa => l2Touch s pa none false false) s

/-- The permission check of R83: 0 read, 1 write, 2 fetch; sys: the management core, or a handler started by trap delivery. -/
def permits (e : BitVec 64) (kind : BitVec 2) (sys : Bool) : Bool :=
  (match kind.toNat with | 0 => e.getLsbD 1 | 1 => e.getLsbD 2 | _ => e.getLsbD 3) && (!e.getLsbD 7 || sys)

/-- The cached translation of an address on a core (R84). -/
def tlbFind (s : State) (c : CoreId) (asid : BitVec 16) (va : Nat) : Option TlbEntry :=
  (s.cores.get c).tlb.find? fun t => t.asid == asid && t.va / 2 ^ t.logSize == va / 2 ^ t.logSize

/-- The leaf an access uses: the core's cached one, or the one a walk finds. -/
def findLeaf (s : State) (c : CoreId) (asid : BitVec 16) (va : BitVec 64) : WalkRes :=
  if va.extractLsb' 57 7 ≠ 0#7 then .bad Cause.trVarange 7
  else
    match tlbFind s c asid va.toNat with
    | some t => .leaf t.leaf t.pte t.logSize
    | none => walk s (dieOfCore c) asid va

/-- The address a leaf gives (R83). -/
def leafAddr (e : BitVec 64) (logSize : Nat) (va : BitVec 64) : Nat := fieldOf e 51 12 * 4096 + va.toNat % 2 ^ logSize

/-- What a translation answers: the address, a cause, or that a request of its waits. -/
inductive Xlat where
  | ok (s : State) (pa : Nat) (ht : Bool)
  | bad (s : State) (cause : BitVec 10) (lvl : BitVec 3)
  | wait (s : State)

/-- Whether the link between two dies is being retrained: requests across it wait (R430). -/
def linkHeld (s : State) (a b : DieId) : Bool := s.dawn.retraining.any (fun x => (x.1 == a && x.2 == b) || (x.1 == b && x.2 == a))

/-- Whether a request from a die to an address waits for a link (R430). -/
def farHeld (s : State) (d : DieId) (pa : Nat) : Bool := !s.dawn.retraining.isEmpty && (region s pa != .none) && linkHeld s d (dieOf pa)

/-- The level of a leaf by its size. -/
def levelOfLog : Nat → BitVec 3
  | 32 => 3
  | 28 => 2
  | 21 => 1
  | _ => 0

/-- The A and D updates of R84: one read-modify-write of the leaf at its home slice. -/
def setAD (s : State) (pte : Nat) (e e' : BitVec 64) : State :=
  if e' = e then s else homeWrite8 (l2Touch s pte none false true) pte (homeDword s pte ||| (e' ^^^ e))

/-- translate(va, kind) of R83 for a core, with the A and D updates of R84 (setD: a write of R84) and the core's cache; an update of a leaf that lies on a
die no longer live reaches no live die (R23). A walk, an update or the access itself waits where it crosses a link that is being retrained (R430). -/
def translate (s : State) (c : CoreId) (asid : BitVec 16) (va : BitVec 64) (kind : BitVec 2) (setD sys : Bool) : Xlat :=
  let d := dieOfCore c
  let cached := (tlbFind s c asid va.toNat).isSome
  if !cached && (walkReqs s d asid va).any (farHeld s d) then .wait s
  else
  let s := if cached then s else walkTouch s d asid va
  match findLeaf s c asid va with
  | .bad cause lvl => .bad s cause lvl
  | .leaf e pte lg =>
    let e' := e ||| 0x20#64 ||| (if setD then 0x40#64 else 0#64)
    if permits e kind sys = false then .bad s Cause.trPerm (levelOfLog lg)
    else if e' ≠ e ∧ region s pte = .none then .bad s Cause.paNodie (levelOfLog lg)
    else if (e' != e && farHeld s d pte) || farHeld s d (leafAddr e lg va) then .wait s
    else
      let s' := setAD s pte e e'
      let core := s'.cores.get c
      let ent : TlbEntry := { asid := asid, va := va.toNat / 2 ^ lg * 2 ^ lg, logSize := lg, leaf := e', pte := pte }
      let tlb := if core.tlb.contains ent then core.tlb
        else ent :: core.tlb.filter (fun t => !(t.asid == asid && t.va == ent.va && t.logSize == lg))
      .ok (s'.setCore c { core with tlb := tlb }) (leafAddr e lg va) (e.getLsbD 11)

/-! ## The page-fault service (R396 to R398) -/

/-- Whether a fault is offered to the page-fault service (R396). -/
def offered (cause : BitVec 10) (lvl : BitVec 3) : Bool :=
  (cause == Cause.trInvalid && lvl != 7#3) || cause == Cause.trPerm

/-- The declaration that serves a fault in hardware mode (R336), with frames left. -/
def servingRange (s : State) (f : PageFault) : Option PfRange :=
  if f.cause = Cause.trInvalid ∧ f.lvl = 0#3 then
    s.dawn.ranges.find? fun r => r.asid == f.asid && decide (r.first ≤ f.page) && decide (f.page ≤ r.last) && decide (r.given < r.nframe)
  else none

/-- Two faults that one request answers (R397). -/
def sameFault (a b : PageFault) : Bool := a.asid == b.asid && a.page == b.page && a.kind == b.kind

/-- A fault opens or joins a service request of a die; with all 64 in use it waits without one (R397). With PFSVC = 1 a new request is
sent to the host (R373). One that has been answered with retry is joined no more (R407). -/
def openRequest (s : State) (d : DieId) (f : PageFault) : State :=
  let die := s.dies.get d
  if die.svc.any (fun r => !r.retry && sameFault r.fault f) then s
  else if 64 ≤ die.svc.length then s
  else if msplitBit s 1 then
    let (s, q) := sendNew s 0x04 [f.asid.zeroExtend 64, BitVec.ofNat 64 (f.page * 65536), f.kind.zeroExtend 64]
    s.setDie d { die with svc := die.svc ++ [{ fault := f, sent := true, seq := q }] }
  else s.setDie d { die with svc := die.svc ++ [{ fault := f, sent := false, seq := 0 }] }

/-- Whether an access that meets a fault waits for an answer: always under PFSVC = 1, else when a declaration serves it (R335, R336). -/
def faultWaits (s : State) (f : PageFault) : Bool :=
  offered f.cause f.lvl && (msplitBit s 1 || (servingRange s f).isSome)

/-- A fault as the service sees it. -/
def mkFault (asid : BitVec 16) (va : BitVec 64) (kind : BitVec 2) (cause : BitVec 10) (lvl : BitVec 3) : PageFault :=
  { asid := asid, page := va.toNat / 65536, kind := kind, lvl := lvl, cause := cause, ans := none }

/-- The cause with which an open request for a page and access kind has been answered, and the level of the fault (R398). -/
def PageFault.gives (f : PageFault) (asid : BitVec 16) (va : BitVec 64) (kind : BitVec 2) : Option (BitVec 10 × BitVec 3) :=
  match f.ans with
  | some c => if f.asid = asid ∧ f.page = va.toNat / 65536 ∧ f.kind = kind ∧ c ≠ 0 then some (c, f.lvl) else none
  | none => none

/-- The translation of an address for an access of a stream: a fault that has been answered with a cause is met again, whatever the page table holds by now
(R398). -/
def translateAs (s : State) (p : Place) (g : Group) (st : StreamId) (va : BitVec 64) (kind : BitVec 2) (setD : Bool) : Xlat :=
  match (g.stream st).answer.bind (fun f => f.gives g.lr.asid va kind) with
  | some (c, lvl) => .bad s c lvl
  | none => translate s (coreOf p) g.lr.asid va kind setD g.trapped.isSome

/-! ## Tokens (R43 to R46) -/

/-- The index of the queue S → next(S) (R310). -/
def tokNext (st : StreamId) : Fin 10 := ⟨2 * st.toFin.val, by omega⟩
/-- The index of the queue S → prev(S) (R310). -/
def tokPrev (st : StreamId) : Fin 10 := ⟨2 * st.toFin.val + 1, by omega⟩

/-- The count of a token queue changed. -/
def Group.setTok (g : Group) (i : Fin 10) (n : Nat) : Group := { g with tokens := g.tokens.set i.val n }

/-- Whether the takes of ring bits can be made: both queues non-empty where both are asked (R44). -/
def canTake (g : Group) (st : StreamId) (r : BitVec 4) : Bool :=
  (!r.getLsbD 3 || decide (0 < g.tokens.get (tokNext st.prev))) && (!r.getLsbD 2 || decide (0 < g.tokens.get (tokPrev st.next)))

/-- The set that the oldest of n entries carries: the latest entries carry the sets of a list, the entries before them none. -/
def headSet (n : Nat) (l : List (List Nat)) : List Nat := if l.length = n then l.headD [] else []
/-- The list without the oldest of n entries. -/
def dropSet (n : Nat) (l : List (List Nat)) : List (List Nat) := if l.length = n then l.drop 1 else l

/-- The oldest token leaves a queue. -/
def Group.popTok (g : Group) (i : Fin 10) : Group :=
  { g.setTok i (g.tokens.get i - 1) with tokSets := g.tokSets.set i.val (dropSet (g.tokens.get i) (g.tokSets.get i)) }
/-- A token with its set returns to the front of a queue. -/
def Group.unpopTok (g : Group) (i : Fin 10) (x : List Nat) : Group :=
  { g.setTok i (g.tokens.get i + 1) with
    tokSets := g.tokSets.set i.val (if (g.tokSets.get i).length = g.tokens.get i then x :: g.tokSets.get i else g.tokSets.get i) }
/-- A token with its set enters a queue. -/
def Group.pushTok (g : Group) (i : Fin 10) (x : List Nat) : Group :=
  { g.setTok i (g.tokens.get i + 1) with tokSets := g.tokSets.set i.val (g.tokSets.get i ++ [x]) }

/-- The sets of the tokens that ring bits take: from prev(S), from next(S) (R97). -/
def takenSets (g : Group) (st : StreamId) (r : BitVec 4) : List Nat × List Nat :=
  let at_ (i : Fin 10) : List Nat := headSet (g.tokens.get i) (g.tokSets.get i)
  (if r.getLsbD 3 then at_ (tokNext st.prev) else [], if r.getLsbD 2 then at_ (tokPrev st.next) else [])

/-- The token queues of a group after the takes of ring bits. -/
def popToks (g : Group) (st : StreamId) (r : BitVec 4) : Group :=
  let g := if r.getLsbD 3 then g.popTok (tokNext st.prev) else g
  if r.getLsbD 2 then g.popTok (tokPrev st.next) else g

/-- The takes of ring bits. -/
def takeTok (g : Group) (st : StreamId) (r : BitVec 4) : Group :=
  { g with tokens := (popToks g st r).tokens, tokSets := (popToks g st r).tokSets }

/-- Taken tokens return to their queues (R45). -/
def returnTok (g : Group) (st : StreamId) (r : BitVec 4) (sets : List Nat × List Nat) : Group :=
  let g := if r.getLsbD 3 then g.unpopTok (tokNext st.prev) sets.1 else g
  if r.getLsbD 2 then g.unpopTok (tokPrev st.next) sets.2 else g

/-- Whether the places of ring bits have room: 15 tokens fill a queue (R44). -/
def canPlace (g : Group) (st : StreamId) (r : BitVec 4) : Bool :=
  (!r.getLsbD 1 || decide (g.tokens.get (tokPrev st) < 15)) && (!r.getLsbD 0 || decide (g.tokens.get (tokNext st) < 15))

/-- The places of ring bits: the tokens carry the cumulative set of the release they are (R96, R97). -/
def placeTok (g : Group) (st : StreamId) (r : BitVec 4) (x : List Nat) : Group :=
  let g := if r.getLsbD 1 then g.pushTok (tokPrev st) x else g
  if r.getLsbD 0 then g.pushTok (tokNext st) x else g

/-! ## Events (R49) -/

/-- A post to event e: the count rises, or at 65,535 the SAT bit is set (R49); the post carries the cumulative set of the release it is (R52). -/
def postEvent (g : Group) (e : BitVec 5) (x : List Nat) : Group :=
  let n := g.ev.get e.toFin
  if n = 0xFFFF#16 then { g with evstat := g.evstat ||| (1#32 <<< e.toNat) }
  else { g with ev := g.ev.set e.toNat (n + 1) e.isLt, evSets := g.evSets.set e.toNat (g.evSets.get e.toFin ++ [x]) e.isLt }

/-- The event post of a completion carrying EV; 0 posts nothing (R46). -/
def postEv (g : Group) (ev : BitVec 4) (x : List Nat) : Group := if ev = 0#4 then g else postEvent g (ev.zeroExtend 5) x

/-! ## Stopping a group -/

/-- A stream's waiting instruction is cancelled without effect and its PC kept; taken tokens return (R313 step 2, R386). A BARA that
waits at its slice is not (R228). -/
def cancelStream (g : Group) (st : StreamId) : Group :=
  let t := g.stream st
  if t.atSlice then g
  else
    let g := match t.took with | some r => returnTok g st r t.tookSets | none => g
    g.setStream st { (g.stream st).unwait with took := none, tookSets := ([], []), faults := [], answer := none }

/-- The tokens an unstarted command took return to their queues (R45, R387). -/
def returnEntry (g : Group) (e : QEntry) : Group := if e.took && !e.started then returnTok g e.stream e.instr.ring e.tookSets else g

/-- An unstarted command as a stop leaves it. -/
def QEntry.untake (e : QEntry) : QEntry := if e.started then e else { e with took := false, tookSets := ([], []), faults := [] }

/-- The unstarted commands of a queue give their tokens back. -/
def cancelQueue (g : Group) (q : QueueId) : Group :=
  let g' := (g.queue q).foldl returnEntry g
  g'.setQueue q ((g.queue q).map QEntry.untake)

/-- Every waiting instruction of a group is cancelled, and no EVWAIT waits. -/
def cancelStreams (g : Group) : Group :=
  { StreamId.all.foldl cancelStream g with evwait := g.evwait.filter (fun w => (g.stream w.1).atSlice) }

/-- Every waiting instruction and every unstarted command of a group gives up what it took. -/
def cancelAll (g : Group) : Group := QueueId.all.foldl cancelQueue (cancelStreams g)

/-- IDENT of a stream (R169). -/
def ident (p : Place) (st : StreamId) (gi : BitVec 16) : BitVec 64 :=
  0#29 ++ (BitVec.ofNat 3 st.toFin.val) ++ (BitVec.ofNat 2 (p.val % 4)) ++ (BitVec.ofNat 7 (p.val / 4)) ++ 0#7 ++ gi

/-- The order of causes raised in one cycle (R389): streams before queue heads, streams in ring order, queues in QUEUE order. -/
def causeRank (isq : Bool) (queue : BitVec 3) (st : StreamId) : Nat := if isq then 8 + queue.toNat else st.toFin.val

/-- The rank of the unit that raised the primary cause. -/
def Cut.rank (c : Cut) : Nat := causeRank c.isq c.queue c.stream

/-- A further cause of a rank before the cut completes: MORE rises, the first sets CAUSE2; in the cycle of the cut the first is the one of least rank
(R389). -/
def Cut.more1 (c : Cut) (cause : BitVec 10) (rank : Nat) (now : Bool) : Cut :=
  let c := { c with more := if c.more = 255#8 then c.more else c.more + 1 }
  if c.cause2 = 0#10 ∨ (now = true ∧ rank < c.rank2) then { c with cause2 := cause, rank2 := rank } else c

/-- A cause that takes the place of the primary in the cycle of the cut: what was primary comes next (R389). -/
def Cut.overtake (c new : Cut) : Cut :=
  { new with more := if c.more = 255#8 then c.more else c.more + 1, cause2 := c.cause, rank2 := c.rank }

/-- Where a cause is raised (R383): at a stream, with the instruction's address; at a queue head; or asynchronously. -/
structure RaisedAt where
  stream : StreamId
  queue  : Option QueueId
  async  : Bool
  fpc    : BitVec 64
  deriving DecidableEq, Repr

/-- The slot's group stops for a trap: the one operation every cause goes through. The generation number rises, no queue starts a command,
waiting instructions are cancelled, and the record of R388 begins; a later cause raises MORE and CAUSE2, and one of the same cycle that R389 puts
first takes the primary's place (R386, R389). A cause met while a debugger holds the group halted is counted in the record of the halt (R406). A
handler group whose TRET has retired is over: no cause is taken in it. -/
def raise (s : State) (p : Place) (w : RaisedAt) (t : Trap) : State :=
  let sl := s.slot p
  match sl.group with
  | none => s
  | some g =>
    if sl.state = .halted then
      let d0 := sl.dbg.record.get 0
      let more := d0.extractLsb' 48 8
      let d0' := (d0.extractLsb' 56 8 ++ (if more = 255#8 then more else more + 1) ++ d0.extractLsb' 42 6 ++
        (if d0.extractLsb' 32 10 = 0#10 then t.cause else d0.extractLsb' 32 10) ++ d0.extractLsb' 0 32 : BitVec 64)
      s.setSlot p { sl with dbg := { sl.dbg with record := sl.dbg.record.set 0 d0' } }
    else
    let cut : Cut :=
      { hdl := g.trapped.isSome, async := w.async, isq := w.queue.isSome,
        queue := match w.queue with | some q => BitVec.ofNat 3 q.toFin.val | none => 7,
        more := 0, cause2 := 0, stream := w.stream, cause := t.cause, info0 := t.info0, lvl := t.lvl, kind := t.kind,
        fpc := w.fpc, cycle := (s.cores.get (coreOf p)).cycle, who := ident p w.stream g.gindex }
    let stopped (g : Group) : Group := match w.queue with
      | some _ => g
      | none => g.setStream w.stream { g.stream w.stream with raised := true }
    match g.stopping with
    | .trap c =>
      let g := match w.queue with | some _ => g | none => stopped (cancelStream g w.stream)
      s.setGroup p { g with stopping := .trap (if sl.cutNow && decide (cut.rank < c.rank) then c.overtake cut else c.more1 t.cause cut.rank sl.cutNow) }
    | .tret => s
    | _ =>
      let g := stopped (if sl.dbg.att then cancelStreams g else cancelAll g)
      let pre : Bool := match g.stopping with | .preempt => true | _ => false
      s.setSlot p { sl with
        group := some { g with stopping := .trap cut }, gen := sl.gen + 1, state := .fencing, preempting := pre, cutNow := s.inCycle }

/-- A group with a debugger attached, or one that HREQ names, halts at a boundary: the reason and the record are written (R403, R404). -/
def haltGroup (s : State) (p : Place) (reason : BitVec 10) (record : Vector (BitVec 64) 16) : State :=
  let sl := s.slot p
  match sl.group with
  | none => s
  | some g =>
    let g := cancelStreams g
    let g := StreamId.all.foldl (fun g st => g.setStream st { g.stream st with mayStep := false }) g
    s.setSlot p { sl with
      group := some { g with stopping := .no, halt := .none }, state := .halted
      dbg := { sl.dbg with halted := true, stepping := false, reason := reason, record := record } }

/-- The 128 bytes of a trap record (R388), from the cut and the counts of the group. -/
def trapRecord (g : Group) (c : Cut) : Vector (BitVec 64) 16 :=
  let sq (st : StreamId) := (g.stream st).seq
  let qd (q : QueueId) := g.qdone.get q.toFin
  let qa (q : QueueId) := g.qacc.get q.toFin
  #v[(1#1 ++ BitVec.ofBool c.hdl ++ BitVec.ofBool c.async ++ BitVec.ofBool c.isq ++ c.queue ++ 0#1 ++ c.more ++ 0#6 ++ c.cause2 ++
       0#13 ++ BitVec.ofNat 3 c.stream.toFin.val ++ 0#6 ++ c.cause : BitVec 64),
     c.info0, 0#57 ++ c.lvl ++ 0#2 ++ c.kind, c.fpc,
     sq .ldr ++ sq .ctl, sq .vec ++ sq .mxe, 0#32 ++ sq .str,
     qd .vector ++ qd .matrix, qd .storer ++ qd .loader, qd .collective ++ qd .scatter,
     qa .vector ++ qa .matrix, qa .storer ++ qa .loader, qa .collective ++ qa .scatter,
     c.cycle, c.who, 0]

/-! ## Reading memory as a stream does (R87, R88) -/

/-- The byte of a store part at a location. -/
def StorePart.byteAt (sp : StorePart) (l : Loc) : Option Byte :=
  let scale := match sp.scale with | some x => if x.loc = l then some x.byte else none | none => none
  match sp.op, sp.loc, l with
  | .write bs, .mem a, .mem b => if a ≤ b ∧ b < a + bs.length then bs[b - a]? else scale
  | .write bs, .spad a, .spad b => if a ≤ b ∧ b < a + bs.length then bs[b - a]? else scale
  | _, _, _ => scale

/-- The byte that the latest of the stream's queued stores gives a location, among those accepted before number n (R87). -/
def queuedByte (stores : List StoreReq) (n : Nat) (l : Loc) : Option Byte :=
  (stores.filter (fun r => decide (r.id < n))).reverse.findSome? fun r => r.parts.reverse.findSome? (fun sp => sp.byteAt l)

/-- The entry of a line in a cluster store buffer (R88). -/
def bufEntry (s : State) (cl : ClusterId) (pa : Nat) : Option BufEntry :=
  (s.clusters.get cl).buf.find? (fun e => e.line == pa / 128)

/-- The byte a cluster store buffer holds for an address (R88). -/
def bufByte (s : State) (cl : ClusterId) (pa : Nat) : Option Byte :=
  match bufEntry s cl pa with
  | some e => (e.bytes.find? (fun b => b.1 == pa % 128)).map (·.2)
  | none => none

/-- The byte a load of a stream reads: its own queued stores, the cluster's buffer, the home point (R86 to R88). -/
def streamByte (s : State) (p : Place) (g : Group) (t : Stream) (n : Nat) (l : Loc) : Byte :=
  match queuedByte t.stores n l with
  | some b => b
  | none =>
    match l with
    | .spad off => spadByte s p g off
    | .mem pa => match bufByte s (clusterOfPlace p) pa with
      | some b => b
      | none => homeByte s pa

/-- The bytes a load of a stream reads. -/
def streamBytes (s : State) (p : Place) (g : Group) (t : Stream) (n : Nat) (l : Loc) (k : Nat) : List Byte :=
  (List.range k).map (fun i => streamByte s p g t n (l.plus i))

/-! ## Bank locks (R71) -/

/-- The banks of a run of a window. -/
def banksOf (off n : Nat) : List Nat := if 4096 ≤ n then List.range 32 else (List.range ((off % 128 + n + 127) / 128)).map (fun i => (off / 128 + i) % 32)

/-- The locked regions of the core of a place, but for those of one command. -/
def lockedRegions (s : State) (p : Place) (but : Option (QueueId × Nat)) : List (Nat × Nat) :=
  (List.finRange 4).flatMap fun k =>
    let q : Place := ⟨p.val / 4 * 4 + k.val, by omega⟩
    match (s.slot q).group with
    | none => []
    | some g => QueueId.all.flatMap fun qi => (g.queue qi).flatMap fun e =>
        if e.started && !e.done && !(q == p && but == some (qi, e.id)) then (match e.work with | some w => w.locks | none => []) else []

/-- Whether a run of a window lies in a locked bank. -/
def bankLocked (s : State) (p : Place) (but : Option (QueueId × Nat)) (off n : Nat) : Bool :=
  let locked := (lockedRegions s p but).flatMap (fun r => banksOf r.1 r.2)
  (banksOf off n).any (fun b => locked.contains b)

/-- Whether a byte of the window would be served from a backing frame at an address that does not exist (R23, R67). -/
def windowDead (s : State) (p : Place) (g : Group) (off : Nat) : Bool :=
  (frameOf s p g (pageOf off)).isNone && (g.pages.get (pageOf off)).alloc && !(region s (backAddr g off)).isHbm

/-! ## Instruction words (R160, R203) -/

/-- Where the word at an address can be read, looked at without any effect: in the scratchpad only while its page holds a frame and its bank is not locked
(R68, R71). -/
def wordLoc (s : State) (p : Place) (g : Group) (va : BitVec 64) : Option Loc :=
  if inWindow va then
    let off := va.toNat - windowBase
    let there : Bool := match frameOf s p g (pageOf off) with | some f => !f.filling | none => false
    if !there || bankLocked s p none off 4 || spadPoisoned s p g off then none else some (.spad off)
  else
    match findLeaf s (coreOf p) g.lr.asid va with
    | .bad _ _ => none
    | .leaf e _ lg =>
      let pa := leafAddr e lg va
      if permits e 2 g.trapped.isSome && ((region s pa).isHbm || (region s pa).isAttic) && !poisoned s pa then some (.mem pa) else none

/-- The words fetched ahead that the stream may execute at an address it reaches next: none older than the preparation of the target register it came
through (R199, R203). -/
def preWords (t : Stream) (va : BitVec 64) : List (BitVec 32) :=
  (t.pre.filter (fun w => w.1 == va.toNat && decide (t.floor ≤ w.2.2))).map (fun w => w.2.1)

/-- The word that stands at a location. -/
def wordAt (s : State) (p : Place) (g : Group) (t : Stream) (l : Loc) : BitVec 32 := BitVec.ofNat 32 (leNat (streamBytes s p g t t.storesIn l 4))

/-- The word at an address, looked at without any effect: none when it cannot be read, or when a word fetched ahead differs from it, so that the
stream may execute either (R203). -/
def peekWord (s : State) (p : Place) (g : Group) (t : Stream) (va : BitVec 64) : Option (BitVec 32) :=
  match wordLoc s p g va with
  | none => none
  | some l => if (preWords t va).all (fun w => w == wordAt s p g t l) then some (wordAt s p g t l) else none

/-- What a fetch answers: the word, a wait, or a cause; each with the state it leaves (R11). -/
inductive Fetched where
  | word (s : State) (w : BitVec 32)
  | wait (s : State)
  | trap (s : State) (t : Trap)

/-- A stream meets a fault of translation: it waits for the service, or takes the cause (R396, R398). The level goes with the cause of the walk (R388). -/
def faultStream {α : Type} (s : State) (p : Place) (g : Group) (st : StreamId) (va : BitVec 64) (kind : BitVec 2)
    (cause : BitVec 10) (lvl : BitVec 3) (onWait : State → α) (onTrap : State → Trap → α) : α :=
  let t := g.stream st
  let f := mkFault g.lr.asid va kind cause lvl
  match t.answer.bind (fun f => f.gives g.lr.asid va kind) with
  | some (c, lvl) => onTrap s (Trap.walked c va lvl kind)
  | none =>
    if faultWaits s f then
      onWait ((openRequest s (dieOfPlace p) f).setGroup p (g.setStream st { t with faults := [f] }))
    else onTrap s (Trap.walked cause va lvl kind)

/-- The word a stream executes from a location: a word fetched ahead or the one that stands there now, as it may (R203). -/
def pickWord (s : State) (p : Place) (g : Group) (t : Stream) (va : BitVec 64) (l : Loc) : Fetched :=
  match preWords t va with
  | [] => .word s (wordAt s p g t l)
  | ws => .word { s with fresh := s.fresh + 1 } (ws.getD ((Config.freeBits s.fresh 16).toNat % (ws.length + 1)) (wordAt s p g t l))

/-- The fetch of an instruction word by a stream (R160), a load of its own (R203): a fetch checks X and sets A; from the scratchpad it waits for its
page's frame and for a lock of its bank (R68, R71). -/
def fetch (s : State) (p : Place) (g : Group) (st : StreamId) (va : BitVec 64) : Fetched :=
  let t := g.stream st
  if va.extractLsb' 57 7 ≠ 0#7 then .trap s (Trap.walked Cause.trVarange va 7 2)
  else if inWindow va then
    let off := va.toNat - windowBase
    if bankLocked s p none off 4 then .wait s
    else
      match ensureFrame s p g (pageOf off) with
      | .wait s => .wait s
      | .ready s => if windowDead s p g off then .trap s (Trap.at Cause.paNodie va 2) else if spadPoisoned s p g off then .trap s (Trap.at Cause.mcEcc va 2) else pickWord s p g t va (.spad off)
  else
    match translateAs s p g st va 2 false with
    | .wait s => .wait s
    | .bad s cause lvl => faultStream s p g st va 2 cause lvl .wait .trap
    | .ok s' pa _ =>
      match region s pa with
      | .hbm _ | .attic _ =>
        if poisoned s pa then .trap s' (Trap.at Cause.mcEcc va 2)
        else pickWord (l2Touch s' pa (some (g.lr.asid, va.toNat)) false false) p g t va (.mem pa)
      | .dcr _ _ => .trap s' (Trap.at Cause.dcrSize va 2)
      | _ => .trap s' (Trap.at Cause.paNodie va 2)

/-! ## Retirement (R45, R185, R206) -/

/-- The length in bytes of the instruction at an address: none when its first word cannot be read, or when the words that the stream may execute there
differ in length (R185, R203). -/
def lengthAt (s : State) (p : Place) (g : Group) (t : Stream) (va : BitVec 64) : Option Nat :=
  match wordLoc s p g va with
  | none => none
  | some l =>
    let n := lengthOf (wordAt s p g t l)
    if (preWords t va).all (fun w => lengthOf w == n) then some n else none

/-- The stream goes on at its NPC: the target of a transfer is no older than the preparation of its register, and sequential words stay as they were
(R203). -/
def Stream.land (t : Stream) : Stream := { t with floor := t.floorNext.getD t.floor, floorNext := none }

/-- A pass of a loop starts: its words may be as old as the latest IFENCE (R203). -/
def Stream.landAnew (t : Stream) : Stream := { t with floor := 0, floorNext := none }

/-- The PC pair set to an address and the one after the instruction there (R185). -/
def Stream.goto (t : Stream) (pc : BitVec 64) (len : Option Nat) : Stream :=
  match len with
  | some n => { t with pc := pc, npc := pc + BitVec.ofNat 64 n, npcOpen := false }
  | none => { t with pc := pc, npc := pc + 4, npcOpen := true }

/-- NPC is fixed once the length of the instruction at PC is known (R185; log 17). -/
def Stream.settle (t : Stream) (len : Nat) : Stream :=
  if t.npcOpen then { t with npc := t.pc + BitVec.ofNat 64 len, npcOpen := false } else t

/-- A group with the NPC of every stream fixed where the word at its PC can be read (R185; log 17). -/
def settleGroup (s : State) (p : Place) (g : Group) : Group :=
  StreamId.all.foldl (fun g st =>
    let t := g.stream st
    match lengthAt s p g t t.pc with
    | some n => g.setStream st (t.settle n)
    | none => g) g

/-- The address of the last word of a loop body (R206). -/
def LoopPair.lastWord (l : LoopPair) : Nat := l.start.toNat + 4 * l.len.toNat - 4

/-- Whether an instruction includes the last word of an active body (R206, R207). -/
def LoopPair.endsIn (l : LoopPair) (pc : BitVec 64) (len : Nat) : Bool :=
  l.act && decide (pc.toNat ≤ l.lastWord ∧ l.lastWord < pc.toNat + len)

/-- The pairs in the order R206 tries them: the later LOOP first. -/
def loopOrder (late : BitVec 1) : List (Fin 2) := if late = 1#1 then [1, 0] else [0, 1]

/-- The loop-back of R206: the pairs after it, and where the next pass starts. -/
def loopBack (t : Stream) (len : Nat) : List (Fin 2) → Stream × Option (BitVec 64)
  | [] => (t, none)
  | i :: rest =>
    let l := t.loops.get i
    if l.endsIn t.pc len then
      if l.count.toNat > 1 then
        ({ t with loops := t.loops.set i.val { l with count := l.count - 1 } }, some (l.start.zeroExtend 64))
      else loopBack { t with loops := t.loops.set i.val { l with count := 0, act := false } } len rest
    else loopBack t len rest

/-- The PC pair set to an address whose instruction is looked at for its length (R185). -/
def Stream.goAt (s : State) (p : Place) (g : Group) (t : Stream) (a : BitVec 64) : Stream := t.goto a (lengthAt s p g t a)

/-- The update of the PC pair when an instruction of a stream retires, whose length is the fetched one's: the loop-back, or PC := NPC (R185, R206). -/
def advance (s : State) (p : Place) (g : Group) (t : Stream) : Stream :=
  match loopBack t t.len (loopOrder t.late) with
  | (t', some a) => Stream.goAt s p g t'.landAnew a
  | (t', none) => Stream.goAt s p g t'.land t.npc

/-- The writes in the cumulative set of a stream's next release, as far as they stand in the cluster's buffer: its own and those it has read, and the
sets of the releases its acquires and its takes are paired with (R93, R94, R97). -/
def Stream.cumSet (t : Stream) : List Nat := t.cum ++ t.tookSets.1 ++ t.tookSets.2

/-- Counts that a retirement moves (R387, R399, R172). -/
def Stream.retireCounts (t : Stream) : Stream :=
  { t with seq := t.seq + 1, retired := t.retired + 1, wdcnt := 0, took := none, tookSets := ([], []), waiting := none, cum := t.cumSet.dedup,
           acq := (t.acq ++ t.tookSets.1 ++ t.tookSets.2).dedup, answer := none,
           mayStep := false, atSlice := false }

/-- An instruction of a stream retires: its places, its event post, the counts (R45, R46, R387). The PC pair has been set. -/
def retire (s : State) (p : Place) (st : StreamId) (r ev : BitVec 4) : State :=
  match s.group p with
  | none => s
  | some g =>
    let g := g.setStream st (g.stream st).retireCounts
    let g := { g with evwait := g.evwait.filter (fun w => w.1 ≠ st) }
    s.setGroup p (postEv (placeTok g st r (g.stream st).fenced) ev (g.stream st).fenced)

/-- The record of a halt that no cause brought about (R403, R404): the counts of the group; the spec names no raising instruction for it, so
STREAM, FPC and WHO are free. -/
def haltRecord (s : State) (p : Place) (g : Group) (reason : BitVec 10) : Vector (BitVec 64) 16 :=
  let st := StreamId.all.getD ((Config.freeBits s.fresh 3).toNat % 5) .ctl
  trapRecord g
    { hdl := g.trapped.isSome, async := false, isq := false, queue := 7, more := 0, cause2 := 0, stream := st, cause := reason, info0 := 0,
      lvl := 0, kind := 0, fpc := Config.freeBits s.fresh 64, cycle := (s.cores.get (coreOf p)).cycle, who := ident p st g.gindex }

/-- A halt is asked for: the cut of R386 begins for the streams, whose waiting instructions are cancelled (R404). -/
def askStop (g : Group) (reason : BitVec 10) : Group := { cancelStreams g with halt := .asked reason }

/-- The end of the last step that RUN named: the group is to halt (R405). -/
def stepHalt (s : State) (p : Place) : State :=
  let sl := s.slot p
  match sl.group with
  | none => s
  | some g =>
    match g.stopping, g.halt with
    | .no, .none =>
      if sl.state == .running && sl.dbg.stepping && StreamId.all.all (fun st => !(g.stream st).mayStep) then s.setGroup p (askStop g Cause.step) else s
    | _, _ => s

/-- Whether the streams of a group issue: it runs and is not being stopped, or its cut began in this very cycle; and no halt is asked for (R327, R386, R389,
R404). -/
def mayIssue (sl : Slot) (g : Group) : Bool :=
  ((sl.state == .running && (match g.stopping with | .no => true | _ => false)) || sl.cutNow) &&
  (match g.halt with | .none => true | .asked _ => false)

/-- Whether a stream of a group may issue: the group's streams issue and single step allows it, or it is a BARA that waits at its slice; the stream has
not ended, has raised no cause of the cut in progress, and waits for no page-fault answer (R37, R228, R389, R397, R405). -/
def canIssue (sl : Slot) (g : Group) (st : StreamId) : Bool :=
  let t := g.stream st
  !t.ended && !t.raised && t.faults.isEmpty && t.npcOpen == false &&
  ((mayIssue sl g && (!sl.dbg.stepping || t.mayStep)) || t.atSlice)

/-! ## Issue -/

/-- What a meaning may look at and change. -/
structure Env where
  s  : State
  p  : Place
  st : StreamId
  g  : Group
  t  : Stream

/-- Retirement of an instruction of a stream, with what follows it, after an effect and an update of the stream's PC pair (R45, R46, R387). -/
def retireIn (s : State) (e : Env) (r ev : BitVec 4) (after : Env → State → State) (pcs : Group → Stream) : State :=
  match s.group e.p with
  | none => s
  | some g => stepHalt (after e (retire (s.setGroup e.p (g.setStream e.st (pcs g))) e.p e.st r ev)) e.p

/-- What the answer of an instruction's body comes to: on completion the PC pair, the places, the event post and the counts, and what follows retirement
(TRAP and BRK); a cause is raised at the instruction, in `back` when the body has changed nothing (R45, R185, R383); a wait begins unless the group's cut
does in this cycle (R386). -/
def settleAct (back s : State) (e : Env) (r ev : BitVec 4) (after : Env → State → State) (a : Act State) : State :=
  let at_ : RaisedAt := { stream := e.st, queue := none, async := false, fpc := e.t.pc }
  let room := canPlace e.g e.st r
  match a with
  | .hold => s
  | .trap x => raise back e.p at_ x
  | .trapIn s2 x => raise s2 e.p at_ x
  | .wait s2 => if (s.slot e.p).cutNow then s else s2
  | .done s2 => if room then retireIn s2 e r ev after (fun g => advance s2 e.p g (g.stream e.st)) else e.s
  | .jump s2 pc npc =>
    if room then
      retireIn s2 e r ev after (fun g => match npc with
        | some n => { g.stream e.st with pc := pc, npc := n, npcOpen := false }
        | none => Stream.goAt s2 e.p g (g.stream e.st).land pc)
    else e.s

/-- The issue of an instruction that is not an engine command (R39, R45, R384): the stream's role, the takes unless an earlier try made them, the body, and
what its answer comes to. -/
def plainThen (roles : List StreamId) (r ev : BitVec 4) (body : Env → Act State) (after : Env → State → State) (s : State) :
    Host.Outcome State Fault Refusal :=
  let p := s.curPlace
  let st := s.curStream
  match s.group p with
  | none => .next s
  | some g =>
    let t := g.stream st
    let new := t.took.isNone
    if canIssue (s.slot p) g st = false then .next s
    else if roles.contains st = false then .next (raise s p { stream := st, queue := none, async := false, fpc := t.pc } (.plain Cause.streamRole))
    else if new && !canTake g st r then .next s
    else
      let g1 := if new then (takeTok g st r).setStream st { t with took := some r, tookSets := takenSets g st r } else g.setStream st t.refill
      let e : Env := { s := s.setGroup p g1, p := p, st := st, g := g1, t := g1.stream st }
      .next (settleAct (if new then s else e.s) s e r ev after (body e))

/-- The issue of an instruction whose retirement nothing follows. -/
def plain (roles : List StreamId) (r ev : BitVec 4) (body : Env → Act State) (s : State) : Host.Outcome State Fault Refusal :=
  plainThen roles r ev body (fun _ s => s) s

/-- A body that changes only the issuing stream. -/
def onStream (f : Stream → Act Stream) (e : Env) : Act State :=
  (f e.t).map (fun t => e.s.setGroup e.p (e.g.setStream e.st t))

/-- A body that changes only the issuing group. -/
def onGroup (f : Group → Act Group) (e : Env) : Act State := (f e.g).map (fun g => e.s.setGroup e.p g)

/-- The streams that accept an instruction every stream executes (R38). -/
def anyStream : List StreamId := StreamId.all

/-! ## Engine commands (R38 to R41) -/

/-- The state a command captures when it is accepted: its scalar operands, shape registers and rounding state (R167, R311). -/
structure Capture where
  xs : List (BitVec 64)
  hs : List (BitVec 512)
  tid : BitVec 48

/-- A list padded to n entries. -/
def padTo {α : Type} (d : α) (n : Nat) (l : List α) : Vector α n := Vector.ofFn (fun i => l.getD i.val d)

/-- The rounding state a queue's commands capture (R124); the other queues hold none. -/
def queueRs (g : Group) : QueueId → RState
  | .matrix => g.mrs
  | .vector => g.vrs
  | _ => { seed := 0, ovf := 0, mode := 0, dcnt := 0 }

/-- A command enters its queue (R40): the entry captures its operands and names the stream that placed it. -/
def accept (g : Group) (q : QueueId) (st : StreamId) (i : Instr) (c : Capture) : Group :=
  let t := g.stream st
  let e : QEntry :=
    { instr := i, stream := st, xops := padTo 0 6 c.xs, shops := padTo 0 2 c.hs, rs := queueRs g q, fpc := t.pc, tid := c.tid,
      id := g.nextId, took := false, tookSets := ([], []), wrote := [], started := false, raised := false, done := false, elems := [], headCnt := 0, refused := none, work := none,
      faults := [], afterSt := t.storesIn, afterLd := t.loadsIn, behind := t.acq ++ t.tookSets.1 ++ t.tookSets.2 }
  let g := g.setQueue q (g.queue q ++ [e])
  { g with nextId := g.nextId + 1, qacc := g.qacc.set q.toFin.val (g.qacc.get q.toFin + 1) }

/-- The issue of an engine command: its stream's role, its operand registers, a free entry, its acceptance checks, then acceptance, which
retires it (R39, R40, R265, R387). Its ring bits and event belong to the entry (R45). -/
def command (q : QueueId) (roles : List StreamId) (i : Instr) (rs : List (BitVec 6)) (cap : Env → Except Trap Capture)
    (upd : Group → Group) (s : State) : Host.Outcome State Fault Refusal :=
  plain roles 0 0 (fun e =>
    e.t.reads rs (
      if 16 ≤ (e.g.queue q).length then .hold
      else
        match cap e with
        | .error x => .trap x
        | .ok c => .done (e.s.setGroup e.p (upd (accept e.g q e.st i c))))) s

/-- A capture of scalar operands alone. -/
def capX (rs : List (BitVec 6)) (e : Env) : Except Trap Capture := .ok { xs := rs.map e.t.getX, hs := [], tid := 0 }

end Sys2Proof.Machine
end

