-- ==== Sys2Proof/Machine/Scalar.lean ====
section
/-! DEFINITION. Sys2Proof/Machine/Scalar.lean: scalar, constant, bit-field, condition and move instructions (R184 to R194), and the reads of
system registers and counters (R168 to R172, R212). -/

namespace Sys2Proof.Machine

open Sys2Proof

/-! ## What the instructions compute (R186, R187) -/

/-- The high half of a signed product (MULH). -/
def mulh (a b : BitVec 64) : BitVec 64 := BitVec.ofInt 64 (a.toInt * b.toInt / 2 ^ 64)
/-- The high half of an unsigned product (MULHU). -/
def mulhu (a b : BitVec 64) : BitVec 64 := BitVec.ofNat 64 (a.toNat * b.toNat / 2 ^ 64)
/-- DIV: a divisor of 0 gives all ones (R187). -/
def divS (a b : BitVec 64) : BitVec 64 := if b = 0 then BitVec.allOnes 64 else a.sdiv b
/-- DIVU (R187). -/
def divU (a b : BitVec 64) : BitVec 64 := if b = 0 then BitVec.allOnes 64 else a / b
/-- REM (R187). -/
def remS (a b : BitVec 64) : BitVec 64 := if b = 0 then a else a.srem b
/-- REMU (R187). -/
def remU (a b : BitVec 64) : BitVec 64 := if b = 0 then a else a % b
/-- CLZ; 64 when the operand is 0. -/
def clz64 (a : BitVec 64) : BitVec 64 := BitVec.ofNat 64 ((List.range 64).takeWhile (fun i => !a.getLsbD (63 - i))).length
/-- CTZ; 64 when the operand is 0. -/
def ctz64 (a : BitVec 64) : BitVec 64 := BitVec.ofNat 64 ((List.range 64).takeWhile (fun i => !a.getLsbD i)).length
/-- POPC. -/
def popc64 (a : BitVec 64) : BitVec 64 := BitVec.ofNat 64 ((List.range 64).filter (fun i => a.getLsbD i)).length
/-- The low six bits of a shift amount (R186). -/
def shamt (b : BitVec 64) : Nat := b.toNat % 64

/-- Bits [POS + LEN - 1 : POS] of A replaced by the low LEN bits of B (BFI, R191). -/
def bitInsert (a b : BitVec 64) (pos len : Nat) : BitVec 64 :=
  let m := BitVec.ofNat 64 (2 ^ len - 1) <<< pos
  (a &&& ~~~m) ||| ((b <<< pos) &&& m)

/-! ## R186: register-register -/

def execAdd (r : BitVec 4) (d a b : BitVec 6) (s : State) := plain anyStream r 0 (onStream (fun t => t.op2 d a b (· + ·))) s
def execSub (r : BitVec 4) (d a b : BitVec 6) (s : State) := plain anyStream r 0 (onStream (fun t => t.op2 d a b (· - ·))) s
def execAnd (r : BitVec 4) (d a b : BitVec 6) (s : State) := plain anyStream r 0 (onStream (fun t => t.op2 d a b (· &&& ·))) s
def execOr (r : BitVec 4) (d a b : BitVec 6) (s : State) := plain anyStream r 0 (onStream (fun t => t.op2 d a b (· ||| ·))) s
def execXor (r : BitVec 4) (d a b : BitVec 6) (s : State) := plain anyStream r 0 (onStream (fun t => t.op2 d a b (· ^^^ ·))) s
def execShl (r : BitVec 4) (d a b : BitVec 6) (s : State) :=
  plain anyStream r 0 (onStream (fun t => t.op2 d a b (fun x y => x <<< shamt y))) s
def execShr (r : BitVec 4) (d a b : BitVec 6) (s : State) :=
  plain anyStream r 0 (onStream (fun t => t.op2 d a b (fun x y => x >>> shamt y))) s
def execSra (r : BitVec 4) (d a b : BitVec 6) (s : State) :=
  plain anyStream r 0 (onStream (fun t => t.op2 d a b (fun x y => x.sshiftRight (shamt y)))) s
def execMul (r : BitVec 4) (d a b : BitVec 6) (s : State) := plain anyStream r 0 (onStream (fun t => t.op2 d a b (· * ·))) s
def execMulh (r : BitVec 4) (d a b : BitVec 6) (s : State) := plain anyStream r 0 (onStream (fun t => t.op2 d a b mulh)) s
def execMulhu (r : BitVec 4) (d a b : BitVec 6) (s : State) := plain anyStream r 0 (onStream (fun t => t.op2 d a b mulhu)) s
def execDiv (r : BitVec 4) (d a b : BitVec 6) (s : State) := plain anyStream r 0 (onStream (fun t => t.op2 d a b divS)) s
def execDivu (r : BitVec 4) (d a b : BitVec 6) (s : State) := plain anyStream r 0 (onStream (fun t => t.op2 d a b divU)) s
def execRem (r : BitVec 4) (d a b : BitVec 6) (s : State) := plain anyStream r 0 (onStream (fun t => t.op2 d a b remS)) s
def execRemu (r : BitVec 4) (d a b : BitVec 6) (s : State) := plain anyStream r 0 (onStream (fun t => t.op2 d a b remU)) s
def execMin (r : BitVec 4) (d a b : BitVec 6) (s : State) :=
  plain anyStream r 0 (onStream (fun t => t.op2 d a b (fun x y => if x.slt y then x else y))) s
def execMax (r : BitVec 4) (d a b : BitVec 6) (s : State) :=
  plain anyStream r 0 (onStream (fun t => t.op2 d a b (fun x y => if y.slt x then x else y))) s
def execMinu (r : BitVec 4) (d a b : BitVec 6) (s : State) :=
  plain anyStream r 0 (onStream (fun t => t.op2 d a b (fun x y => if x.ult y then x else y))) s
def execMaxu (r : BitVec 4) (d a b : BitVec 6) (s : State) :=
  plain anyStream r 0 (onStream (fun t => t.op2 d a b (fun x y => if y.ult x then x else y))) s
def execClz (r : BitVec 4) (d a : BitVec 6) (s : State) := plain anyStream r 0 (onStream (fun t => t.op1 d a clz64)) s
def execCtz (r : BitVec 4) (d a : BitVec 6) (s : State) := plain anyStream r 0 (onStream (fun t => t.op1 d a ctz64)) s
def execPopc (r : BitVec 4) (d a : BitVec 6) (s : State) := plain anyStream r 0 (onStream (fun t => t.op1 d a popc64)) s
def execBrev (r : BitVec 4) (d a : BitVec 6) (s : State) := plain anyStream r 0 (onStream (fun t => t.op1 d a (fun x => x.reverse))) s

/-! ## R188: immediates -/

def execAddi (r : BitVec 4) (d a : BitVec 6) (i : BitVec 9) (s : State) :=
  plain anyStream r 0 (onStream (fun t => t.op1 d a (· + imm9 i))) s
def execAndi (r : BitVec 4) (d a : BitVec 6) (i : BitVec 9) (s : State) :=
  plain anyStream r 0 (onStream (fun t => t.op1 d a (· &&& imm9 i))) s
def execOri (r : BitVec 4) (d a : BitVec 6) (i : BitVec 9) (s : State) :=
  plain anyStream r 0 (onStream (fun t => t.op1 d a (· ||| imm9 i))) s
def execXori (r : BitVec 4) (d a : BitVec 6) (i : BitVec 9) (s : State) :=
  plain anyStream r 0 (onStream (fun t => t.op1 d a (· ^^^ imm9 i))) s
def execShli (r : BitVec 4) (d a k : BitVec 6) (s : State) := plain anyStream r 0 (onStream (fun t => t.op1 d a (· <<< k.toNat))) s
def execShri (r : BitVec 4) (d a k : BitVec 6) (s : State) := plain anyStream r 0 (onStream (fun t => t.op1 d a (· >>> k.toNat))) s
def execSrai (r : BitVec 4) (d a k : BitVec 6) (s : State) :=
  plain anyStream r 0 (onStream (fun t => t.op1 d a (fun x => x.sshiftRight k.toNat))) s

/-! ## R189: constants -/

def execLis (r : BitVec 4) (d : BitVec 6) (i : BitVec 15) (s : State) :=
  plain anyStream r 0 (onStream (fun t => t.writes d (.done (t.setX d (i.signExtend 64))))) s
def execLiw (r ev : BitVec 4) (d : BitVec 6) (ih : BitVec 15) (il : BitVec 28) (s : State) :=
  plain anyStream r ev (onStream (fun t => t.writes d (.done (t.setX d ((ih ++ il).signExtend 64))))) s
def execLihi (r ev : BitVec 4) (d : BitVec 6) (v : BitVec 21) (s : State) :=
  plain anyStream r ev (onStream (fun t => t.reads [d] (.done (t.setX d (v ++ (t.getX d).extractLsb' 0 43))))) s

/-! ## R190, R191: addresses, moves, bit fields -/

def execLea (r : BitVec 4) (d a b : BitVec 6) (k : BitVec 2) (s : State) :=
  plain anyStream r 0 (onStream (fun t => t.op2 d a b (fun x y => x + y <<< k.toNat))) s
def execMvc (r : BitVec 4) (d : BitVec 6) (a : BitVec 3) (s : State) :=
  plain anyStream r 0 (onStream (fun t => t.writes d (.done (t.setX d (if t.getC a then 1 else 0))))) s
def execMvb (r : BitVec 4) (d : BitVec 6) (a : BitVec 3) (s : State) :=
  plain anyStream r 0 (onStream (fun t => t.writes d (.done (t.setX d (BitVec.ofBool (t.isPrep a) ++ 0#6 ++ t.b.get a.toFin))))) s

/-- A read of a shared register's tag: an empty register waits or raises FE_EMPTY as FEMODE directs (R65, R190). -/
def moveTag (d : BitVec 6) (full : Bool) (tag : BitVec 4) (t : Stream) : Act Stream :=
  if full then t.writes d (.done (t.setX d (tag.zeroExtend 64)))
  else if t.femode = 1#1 then .trap (.plain Cause.feEmpty) else .hold

def execMvtV (r : BitVec 4) (d a : BitVec 6) (s : State) :=
  plain anyStream r 0 (fun e => onStream (moveTag d (e.g.v.get a.toFin).full (e.g.v.get a.toFin).tag) e) s
def execMvtT (r : BitVec 4) (d : BitVec 6) (a : BitVec 2) (s : State) :=
  plain anyStream r 0 (fun e => onStream (moveTag d (e.g.t.get a.toFin).full (e.g.t.get a.toFin).tag) e) s

def execBfx (r ev : BitVec 4) (d a : BitVec 6) (pos len : BitVec 6) (sg : BitVec 1) (s : State) :=
  plain anyStream r ev (onStream (fun t =>
    t.reads [a] (
      if pos.toNat + (len.toNat + 1) > 64 then .trap (.plain Cause.opRange)
      else t.writes d (.done (t.setX d
        (if sg = 1#1 then sext64 (t.getX a >>> pos.toNat) (len.toNat + 1) else zext64 (t.getX a >>> pos.toNat) (len.toNat + 1))))))) s
def execBfi (r ev : BitVec 4) (d a b : BitVec 6) (pos len : BitVec 6) (s : State) :=
  plain anyStream r ev (onStream (fun t =>
    t.reads [a, b] (
      if pos.toNat + (len.toNat + 1) > 64 then .trap (.plain Cause.opRange)
      else t.writes d (.done (t.setX d (bitInsert (t.getX a) (t.getX b) pos.toNat (len.toNat + 1))))))) s
def execSel (r ev : BitVec 4) (d a b : BitVec 6) (c : BitVec 3) (s : State) :=
  plain anyStream r ev (onStream (fun t => t.op2 d a b (fun x y => if t.getC c then x else y))) s

/-! ## R192 to R194: conditions -/

def execCmp (r : BitVec 4) (c : BitVec 3) (a b : BitVec 6) (k : BitVec 3) (s : State) :=
  plain anyStream r 0 (onStream (fun t => t.reads [a, b] (.done (t.setC c (condInt k (t.getX a) (t.getX b)))))) s
def execCmpi (r : BitVec 4) (k c : BitVec 3) (a : BitVec 6) (i : BitVec 9) (s : State) :=
  plain anyStream r 0 (onStream (fun t => t.reads [a] (.done (t.setC c (condInt k (t.getX a) (imm9 i)))))) s
def execCand (r : BitVec 4) (d a b : BitVec 3) (s : State) :=
  plain anyStream r 0 (onStream (fun t => .done (t.setC d (t.getC a && t.getC b)))) s
def execCor (r : BitVec 4) (d a b : BitVec 3) (s : State) :=
  plain anyStream r 0 (onStream (fun t => .done (t.setC d (t.getC a || t.getC b)))) s
def execCnot (r : BitVec 4) (d a : BitVec 3) (s : State) := plain anyStream r 0 (onStream (fun t => .done (t.setC d (!t.getC a)))) s

/-- The unit of a predicate whose damage a read would meet (R416). -/
def predDamaged (g : Group) (i : BitVec 3) : Bool :=
  g.damaged.any (fun u => match u with | .p r _ => r == i && i != 0#3 | _ => false)

/-- VANY and VALL read p(a) at issue (R194); an uncorrectable error in it is MC_ECC (R416). -/
def readPred (a : BitVec 3) (f : BitVec 1024 → Stream → Stream) (e : Env) : Act State :=
  if predDamaged e.g a then .trap (.plain Cause.mcEcc) else onStream (fun t => .done (f (e.g.pred a) t)) e

def execVany (r : BitVec 4) (d a : BitVec 3) (w : BitVec 1) (s : State) :=
  plain anyStream r 0 (readPred a (fun p t => t.setC d ((predBits w).any (fun j => p.getLsbD j)))) s
def execVall (r : BitVec 4) (d a : BitVec 3) (w : BitVec 1) (s : State) :=
  plain anyStream r 0 (readPred a (fun p t => t.setC d ((predBits w).all (fun j => p.getLsbD j)))) s

/-! ## R168 to R172, R212: system registers and counters -/

/-- The word at offset 0x00 of a rounding state (R124). -/
def RState.word0 (rs : RState) : BitVec 64 := rs.seed ++ 0#28 ++ rs.ovf ++ rs.mode
/-- The word at offset 0x08 of a rounding state (R124). -/
def RState.word1 (rs : RState) : BitVec 64 := 0#32 ++ rs.dcnt

/-- LCTLn (R170). -/
def LoopPair.ctl (l : LoopPair) : BitVec 64 := BitVec.ofBool l.act ++ 0#19 ++ l.len ++ l.count

/-- The value of a system register as SYSR reads it; none for an unassigned number (R168). -/
def sysRead (e : Env) (n : BitVec 12) : Option (BitVec 64) :=
  match n.toNat with
  | 0x000 => some (e.t.femode.zeroExtend 64)
  | 0x001 => some (ident e.p e.st e.g.gindex)
  | 0x002 => some e.g.lr.id
  | 0x003 => some (e.s.cores.get (coreOf e.p)).cycle
  | 0x005 => some (e.g.evstat.zeroExtend 64)
  | 0x010 => some e.g.mrs.word0
  | 0x011 => some e.g.mrs.word1
  | 0x012 => some e.g.vrs.word0
  | 0x013 => some e.g.vrs.word1
  | 0x020 => some (e.t.loops.get 0).ctl
  | 0x021 => some ((e.t.loops.get 0).start.zeroExtend 64)
  | 0x022 => some (e.t.loops.get 1).ctl
  | 0x023 => some ((e.t.loops.get 1).start.zeroExtend 64)
  | 0x040 => some (e.t.wdlim.zeroExtend 64)
  | 0x041 => some (BitVec.ofNat 64 (e.t.wdcnt % 2 ^ 48))
  | 0x042 => some (e.t.seq.zeroExtend 64)
  | 0x043 => some (match e.g.trapped with | some x => 1#1 ++ 0#47 ++ x.gindex | none => 0)
  | 0x080 => some (e.s.dawn.msplit.zeroExtend 64)
  | _ => none

/-- SYSW: the writable registers; a read-only or unassigned number is none (R168, R212). -/
def sysWrite (g : Group) (st : StreamId) (n : BitVec 12) (v : BitVec 64) : Option Group :=
  let t := g.stream st
  match n.toNat with
  | 0x000 => some (g.setStream st { t with femode := v.extractLsb' 0 1 })
  | 0x005 => some { g with evstat := g.evstat &&& ~~~(v.extractLsb' 0 32) }
  | 0x040 => some (g.setStream st { t with wdlim := v.extractLsb' 0 48 })
  | _ => none

def execSysr (r : BitVec 4) (d : BitVec 6) (n : BitVec 12) (s : State) :=
  plain anyStream r 0 (fun e =>
    match sysRead e n with
    | none => .trap (.plain Cause.sysNum)
    | some v => onStream (fun t => t.writes d (.done (t.setX d v))) e) s
def execSysw (r : BitVec 4) (d : BitVec 6) (n : BitVec 12) (s : State) :=
  plain anyStream r 0 (fun e =>
    e.t.reads [d] (
      match sysWrite e.g e.st n (e.t.getX d) with
      | none => .trap (.plain Cause.sysNum)
      | some g => onGroup (fun _ => .done g) e)) s

/-- A counter of PERFR; none for an unassigned number (R172). The eight retention registers of R77 stand on every die, so that none that a number names is
absent; one that is not valid keeps the counts of its latest use (log 73). -/
def perfRead (e : Env) (n : BitVec 12) : Option (BitVec 64) :=
  let core := e.s.cores.get (coreOf e.p)
  let die := e.s.dies.get (dieOfPlace e.p)
  match n.toNat with
  | 0x000 => some core.cycle
  | 0x001 => some e.t.retired
  | 0x002 => some core.steps
  | 0x003 => some e.g.decstall
  | 0x004 => some e.g.headwait
  | 0x008 => some core.energy
  | 0x009 => some (die.trips.zeroExtend 64)
  | k =>
    if 0x100 ≤ k ∧ k < 0x120 ∧ k % 4 ≠ 3 then
      let reg := die.regs.get ⟨(k - 0x100) / 4 % 8, Nat.mod_lt _ (by decide)⟩
      some (if k % 4 = 0 then reg.hit else if k % 4 = 1 then reg.miss else reg.ovf)
    else none

/-- PERFR (R212): the counter is read as the instruction issues, and its value arrives later (log 72). -/
def execPerfr (r : BitVec 4) (d : BitVec 6) (n : BitVec 12) (s : State) :=
  plain anyStream r 0 (fun e =>
    match perfRead e n with
    | none => .trap (.plain Cause.sysNum)
    | some v => onStream (fun t => t.writes d (.done (t.arrive d v))) e) s

/-! ## R74, R213: LOCQ -/

/-- The distance between two clusters of one die (R72). -/
def clusterDist (a b : Nat) : Nat :=
  (if a / 4 % 2 ≤ b / 4 % 2 then b / 4 % 2 - a / 4 % 2 else a / 4 % 2 - b / 4 % 2) +
  (if a % 4 ≤ b % 4 then b % 4 - a % 4 else a % 4 - b % 4)

/-- The fields of the LOCQ word (R74). -/
def locWord (cls die slice stack : Nat) : BitVec 64 :=
  0#48 ++ BitVec.ofNat 4 cls ++ BitVec.ofNat 4 die ++ BitVec.ofNat 4 slice ++ BitVec.ofNat 4 stack

/-- The word of R74 for an address: it never traps and sets no A bit (R213). -/
def locq (s : State) (p : Place) (g : Group) (va : BitVec 64) : BitVec 64 :=
  let here := (dieOfPlace p).val
  if inWindow va then locWord 2 here 0 15
  else
    match findLeaf s (coreOf p) g.lr.asid va with
    | .bad _ _ => locWord 7 15 0 15
    | .leaf e _ lg =>
      let pa := leafAddr e lg va
      match region s pa with
      | .hbm d => locWord (if d.val = here then 0 else 1) d.val (sliceOf pa).val (stackOf pa)
      | .attic d =>
        locWord (if d.val ≠ here then 5 else if clusterDist (atticCore pa / 4) (p.val / 16 % 8) = 0 then 3 else 4) d.val 0 15
      | .dcr d _ => locWord 6 d.val 0 15
      | _ => locWord 7 15 0 15

/-- LOCQ (R213): the mapping is looked at as the instruction issues, and the word arrives later (log 72). -/
def execLocq (r : BitVec 4) (d a : BitVec 6) (s : State) :=
  plain anyStream r 0 (fun e => onStream (fun t => t.reads [a] (t.writes d (.done (t.arrive d (locq e.s e.p e.g (t.getX a)))))) e) s

end Sys2Proof.Machine
end

