-- ==== Sys2Proof/Machine/Save.lean ====
section
/-! DEFINITION. Sys2Proof/Machine/Save.lean: the image of a group in memory: the layout of continuation objects and save frames
(R307 to R311, R328), written and read. -/

namespace Sys2Proof.Machine

open Sys2Proof

/-! ## Access to an object by the physical addresses of its 4 KiB pages -/

/-- The length of an object and of a save frame (R307, R328). -/
def objLen : Nat := 0x34200

/-- The pages of an object that is contiguous in physical memory. -/
def objPages (base : Nat) : List Nat := (List.range 53).map (fun i => base + 4096 * i)

/-- The physical address of an offset of an object. -/
def objAddr (m : List Nat) (off : Nat) : Nat := m.getD (off / 4096) 0 + off % 4096

/-- The bytes of an object. -/
def objBytes (s : State) (m : List Nat) (off n : Nat) : List Byte := (List.range n).map (fun i => homeByte s (objAddr m (off + i)))

/-- A little-endian number of an object. -/
def objNat (s : State) (m : List Nat) (off n : Nat) : Nat := leNat (objBytes s m off n)

/-- A dword of an object. -/
def objDword (s : State) (m : List Nat) (off : Nat) : BitVec 64 := BitVec.ofNat 64 (objNat s m off 8)

/-- Bytes are written into an object, page by page. -/
def objWrite : Nat → State → List Nat → Nat → List Byte → State
  | 0, s, _, _, _ => s
  | fuel + 1, s, m, off, bs =>
    if bs = [] then s
    else
      let k := 4096 - off % 4096
      objWrite fuel (homeWriteRun 34 s (objAddr m off) (bs.take k)) m (off + k) (bs.drop k)

/-- A dword of an object is written. -/
def objWrite8 (s : State) (m : List Nat) (off : Nat) (v : BitVec 64) : State := homeWrite8 s (objAddr m off) v

/-! ## Writing -/

/-- A list of bytes filled with zeros to a length. -/
def padBytes (n : Nat) (bs : List Byte) : List Byte := bs ++ List.replicate (n - bs.length) 0#8

/-- The little-endian bytes of a bit vector. -/
def bvBytes {w : Nat} (n : Nat) (v : BitVec w) : List Byte := leBytes n v.toNat

/-- The header (R307), or that of a save frame (R328): the record at 0x80 stands in a frame that a trap wrote. -/
structure ObjHead where
  magic   : BitVec 32
  st      : BitVec 2
  rights  : BitVec 4
  rver    : BitVec 32
  asid    : BitVec 16
  origin  : BitVec 64
  lid     : BitVec 64
  cls     : BitVec 3
  gindex  : BitVec 16
  debt    : BitVec 32
  record  : Option (Vector (BitVec 64) 16)
  deriving DecidableEq, Repr

/-- MAGIC of a continuation object (R307). -/
def magicCont : BitVec 32 := 0x544E4F43
/-- MAGIC of a save frame (R328). -/
def magicSave : BitVec 32 := 0x45564153

/-- Offsets and lengths of the seven sections (R308). -/
def sectionTable : List (Nat × Nat) :=
  [(0x100, 0x1400), (0x1500, 0x1000), (0x2500, 0x2B000), (0x2D500, 0x600), (0x2DB00, 0x6100), (0x33C00, 0x400), (0x34000, 0x200)]

/-- The dword at 0x10 of a header. -/
def headState (st : BitVec 2) (rights : BitVec 4) (rver : BitVec 32) : BitVec 64 := st ++ 0#26 ++ rights ++ rver

/-- The 32 dwords of a header (R307, R328). -/
def ObjHead.dwords (h : ObjHead) : List (BitVec 64) :=
  [0#16 ++ 1#16 ++ h.magic, BitVec.ofNat 64 objLen, headState h.st h.rights h.rver, h.asid.zeroExtend 64, h.origin, h.lid,
   0#45 ++ h.cls ++ h.gindex, h.debt.zeroExtend 64] ++
  sectionTable.map (fun e => BitVec.ofNat 32 e.2 ++ BitVec.ofNat 32 e.1) ++ [0] ++
  (match h.record with | some r => r.toList | none => List.replicate 16 0)

/-- A stream record (R309). -/
def streamRecord (t : Stream) : List Byte :=
  padBytes 0x400 (
    (t.x.toList.map (bvBytes 8)).flatten ++ bvBytes 8 t.full ++ bvBytes 8 t.pc ++ bvBytes 8 t.npc ++
    bvBytes 8 (0#48 ++ t.prepd ++ t.c : BitVec 64) ++ (t.b.toList.map (bvBytes 8)).flatten ++
    (t.loops.toList.map (fun l => bvBytes 8 l.ctl ++ bvBytes 8 l.start)).flatten ++ bvBytes 8 t.femode ++ bvBytes 8 t.wdlim ++
    bvBytes 8 (t.late ++ BitVec.ofBool t.ended))

/-- A rounding state as it is saved (R124, R310). -/
def RState.bytes (r : RState) : List Byte := bvBytes 8 r.word0 ++ bvBytes 8 r.word1

/-- Section 2 (R310). -/
def section2 (g : Group) : List Byte :=
  padBytes 0x1000 (
    ((List.range 8).map (fun i => bvBytes 128 (g.pred (BitVec.ofNat 3 i)))).flatten ++ (g.h.toList.map (bvBytes 64)).flatten ++
    g.mrs.bytes ++ g.vrs.bytes)

/-- Section 3 (R310). -/
def section3 (g : Group) : List Byte :=
  padBytes 0x2B000 (
    padBytes 0x2A880 (
      (g.v.toList.map (fun r => bvBytes 2048 r.data)).flatten ++ (g.t.toList.map (fun r => bvBytes 8192 r.data)).flatten ++
      (g.v.toList.map (fun r => bvBytes 128 r.side)).flatten ++ (g.t.toList.map (fun r => bvBytes 512 r.side)).flatten ++
      g.v.toList.map (fun r => r.tag.zeroExtend 8) ++ g.t.toList.map (fun r => r.tag.zeroExtend 8)) ++
    bvBytes 16 (BitVec.ofNat 128 (
      ((g.v.toList.map (fun r => r.full) ++ g.t.toList.map (fun r => r.full)).zipIdx.map
        (fun b => if b.1 then 2 ^ b.2 else 0)).sum)))

/-- A page list entry (R67). -/
def PageEntry.dword (e : PageEntry) : BitVec 64 := 0#12 ++ e.back ++ 0#15 ++ BitVec.ofBool e.alloc

/-- Section 4 (R310). -/
def section4 (g : Group) : List Byte := (g.pages.toList.map (fun e => bvBytes 8 e.dword)).flatten ++ bvBytes 1024 g.syncf

/-- A saved queue entry (R311). -/
def queueEntry (e : QEntry) : List Byte :=
  let ws := encode e.instr
  padBytes 0x80 (
    bvBytes 4 (ws.getD 0 0) ++ bvBytes 4 (ws.getD 1 0) ++
    bvBytes 8 (0#56 ++ BitVec.ofBool (e.done && !e.elems.isEmpty) ++ BitVec.ofNat 3 e.stream.toFin.val ++ 0#3 ++ BitVec.ofBool e.done :
      BitVec 64) ++
    (e.xops.toList.map (bvBytes 8)).flatten ++ e.rs.bytes ++ bvBytes 8 e.fpc ++ bvBytes 8 e.tid ++
    bvBytes 8 (if e.done then e.elems.headD 0 else 0)) ++
  (e.shops.toList.map (bvBytes 64)).flatten

/-- Section 5 (R310). -/
def section5 (g : Group) : List Byte :=
  padBytes 0x100 (g.queues.toList.map (fun q => BitVec.ofNat 8 q.length)) ++
  (g.queues.toList.map (fun q => padBytes 0x1000 (q.map queueEntry).flatten)).flatten

/-- Section 6 (R310). -/
def section6 (g : Group) : List Byte :=
  padBytes 0x100 (
    padBytes 0xA0 ((g.chans.toList.map (fun c => bvBytes 8 c.nextid ++ bvBytes 8 c.wm)).flatten ++
      (g.stages.toList.map (fun t => bvBytes 8 (0#16 ++ t.stage ++ 0#16 ++ t.cursor : BitVec 64))).flatten ++
      g.rq.toList.map (fun l => BitVec.ofNat 8 l.length)) ++
    (g.cnum.toList.map (bvBytes 8)).flatten) ++
  padBytes 0x300 (g.rq.toList.map (fun l => padBytes 128 (l.map (bvBytes 8)).flatten)).flatten

/-- Section 7 (R310). -/
def section7 (g : Group) : List Byte :=
  padBytes 0x200 (
    padBytes 0x80 ((g.ev.toList.map (bvBytes 2)).flatten ++ padBytes 8 (bvBytes 4 g.evstat) ++
      padBytes 16 (g.tokens.toList.map (BitVec.ofNat 8)) ++ [BitVec.ofNat 8 g.tkts.length, g.lostTkt]) ++
    (g.tkts.map (fun t => bvBytes 8 t.1 ++ bvBytes 8 t.2)).flatten)

/-- Sections 1 to 7 (R308). -/
def groupImage (g : Group) : List Byte :=
  (g.streams.toList.map streamRecord).flatten ++ section2 g ++ section3 g ++ section4 g ++ section5 g ++ section6 g ++ section7 g

/-- The requests for the lines of an object, whose pages start at a virtual address of an address space where one is named (R75, R78). -/
def objTouch (s : State) (m : List Nat) (tag : ReqTag) (write : Bool) : State :=
  m.zipIdx.foldl (fun s x => l2Run s x.1 (Nat.min 4096 (objLen - 4096 * x.2)) (tag.map (fun t => (t.1, t.2 + 4096 * x.2))) false write) s

/-- The streams of a group with the PC at which each stands. -/
def pcsOf (g : Group) (open_ : Bool) : List (BitVec 64 × BitVec 16 × StreamId × BitVec 64) :=
  (StreamId.all.filter (fun st => (g.stream st).npcOpen || !open_)).map (fun st => (g.lr.id, g.gindex, st, (g.stream st).pc))

/-- A header and the sections are written. A stream whose NPC is not fixed yet is noted: its saved NPC stands for the address after the instruction at
its PC, whatever the length of that proves to be (R185; log 17). -/
def writeObject (s : State) (m : List Nat) (tag : ReqTag) (h : ObjHead) (g : Group) : State :=
  let s := objWrite 54 (objTouch s m tag true) m 0 (dwordBytes h.dwords ++ groupImage g)
  { s with openPcs := s.openPcs.filter (fun x => !(pcsOf g false).contains x) ++ pcsOf g true }

/-! ## Reading -/

/-- A bit vector of an object. -/
def objBv (s : State) (m : List Nat) (off n : Nat) (w : Nat) : BitVec w := BitVec.ofNat w (objNat s m off n)

/-- The stream with a number. -/
def streamOfNat (n : Nat) : StreamId := StreamId.all.getD n .ctl

/-- A stream from its record (R309), the counts a bind starts at 0 (R387, R399; its retired count restarts too, log 6). NPC is open only where it was when
the image was written, at a PC that still stands in it (log 17). -/
def readStream (s : State) (m : List Nat) (n : Nat) : Stream :=
  let o := 0x100 + 0x400 * n
  let dw k := objDword s m (o + k)
  let pair k : LoopPair :=
    { act := (dw k).getLsbD 63, len := (dw k).extractLsb' 32 12, count := (dw k).extractLsb' 0 32,
      start := (dw (k + 8)).extractLsb' 0 57 }
  let misc := dw 0x218
  let here := (objDword s m 0x28, (objDword s m 0x30).extractLsb' 0 16, streamOfNat n, dw 0x208)
  { Stream.reset with
    x := Vector.ofFn (fun i => if i.val = 0 then 0 else dw (8 * i.val))
    full := dw 0x200 ||| 1
    pc := dw 0x208, npc := dw 0x210, npcOpen := decide (dw 0x210 = dw 0x208 + 4) && s.openPcs.contains here
    c := misc.extractLsb' 0 8, prepd := misc.extractLsb' 8 8
    b := Vector.ofFn (fun i => (dw (0x220 + 8 * i.val)).extractLsb' 0 57)
    loops := #v[pair 0x260, pair 0x270]
    femode := (dw 0x280).extractLsb' 0 1, wdlim := (dw 0x288).extractLsb' 0 48
    late := (dw 0x290).extractLsb' 1 1, ended := (dw 0x290).getLsbD 0 }

/-- A rounding state from its two dwords (R124). -/
def readRState (s : State) (m : List Nat) (o : Nat) : RState :=
  let a := objDword s m o
  { seed := a.extractLsb' 32 32, ovf := a.extractLsb' 3 1, mode := a.extractLsb' 0 3, dcnt := (objDword s m (o + 8)).extractLsb' 0 32 }

/-- A saved queue entry (R311). Words that are no instruction give a command that raises their cause whenever it is tried (log 19). -/
def readEntry (s : State) (m : List Nat) (o id : Nat) : QEntry :=
  let w0 := objBv s m o 4 32
  let w1 := objBv s m (o + 4) 4 32
  let flags := objDword s m (o + 8)
  let done := flags.getLsbD 0
  let bad : EncError → BitVec 10
    | .zero => Cause.encZero | .perm => Cause.encPerm | .major => Cause.encMajor | .func => Cause.encFunc | _ => Cause.encRsvd
  { instr := match decodeWords w0 w1 with | .ok i => i | .error _ => .nop 0
    refused := match decodeWords w0 w1 with | .ok _ => none | .error x => some (bad x)
    stream := streamOfNat (fieldOf flags 6 4)
    xops := Vector.ofFn (fun i => objDword s m (o + 0x10 + 8 * i.val))
    rs := readRState s m (o + 0x40)
    fpc := objDword s m (o + 0x50), tid := (objDword s m (o + 0x58)).extractLsb' 0 48
    shops := Vector.ofFn (fun i => objBv s m (o + 0x80 + 64 * i.val) 64 512)
    id := id, took := false, tookSets := ([], []), wrote := [], started := done, raised := false, done := done
    elems := if done && flags.getLsbD 7 then [objDword s m (o + 0x60)] else []
    headCnt := 0, work := none, faults := [], afterSt := 0, afterLd := 0, behind := [] }

/-- A page list entry (R67). -/
def readPage (v : BitVec 64) : PageEntry := { back := v.extractLsb' 16 36, alloc := v.getLsbD 0 }

/-- The channel and transfer identifier of a copy that has not completed. -/
def QEntry.pendingTid (e : QEntry) : Option (BitVec 3 × BitVec 48) :=
  if e.done then none
  else match e.instr with
    | .cpy _ _ _ _ _ ch _ _ _ _ => some (ch, e.tid)
    | .cpyw _ _ _ _ _ ch _ _ _ _ _ _ => some (ch, e.tid)
    | _ => none

/-- A channel from an image: a transfer between WM and NEXTID that no saved command stands for is complete (R288, R311). -/
def readChan (nextid wm : BitVec 48) (waiting : List (BitVec 48)) : Chan :=
  { nextid := nextid, wm := wm
    done := ((List.range (nextid.toNat - wm.toNat - 1)).map (fun i => wm + BitVec.ofNat 48 (i + 1))).filter (fun t => !waiting.contains t) }

/-- The page list of an image. -/
def readPages (s : State) (m : List Nat) : Vector PageEntry 64 :=
  Vector.ofFn (fun i => readPage (objDword s m (0x2D500 + 8 * i.val)))

/-- A group from sections 1 to 7 (R308 to R311) under its launch. Sideband bytes that a tag does not use are zero (R114), and DCNT of the matrix queue is 0
(R124). The counts DECSTALL and of waiting
heads, which no section holds, restart at 0 (log 6). -/
def readGroup (s : State) (m : List Nat) (lr : LaunchRec) (gindex : BitVec 16) (cls : BitVec 3) : Group :=
  let tagAt k := objBv s m (0x2500 + 0x2A800 + k) 1 4
  let vfull := objBv s m (0x2500 + 0x2A880) 16 128
  let qcnt (q : Nat) := Nat.min 16 (objNat s m (0x2DB00 + q) 1)
  let queues : Vector (List QEntry) 6 :=
    Vector.ofFn (fun q => (List.range (qcnt q.val)).map (fun k => readEntry s m (0x2DB00 + 0x100 + 0x100 * (16 * q.val + k)) k))
  let tids (i : Nat) : List (BitVec 48) :=
    (queues.toList.flatten.filterMap QEntry.pendingTid).filterMap (fun x => if x.1.toNat = i then some x.2 else none)
  let rqcnt (k : Nat) := Nat.min 16 (objNat s m (0x33C00 + 0x90 + k) 1)
  { lr := lr, gindex := gindex, cls := cls
    streams := Vector.ofFn (fun i => readStream s m i.val)
    p := Vector.ofFn (fun i => objBv s m (0x1500 + 128 * i.val) 128 1024)
    h := Vector.ofFn (fun i => objBv s m (0x1500 + 0x400 + 64 * i.val) 64 512)
    mrs := { readRState s m (0x1500 + 0x800) with dcnt := 0 }, vrs := readRState s m (0x1500 + 0x810)
    v := Vector.ofFn (fun i =>
      { data := objBv s m (0x2500 + 2048 * i.val) 2048 16384, side := sideOf (tagAt i.val) (objBv s m (0x2500 + 0x28000 + 128 * i.val) 128 1024),
        tag := tagAt i.val, full := vfull.getLsbD i.val })
    t := Vector.ofFn (fun i =>
      { data := objBv s m (0x2500 + 0x20000 + 8192 * i.val) 8192 65536, side := sideOf (tagAt (64 + i.val)) (objBv s m (0x2500 + 0x2A000 + 512 * i.val) 512 4096),
        tag := tagAt (64 + i.val), full := vfull.getLsbD (64 + i.val) })
    pages := readPages s m
    syncf := objBv s m (0x2D500 + 0x200) 1024 8192
    queues := queues
    chans := Vector.ofFn (fun i =>
      readChan (objBv s m (0x33C00 + 16 * i.val) 8 48) (objBv s m (0x33C00 + 16 * i.val + 8) 8 48) (tids i.val))
    stages := Vector.ofFn (fun i =>
      { stage := objBv s m (0x33C00 + 0x80 + 8 * i.val + 4) 2 16, cursor := objBv s m (0x33C00 + 0x80 + 8 * i.val) 2 16 })
    rq := Vector.ofFn (fun k => (List.range (rqcnt k.val)).map (fun j => objDword s m (0x33C00 + 0x100 + 8 * (16 * k.val + j))))
    cnum := Vector.ofFn (fun k => objBv s m (0x33C00 + 0xA0 + 8 * k.val) 8 48)
    ev := Vector.ofFn (fun i => objBv s m (0x34000 + 2 * i.val) 2 16)
    evstat := objBv s m (0x34000 + 0x40) 4 32
    tokens := Vector.ofFn (fun i => objNat s m (0x34000 + 0x48 + i.val) 1)
    tokSets := Vector.replicate 10 [], evSets := Vector.replicate 32 []
    tkts := (List.range (Nat.min 16 (objNat s m (0x34000 + 0x58) 1))).map
      (fun j => (objDword s m (0x34000 + 0x80 + 16 * j), objDword s m (0x34000 + 0x80 + 16 * j + 8)))
    lostTkt := objBv s m (0x34000 + 0x59) 1 8
    qdone := Vector.replicate 6 0
    qacc := Vector.ofFn (fun q => BitVec.ofNat 32 (qcnt q.val))
    evwait := [], scat := [], decstall := 0, headwait := 0, stopping := .no, halt := .none, trapped := none, damaged := []
    nextId := 16 }

/-- Whether the offsets and lengths of a header are those of R308. -/
def sectionsOk (s : State) (m : List Nat) : Bool :=
  sectionTable.zipIdx.all (fun e => objDword s m (0x40 + 8 * e.2) == (BitVec.ofNat 32 e.1.2 ++ BitVec.ofNat 32 e.1.1 : BitVec 64))

/-- Whether a run of an object is zero. -/
def zeroRun (s : State) (m : List Nat) (off n : Nat) : Bool := (objBytes s m off n).all (· == 0#8)

/-- No register tag of an image is one that R111 reserves. -/
def savedTagsOk (s : State) (m : List Nat) : Bool := (List.range 68).all fun i => objNat s m (0x2500 + 0x2A800 + i) 1 < 13

/-- The reserved fields of the sections (R309 to R311): the bits that a row calls reserved or zero, those of a saved register that its own rule does not
give it (R65, R67, R124, R170, R195), and a tag that R111 reserves. The bits that no rule names, of CHAN, STAGES, CNUM, VFULL and the gaps between rows, are
not looked at (log 56). -/
def sectionReserved (s : State) (m : List Nat) : Bool :=
  let dw o := objDword s m o
  ((List.range 5).all fun n =>
    let o := 0x100 + 0x400 * n
    (dw (o + 0x218)).extractLsb' 16 48 == 0#48 && (dw (o + 0x290)).extractLsb' 2 62 == 0#62 && zeroRun s m (o + 0x298) 0x168 &&
    (dw (o + 0x280)).extractLsb' 1 63 == 0#63 && (dw (o + 0x288)).extractLsb' 48 16 == 0#16 &&
    ((List.range 8).all fun i => (dw (o + 0x220 + 8 * i)).extractLsb' 57 7 == 0#7) &&
    ((List.range 2).all fun i => (dw (o + 0x260 + 16 * i)).extractLsb' 44 19 == 0#19 &&
      (dw (o + 0x268 + 16 * i)).extractLsb' 57 7 == 0#7)) &&
  ((List.range 2).all fun i => (dw (0x1500 + 0x800 + 16 * i)).extractLsb' 4 28 == 0#28 &&
    (dw (0x1500 + 0x808 + 16 * i)).extractLsb' 32 32 == 0#32) &&
  zeroRun s m (0x1500 + 0x820) 0x7E0 &&
  savedTagsOk s m &&
  ((List.range 64).all fun i => (dw (0x2D500 + 8 * i)).extractLsb' 52 12 == 0#12 && (dw (0x2D500 + 8 * i)).extractLsb' 1 15 == 0#15) &&
  ((List.range 6).all fun q => (List.range (objNat s m (0x2DB00 + q) 1)).all fun k =>
    let o := 0x2DB00 + 0x100 + 0x100 * (16 * q + k)
    (dw (o + 8)).extractLsb' 8 56 == 0#56 && (dw (o + 8)).extractLsb' 1 3 == 0#3 && (dw (o + 0x58)).extractLsb' 48 16 == 0#16 &&
    (dw (o + 0x40)).extractLsb' 4 28 == 0#28 && (dw (o + 0x48)).extractLsb' 32 32 == 0#32 && zeroRun s m (o + 0x68) 0x18)

/-- The reserved fields of the header of an object of R307, or of a frame of R328 but for its record. -/
def headReserved (s : State) (m : List Nat) (frame : Bool) : Bool :=
  let dw o := objDword s m o
  (dw 0).extractLsb' 48 16 == 0#16 && (dw 0x10).extractLsb' 36 26 == 0#26 && (dw 0x18).extractLsb' 16 48 == 0#48 &&
  (dw 0x30).extractLsb' 19 45 == 0#45 && (if frame then (dw 0x38).extractLsb' 32 32 == 0#32 else dw 0x38 == 0) && dw 0x78 == 0 &&
  (frame || zeroRun s m 0x80 0x80)

/-! ## Where an object lies -/

/-- The pages of an object named by a virtual address, as a write would reach them; none when it is no multiple of 4,096 or does not
translate writable into HBM (R312). -/
def objTranslate (s : State) (c : CoreId) (asid : BitVec 16) (sys : Bool) (va : BitVec 64) : Option (List Nat) :=
  if va.toNat % 4096 ≠ 0 then none
  else
    (List.range 53).foldr (fun i acc =>
      match acc with
      | none => none
      | some l =>
        let a := va + BitVec.ofNat 64 (4096 * i)
        if inWindow a then none
        else
          match findLeaf s c asid a with
          | .bad _ _ => none
          | .leaf e _ lg =>
            if permits e 1 sys && (region s (leafAddr e lg a)).isHbm then some (leafAddr e lg a :: l) else none) (some [])

/-! ## The first bind (R35) -/

/-- A stream of a new group: an entry address of 0 leaves it ended (R36). Whether NPC follows a one-word instruction is fixed when the
first instruction is fetched (R185; log 17). -/
def newStream (lr : LaunchRec) (recVa : BitVec 64) (gindex : BitVec 16) (n : Fin 5) : Stream :=
  let pc := lr.entries.get n
  { Stream.reset with
    x := ((((Vector.replicate 64 0).set 1 (gindex.zeroExtend 64)).set 2 recVa).set 3 (BitVec.ofNat 64 lr.g)).set 4 lr.user
    pc := pc, npc := if pc = 0 then 0 else pc + 4, npcOpen := decide (pc ≠ 0), ended := decide (pc = 0) }

/-- The state of a group at its first bind (R35, R67, R99, R105, R124, R288, R295). -/
def newGroup (lr : LaunchRec) (recVa : BitVec 64) (gindex : BitVec 16) (cls : BitVec 3) : Group :=
  let rs : RState := { seed := 0, ovf := lr.ovf, mode := lr.rmode, dcnt := 0 }
  { lr := lr, gindex := gindex, cls := cls, streams := Vector.ofFn (newStream lr recVa gindex)
    v := Vector.replicate 64 VReg.reset, t := Vector.replicate 4 TReg.reset, p := Vector.replicate 8 0, h := Vector.replicate 16 0
    ev := Vector.replicate 32 0, evstat := 0, tokens := Vector.replicate 10 0, tokSets := Vector.replicate 10 [], evSets := Vector.replicate 32 [], queues := Vector.replicate 6 [], mrs := rs, vrs := rs
    pages := Vector.replicate 64 { back := 0, alloc := false }, syncf := 0
    chans := Vector.replicate 8 { nextid := 1, wm := 0, done := [] }, stages := Vector.replicate 2 { stage := 0, cursor := 0 }
    rq := Vector.replicate 5 [], cnum := Vector.replicate 5 0, tkts := [], lostTkt := 0, qdone := Vector.replicate 6 0
    qacc := Vector.replicate 6 0, evwait := [], scat := [], decstall := 0, headwait := 0, stopping := .no, halt := .none
    trapped := none, damaged := [], nextId := 0 }

end Sys2Proof.Machine
end

