-- ==== Sys2Proof/Machine/Life.lean ====
section
/-! DEFINITION. Sys2Proof/Machine/Life.lean: the ends of things: chains freed (R155), retention registers released (R79), completion entries
(R318), the end of a launch (R320), the end of a group (R37, R69) and the freeing of its slot. -/

namespace Sys2Proof.Machine

open Sys2Proof

/-! ## Chains (R155) -/

/-- The chain with a number. -/
def findChain (s : State) (n : BitVec 12) : Option Chain := s.chains.find? (fun c => c.num == n)

/-- The core that holds a link (R136). -/
def Link.coreId (l : Link) : CoreId := ⟨l.die.val * 32 + l.core.val, by omega⟩

/-- An entry of an array of a core is retired: it never becomes free again (R408, R425). -/
def retireAt (s : State) (c : CoreId) (m : Fin 2) (slot : Nat) : State :=
  let core := s.cores.get c
  let h := core.arrays.get m
  s.setCore c { core with arrays := core.arrays.set m.val { h with ldead := h.ldead ||| BitVec.ofNat 16 (2 ^ slot) } }

/-- The lasting entries of a link that becomes free are retired: of a fused link, the one that is lasting (R408, R425). -/
def retireEntries (s : State) (l : Link) : State :=
  ([0, 1] : List (Fin 2)).foldl (fun s m => if l.lasting.getLsbD m.val then retireAt s l.coreId m l.slot else s) s

/-- Every link of a chain becomes FREE and its number is released; a lasting entry is retired (R155, R425). -/
def freeChain (s : State) (n : BitVec 12) : State :=
  match findChain s n with
  | none => s
  | some c =>
    let s := c.links.foldl retireEntries s
    { s with chains := s.chains.filter (fun c => c.num ≠ n) }

/-! ## Retention registers (R79) -/

/-- A register becomes invalid and its ways are released; the lines it placed become normal lines in place. -/
def releaseReg (s : State) (d : DieId) (i : Fin 8) : State :=
  let die := s.dies.get d
  let r := die.regs.get i
  s.setDie d { die with
    regs := die.regs.set i.val { r with v := false, owned := [], ways := 0 }
    l2 := die.l2.map (fun l => if l.reg = some i then { l with reg := none } else l) }

/-! ## The launch queue's completion entries (R317, R318) -/

/-- A dword of the launch queue header. -/
def lqDword (s : State) (off : Nat) : BitVec 64 := homeDword s (s.dawn.lqaddr.toNat + off)

/-- The size of the ring. -/
def lqSize (s : State) : Nat := 2 ^ fieldOf (lqDword s 0x10) 4 0

/-- Whether a completion entry can be written now. -/
def cplRoom (s : State) : Bool := decide (((lqDword s 0x30) - (lqDword s 0x38)).toNat < lqSize s)

/-- A scheduling event goes to the host when SCHED is 1 (R335, R373). -/
def schedEvt (s : State) (body : List (BitVec 64)) : State := if msplitBit s 0 then (sendNew s 0x02 body).1 else s

/-- A completion entry is written, then CPROD rises (R318, R319); an event that reports it follows (R372). -/
def writeCpl (s : State) (c : Completion) : State :=
  let n := (lqDword s 0x30).toNat
  let pa := fieldOf (lqDword s 0x28) 51 0 + 16 * (n % lqSize s)
  let s := l2Touch (l2Touch s pa none false true) (s.dawn.lqaddr.toNat + 0x30) none false true
  let s := homeWrite8 (homeWrite8 s pa c.lid) (pa + 8) c.dw1
  let s := homeWrite8 s (s.dawn.lqaddr.toNat + 0x30) (BitVec.ofNat 64 (n + 1))
  if c.evt then schedEvt s [c.lid, c.dw1] else s

/-- Entries waiting to be written are written while there is room. -/
def flushCpl : Nat → State → State
  | 0, s => s
  | fuel + 1, s =>
    match s.dawn.cpls with
    | [] => s
    | c :: rest => if cplRoom s then flushCpl fuel (writeCpl { s with dawn := { s.dawn with cpls := rest } } c) else s

/-- The second dword of a completion entry. -/
def cplDw1 (kind : BitVec 4) (cls : BitVec 3) (cause : BitVec 10) (index : BitVec 32) : BitVec 64 := kind ++ 0#15 ++ cls ++ cause ++ index

/-- A completion entry is due. -/
def pushCpl (s : State) (c : Completion) : State :=
  let s := { s with dawn := { s.dawn with cpls := s.dawn.cpls ++ [c] } }
  flushCpl s.dawn.cpls.length s

/-! ## The end of a launch (R320) -/

/-- The launch with an identifier, while it is live. -/
def findLaunch (s : State) (lid : BitVec 64) : Option Launch := s.dawn.launches.find? (fun l => l.lrec.id == lid)

/-- A launch replaced. -/
def setLaunch (s : State) (l : Launch) : State :=
  { s with dawn := { s.dawn with launches := s.dawn.launches.map (fun x => if x.lrec.id = l.lrec.id then l else x) } }

/-- The places whose slot is occupied by a group of a launch, or is being bound to one. -/
def placesOf (s : State) (lid : BitVec 64) : List Place :=
  (List.finRange 512).filter (fun p =>
    (match (s.slot p).group with | some g => g.lr.id == lid | none => false) || ((s.slot p).state == .binding && (s.slot p).latched.lid == lid))

/-- Whether waiting work belongs to a launch. -/
def Waiting.lidOf : Waiting → BitVec 64
  | .fresh l _ => l
  | .saved l _ _ _ _ _ => l
  | .resume l _ _ _ _ _ _ _ _ _ => l

/-- Whether every group of a launch has ended: one that is being ended under R394 needs only that none is bound. -/
def allEnded (s : State) (l : Launch) : Bool :=
  match l.ending with
  | some _ => (placesOf s l.lrec.id).isEmpty
  | none => l.bound == l.lrec.g && l.ended == l.bound + l.resumed

/-- Whether a continuation that a group of the launch sealed at its ORIGIN holds STATE 0 (R320). -/
def sealedLive (s : State) (l : Launch) : Bool := l.sealed.any (fun pa => (homeDword s (pa + 0x10)).extractLsb' 62 2 == 0#2)

/-- The chains, retention registers, watch entries and contexts of a launch are freed (R320). -/
def freeLaunchState (s : State) (lid : BitVec 64) : State :=
  let s := (s.chains.filter (fun c => c.owner == lid)).foldl (fun s c => freeChain s c.num) s
  let s := (List.finRange 4).foldl (fun s d =>
    (List.finRange 8).foldl (fun s i =>
      let r := (s.dies.get d).regs.get i
      if r.v && r.lid == lid then releaseReg s d i else s) s) s
  (List.finRange 4).foldl (fun s d =>
    let die := s.dies.get d
    s.setDie d { die with
      watch := die.watch.filter (fun w => w.owner ≠ lid)
      ctxs := die.ctxs.map (fun c => match c with | some x => if x.owner = lid then none else some x | none => none)
      loads := die.loads.filter (fun x => x.2.owner ≠ lid)
      outs := die.outs.map (fun x => match die.ctxs.get x.ctx with | some c => if c.owner = lid then { x with live := false } else x | none => x) }) s

/-- A launch ends when all its groups have ended and none of its continuations can be resumed; one ended under R394 does not wait for these. -/
def launchEnd (s : State) (lid : BitVec 64) : State :=
  match findLaunch s lid with
  | none => s
  | some l =>
    if allEnded s l && (l.ending.isSome || !sealedLive s l) then
      let s := freeLaunchState s lid
      let s := { s with dawn := { s.dawn with launches := s.dawn.launches.filter (fun x => x.lrec.id ≠ lid) } }
      pushCpl s { lid := lid, dw1 := cplDw1 3 l.lrec.cls (l.ending.getD 0) l.index }
    else s

/-! ## The end of a group (R37, R69) -/

/-- The frames that a group holds on a core are freed and their contents discarded. -/
def dropFrames (s : State) (c : CoreId) (lid : BitVec 64) (gi : BitVec 16) (hdl : Bool) : State :=
  let core := s.cores.get c
  s.setCore c { core with frames := core.frames.filter (fun f => !(f.lid == lid && f.gindex == gi && f.hdl == hdl)) }

/-- The backing frames of a page list return to their pools. -/
def returnPages (s : State) (ps : List PageEntry) : State := ps.foldl (fun s e => if e.alloc then returnPool s e.back else s) s

/-- The end of a group of a launch and class is sent to the host under SCHED = 1 (R335). -/
def groupEvt (s : State) (lid : BitVec 64) (cls : BitVec 3) : State :=
  schedEvt s [lid, cplDw1 3 cls 0 (match findLaunch s lid with | some l => l.index | none => 0)]

/-- A group whose state lies in a save frame is ended unsaved, and its frame released (R393, R394). -/
def dropSaved (s : State) (lid : BitVec 64) (gi : BitVec 16) (frame : Nat) (c : CoreId) : State :=
  let cls := (homeDword s (frame + 0x30)).extractLsb' 16 3
  let s := groupEvt (returnPages (dropFrames s c lid gi false) (readPages s (objPages frame)).toList) lid cls
  match findLaunch s lid with
  | some l => launchEnd (setLaunch s { l with ended := l.ended + 1 }) lid
  | none => s

/-- A bind begins: the record is latched (R323, R326). -/
def startBind (s : State) (p : Place) : State :=
  let sl := s.slot p
  s.setSlot p { sl with latched := sl.brec, state := .binding, pending := false, permit := false }

/-- The load that an unstarted COLLD of a place had begun is given up: its answers are not awaited, and what the context held before stays (R302; log 70). -/
def dropLoads (s : State) (p : Place) : State :=
  let d := dieOfPlace p
  let die := s.dies.get d
  { s.setDie d { die with loads := die.loads.filter (fun x => x.2.loader ≠ p) } with
    dawn := { s.dawn with colReqs := s.dawn.colReqs.filter (fun x => x.2 ≠ p) } }

/-- A record with V = 0. -/
def BindRec.clearV (r : BindRec) : BindRec := { r with dw0 := r.dw0 &&& ~~~(1#64 <<< 63) }

/-- The standby of a slot's core is bound in it for one slice (R331). -/
def bindStandby (s : State) (p : Place) : State :=
  let sl := s.slot p
  s.setSlot p { sl with latched := (s.cores.get (coreOf p)).standby, state := .binding, permit := false, dusk := true }

/-- The releases of a group that leaves its slot: those at .grp bind no other group, and its scratchpad words are no one else's (R90, R94). -/
def forgetReleases (s : State) (p : Place) : State :=
  let c := s.clusters.get (clusterOfPlace p)
  let own (r : Release) : Release := if r.place = p then { r with wrote := r.wrote.filter (fun w => match w.1 with | .mem _ => true | .spad _ => false) } else r
  s.setCluster (clusterOfPlace p) { c with released := (c.released.filter (fun r => !(r.place == p && r.scope == 0))).map own }

/-- A slot becomes free, and a record that waits for it binds (R323). An occupant that leaves before the dusk turn on its slot has saved it makes way for
the standby; the standby that leaves in its slice is spent, and the slot's own record binds again (R331). -/
def freeSlot (s : State) (p : Place) : State :=
  let s := forgetReleases (dropLoads s p) p
  let sl := s.slot p
  let core := s.cores.get (coreOf p)
  let standby := sl.dusk && sl.latched == core.standby
  let s := if standby then s.setCore (coreOf p) { core with standby := core.standby.clearV } else s
  let turn := sl.dusk && !standby
  let s := s.setSlot p { sl with
    group := none, state := .free, left := 0, debt := 0, permit := false, dusk := false, preempting := false, cutNow := false
    brec := if turn && !sl.pending then sl.brec.clearV else sl.brec
    dbg := { sl.dbg with att := false, halted := false, stepping := false, hreq := false } }
  if turn && core.standby.valid then bindStandby s p
  else if (sl.pending || standby) && sl.brec.valid then startBind s p
  else s.setSlot p { s.slot p with pending := false }

/-- The pages of a group are freed, and its slot (R37, R69). -/
def vacate (s : State) (p : Place) (g : Group) : State :=
  freeSlot (returnPages (dropFrames s (coreOf p) g.lr.id g.gindex g.trapped.isSome) g.pages.toList) p

/-- The group at a place ends: its pages are freed, its shared state is discarded and its slot is freed (R37, R69). A handler group that
ends otherwise than by TRET ends the trapped group with it (R393). -/
def endGroup (s : State) (p : Place) : State :=
  match s.group p with
  | none => s
  | some g =>
    let s := groupEvt (vacate s p g) g.lr.id g.cls
    match g.trapped with
    | some x => dropSaved s g.lr.id x.gindex x.frame x.core
    | none =>
      match findLaunch s g.lr.id with
      | some l => launchEnd (setLaunch s { l with ended := l.ended + 1 }) g.lr.id
      | none => s

end Sys2Proof.Machine
end

