-- ==== Sys2Proof/Machine/Control.lean ====
section
/-! DEFINITION. Sys2Proof/Machine/Control.lean: split control transfer (R197 to R204), hardware loops (R205 to R208), group control (R209)
and TRAP and BRK (R210, R211). -/

namespace Sys2Proof.Machine

open Sys2Proof

/-! ## R197, R198: PREP, PREPR -/

/-- The address PREP names (R197). -/
def prepAddr (pc : BitVec 64) (i : BitVec 18) : BitVec 57 := (pc + i.signExtend 64 * 4).extractLsb' 0 57

def execPrep (r : BitVec 4) (b : BitVec 3) (i : BitVec 18) (s : State) :=
  plain anyStream r 0 (onStream (fun t => .done (t.setB b (prepAddr t.pc i)))) s

def execPrepr (r : BitVec 4) (b : BitVec 3) (a : BitVec 6) (s : State) :=
  plain anyStream r 0 (onStream (fun t =>
    t.reads [a] (
      let v := t.getX a
      if v.extractLsb' 0 2 ≠ 0#2 ∨ v.extractLsb' 57 7 ≠ 0#7 then .trap (.plain Cause.tgtAlign)
      else .done (t.setB b (v.extractLsb' 0 57))))) s

/-! ## R200 to R203, R207: XFER -/

/-- The instructions that R202 forbids in the delay slot: XFER, LOOP, LOOPI, ENDG, TRET, SUSPEND, RESUME, known by major and func. -/
def slotForbidden (w : BitVec 32) : Bool :=
  let m := majorOf w
  let f := w.extractLsb' 0 3
  m == 0x1A#7 || m == 0x1B#7 || m == 0x1C#7 || (m == 0x1D#7 && (f == 1#3 || f == 4#3 || f == 5#3)) || (m == 0x1F#7 && f == 3#3)

/-- A taken transfer ends the loops whose body does not hold its target (R207). -/
def leaveLoops (t : Stream) (target : Nat) : Stream :=
  { t with loops := t.loops.map (fun l =>
      if l.act && !decide (l.start.toNat ≤ target ∧ target < l.start.toNat + 4 * l.len.toNat) then { l with act := false, count := 0 } else l) }

/-- After a transfer through b(i) and its delay slot, words fetched ahead before b(i) was prepared are not executed (R203). -/
def aimThrough (t : Stream) (b : BitVec 3) : Stream := { t with floorNext := some (t.prepAt.get b.toFin) }

/-- XFER (R201, R202, R207): the checks are made whether or not the transfer is taken; the delay slot runs next. The slot's word is fetched again when the
slot is executed (log 71). -/
def transfer (b : BitVec 3) (taken : Stream → Bool) (e : Env) : Act State :=
  let t := e.t
  if t.isPrep b = false then .trap (.plain Cause.tgtUnprep)
  else
    match fetch e.s e.p e.g e.st t.npc with
    | .trap s x => .trapIn s x
    | .wait s => .wait s
    | .word s w =>
      if slotForbidden w then .trapIn s (.plain Cause.xferSlot)
      else if t.loops.toList.any (fun l => l.endsIn t.pc 4 || l.endsIn t.npc (lengthOf w)) then .trapIn s (.plain Cause.loopTail)
      else
        match s.group e.p with
        | none => .done s
        | some g =>
          let t := g.stream e.st
          let target : BitVec 64 := (t.b.get b.toFin).zeroExtend 64
          if taken t then
            .jump (s.setGroup e.p (g.setStream e.st (aimThrough (leaveLoops t target.toNat) b))) t.npc (some target)
          else .jump s t.npc (some (t.npc + BitVec.ofNat 64 (lengthOf w)))

def execXfer (r : BitVec 4) (b : BitVec 3) (s : State) := plain anyStream r 0 (transfer b (fun _ => true)) s
def execXferC (r : BitVec 4) (b c : BitVec 3) (s : State) := plain anyStream r 0 (transfer b (fun t => t.getC c)) s
def execXferNc (r : BitVec 4) (b c : BitVec 3) (s : State) := plain anyStream r 0 (transfer b (fun t => !t.getC c)) s

/-! ## R205: LOOP, LOOPI -/

/-- LOOP and LOOPI of a pair, over the length of the instruction, the body length and the trip count (R205). -/
def openLoop (l : BitVec 1) (size : Nat) (len : BitVec 12) (n : BitVec 32) (t : Stream) : Act Stream :=
  let i : Fin 2 := l.toFin
  let o : Fin 2 := (1 - l).toFin
  let start := t.pc + BitVec.ofNat 64 size
  let stop := start + 4 * len.zeroExtend 64
  let other := t.loops.get o
  if len = 0 then .trap (.plain Cause.loopLen)
  else if (t.loops.get i).act then .trap (.plain Cause.loopBusy)
  else if other.act ∧ other.start.toNat + 4 * other.len.toNat < stop.toNat then .trap (.plain Cause.loopNest)
  else if n = 0 then .jump t.landAnew stop none
  else .done { t with loops := t.loops.set i.val { act := true, len := len, count := n, start := start.extractLsb' 0 57 }, late := l }

def execLoop (r : BitVec 4) (l : BitVec 1) (a : BitVec 6) (n : BitVec 12) (s : State) :=
  plain anyStream r 0 (onStream (fun t => t.reads [a] (openLoop l 4 n ((t.getX a).extractLsb' 0 32) t))) s
def execLoopi (r ev : BitVec 4) (l : BitVec 1) (len : BitVec 12) (n : BitVec 28) (s : State) :=
  plain anyStream r ev (onStream (fun t => openLoop l 8 len (n.zeroExtend 32) t)) s

/-! ## R209, R203: NOP, ENDG, YIELD, IFENCE -/

def execNop (r : BitVec 4) (s : State) := plain anyStream r 0 (onStream (fun t => .done t)) s

/-- Whether one of some writes still stands in the buffer of the cluster of a place (R88). -/
def anyBuffered (s : State) (p : Place) (ids : List Nat) : Bool := (s.clusters.get (clusterOfPlace p)).buf.any (fun b => ids.contains b.id)

/-- Whether stores of the stream still stand in the cluster's buffer (R88). -/
def ownPending (s : State) (p : Place) (t : Stream) : Bool := anyBuffered s p (t.own.map (·.1))

/-- The writes that a stream's later releases, accesses and commands come after, its own apart (R93, R94, R97). -/
def Stream.comesAfter (t : Stream) : List Nat := t.cumSet ++ t.acq ++ t.fenced ++ t.seen.flatMap (·.2)

/-- The same for what a group shares: the sets that its tokens and posts carry, and those that its commands come after (R52, R94, R96, R97). -/
def Group.comesAfter (g : Group) : List Nat :=
  g.tokSets.toList.flatten.flatten ++ g.evSets.toList.flatten.flatten ++
  g.queues.toList.flatten.flatMap (fun e => e.behind ++ e.tookSets.1 ++ e.tookSets.2)

/-- Whether the accesses of a group are complete: its load and store queues are empty, their stores have reached their home points, and no BARA waits
at its slice (R313 steps 2 and 3, R327 step 3); and whether every write that an access after the cut comes after has reached its home point too (R93, R94,
R97; log 78). -/
def streamsQuiet (s : State) (p : Place) (g : Group) : Bool :=
  StreamId.all.all (fun st =>
    let t := g.stream st
    !t.atSlice && t.loads.isEmpty && t.stores.isEmpty && t.arrivals.isEmpty && !ownPending s p t && !anyBuffered s p t.comesAfter) &&
  !anyBuffered s p g.comesAfter

/-- Whether every started command of a group has completed too (R313 step 4, R327 step 3). -/
def groupQuiet (s : State) (p : Place) (g : Group) : Bool :=
  streamsQuiet s p g && QueueId.all.all (fun q => (g.queue q).all (fun e => !e.started || e.done))

/-- Whether a stream may retire ENDG: every command it placed has completed, its accesses have left its queues, and no value is on its way to it (R37, R65;
log 16); the last stream's waits for the group's pending scatter updates too (R296). -/
def mayEnd (g : Group) (st : StreamId) : Bool :=
  let t := g.stream st
  QueueId.all.all (fun q => (g.queue q).all (fun e => e.stream ≠ st || e.done)) && t.loads.isEmpty && t.stores.isEmpty && t.arrivals.isEmpty &&
  (g.scat.isEmpty || StreamId.all.any (fun o => o ≠ st && !(g.stream o).ended))

/-- A stream has ended; with the last one, the group ends (R37). -/
def endStream (e : Env) (s : State) : State :=
  match s.group e.p with
  | none => s
  | some g =>
    let g := g.setStream e.st { g.stream e.st with ended := true }
    let s := s.setGroup e.p g
    if StreamId.all.all (fun st => (g.stream st).ended) then endGroup s e.p else s

def execEndg (r : BitVec 4) (s : State) :=
  plainThen anyStream r 0 (fun e => if mayEnd e.g e.st then .done e.s else .wait e.s) endStream s

def execYield (r : BitVec 4) (s : State) :=
  plain anyStream r 0 (fun e => .done (e.s.setSlot e.p { e.s.slot e.p with left := 0 })) s

/-- IFENCE (R203): it waits until every earlier load and store of the stream has been performed. -/
def execIfence (r : BitVec 4) (s : State) :=
  plain anyStream r 0 (fun e =>
    if e.t.loads.isEmpty && e.t.stores.isEmpty && !ownPending e.s e.p e.t then
      onStream (fun t => .done { t with prepd := 0, pre := [], mark := t.mark + 1 }) e
    else .wait e.s) s

/-! ## R210, R211: TRAP, BRK -/

/-- TRAP and BRK go on to NPC and the address after the instruction there, also at the end of a loop body: the loop-back is for an instruction that raises
no cause (R206, R210, R211). -/
def pastTrap (e : Env) : Act State := .jump e.s e.t.npc none

def execTrap (r : BitVec 4) (n : BitVec 9) (s : State) :=
  plainThen anyStream r 0 pastTrap (fun e s =>
    raise s e.p { stream := e.st, queue := none, async := false, fpc := e.t.pc }
      { cause := Cause.trapInsn, info0 := n.zeroExtend 64, lvl := 0, kind := 0 }) s

def execBrk (r : BitVec 4) (n : BitVec 12) (s : State) :=
  plainThen anyStream r 0 pastTrap (fun e s =>
    raise s e.p { stream := e.st, queue := none, async := false, fpc := e.t.pc }
      { cause := if (s.slot e.p).dbg.att then Cause.brkHit else Cause.brkNodbg, info0 := n.zeroExtend 64, lvl := 0, kind := 0 }) s

/-- A word that is never executed (R165, R385): its cause is taken at the stream before any ring-bit action. -/
def execIllegalEncoding (cause : EncError) (s : State) : Host.Outcome State Fault Refusal :=
  let p := s.curPlace
  let st := s.curStream
  match s.group p with
  | none => .next s
  | some g =>
    if canIssue (s.slot p) g st = false then .next s
    else
      .next (raise s p { stream := st, queue := none, async := false, fpc := (g.stream st).pc } (.plain (match cause with
        | .zero => Cause.encZero | .perm => Cause.encPerm | .major => Cause.encMajor | .func => Cause.encFunc
        | .rsvd => Cause.encRsvd | .truncated => Cause.encRsvd)))

end Sys2Proof.Machine
end

