-- ==== Sys2Proof/Machine/Fetch.lean ====
section
/-! DEFINITION. Sys2Proof/Machine/Fetch.lean: the fetch and decoding of the next instruction of a stream (R160, R165, R185). -/

namespace Sys2Proof.Machine

open Sys2Proof

/-- What a turn comes to: an instruction or event to run, no more than a change of state, or a turn that stands for nothing. -/
inductive Ready where
  | run (i : Instr) (s : State)
  | idle (s : State)
  | bad

/-- The next instruction of the stream of the state: fetched, its extension word with it, and decoded; a word that is no instruction gives
the event that catches it. A stream that cannot issue does nothing (R37, R386, R397). The words of an instruction that waits are fetched again at each try
(log 71). -/
def nextInstr (s : State) : Ready :=
  let p := s.curPlace
  let st := s.curStream
  match s.group p with
  | none => .idle s
  | some g =>
    let t := g.stream st
    if canIssue (s.slot p) (g.setStream st { t with npcOpen := false }) st = false then .idle s
    else
      let at_ : RaisedAt := { stream := st, queue := none, async := false, fpc := t.pc }
      match fetch s p g st t.pc with
      | .trap s x => .idle (raise s p at_ x)
      | .wait s => .idle s
      | .word s w0 =>
        let finish (s : State) (w1 : BitVec 32) : Ready :=
          match s.group p with
          | none => .idle s
          | some g =>
            let s := s.setGroup p (g.setStream st { (g.stream st).settle (lengthOf w0) with len := lengthOf w0 })
            match decodeWords w0 w1 with
            | .ok i => .run i s
            | .error x => .run (.illegalEncoding x) s
        if lengthOf w0 = 8 then
          match fetch s p g st (t.pc + 4) with
          | .trap s x => .idle (raise s p at_ x)
          | .wait s => .idle s
          | .word s w1 => finish s w1
        else finish s 0

end Sys2Proof.Machine
end

