-- ==== Sys2Proof/Machine/Slots.lean ====
section
/-! DEFINITION. Sys2Proof/Machine/Slots.lean: what the dispatch hardware does to a slot: pre-emption (R327), writes of bind records (R323),
slices (R329), gangs (R332, R333), halts asked for by a debugger (R403 to R405). -/

namespace Sys2Proof.Machine

open Sys2Proof

/-! ## Slices -/

/-- The start of a slice (R329): its length, and the debt after it. -/
def sliceStart (slice debt : Nat) : Nat × Nat :=
  let eff := Nat.max (slice - debt) ((slice + 3) / 4)
  (eff, debt - (slice - eff))

/-- A slot starts a slice (R329, R330). -/
def startSlice (s : State) (p : Place) : State :=
  let sl := s.slot p
  let (eff, debt) := sliceStart sl.latched.slice sl.debt.toNat
  s.setSlot p { sl with left := BitVec.ofNat 32 eff, debt := BitVec.ofNat 32 debt, sleMark := sl.sle }

/-! ## Pre-emption -/

/-- A pre-emption begins (R327 steps 1 and 2): the generation number rises and every stream stops at its boundary. A group that is being
cut, suspended or already saved goes on as it is (R313, R337). One that a debugger holds halted is remembered as halted, with its reason (R337, R404), and
so is one whose halt has been asked for: its boundary is this one. -/
def preempt (s : State) (p : Place) : State :=
  let sl := s.slot p
  match sl.group with
  | none => s
  | some g =>
    match g.stopping with
    | .no =>
      let halt : HaltReq := if sl.state = .halted then .asked sl.dbg.reason else g.halt
      let dbg : Debug := match g.halt with
        | .asked reason => { sl.dbg with reason := reason, record := haltRecord s p g reason }
        | .none => sl.dbg
      { s with fresh := s.fresh + 1 }.setSlot p { sl with
        group := some { cancelAll g with stopping := .preempt, halt := halt }, gen := sl.gen + 1, state := .fencing, preempting := false
        dbg := { dbg with halted := false, stepping := false } }
    | _ => s

/-- Whether the occupant of a slot belongs to a gang launch. -/
def Slot.isGang (sl : Slot) : Bool := match sl.group with | some g => g.lr.gang | none => false

/-- Whether a record that waits for an occupied slot pre-empts its occupant now: PRE, or V = 0 for a gang group, and a non-zero SAVE (R323,
R333). -/
def Slot.displacesNow (sl : Slot) : Bool :=
  sl.pending && sl.latched.savePa != 0 && (sl.brec.pre || (sl.isGang && !sl.brec.valid)) &&
  (sl.state == .running || sl.state == .held || sl.state == .halted)

/-- A write of the first dword of a bind record acts (R323). Reserved fields ignore the write (R8). -/
def writeRecord (s : State) (p : Place) (v : BitVec 64) : State :=
  let sl := s.slot p
  let v := v &&& ~~~(0x300000000F0000#64)
  let rec' : BindRec := { sl.brec with dw0 := v }
  let kindOk := rec'.kind == 1#3 || rec'.kind == 2#3 || rec'.kind == 3#3
  if rec'.valid && !kindOk then s.setSlot p { sl with err := true }
  else if sl.state = .free then
    let s := s.setSlot p { sl with brec := rec', pending := false }
    if rec'.valid then startBind s p else s
  else if rec'.valid && rec'.lid == sl.latched.lid && rec'.gindex == sl.latched.gindex then
    let latched := { sl.latched with dw0 := (sl.latched.dw0 &&& ~~~(0x05CFFFFFFFF00000#64)) ||| (v &&& 0x05CFFFFFFFF00000#64), save := rec'.save }
    s.setSlot p { sl with
      brec := rec', latched := latched, pending := false
      state := if sl.state = .held ∧ !rec'.hold then .running else if sl.state = .running ∧ rec'.hold then .held else sl.state
      group := sl.group.map (fun g => { g with cls := rec'.cls }) }
  else
    let sl' := { sl with brec := rec', pending := true }
    let s := s.setSlot p sl'
    if sl'.displacesNow then preempt s p else s

/-- A write of the first dword of a core's standby record (R331). -/
def writeStandby (s : State) (c : CoreId) (v : BitVec 64) : State :=
  let core := s.cores.get c
  s.setCore c { core with standby := { core.standby with dw0 := v &&& ~~~(0x300000000F0000#64) } }

/-! ## Gangs (R332, R333) -/

/-- The places of a die that hold a group of the launch that the die's gang register names. -/
def gangPlaces (s : State) (d : DieId) : List Place :=
  (List.finRange 512).filter (fun p => dieOfPlace p == d &&
    (match (s.slot p).group with | some g => g.lr.id == (s.dies.get d).gangId | none => false))

/-- OP 1: HOLD is cleared. -/
def clearHold (s : State) (d : DieId) : State :=
  (gangPlaces s d).foldl (fun s p =>
    let sl := s.slot p
    let clr (r : BindRec) : BindRec := { r with dw0 := r.dw0 &&& ~~~(1#64 <<< 58) }
    s.setSlot p { sl with latched := clr sl.latched, brec := if sl.pending then sl.brec else clr sl.brec,
                          state := if sl.state = .held then .running else sl.state }) s

/-- Whether the switch of the group at a place is complete: it is being pre-empted and nothing of it is outstanding (R327 step 4). -/
def switched (s : State) (p : Place) : Bool :=
  match (s.slot p).group with
  | none => false
  | some g => (match g.stopping with | .preempt => true | _ => false) && groupQuiet s p g

/-- OP 2: the saves of the die's groups of the launch whose switch is complete are permitted (R333, R337). -/
def permitSaves (s : State) (d : DieId) : State :=
  (gangPlaces s d).foldl (fun s p => if switched s p then s.setSlot p { s.slot p with permit := true } else s) s

/-! ## Debugging (R403 to R405) -/

/-- HREQ: the group halts at its next boundary, one that is being bound once it is bound (R403, R404). -/
def askHalt (s : State) (p : Place) : State :=
  let sl := s.slot p
  match sl.group with
  | none => if sl.state = .binding then s.setSlot p { sl with dbg := { sl.dbg with hreq := true } } else s
  | some g =>
    match g.stopping, g.halt with
    | .no, .none => if sl.state = .running ∨ sl.state = .held then s.setGroup p (askStop g Cause.dbgHalt) else s
    | _, _ => s

/-- A group whose causes may be raised again: the instructions and commands that raised one are tried anew (R406). -/
def tryAgain (g : Group) : Group :=
  let g := StreamId.all.foldl (fun g st => g.setStream st { g.stream st with raised := false }) g
  QueueId.all.foldl (fun g q => g.setQueue q ((g.queue q).map (fun e => { e with raised := false }))) g

/-- RUN: a halted group issues again, or only the streams that STEP names, one instruction each. A group that was bound with HOLD is held again until HOLD
is cleared (log 76). -/
def debugResume (s : State) (p : Place) : State :=
  let sl := s.slot p
  match sl.group with
  | none => s
  | some g =>
    if sl.state = .halted then
      let named (st : StreamId) : Bool := sl.dbg.step.getLsbD st.toFin.val && !(g.stream st).ended
      let stepping := sl.dbg.step ≠ 0
      if stepping ∧ StreamId.all.all (fun st => !named st) then s
      else
        let g := StreamId.all.foldl (fun g st => g.setStream st { g.stream st with mayStep := named st && decide stepping }) (tryAgain g)
        s.setSlot p { sl with
          group := some { g with stopping := .no }, state := if sl.latched.hold then .held else .running
          dbg := { sl.dbg with halted := false, stepping := stepping } }
    else s

/-- A write of the dword at 0x00 of a debug block: ATT and STEP, then RUN, then HREQ (R403). -/
def writeDebug (s : State) (p : Place) (v : BitVec 64) : State :=
  let sl := s.slot p
  let s := s.setSlot p { sl with dbg := { sl.dbg with att := v.getLsbD 63, step := v.extractLsb' 48 5 } }
  let s := if v.getLsbD 61 then debugResume s p else s
  if v.getLsbD 60 then askHalt s p else s

/-! ## Invalidation (R334) -/

/-- An invalidation starts on a die. -/
def startInval (s : State) (d : DieId) : State := s.setDie d { s.dies.get d with invBusy := true }

/-- The supply-sag lock of a die ends, and the count of R30 starts afresh (R437). -/
def clearSagLock (s : State) (d : DieId) : State := s.setDie d { s.dies.get d with lock := false, slowRun := 0 }

/-- A rekey of a die starts (R369). -/
def startRekey (s : State) (d : DieId) : State :=
  { s with dawn := { s.dawn with rekeyBusy := true, rekeyDie := BitVec.ofNat 2 d.val, rekeyOf := d } }

end Sys2Proof.Machine
end

