-- ==== Sys2Proof/Machine/Dcr.lean ====
section
/-! DEFINITION. Sys2Proof/Machine/Dcr.lean: die control registers and Dawn control registers, read and written as dwords (R7, R8, R23, R216, R363). -/

namespace Sys2Proof.Machine

open Sys2Proof

/-- The ways that the valid registers of a die own. -/
def ownedWays (die : Die) : Nat := (die.regs.toList.map (fun r => if r.v then r.owned.length else 0)).sum

/-- A dword is written at an offset of a die's control registers: read-only fields ignore it (R7, R216). Of a write of the invalidation pair while BUSY is 1
R334 says nothing: the model lets the new range and ASID take the place of those of the invalidation under way (log 57). -/
def dcrWrite (s : State) (d : DieId) (off : Nat) (v : BitVec 64) : State :=
  let die := s.dies.get d
  if off = 0 then
    let n := Nat.min 8 (fieldOf v 3 0)
    if n < ownedWays die then s else s.setDie d { die with rways := BitVec.ofNat 4 n }
  else if off = 0x1000 then (if die.poolTaken = [] then s.setDie d { die with poolBase := v.extractLsb' 16 36 } else s)
  else if off = 0x1008 then (if die.poolTaken = [] then s.setDie d { die with poolCount := v.extractLsb' 0 20 } else s)
  else if off = 0x2000 then s.setDie d { die with atabBase := v.extractLsb' 20 32, atabEn := v.getLsbD 0 }
  else if 0x20000 ≤ off ∧ off < 0x22000 then
    let c := fin32 ((off - 0x20000) / 0x100)
    let k := off % 0x100
    if k < 0x80 then
      let p := placeAt d c (fin4 (k / 0x20))
      if k % 0x20 = 0 then writeRecord s p v else s.setSlot p { s.slot p with brec := (s.slot p).brec.setDword (k % 0x20 / 8) v }
    else if k < 0xA0 then
      let core := s.cores.get (coreAt d c)
      if k = 0x80 then writeStandby s (coreAt d c) v else s.setCore (coreAt d c) { core with standby := core.standby.setDword (k % 0x20 / 8) v }
    else s
  else if 0x22000 ≤ off ∧ off < 0x23000 then
    let p := placeAt d (fin32 ((off - 0x22000) / 0x80)) (fin4 (off % 0x80 / 0x20))
    if off % 0x20 = 0 ∧ v.getLsbD 60 then s.setSlot p { s.slot p with err := false } else s
  else if off = 0x23000 then
    let s := s.setDie d { die with invAll := v.getLsbD 62, invPages := v.extractLsb' 16 32, invAsid := v.extractLsb' 0 16 }
    if v.getLsbD 63 then startInval s d else s
  else if off = 0x23008 then s.setDie d { die with invVa := v.extractLsb' 16 41 }
  else if off = 0x23040 then s.setDie d { die with gangId := v }
  else if off = 0x23048 then
    (if v.extractLsb' 0 2 = 1#2 then clearHold s d else if v.extractLsb' 0 2 = 2#2 then permitSaves s d else s)
  else if 0x24000 ≤ off ∧ off < 0x2C000 ∧ off % 0x100 = 0 then
    writeDebug s (placeAt d (fin32 ((off - 0x24000) / 0x400)) (fin4 (off % 0x400 / 0x100))) v
  else if off = 0x41000 then (if v.getLsbD 62 then clearSagLock s d else s)
  else s

/-! ## The Dawn window (R362, R363) -/

/-- A Dawn control register (R363, R436). -/
def dawnRegRead (s : State) (off : Nat) : BitVec 64 :=
  let w := s.dawn
  if off = 0 then 0#16 ++ w.inc.get 3 ++ w.inc.get 2 ++ w.inc.get 1 ++ w.inc.get 0 ++ 0#8 ++ w.rel ++ w.live
  else if off = 8 then w.lqaddr.zeroExtend 64
  else if off = 0x10 then w.stage ++ 0#18 ++ w.cause ++ 0#32
  else if off = 0x18 then BitVec.ofBool w.rekeyBusy ++ 0#61 ++ w.rekeyDie
  else if off = 0x20 then w.crcf ++ w.badf
  else if off = 0x28 then w.msplit.zeroExtend 64
  else 0

/-- A dword of the Dawn window as the Dawn die's agents and the host read it. -/
def dawnRead (s : State) (off : Nat) : BitVec 64 :=
  if 0x10000000 ≤ off ∧ off < 0x10001000 then dawnRegRead s (off - 0x10000000) else homeDword s (dawnAddr off)

/-- A write of a Dawn control register by the management core (R363, R171, R369); one of MSPLIT is ignored at STAGE 15, where the machine has halted (log 74). -/
def dawnRegWrite (s : State) (off : Nat) (v : BitVec 64) : State :=
  if off = 8 then { s with dawn := { s.dawn with lqaddr := v.extractLsb' 0 52 } }
  else if off = 0x18 then
    let s := { s with dawn := { s.dawn with rekeyDie := v.extractLsb' 0 2 } }
    if v.getLsbD 63 && !s.dawn.rekeyBusy then startRekey s s.dawn.rekeyDie.toFin else s
  else if off = 0x28 then (if 1 ≤ s.dawn.stage.toNat ∧ s.dawn.stage ≠ 15#4 then { s with dawn := { s.dawn with msplit := v.extractLsb' 0 5 } } else s)
  else s

/-- A dword is written by the management core at a control register (R216, R363). -/
def registerStore (s : State) (pa : Nat) (v : BitVec 64) : State :=
  if pa % 8 ≠ 0 then s
  else
    match region s pa with
    | .dcr d off => dcrWrite s d off v
    | .dawn off => if 0x10000000 ≤ off ∧ off < 0x10001000 then dawnRegWrite s (off - 0x10000000) v else s
    | _ => s

end Sys2Proof.Machine
end

