-- ==== Sys2Proof/Machine/LoadStore.lean ====
section
/-! DEFINITION. Sys2Proof/Machine/LoadStore.lean: loads and stores (R215, R216), the performance of the entries of load and store queues and of
cluster store buffers (R86 to R88, R91, R411 to R416), scratchpad fills (R68), and cache control (R221 to R224). -/

namespace Sys2Proof.Machine

open Sys2Proof

/-! ## Where an access goes -/

/-- The target of an access: the scratchpad, a location behind a slice or a bank (ht: an HT page, R85), or a die control register. -/
inductive Target where
  | spad (off : Nat)
  | mem (pa : Nat) (ht : Bool)
  | dcr (d : DieId) (off : Nat)
  deriving DecidableEq, Repr

/-- What reaching an address answers. -/
inductive Reach where
  | ok (s : State) (t : Target)
  | wait (s : State)
  | trap (s : State) (x : Trap)

/-- An address as a stream reaches it: the window first, then translate, then PA_NODIE (R66, R83, R384). -/
def reach (e : Env) (va : BitVec 64) (kind : BitVec 2) (setD : Bool) : Reach :=
  if inWindow va then
    (if windowDead e.s e.p e.g (va.toNat - windowBase) then .trap e.s (Trap.at Cause.paNodie va kind) else .ok e.s (.spad (va.toNat - windowBase)))
  else
    match translateAs e.s e.p e.g e.st va kind setD with
    | .wait s => .wait s
    | .bad s cause lvl => faultStream s e.p e.g e.st va kind cause lvl .wait .trap
    | .ok s pa ht =>
      match region s pa with
      | .hbm _ | .attic _ => .ok s (.mem pa ht)
      | .dcr d off => .ok s (.dcr d off)
      | _ => .trap s (Trap.at Cause.paNodie va kind)

/-- The location of a target that a queue serves. -/
def Target.loc : Target → Loc
  | .spad off => .spad off
  | .mem pa _ => .mem pa
  | .dcr _ _ => .mem 0

/-! ## LD (R215) -/

/-- The local count of the core of the instruction that issues (R440). -/
def Env.now (e : Env) : BitVec 64 := (e.s.cores.get (coreOf e.p)).cycle

/-- A load that issues at a local count enters the load queue and its destination becomes empty (R65, R87, R440). -/
def Stream.pushLoad (t : Stream) (now va : BitVec 64) (dest : LoadDest) (parts : List LoadPart) : Stream :=
  { t with
    loads := t.loads ++ [{ fpc := t.pc, va := va, dest := dest, parts := parts, after := t.storesIn, mark := t.mark, issued := t.issuedAt now }]
    loadsIn := t.loadsIn + 1 }

/-- x(d) is left empty by a load (DECSTALL of R172). -/
def Stream.leftByLoad (t : Stream) (d : BitVec 6) : Stream := if d = 0#6 then t else { t with byLoad := t.byLoad ||| (1#64 <<< d.toNat) }

/-- A scalar load of n bytes (R215, R216). A control register is read as the load issues, and its value arrives later (R440; log 72). -/
def loadScalar (n : Nat) (signed : Bool) (d a : BitVec 6) (i : BitVec 9) (e : Env) : Act State :=
  e.t.reads [a] (e.t.writes d (
    let va := effAddr (e.t.getX a) i n
    if va.toNat % n ≠ 0 then .trap (Trap.at Cause.memAlign va 0)
    else
      match reach e va 0 false with
      | .trap s x => .trapIn s x
      | .wait s => .wait s
      | .ok s (.dcr die off) =>
        if n ≠ 8 then .trapIn s (Trap.at Cause.dcrSize va 0)
        else .done (s.setGroup e.p (e.g.setStream e.st ((e.t.arriveLater d (dcrRead s die off) e.now).leftByLoad d)))
      | .ok s tgt =>
        if 16 ≤ e.t.loads.length then .hold
        else
          let t := (e.t.markEmpty d).leftByLoad d
          .done (s.setGroup e.p (e.g.setStream e.st (t.pushLoad e.now va (.scalar d n signed) [{ loc := tgt.loc, va := va.toNat, n := n, pos := 0 }])))))

def execLdB (r : BitVec 4) (d a : BitVec 6) (i : BitVec 9) (s : State) := plain anyStream r 0 (loadScalar 1 true d a i) s
def execLdBu (r : BitVec 4) (d a : BitVec 6) (i : BitVec 9) (s : State) := plain anyStream r 0 (loadScalar 1 false d a i) s
def execLdH (r : BitVec 4) (d a : BitVec 6) (i : BitVec 9) (s : State) := plain anyStream r 0 (loadScalar 2 true d a i) s
def execLdHu (r : BitVec 4) (d a : BitVec 6) (i : BitVec 9) (s : State) := plain anyStream r 0 (loadScalar 2 false d a i) s
def execLdW (r : BitVec 4) (d a : BitVec 6) (i : BitVec 9) (s : State) := plain anyStream r 0 (loadScalar 4 true d a i) s
def execLdWu (r : BitVec 4) (d a : BitVec 6) (i : BitVec 9) (s : State) := plain anyStream r 0 (loadScalar 4 false d a i) s
def execLdD (r : BitVec 4) (d a : BitVec 6) (i : BitVec 9) (s : State) := plain anyStream r 0 (loadScalar 8 true d a i) s

/-! ## ST (R215) -/

/-- A store enters the store queue when a number of cycles have ended (R87, R109); one to an HT page is held back for the earlier loads (R85). -/
def Stream.pushStore (t : Stream) (age : Nat) (ht : Bool) (parts : List StorePart) (entry : Option Nat) : Stream :=
  { t with
    stores := t.stores ++ [{ fpc := t.pc, ht := ht, parts := parts, entry := entry, id := t.storesIn, before := if ht then t.loadsIn else 0,
                             mark := t.mark, age := age }]
    storesIn := t.storesIn + 1 }

/-- A scalar store of n bytes (R215, R216, R67): its page is allocated when it issues. -/
def storeScalar (n : Nat) (x a : BitVec 6) (i : BitVec 9) (e : Env) : Act State :=
  e.t.reads [x, a] (
    let va := effAddr (e.t.getX a) i n
    if va.toNat % n ≠ 0 then .trap (Trap.at Cause.memAlign va 1)
    else
      match reach e va 1 true with
      | .trap s x => .trapIn s x
      | .wait s => .wait s
      | .ok s (.dcr _ _) => if n ≠ 8 then .trapIn s (Trap.at Cause.dcrSize va 1) else .done s
      | .ok s tgt =>
        if 16 ≤ e.t.stores.length then .hold
        else
          let ht := match tgt with | .mem _ h => h | _ => false
          let push (s : State) (g : Group) : Act State :=
            .done (s.setGroup e.p (g.setStream e.st ((g.stream e.st).pushStore s.now ht
              [{ loc := tgt.loc, va := va.toNat, op := .write (leBytes n (e.t.getX x).toNat), scale := none, ht := ht }] none)))
          match tgt with
          | .spad off =>
            match allocPage s e.p e.g (pageOf off) with
            | none => .trapIn s (Trap.at Cause.spPool va 1)
            | some (s, g) => push s g
          | _ => push s e.g)

/-- A store to a die control register acts as the store retires (R216). The ASID table register is written by the management core only (R80): a stream's
store to it is ignored, as one to a read-only field is (log 33). -/
def storeReg (x a : BitVec 6) (i : BitVec 9) (e : Env) (s : State) : State :=
  match reach e (effAddr (e.t.getX a) i 8) 1 true with
  | .ok _ (.dcr d off) => if off = 0x2000 then s else dcrWrite s d off (e.t.getX x)
  | _ => s

def execStB (r : BitVec 4) (x a : BitVec 6) (i : BitVec 9) (s : State) := plain anyStream r 0 (storeScalar 1 x a i) s
def execStH (r : BitVec 4) (x a : BitVec 6) (i : BitVec 9) (s : State) := plain anyStream r 0 (storeScalar 2 x a i) s
def execStW (r : BitVec 4) (x a : BitVec 6) (i : BitVec 9) (s : State) := plain anyStream r 0 (storeScalar 4 x a i) s
def execStD (r : BitVec 4) (x a : BitVec 6) (i : BitVec 9) (s : State) := plainThen anyStream r 0 (storeScalar 8 x a i) (storeReg x a i) s

/-! ## Scopes, releases and the reads they are paired with (R90, R93, R94) -/

/-- The agents that a scope can take in (R86, R90). -/
inductive Party where
  /-- A stream of the group at a place. -/
  | stream (p : Place) (st : StreamId)
  /-- An engine while it executes commands of the group at a place. -/
  | engine (p : Place) (q : QueueId)
  /-- An agent of a die: an L2 slice, a cellar adder, a fabric port. -/
  | ofDie (d : DieId)
  /-- The agents of the Dawn die and the management core. -/
  | dawn
  | host
  | fabric
  deriving DecidableEq, Repr

/-- The place of a stream or engine. -/
def Party.place : Party → Option Place
  | .stream p _ => some p
  | .engine p _ => some p
  | _ => none

/-- The die that holds an agent. -/
def Party.die : Party → Option DieId
  | .stream p _ => some (dieOfPlace p)
  | .engine p _ => some (dieOfPlace p)
  | .ofDie d => some d
  | _ => none

/-- Whether an agent of the package is meant: not the host, and not one reached through a fabric port. -/
def Party.inPackage : Party → Bool
  | .host => false
  | .fabric => false
  | _ => true

/-- Whether agent q lies in inst(S, P) for the agent P = a and a scope as R175 codes it (R90). -/
def inScope (scope : Nat) (a q : Party) : Bool :=
  a == q ||
  (match scope with
   | 0 => (match a.place, q.place with | some x, some y => x == y | _, _ => false)
   | 1 => (match a.place, q.place with | some x, some y => coreOf x == coreOf y | _, _ => false)
   | 2 => (match a.place, q.place with | some x, some y => clusterOfPlace x == clusterOfPlace y | _, _ => false)
   | 3 => (match a.die, q.die with | some x, some y => x == y | _, _ => false)
   | 4 => a.inPackage && q.inPackage
   | _ => true)

/-- The releases whose later writes a stream's read of some bytes meets, and in whose scope the stream lies: the first two conditions of R94. Each is
given by the releasing stream's place and its cumulative set. -/
def pairedWith (s : State) (p : Place) (st : StreamId) (ls : List Loc) : List (Place × List Nat) :=
  ((s.clusters.get (clusterOfPlace p)).released.filter (fun r =>
    inScope r.scope (.stream r.place r.stream) (.stream p st) &&
    r.wrote.any (fun w => ls.any (fun l => match w.1, l with
      | .mem a, .mem b => decide (a ≤ b ∧ b < a + w.2)
      | .spad a, .spad b => r.place == p && decide (a ≤ b ∧ b < a + w.2)
      | _, _ => false)))).map (fun r => (r.place, r.ids))

/-- An acquire at a scope S2 takes in the sets of the releases it is paired with: those whose stream lies in inst(S2, Q) (R94). -/
def Stream.acquire (t : Stream) (p : Place) (st : StreamId) (scope : Nat) (met : List (Place × List Nat)) : Stream :=
  let ids := (met.filter (fun m => inScope scope (.stream p st) (.stream m.1 .ctl))).flatMap (·.2)
  { t with cum := (t.cum ++ ids).dedup, acq := (t.acq ++ ids).dedup }

/-- Writes of a stream are performed: they come after the releases it has made (R94); a write of an engine command only after those that were made
before the command was placed. -/
def noteWrite (s : State) (p : Place) (st : StreamId) (entry : Option Nat) (ws : List (Loc × Nat)) : State :=
  let c := s.clusters.get (clusterOfPlace p)
  s.setCluster (clusterOfPlace p) { c with released := c.released.map (fun r =>
    if r.place == p && r.stream == st && (match entry with | some id => decide (r.before ≤ id) | none => true) then { r with wrote := r.wrote ++ ws } else r) }

/-! ## The performance of a load (R86 to R88, R91, R414 to R416) -/

/-- A zero-filled read of a poisoned line is recorded, at the storage that held the line before the read (R409, R415). -/
def recordZeroFill (was s : State) (p : Place) (g : Group) (l : Loc) : State :=
  match l with
  | .mem pa => recordZeroRead was s g.lr.id pa
  | .spad off =>
    let c := coreOf p
    let d := dieOfCore c
    logErr { s with fresh := s.fresh + 1 }
      { src := 4, kind := 1, die := BitVec.ofNat 4 d.val, core := BitVec.ofNat 7 c.val, sub := 0,
        count := siteCount s 4 d (c.val * 64 + off % 4096 / 128), cause := Cause.mcEcc, addr := 0, lid := g.lr.id, cycle := (s.dies.get d).cycle,
        synd := Config.freeBits s.fresh 64 }

/-- Whether a byte of a part comes from its home point: it is in none of the stream's queued stores and not in the cluster's buffer. -/
def fromHome (s : State) (p : Place) (t : Stream) (n : Nat) (l : Loc) : Bool :=
  (queuedByte t.stores n l).isNone && (match l with | .spad _ => true | .mem pa => (bufByte s (clusterOfPlace p) pa).isNone)

/-- What a read of a run of bytes by a stream finds. -/
structure ReadRun where
  bytes : List Byte
  /-- Lines found poisoned, by a location in each. -/
  bad   : List Loc
  /-- Entries of the cluster's buffer that gave bytes. -/
  bufs  : List Nat

/-- A run of bytes as a stream's access reads them: a byte of a poisoned line reads as zero (R415). -/
def readRun (s : State) (p : Place) (g : Group) (t : Stream) (n : Nat) (l : Loc) (k : Nat) : ReadRun :=
  let locs := (List.range k).map l.plus
  let bad := locs.filter (fun x => fromHome s p t n x && locPoisoned s p g x)
  { bytes := locs.map (fun x => if bad.contains x then 0#8 else streamByte s p g t n x)
    bad := bad
    bufs := (locs.filterMap (fun x => match x with
      | .mem pa => if (queuedByte t.stores n x).isNone then (bufEntry s (clusterOfPlace p) pa).map (·.id) else none
      | .spad _ => none)).dedup }

/-- Two locations of one line. -/
def Loc.sameLine : Loc → Loc → Bool
  | .mem a, .mem b => a / 128 == b / 128
  | .spad a, .spad b => a / 128 == b / 128
  | _, _ => false

/-- The locations of a list that first name their line. -/
def firstOfLines (ls : List Loc) : List Loc := ls.foldl (fun acc l => if acc.any (fun x => x.sameLine l) then acc else acc ++ [l]) []

/-- A value extended into a register (R215). -/
def extendLoad (bytes : List Byte) (n : Nat) (signed : Bool) : BitVec 64 :=
  let v : BitVec 64 := BitVec.ofNat 64 (leNat bytes)
  if signed then sext64 v (8 * n) else v

/-- Bytes laid over a register at a position (R260). -/
def overlay {w : Nat} (data : BitVec w) (pos : Nat) (bytes : List Byte) : BitVec w :=
  let m := BitVec.ofNat w (2 ^ (8 * bytes.length) - 1) <<< (8 * pos)
  (data &&& ~~~m) ||| (BitVec.ofNat w (leNat bytes) <<< (8 * pos))

/-- A vector register with loaded bytes: a position from 2,048 on is the sideband. -/
def VReg.put (r : VReg) (pos : Nat) (bytes : List Byte) : VReg :=
  if pos < 2048 then { r with data := overlay r.data pos bytes } else { r with side := overlay r.side (pos - 2048) bytes }

/-- The command of a queue with a number, changed. -/
def Group.mapEntry (g : Group) (q : QueueId) (id : Nat) (f : QEntry → QEntry) : Group :=
  g.setQueue q ((g.queue q).map (fun e => if e.id = id then f e else e))

/-- The access of a vector command has been performed (R260). -/
def accessDone (g : Group) (id : Nat) : Group :=
  g.mapEntry .vector id (fun e => { e with work := e.work.map (fun w => { w with access := false }) })

/-- Loaded bytes reach their destination, which becomes full (R65). -/
def deliver (g : Group) (st : StreamId) (dest : LoadDest) (parts : List (Nat × List Byte)) : Group :=
  match dest with
  | .scalar d n signed => g.setStream st ((g.stream st).fill d (extendLoad ((parts.head?.map (·.2)).getD []) n signed))
  | .vector d _ id =>
    let r := parts.foldl (fun (r : VReg) q => r.put q.1 q.2) (g.v.get d.toFin)
    accessDone { g with v := g.v.set d.toNat { r with full := true } d.isLt } id
  | .shape d => { g with h := g.h.set d.toNat (BitVec.ofNat 512 (leNat ((parts.head?.map (·.2)).getD []))) d.isLt }

/-- A load that raised MC_ECC leaves its destination empty (R416). -/
def deliverNone (g : Group) (dest : LoadDest) : Group :=
  match dest with
  | .vector _ _ id => accessDone g id
  | _ => g

/-- Whether the marks of a stream let an access of mark m be performed (R91): no earlier-marked access is queued, and none of its own
earlier-marked stores waits in the cluster's buffer. -/
def markClear (s : State) (p : Place) (t : Stream) (m : Nat) : Bool :=
  t.loads.all (fun l => m ≤ l.mark) && t.stores.all (fun x => m ≤ x.mark) &&
  !((s.clusters.get (clusterOfPlace p)).buf.any (fun b => t.own.any (fun o => o.1 == b.id && decide (o.2.1 < m))))

/-- The pages of the window that a load or store touches: all hold filled frames, or frames are being taken for them (R68). -/
def readyPages (s : State) (p : Place) (g : Group) (locs : List Loc) : FrameRes :=
  locs.foldl (fun acc l =>
    match acc, l with
    | .ready s, .spad off => ensureFrame s p g (pageOf off)
    | .wait s, .spad off => (match ensureFrame s p g (pageOf off) with | .ready s => .wait s | .wait s => .wait s)
    | acc, _ => acc) (.ready s)

/-- Whether a location is in a locked bank. -/
def Loc.locked (s : State) (p : Place) (l : Loc) (n : Nat) : Bool :=
  match l with | .spad off => bankLocked s p none off n | .mem _ => false

/-- Whether a load may be performed: eight cycles have passed since it issued, where it fills a register that a stream waits for, and none of its requests
crosses a link that is being retrained (R430, R440). -/
def loadReady (s : State) (p : Place) (r : LoadReq) : Bool :=
  (match r.dest with | .vector .. => true | _ => dueFrom (s.cores.get (coreOf p)).cycle r.issued) &&
  !r.parts.any (fun x => match x.loc with | .mem pa => farHeld s (dieOfPlace p) pa | .spad _ => false)

/-- The load at the head of a load queue is performed. -/
def performLoad (s : State) (p : Place) (st : StreamId) : State :=
  match s.group p with
  | none => s
  | some g =>
    let t := g.stream st
    match t.loads with
    | [] => s
    | r :: rest =>
      if !loadReady s p r || !markClear s p { t with loads := [] } r.mark || r.parts.any (fun x => x.loc.locked s p x.n) then s
      else
        match readyPages s p g (r.parts.map (·.loc)) with
        | .wait s => s
        | .ready s =>
          let was := s
          let runs := r.parts.map (fun x => readRun s p g t r.after x.loc x.n)
          let bad := firstOfLines (runs.flatMap (·.bad))
          let s := r.parts.foldl (fun s x => match x.loc with
            | .mem pa => if (List.range x.n).any (fun i => fromHome s p t r.after (.mem (pa + i))) then l2Touch s pa (some (g.lr.asid, x.va)) false false else s
            | .spad _ => s) s
          let met := pairedWith s p st (r.parts.flatMap (fun x => (List.range x.n).map x.loc.plus) |>.filter (fun l => (queuedByte t.stores r.after l).isNone))
          let t := { t with loads := rest, loadsDone := t.loadsDone + 1, cum := (t.cum ++ runs.flatMap (·.bufs)).dedup, seen := (t.seen ++ met).dedup }
          let g := g.setStream st t
          let at_ : RaisedAt := { stream := st, queue := none, async := true, fpc := r.fpc }
          if bad ≠ [] ∧ g.lr.ecc ≠ 1#2 then raise (s.setGroup p (deliverNone g r.dest)) p at_ (.plain Cause.mcEcc)
          else
            let s := bad.foldl (fun s l => recordZeroFill was s p g l) s
            s.setGroup p (deliver g st r.dest ((r.parts.zip runs).map (fun x => (x.1.pos, x.2.bytes))))

/-- LOAD_DATA_RETURN (R65, R87): k = 0 the head of the load queue, else a value on its way, which comes no sooner than R440 lets it. -/
def execLoadDataReturn (p : Place) (st : StreamId) (k : Nat) (s : State) : Host.Outcome State Fault Refusal :=
  match k with
  | 0 => .next (performLoad s p st)
  | k + 1 =>
    match s.group p with
    | none => .next s
    | some g =>
      let t := g.stream st
      match t.arrivals[k]? with
      | none => .next s
      | some (d, v, issued) =>
        let t' := { t with arrivals := t.arrivals.eraseIdx k }
        match issued with
        | none => .next (s.setGroup p (g.setStream st (t'.setX d v)))
        | some c => if dueFrom (s.cores.get (coreOf p)).cycle c then .next (s.setGroup p (g.setStream st (t'.fill d v))) else .next s

/-! ## The performance of a store -/

/-- Bytes merge into the entry of their line in a cluster's buffer, or take a new entry; none when the buffer is full (R88). -/
def mergeBuf (s : State) (cl : ClusterId) (asid : BitVec 16) (va pa : Nat) (bs : List Byte) : Option (State × Nat) :=
  let c := s.clusters.get cl
  let new := bs.zipIdx.map (fun b => (pa % 128 + b.2, b.1))
  match c.buf.find? (fun e => e.line == pa / 128) with
  | some e =>
    let bytes := e.bytes.filter (fun b => !new.any (fun n => n.1 == b.1)) ++ new
    some (s.setCluster cl { c with buf := c.buf.map (fun x => if x.id = e.id then { x with bytes := bytes, asid := asid, va := va } else x) }, e.id)
  | none =>
    if 64 ≤ c.buf.length then none
    else
      some (s.setCluster cl { c with buf := c.buf ++ [{ id := c.nextId, line := pa / 128, asid := asid, va := va, bytes := new, mates := [] }], nextId := c.nextId + 1 },
        c.nextId)

/-- A stream's own store has merged into an entry (R91, R93). -/
def Stream.ownEntry (t : Stream) (id mark no : Nat) : Stream :=
  { t with own := if t.own.any (fun o => o.1 == id) then t.own else t.own ++ [(id, mark, no)], cum := if t.cum.contains id then t.cum else t.cum ++ [id] }

/-- The runs of a run of bytes that lie in one line each: virtual address, physical address, bytes. -/
def lineRuns (va pa : Nat) (bs : List Byte) : List (Nat × Nat × List Byte) :=
  let k := 128 - pa % 128
  if bs.length ≤ k then [(va, pa, bs)] else [(va, pa, bs.take k), (va + k, pa + k, bs.drop k)]

/-- Entries of a cluster's buffer that hold the parts of one unit drain together (R103). -/
def linkMates (s : State) (cl : ClusterId) (ids : List Nat) : State :=
  if ids.dedup.length ≤ 1 then s
  else
    let c := s.clusters.get cl
    s.setCluster cl { c with buf := c.buf.map (fun b => if ids.contains b.id then { b with mates := (b.mates ++ ids.filter (· ≠ b.id)).dedup } else b) }

/-- Runs of bytes merge as one unit, each into the entry of its line; none when the buffer has no room for all (R88, R103). -/
def mergeUnit (s : State) (cl : ClusterId) (asid : BitVec 16) (rs : List (Nat × Nat × List Byte)) : Option (State × List Nat) :=
  let merged := rs.foldl (fun (acc : Option (State × List Nat)) r => match acc with
    | none => none
    | some (s, ids) => (mergeBuf s cl asid r.1 r.2.1 r.2.2).map (fun x => (x.1, ids ++ [x.2]))) (some (s, []))
  merged.map (fun x => (linkMates x.1 cl x.2, x.2))

/-- The entries of a cluster's buffer that a command's writes have merged into (R96). -/
def noteEntry (g : Group) (entry : Option Nat) (ids : List Nat) : Group :=
  match entry with
  | none => g
  | some n => g.mapEntry .vector n (fun e => { e with wrote := (e.wrote ++ ids).dedup })

/-- The runs in memory of a store part, its scale byte last (R103). -/
def StorePart.runs (x : StorePart) : List (Nat × Nat × List Byte) :=
  (match x.op, x.loc with | .write bs, .mem pa => lineRuns x.va pa bs | _, _ => []) ++
  (match x.scale with | some y => (match y.loc with | .mem pb => [(y.va, pb, [y.byte])] | .spad _ => []) | none => [])

/-- One part of the store at the head of a queue is performed, its scale byte with it; none when it must wait. A block whose elements or whose scale byte
lie on an HT page goes straight home as one unit (R85, R103; log 16). -/
def performPart (s : State) (p : Place) (g : Group) (st : StreamId) (r : StoreReq) (x : StorePart) : Option State :=
  let cl := clusterOfPlace p
  match x.op, x.loc with
  | .write bs, l =>
    let gone : Bool := match l with | .mem pa => region s pa == Region.none | .spad _ => false
    let atSpad (s : State) : State :=
      let s := match l with | .spad off => spadWrite s p g off bs | .mem _ => s
      match x.scale with | some y => (match y.loc with | .spad off => spadWrite s p g off [y.byte] | .mem _ => s) | none => s
    if gone then some s
    else if x.ht then
      (if x.runs.any (fun q => (bufEntry s cl q.2.1).isSome || farHeld s (dieOfPlace p) q.2.1) then none
       else some (atSpad (x.runs.foldl (fun s q => homeWrite (l2Touch s q.2.1 (some (g.lr.asid, q.1)) false true) q.2.1 q.2.2) s)))
    else
      (mergeUnit s cl g.lr.asid x.runs).map (fun m =>
        atSpad (m.1.setGroup p (noteEntry (g.setStream st (m.2.foldl (fun t id => t.ownEntry id r.mark r.id) (g.stream st))) r.entry m.2)))
  | .clwb, .mem pa => if (bufEntry s cl pa).isSome || farHeld s (dieOfPlace p) pa then none else some (l2Clean s pa false)
  | .clinv, .mem pa => if (bufEntry s cl pa).isSome || farHeld s (dieOfPlace p) pa then none else some (l2Clean s pa true)
  | _, .spad _ => some s

/-- The bytes that a store part writes. -/
def StorePart.wrote (x : StorePart) : List (Loc × Nat) :=
  (match x.op with | .write bs => [(x.loc, bs.length)] | _ => []) ++ (match x.scale with | some y => [(y.loc, 1)] | none => [])

/-- The entry at the head of a store queue leaves it when no part of it is left. -/
def popStore (s : State) (p : Place) (st : StreamId) (r : StoreReq) (rest : List StoreReq) (parts : List StorePart) : State :=
  match s.group p with
  | none => s
  | some g =>
    let g := g.setStream st { g.stream st with stores := if parts = [] then rest else { r with parts := parts } :: rest }
    s.setGroup p (match parts, r.entry with | [], some id => accessDone g id | _, _ => g)

/-- Part k of the store at the head of a store queue is performed (R85 to R88, R91, R95, R222); an entry without parts, of a VST with no active element,
leaves its queue in its turn (R260). -/
def performStore (s : State) (p : Place) (st : StreamId) (k : Nat) : State :=
  match s.group p with
  | none => s
  | some g =>
    let t := g.stream st
    match t.stores with
    | [] => s
    | r :: rest =>
      if !markClear s p { t with stores := [] } r.mark || t.loadsDone < r.before then s
      else if r.parts = [] then popStore s p st r rest []
      else
        match r.parts[k]? with
        | none => s
        | some x =>
          let isClean := match x.op with | .write _ => false | _ => true
          let ownLeft := (s.clusters.get (clusterOfPlace p)).buf.any (fun b => t.own.any (fun o => o.1 == b.id))
          let scaleLocs := match x.scale with | some y => [y.loc] | none => []
          if (isClean && ownLeft) || x.loc.locked s p (match x.op with | .write bs => bs.length | _ => 1) || scaleLocs.any (fun l => l.locked s p 1) then s
          else
            match readyPages s p g ([x.loc] ++ scaleLocs) with
            | .wait s => s
            | .ready s =>
              match performPart s p g st r x with
              | none => s
              | some s => popStore (noteWrite s p st r.entry x.wrote) p st r rest (r.parts.eraseIdx k)

/-- The entries that drain with some entries of a buffer (R103). -/
def drainSet : Nat → List BufEntry → List Nat → List Nat
  | 0, _, ids => ids
  | fuel + 1, buf, ids => drainSet fuel buf (ids ++ (buf.filter (fun b => ids.contains b.id)).flatMap (·.mates)).dedup

/-- Entries leave a cluster's buffer and no release waits for them any longer. -/
def Cluster.without (c : Cluster) (ids : List Nat) : Cluster :=
  { c with
    buf := c.buf.filter (fun b => !ids.contains b.id)
    released := (c.released.map (fun r => { r with ids := r.ids.filter (fun i => !ids.contains i) })).filter (fun r => !r.ids.isEmpty) }

/-- An entry is performed at its home point. -/
def drainEntry (s : State) (e : BufEntry) : State :=
  if (region s (128 * e.line)) = .none then s
  else homeWriteLine (l2Touch s (128 * e.line) (some (e.asid, e.va)) false true) e.line e.bytes

/-- CLUSTER_BUFFER_DRAIN (R88): an entry reaches its home point whole, and with it those that hold the rest of a block of it (R103). -/
def execClusterBufferDrain (cl : ClusterId) (k : Nat) (s : State) : Host.Outcome State Fault Refusal :=
  let c := s.clusters.get cl
  match c.buf[k]? with
  | none => .next s
  | some e =>
    let ids := if e.mates = [] then [e.id] else drainSet 64 c.buf [e.id]
    let es := c.buf.filter (fun b => ids.contains b.id)
    if es.any (fun b => farHeld s ⟨cl.val / 8, by omega⟩ (128 * b.line)) then .next s else .next (es.foldl drainEntry (s.setCluster cl (c.without ids)))

/-- SCRATCHPAD_FRAME_FILL (R68). -/
def execScratchpadFrameFill (p : Place) (page : Fin 64) (s : State) : Host.Outcome State Fault Refusal :=
  match s.group p with
  | none => .next s
  | some g =>
    match frameOf s p g page with
    | none => .next s
    | some f => if f.filling then .next (touchFrame (fillFrame s (coreOf p) f) p { f with filling := false }) else .next s

/-! ## Cache control (R221, R222) -/

/-- PREF asks for a line and has no other effect: it never traps, whatever its address (R221; log 67). A page without the right that a load, or under WI a
store, needs gives no request, and nothing is counted (log 75); nor does a line whose request would wait for a link (R430). -/
def execPref (r : BitVec 4) (a : BitVec 6) (w ef : BitVec 1) (s : State) :=
  plain anyStream r 0 (fun e =>
    e.t.reads [a] (
      let va := e.t.getX a
      if inWindow va then .done e.s
      else
        let s := if (tlbFind e.s (coreOf e.p) e.g.lr.asid va.toNat).isSome then e.s else walkTouch e.s (dieOfPlace e.p) e.g.lr.asid va
        match findLeaf s (coreOf e.p) e.g.lr.asid va with
        | .bad _ _ => .done s
        | .leaf x _ lg =>
          if permits x (w.zeroExtend 2) e.g.trapped.isSome && !farHeld s (dieOfPlace e.p) (leafAddr x lg va) then
            .done (l2Touch s (leafAddr x lg va) (some (e.g.lr.asid, va.toNat)) (ef == 1#1) (w == 1#1))
          else .done s)) s

/-- CLWB and CLINV: a store-queue entry for a line of HBM; nothing for other addresses (R222). -/
def cleanLine (op : StoreOp) (kind : BitVec 2) (a : BitVec 6) (e : Env) : Act State :=
  e.t.reads [a] (
    let va := e.t.getX a
    if inWindow va then .done e.s
    else
    match reach e va kind false with
    | .trap s x => .trapIn s x
    | .wait s => .wait s
    | .ok s (.mem pa _) =>
      if (region s pa).isHbm then
        (if 16 ≤ e.t.stores.length then .hold
         else .done (s.setGroup e.p (e.g.setStream e.st (e.t.pushStore s.now false [{ loc := .mem (pa / 128 * 128), va := va.toNat, op := op, scale := none }] none))))
      else .done s
    | .ok s _ => .done s)

def execClwb (r : BitVec 4) (a : BitVec 6) (s : State) := plain anyStream r 0 (cleanLine .clwb 0 a) s
def execClinv (r : BitVec 4) (a : BitVec 6) (s : State) := plain anyStream r 0 (cleanLine .clinv 1 a) s

/-! ## Retention (R223, R224) -/

/-- The ways L2PIN assigns: of the free reserved ways, the highest-numbered first (R76). -/
def assignWays (die : Die) (n : Nat) : List (Fin 16) :=
  (((List.finRange 16).reverse.filter (fun w => decide (16 - die.rways.toNat ≤ w.val))).filter
    (fun w => !die.regs.toList.any (fun r => r.v && r.owned.contains w))).take n

/-- L2PIN at the home die of the first page: the handle, or the cause (R77, R223). -/
def pinRange (s : State) (d : DieId) (asid : BitVec 16) (lid lo hi : BitVec 64) (ways : Nat) : Except (BitVec 10) (State × BitVec 64) :=
  let die := s.dies.get d
  let base := lo.extractLsb' 16 41
  let last := hi.extractLsb' 16 41
  match (List.finRange 8).find? (fun i => !(die.regs.get i).v) with
  | none => .error Cause.l2Noreg
  | some i =>
    if die.rways.toNat < ownedWays die + ways then .error Cause.l2Noways
    else if die.regs.toList.any (fun r => r.v && r.asid == asid && decide (r.base ≤ last ∧ base ≤ r.last)) then .error Cause.l2Overlap
    else
      let reg : RetReg := { base := base, last := last, v := true, ways := BitVec.ofNat 4 ways, asid := asid, hit := 0, miss := 0, ovf := 0,
                            owned := assignWays die ways, lid := lid }
      .ok (s.setDie d { die with regs := die.regs.set i.val reg }, BitVec.ofNat 64 (d.val * 16 + i.val))

def execL2pin (r ev : BitVec 4) (d a b : BitVec 6) (ways : BitVec 4) (s : State) :=
  plain anyStream r ev (fun e =>
    e.t.reads [a, b] (e.t.writes d (
      let lo := e.t.getX a
      let hi := e.t.getX b
      if hi < lo ∨ ways = 0 ∨ 8 < ways.toNat then .trap (.plain Cause.opRange)
      else if inWindow lo then .trap (.plain Cause.opRange)
      else
        match translateAs e.s e.p e.g e.st lo 0 false with
        | .wait s => .wait s
        | .bad s cause lvl => faultStream s e.p e.g e.st lo 0 cause lvl .wait .trapIn
        | .ok s pa _ =>
          if (region s pa).isHbm then
            match pinRange s (dieOf pa) e.g.lr.asid e.g.lr.id lo hi ways.toNat with
            | .error c => .trapIn s (.plain c)
            | .ok (s, v) => .done (s.setGroup e.p (e.g.setStream e.st (e.t.setX d v)))
          else .trapIn s (.plain Cause.opRange)))) s

def execL2unpin (r : BitVec 4) (a : BitVec 6) (s : State) :=
  plain anyStream r 0 (fun e =>
    e.t.reads [a] (
      let v := e.t.getX a
      let d : DieId := fin4 (fieldOf v 5 4)
      let i : Fin 8 := ⟨fieldOf v 2 0 % 8, by omega⟩
      let reg := (e.s.dies.get d).regs.get i
      if v.extractLsb' 6 58 ≠ 0#58 ∨ v.getLsbD 3 = true ∨ dieLive e.s d = false ∨ reg.v = false ∨ reg.asid ≠ e.g.lr.asid then .trap (.plain Cause.l2Handle)
      else .done (releaseReg e.s d i))) s

end Sys2Proof.Machine
end

