-- ==== Sys2Proof/Machine/Sync.lean ====
section
/-! DEFINITION. Sys2Proof/Machine/Sync.lean: queue marks and fences (R91 to R94, R219), full/empty words (R105, R106, R217), flag waits (R218),
result pops (R220), events (R49 to R52, R225) and barriers (R226 to R229, R444). -/

namespace Sys2Proof.Machine

open Sys2Proof

/-! ## Releases and acquires (R92 to R94; log 16) -/

/-- The writes of a stream's cumulative set that still stand in the cluster's buffer (R93). -/
def liveSet (s : State) (p : Place) (t : Stream) : List Nat :=
  ((s.clusters.get (clusterOfPlace p)).buf.map (·.id)).filter (fun i => t.cumSet.contains i)

/-- Whether a release of a stream at a scope (R175: 0 .grp to 5 .sys) is complete: its loads and stores have left their queues, so that its cumulative set
is known and visible in its cluster; from .die on, every write of the set has reached its home point (R93). -/
def releaseDone (s : State) (p : Place) (t : Stream) (scope : Nat) : Bool :=
  t.loads.isEmpty && t.stores.isEmpty && (decide (scope ≤ 2) || (liveSet s p t).isEmpty)

/-- A complete release whose cumulative set stands in the cluster's buffer in part, with the writes the stream makes by the releasing instruction itself
(R93, R94). Of a release whose set is home nothing is left to order. -/
def publish (s : State) (p : Place) (st : StreamId) (t : Stream) (scope : Nat) (wrote : List (Loc × Nat)) : State :=
  let c := s.clusters.get (clusterOfPlace p)
  let before := match s.group p with | some g => g.nextId | none => 0
  if (liveSet s p t).isEmpty then s
  else
    s.setCluster (clusterOfPlace p)
      { c with released := c.released ++ [{ place := p, stream := st, scope := scope, before := before, ids := liveSet s p t, wrote := wrote }] }

/-- Whether an access that holds the head of the load queue may be performed: no earlier load, nor an earlier-marked store, is outstanding
(R87, R91). -/
def loadTurn (s : State) (p : Place) (t : Stream) : Bool := t.loads.isEmpty && markClear s p t t.mark
/-- The same for the store queue. -/
def storeTurn (s : State) (p : Place) (t : Stream) : Bool := t.stores.isEmpty && markClear s p t t.mark

/-! ## QMARK, FENCE (R219) -/

def execQmark (r : BitVec 4) (s : State) := plain anyStream r 0 (onStream (fun t => .done { t with mark := t.mark + 1 })) s

/-- FENCE of a kind (1 .acq, 2 .rel, 3 .full) and scope: it waits for the earlier loads, for the release, or for both (R92); the sets of the releases that
its loads have met join the stream's own (R94), and the set of a release goes with its later tokens (R97). -/
def fence (scope : BitVec 3) (kind : BitVec 2) (e : Env) : Act State :=
  let acq := kind.getLsbD 0
  let rel := kind.getLsbD 1
  let t := if acq then e.t.acquire e.p e.st scope.toNat e.t.seen else e.t
  if (!acq || e.t.loads.isEmpty) && (!rel || releaseDone e.s e.p t scope.toNat) then
    let s := if rel then publish e.s e.p e.st t scope.toNat [] else e.s
    let t := if rel then { t with fenced := liveSet e.s e.p t } else t
    .done (s.setGroup e.p (e.g.setStream e.st { t with mark := e.t.mark + 1 }))
  else .wait e.s

def execFence (r : BitVec 4) (sc : BitVec 3) (k : BitVec 2) (s : State) := plain anyStream r 0 (fence sc k) s

/-! ## Waiting instructions (R65, R109) -/

/-- An instruction waits, its destination empty (R65). -/
def Env.waitFor (e : Env) (s : State) (g : Group) (w : WaitFor) (d : BitVec 6) : Act State :=
  .wait (s.setGroup e.p (g.setStream e.st ((g.stream e.st).waitIn w d e.now)))

/-- Whether a stream earlier in ring order from CTL waits for the same thing, and takes it first (R109). -/
def outrun (g : Group) (st : StreamId) (w : WaitFor) : Bool :=
  StreamId.all.any (fun o => decide (o.toFin.val < st.toFin.val) && (match (g.stream o).waiting with | some (v, _, _) => v == w | none => false))

/-! ## EPOP (R220) -/

def execEpop (r : BitVec 4) (d : BitVec 6) (eng : BitVec 4) (s : State) :=
  plain anyStream r 0 (fun e =>
    e.t.writes d (
      if h : eng.toNat < 5 then
        match e.g.rq[eng.toNat] with
        | [] => e.waitFor e.s e.g (.result eng.toNat) d
        | x :: rest =>
          if outrun e.g e.st (.result eng.toNat) then e.waitFor e.s e.g (.result eng.toNat) d
          else .done (e.s.setGroup e.p ({ e.g with rq := e.g.rq.set eng.toNat rest }.setStream e.st (e.t.arrive d x)))
      else e.waitFor e.s e.g .other d)) s

/-! ## LDS, STF (R105, R106, R217) -/

/-- The sync word an address names (R105, R217). -/
def syncWord (va : BitVec 64) (kind : BitVec 2) : Except Trap Nat :=
  if inWindow va = false ∨ 65536 ≤ va.toNat - windowBase then .error (Trap.at Cause.feRange va kind)
  else if va.toNat % 8 ≠ 0 then .error (Trap.at Cause.memAlign va kind)
  else .ok (va.toNat - windowBase)

/-- The bytes of a run that an instruction of a stream reads from elsewhere than its own queued stores. -/
def foreignLocs (t : Stream) (l : Loc) (n : Nat) : List Loc := ((List.range n).map l.plus).filter (fun x => (queuedByte t.stores t.storesIn x).isNone)

/-- A value read whole by an instruction that holds the head of its load queue, as an acquire at a scope: it is on its way to x(d) (R65); from a poisoned
line, under ECC policy 0, x(d) is left empty (R415, R416). -/
def takeValue (d : BitVec 6) (l : Loc) (scope : Nat) (run : ReadRun) (e : Env) (s : State) (g : Group) : State :=
  let met := pairedWith s e.p e.st (foreignLocs e.t l 8)
  let t := g.stream e.st
  let t := { t with cum := (t.cum ++ run.bufs).dedup, seen := (t.seen ++ met).dedup }
  if run.bad ≠ [] ∧ g.lr.ecc ≠ 1#2 then s.setGroup e.p (g.setStream e.st (t.markEmpty d))
  else
    let s := if run.bad = [] then s else recordZeroFill e.s s e.p g l
    s.setGroup e.p (g.setStream e.st (((t.arriveLater d (BitVec.ofNat 64 (leNat run.bytes)) e.now).leftByLoad d).acquire e.p e.st scope met))

/-- The cause a read of a poisoned line leaves behind its instruction (R383, R416). -/
def poisonAfter (bad : Env → Bool) (e : Env) (s : State) : State :=
  if bad e && e.g.lr.ecc != 1#2 then raise s e.p { stream := e.st, queue := none, async := true, fpc := e.t.pc } (.plain Cause.mcEcc) else s

/-- The read of an LDS. -/
def ldsRun (a : BitVec 6) (e : Env) : ReadRun := readRun e.s e.p e.g e.t e.t.storesIn (.spad ((e.t.getX a).toNat - windowBase)) 8

/-- LDS: it waits while the word is empty, x(d) empty meanwhile, then reads it and empties it in one step. -/
def lds (d a : BitVec 6) (e : Env) : Act State :=
  e.t.reads [a] (e.t.writes d (
    match syncWord (e.t.getX a) 0 with
    | .error x => .trap x
    | .ok off =>
      let g := e.g.setStream e.st (e.t.leftByLoad d)
      if windowDead e.s e.p e.g off then .trap (Trap.at Cause.paNodie (e.t.getX a) 0)
      else if !loadTurn e.s e.p e.t || bankLocked e.s e.p none off 8 then e.waitFor e.s g .other d
      else if !e.g.syncf.getLsbD (off / 8) || outrun e.g e.st (.word off) then e.waitFor e.s g (.word off) d
      else
        match ensureFrame e.s e.p e.g (pageOf off) with
        | .wait s => e.waitFor s g .other d
        | .ready s =>
          let run := readRun s e.p e.g e.t e.t.storesIn (.spad off) 8
          .done (takeValue d (.spad off) 0 run e s { e.g with syncf := e.g.syncf &&& ~~~(1#8192 <<< (off / 8)) })))

def execLds (r : BitVec 4) (d a : BitVec 6) (s : State) := plainThen anyStream r 0 (lds d a) (poisonAfter (fun e => (ldsRun a e).bad != [])) s

/-- STF: a release at .grp (R106): it waits while the word is full, then writes it and fills it in one step. -/
def stf (x a : BitVec 6) (e : Env) : Act State :=
  e.t.reads [x, a] (
    match syncWord (e.t.getX a) 1 with
    | .error c => .trap c
    | .ok off =>
      if windowDead e.s e.p e.g off then .trap (Trap.at Cause.paNodie (e.t.getX a) 1)
      else
      match allocPage e.s e.p e.g (pageOf off) with
      | none => .trap (Trap.at Cause.spPool (e.t.getX a) 1)
      | some (s, g) =>
        if g.syncf.getLsbD (off / 8) || !storeTurn s e.p e.t || !releaseDone s e.p e.t 0 || bankLocked s e.p none off 8 then .wait (s.setGroup e.p g)
        else
          match ensureFrame s e.p g (pageOf off) with
          | .wait s => .wait s
          | .ready s =>
            let s := publish (spadWrite s e.p g off (leBytes 8 (e.t.getX x).toNat)) e.p e.st e.t 0 [(.spad off, 8)]
            .done (s.setGroup e.p { g with syncf := g.syncf ||| (1#8192 <<< (off / 8)) }))

def execStf (r : BitVec 4) (x a : BitVec 6) (s : State) := plain anyStream r 0 (stf x a) s

/-! ## WAITA (R218) -/

/-- The location WAITA watches. -/
def waitaLoc (va : BitVec 64) (e : Env) : Option Loc :=
  match reach e va 0 false with
  | .ok _ (.spad off) => some (.spad off)
  | .ok _ (.mem pa _) => some (.mem pa)
  | _ => none

/-- The read of a WAITA. -/
def waitaRun (a : BitVec 6) (e : Env) : ReadRun :=
  match waitaLoc (e.t.getX a) e with
  | some l => readRun e.s e.p e.g e.t e.t.storesIn l 8
  | none => { bytes := [], bad := [], bufs := [] }

/-- WAITA: it holds the head of the load queue and reads until the word equals x(b). -/
def waita (d a b : BitVec 6) (e : Env) : Act State :=
  e.t.reads [a, b] (e.t.writes d (
    let va := e.t.getX a
    if va.toNat % 8 ≠ 0 then .trap (Trap.at Cause.memAlign va 0)
    else
      let g := e.g.setStream e.st (e.t.leftByLoad d)
      match reach e va 0 false with
      | .trap s x => .trapIn s x
      | .wait s => .wait s
      | .ok s (.dcr _ _) => .trapIn s (Trap.at Cause.dcrSize va 0)
      | .ok s tgt =>
        if !loadTurn s e.p e.t || tgt.loc.locked s e.p 8 then e.waitFor s g .other d
        else
          match readyPages s e.p e.g [tgt.loc] with
          | .wait s => e.waitFor s g .other d
          | .ready s =>
            let run := readRun s e.p e.g e.t e.t.storesIn tgt.loc 8
            if (run.bad ≠ [] ∧ e.g.lr.ecc ≠ 1#2) ∨ BitVec.ofNat 64 (leNat run.bytes) = e.t.getX b then
              let s := match tgt with | .mem pa _ => l2Touch s pa (some (e.g.lr.asid, va.toNat)) false false | _ => s
              .done (takeValue d tgt.loc 5 run e s e.g)
            else e.waitFor s g .other d))

def execWaita (r : BitVec 4) (d a b : BitVec 6) (s : State) := plainThen anyStream r 0 (waita d a b) (poisonAfter (fun e => (waitaRun a e).bad != [])) s

/-! ## Events (R49 to R52, R225) -/

/-- EVPOST within the group: a release at .grp, whose set the post carries (R52). -/
def evpost (v : BitVec 5) (e : Env) : Act State :=
  if releaseDone e.s e.p e.t 0 then .done (e.s.setGroup e.p (postEvent e.g v (liveSet e.s e.p e.t))) else .wait e.s

def execEvpost (r : BitVec 4) (v : BitVec 5) (s : State) := plain anyStream r 0 (evpost v) s

/-- The place where a group of a launch is bound and can be posted to (R51). -/
def boundAt (s : State) (lid : BitVec 64) (gi : BitVec 16) : Option Place :=
  (List.finRange 512).find? fun p =>
    let sl := s.slot p
    (match sl.group with | some g => g.lr.id == lid && g.gindex == gi && g.trapped.isNone | none => false) &&
    (sl.state == .running || sl.state == .held || sl.state == .halted || sl.state == .fencing)

/-- Whether a group of a launch that is not bound has yet to be bound again, or for the first time (R51). -/
def comesBack (s : State) (lid : BitVec 64) (gi : BitVec 16) : Bool :=
  (match findLaunch s lid with | some l => decide (l.issued ≤ gi.toNat) | none => false) ||
  s.slots.toList.any (fun sl => sl.pending && sl.brec.valid && sl.brec.lid == lid && sl.brec.gindex == gi) ||
  (placesOf s lid).any (fun p =>
    let sl := s.slot p
    match sl.group with
    | some g => (g.trapped.isNone && g.gindex == gi) || (match g.trapped with | some x => x.gindex == gi | none => false)
    | none => sl.latched.gindex == gi) ||
  s.dawn.waiting.any (fun w => match w with
    | .fresh l i => l == lid && i == gi.toNat
    | .saved l i _ _ _ h => l == lid && (match h with | some x => x.gindex == gi | none => i == gi)
    | .resume l obj _ _ _ _ _ h _ _ => l == lid && (match h with
      | some x => x.gindex == gi
      | none => BitVec.ofNat 16 (objNat s obj 0x30 2) == gi)) ||
  s.dawn.forwarded.any (fun f => f.lid == lid && f.grp.gindex == gi)

/-- EVPOST.g (R51). -/
def evpostG (v : BitVec 5) (a : BitVec 6) (e : Env) : Act State :=
  e.t.reads [a] (
    let x := e.t.getX a
    if x = e.g.gindex.zeroExtend 64 then evpost v e
    else if e.g.lr.gang = false then .trap (.plain Cause.evRemote)
    else if e.g.lr.g ≤ x.toNat then .trap (.plain Cause.evNogrp)
    else if !releaseDone e.s e.p e.t 4 then .wait e.s
    else
      let gi : BitVec 16 := x.extractLsb' 0 16
      match boundAt e.s e.g.lr.id gi with
      | some q =>
        match e.s.group q with
        | some h => if linkHeld e.s (dieOfPlace e.p) (dieOfPlace q) then .wait e.s else .done (e.s.setGroup q (postEvent h v []))
        | none => .done e.s
      | none => if comesBack e.s e.g.lr.id gi then .wait e.s else .done e.s)

def execEvpostG (r : BitVec 4) (v : BitVec 5) (a : BitVec 6) (s : State) := plain anyStream r 0 (evpostG v a) s

/-- EVWAIT (R50): the count is given out in the order in which the streams began to wait; the wait takes in the set of the post it consumes (R52). -/
def evwait (v : BitVec 5) (e : Env) : Act State :=
  let list := if e.g.evwait.contains (e.st, v) then e.g.evwait else e.g.evwait ++ [(e.st, v)]
  let first : Bool := match list.find? (fun w => w.2 == v) with | some w => w.1 == e.st | none => true
  if (e.g.ev.get v.toFin != 0#16 && first) = true then
    let n := (e.g.ev.get v.toFin).toNat
    let sets := e.g.evSets.get v.toFin
    let t := { e.t with cum := e.t.cum ++ headSet n sets, acq := e.t.acq ++ headSet n sets }
    let g := { e.g with ev := e.g.ev.set v.toNat (e.g.ev.get v.toFin - 1) v.isLt, evSets := e.g.evSets.set v.toNat (dropSet n sets) v.isLt,
                        evwait := list.filter (· ≠ (e.st, v)) }
    .done (e.s.setGroup e.p (g.setStream e.st t))
  else .wait (e.s.setGroup e.p { e.g with evwait := list })

def execEvwait (r : BitVec 4) (v : BitVec 5) (s : State) := plain anyStream r 0 (evwait v) s

/-! ## Objects that a slice runs (R444, R414) -/

/-- What reaching an object answers: its physical address. -/
inductive Obj where
  | ok (s : State) (pa : Nat)
  | wait (s : State)
  | trap (s : State) (x : Trap)

/-- The way to an object of R444: its alignment, its translation, its placement in HBM; then a poisoned line of it is MC_ECC (R414). An address in the
scratchpad window is never translated (R66), so R444 does not say what such an object raises: the model takes it as one that lies outside the HBM range
(log 58). -/
def object (e : Env) (va : BitVec 64) (align size : Nat) (kind : BitVec 2) (own : BitVec 10) : Obj :=
  if va.toNat % align ≠ 0 then .trap e.s (.plain own)
  else if inWindow va then .trap e.s (.plain own)
  else
    match translateAs e.s e.p e.g e.st va kind (kind == 1#2) with
    | .wait s => .wait s
    | .bad s cause lvl => faultStream s e.p e.g e.st va kind cause lvl .wait .trap
    | .ok s pa _ =>
      if (region s pa).isHbm = false then .trap s (.plain own)
      else if (List.range ((size + 127) / 128)).any (fun i => poisoned s (pa + 128 * i)) then .trap s (.plain Cause.mcEcc)
      else .ok (l2Touch s pa (some (e.g.lr.asid, va.toNat)) false (kind == 1#2)) pa

/-! ## Barriers (R226 to R229) -/

/-- A barrier object as it stands. -/
structure Barrier where
  arrive : BitVec 32
  count  : BitVec 32
  pend   : BitVec 64
  level  : BitVec 3
  phase  : BitVec 32

/-- A barrier object; none when it breaks BAR_DESC (R227). -/
def readBarrier (s : State) (pa : Nat) : Option Barrier :=
  let d0 := homeDword s pa
  let d2 := homeDword s (pa + 0x10)
  if d2.extractLsb' 35 29 ≠ 0#29 ∨ (List.range 5).any (fun i => homeDword s (pa + 0x18 + 8 * i) != 0) ∨ d0.extractLsb' 0 32 = 0#32 then none
  else some { arrive := d0.extractLsb' 32 32, count := d0.extractLsb' 0 32, pend := homeDword s (pa + 8), level := d2.extractLsb' 32 3,
              phase := d2.extractLsb' 0 32 }

/-- The test of an object once the updates of a cycle have been applied (R228). -/
def Barrier.test (b : Barrier) : Barrier :=
  if b.arrive = b.count ∧ b.pend = 0 then { b with phase := b.phase + 1, arrive := 0 } else b

/-- A barrier object is updated by its slice. -/
def writeBarrier (s : State) (pa : Nat) (b : Barrier) : State :=
  homeWrite s pa (dwordBytes [b.arrive ++ b.count, b.pend, 0#29 ++ b.level ++ b.phase])

/-- An update reaches a barrier object: it is tested at once, or with the other updates of its cycle when that is worked off (R228). -/
def updateBarrier (s : State) (pa : Nat) (b : Barrier) : State :=
  if s.inCycle then { writeBarrier s pa b with touched := if s.touched.contains pa then s.touched else s.touched ++ [pa] } else writeBarrier s pa b.test

/-- The barrier objects that a cycle's updates have reached are tested, each once (R228). -/
def settleBarriers (s : State) : State :=
  s.touched.foldl (fun s pa => match readBarrier s pa with | some b => writeBarrier s pa b.test | none => s) { s with touched := [] }

/-- SCOPE of a level of the launch (R54). -/
def levelScope (lr : LaunchRec) (n : BitVec 3) : Nat := fieldOf (lr.levels.get n.toFin) 7 4

/-- The checks of R227, then the operation at the slice, given the scope. -/
def withBarrier (a : BitVec 6) (kind : BitVec 2) (e : Env) (k : State → Nat → Barrier → Nat → Act State) : Act State :=
  match object e (e.t.getX a) 64 64 kind Cause.barPlace with
  | .trap s x => .trapIn s x
  | .wait s => .wait s
  | .ok s pa =>
    match readBarrier s pa with
    | none => .trapIn s (.plain Cause.barDesc)
    | some b => if e.g.lr.nlev < b.level then .trapIn s (.plain Cause.levelRange) else k s pa b (levelScope e.g.lr b.level)

/-- The first BARA that waits at its slice for a barrier (R228). An entry whose stream no longer waits so is passed over. -/
def firstArrival (s : State) (pa : Nat) : Option (Nat × Place × StreamId) :=
  s.barriers.find? (fun b => b.1 == pa && (match s.group b.2.1 with | some g => (g.stream b.2.2).atSlice | none => false))

/-- A BARA arrives at the slice of its barrier, after those that wait there already. -/
def queueArrival (s : State) (pa : Nat) (p : Place) (st : StreamId) : State :=
  if s.barriers.contains (pa, p, st) then s else { s with barriers := s.barriers.filter (fun b => !(b.2 == (p, st))) ++ [(pa, p, st)] }

/-- BARA: a release at the barrier's scope; it waits at the slice while every arrival of the phase has come, and those that wait are applied in their
order of arrival (R228, R229). -/
def bara (d a b : BitVec 6) (e : Env) : Act State :=
  e.t.reads [a, b] (e.t.writes d (
    withBarrier a 1 e (fun s pa bar scope =>
      let first : Bool := match firstArrival s pa with | some x => x == (pa, e.p, e.st) | none => true
      if !releaseDone s e.p e.t scope then e.waitFor s e.g .other d
      else if bar.arrive = bar.count || !first then
        e.waitFor (queueArrival s pa e.p e.st) (e.g.setStream e.st { e.t with atSlice := true }) .other d
      else
        let s := updateBarrier (publish s e.p e.st e.t scope [(.mem pa, 24)]) pa { bar with arrive := bar.arrive + 1, pend := bar.pend + e.t.getX b }
        let s := { s with barriers := s.barriers.filter (fun x => !(x.2 == (e.p, e.st))) }
        .done (s.setGroup e.p (e.g.setStream e.st { e.t.setX d (bar.phase.zeroExtend 64) with mark := e.t.mark + 1, fenced := liveSet s e.p e.t })))))

def execBara (r : BitVec 4) (d a b : BitVec 6) (s : State) := plain anyStream r 0 (bara d a b) s

/-- BAREX: a release at the barrier's scope, and the bytes it adds (R227, R229). -/
def barex (a b : BitVec 6) (e : Env) : Act State :=
  e.t.reads [a, b] (
    withBarrier a 1 e (fun s pa bar scope =>
      if !releaseDone s e.p e.t scope then .wait s
      else
        let s := updateBarrier (publish s e.p e.st e.t scope [(.mem pa, 24)]) pa { bar with pend := bar.pend + e.t.getX b }
        .done (s.setGroup e.p (e.g.setStream e.st { e.t with mark := e.t.mark + 1, fenced := liveSet s e.p e.t }))))

def execBarex (r : BitVec 4) (a b : BitVec 6) (s : State) := plain anyStream r 0 (barex a b) s

/-- BARW: an acquire at the barrier's scope. -/
def barw (d a b : BitVec 6) (e : Env) : Act State :=
  e.t.reads [a, b] (e.t.writes d (
    withBarrier a 0 e (fun s pa bar scope =>
      if bar.phase = (e.t.getX b).extractLsb' 0 32 then e.waitFor s e.g .other d
      else
        let met := pairedWith s e.p e.st ((List.range 24).map (fun i => .mem (pa + i)))
        .done (s.setGroup e.p (e.g.setStream e.st ((e.t.setX d (bar.phase.zeroExtend 64)).acquire e.p e.st scope met))))))

def execBarw (r : BitVec 4) (d a b : BitVec 6) (s : State) := plain anyStream r 0 (barw d a b) s

end Sys2Proof.Machine
end

