-- ==== Sys2Proof/Machine/Rings.lean ====
section
/-! DEFINITION. Sys2Proof/Machine/Rings.lean: reorder rings (R230 to R232), job cards and task queues (R57, R233 to R236), watchpoints (R237 to R239). -/

namespace Sys2Proof.Machine

open Sys2Proof

/-! ## Reorder rings -/

/-- A ring descriptor as it stands. -/
structure Ring where
  n    : Nat
  next : Nat
  head : Nat
  reld : Nat

/-- The bytes of a ring's bitmap (R230). -/
def bitmapBytes (logn : Nat) : Nat := Nat.max 8 (2 ^ logn / 8)

/-- A ring descriptor; none when it breaks RG_DESC (R231). -/
def readRing (s : State) (pa : Nat) : Option Ring :=
  let dw o := homeDword s (pa + o)
  let logs := fieldOf (dw 0x10) 12 8
  let logn := fieldOf (dw 0x10) 4 0
  let next := (dw 0x18).toNat
  let head := (dw 0x20).toNat
  let reld := (dw 0x28).toNat
  if dw 0 ≠ (0#16 ++ 1#16 ++ 0x474E4952#32 : BitVec 64) ∨ (dw 0x10).extractLsb' 13 51 ≠ 0#51 ∨ (dw 0x10).extractLsb' 5 3 ≠ 0#3 ∨ dw 0x30 ≠ 0 ∨
      dw 0x38 ≠ 0 ∨ logs < 6 ∨ 16 < logs ∨ logn < 1 ∨ 16 < logn ∨ head < reld ∨ next < head ∨ reld + 2 ^ logn < next ∨
      65536 < pa % 65536 + 64 + bitmapBytes logn then none
  else some { n := 2 ^ logn, next := next, head := head, reld := reld }

/-- The status bit of a ticket. -/
def ringBit (s : State) (pa : Nat) (r : Ring) (t : Nat) : Bool := (homeByte s (pa + 0x40 + t % r.n / 8)).getLsbD (t % r.n % 8)

/-- The status bit of a ticket is written. -/
def setRingBit (s : State) (pa : Nat) (r : Ring) (t : Nat) (v : Bool) : State :=
  let a := pa + 0x40 + t % r.n / 8
  let m : Byte := 1#8 <<< (t % r.n % 8)
  homeWrite s a [(homeByte s a &&& ~~~m) ||| (if v then m else 0)]

/-- The requests for the lines of a ring's bitmap that an operation reads or writes, besides the descriptor's own (R75, R78). -/
def ringTouch (s : State) (e : Env) (va : BitVec 64) (pa : Nat) (as : List Nat) (write : Bool) : State :=
  (((as.map (· / 128)).dedup).filter (· ≠ pa / 128)).foldl (fun s l => l2Touch s (128 * l) (some (e.g.lr.asid, va.toNat + (128 * l - pa))) false write) s

/-- The address of the byte that holds a ticket's status bit. -/
def bitAddr (pa : Nat) (r : Ring) (t : Nat) : Nat := pa + 0x40 + t % r.n / 8

/-- The number of consecutive filled tickets from one on, at most a limit. -/
def filledRun (s : State) (pa : Nat) (r : Ring) (t : Nat) : Nat → Nat
  | 0 => 0
  | n + 1 => if ringBit s pa r t then filledRun s pa r (t + 1) n + 1 else 0

/-- The descriptor of a ring instruction, with its bitmap (R231, R414). -/
def withRing (a : BitVec 6) (e : Env) (k : State → Nat → Ring → Act State) : Act State :=
  match object e (e.t.getX a) 64 64 1 Cause.rgDesc with
  | .trap s x => .trapIn s x
  | .wait s => .wait s
  | .ok s pa =>
    match readRing s pa with
    | none => .trapIn s (.plain Cause.rgDesc)
    | some r =>
      if (List.range ((bitmapBytes r.n.log2 + 64 + 127 + pa % 128) / 128)).any (fun i => poisoned s (pa + 128 * i)) then .trapIn s (.plain Cause.mcEcc)
      else k s pa r

/-- The group records a ticket it was handed: the oldest of 17 is dropped (R310). -/
def Group.holdTicket (g : Group) (desc t : BitVec 64) : Group :=
  if g.tkts.length < 16 then { g with tkts := g.tkts ++ [(desc, t)] }
  else { g with tkts := g.tkts.drop 1 ++ [(desc, t)], lostTkt := if g.lostTkt = 255#8 then g.lostTkt else g.lostTkt + 1 }

def rgtkt (d a : BitVec 6) (e : Env) : Act State :=
  e.t.reads [a] (e.t.writes d (
    withRing a e (fun s pa r =>
      if r.next - r.reld < r.n then
        let v : BitVec 64 := BitVec.ofNat 64 r.next
        let s := homeWrite8 s (pa + 0x18) (BitVec.ofNat 64 (r.next + 1))
        .done (s.setGroup e.p ((e.g.holdTicket (e.t.getX a) v).setStream e.st (e.t.arrive d v)))
      else .done (s.setGroup e.p (e.g.setStream e.st (e.t.arrive d (BitVec.allOnes 64)))))))

def execRgtkt (r : BitVec 4) (d a : BitVec 6) (s : State) := plain anyStream r 0 (rgtkt d a) s

def rgfill (a b : BitVec 6) (e : Env) : Act State :=
  e.t.reads [a, b] (
    if !releaseDone e.s e.p e.t 4 then .wait e.s
    else
      withRing a e (fun s pa r =>
        let t := (e.t.getX b).toNat
        if r.head ≤ t ∧ t < r.next ∧ ringBit s pa r t = false then
          .done ((setRingBit (ringTouch s e (e.t.getX a) pa [bitAddr pa r t] true) pa r t true).setGroup e.p
            ({ e.g with tkts := e.g.tkts.filter (· ≠ (e.t.getX a, e.t.getX b)) }.setStream e.st { e.t with mark := e.t.mark + 1 }))
        else .trapIn s (.plain Cause.rgTicket)))

def execRgfill (r : BitVec 4) (a b : BitVec 6) (s : State) := plain anyStream r 0 (rgfill a b) s

def rgtake (d a b : BitVec 6) (e : Env) : Act State :=
  e.t.reads [a, b] (e.t.writes d (
    withRing a e (fun s pa r =>
      let x := (e.t.getX b).toNat
      let lim := if x = 0 ∨ r.n < x then r.n else x
      let k := filledRun s pa r r.head (Nat.min lim (r.next - r.head))
      let s := ringTouch s e (e.t.getX a) pa ((List.range (Nat.min (k + 1) (r.next - r.head))).map (fun i => bitAddr pa r (r.head + i))) false
      let s := homeWrite8 s (pa + 0x20) (BitVec.ofNat 64 (r.head + k))
      let met := pairedWith s e.p e.st ((List.range (64 + bitmapBytes r.n.log2)).map (fun i => .mem (pa + i)))
      .done (s.setGroup e.p (e.g.setStream e.st ((e.t.arrive d (BitVec.ofNat 64 (r.head % 2 ^ 47 * 2 ^ 17 + k))).acquire e.p e.st 4 met))))))

def execRgtake (r : BitVec 4) (d a b : BitVec 6) (s : State) := plain anyStream r 0 (rgtake d a b) s

/-- The bytes of a ring's bitmap in which the bits of the k tickets from RELD on lie, with those bits cleared, and RELD after it: one update of the slice
(R104, R231). -/
def releaseBytes (s : State) (pa : Nat) (r : Ring) (k : Nat) : List (Nat × Byte) :=
  let gone (i : Nat) : Bool := decide (i < r.n ∧ (i + r.n - r.reld % r.n) % r.n < k)
  ((List.range (bitmapBytes r.n.log2)).filter (fun j => (List.range 8).any (fun b => gone (8 * j + b)))).map (fun j =>
    let a := pa + 0x40 + j
    (a, (List.range 8).foldl (fun (v : Byte) b => if gone (8 * j + b) then v &&& ~~~(1#8 <<< b) else v) (homeByte s a))) ++
  (leBytes 8 (r.reld + k)).zipIdx.map (fun x => (pa + 0x28 + x.2, x.1))

def rgrel (a b : BitVec 6) (e : Env) : Act State :=
  e.t.reads [a, b] (
    if !releaseDone e.s e.p e.t 4 then .wait e.s
    else
      withRing a e (fun s pa r =>
        let k := (e.t.getX b).toNat
        if r.reld + k ≤ r.head then
          let cells := releaseBytes s pa r k
          .done (homeWriteAll (ringTouch s e (e.t.getX a) pa (cells.map (·.1)) true) cells)
        else .trapIn s (.plain Cause.rgTicket)))

def execRgrel (r : BitVec 4) (a b : BitVec 6) (s : State) := plain anyStream r 0 (rgrel a b) s

/-! ## Job cards (R57, R233, R234) -/

/-- A job card as it stands. -/
structure Card where
  next   : Nat
  rem    : Nat
  div    : Nat
  min    : Nat
  max    : Nat
  launch : BitVec 64

/-- A job card; none when it breaks JOB_DESC (R234). -/
def readCard (s : State) (pa : Nat) : Option Card :=
  let dw o := homeDword s (pa + o)
  let argsz := fieldOf (dw 0x10) 15 0
  let div := fieldOf (dw 0x28) 63 48
  let mn := fieldOf (dw 0x28) 47 24
  let mx := fieldOf (dw 0x28) 23 0
  if dw 0 ≠ (0#16 ++ 1#16 ++ 0x43424F4A#32 : BitVec 64) ∨ (dw 0x10).extractLsb' 16 48 ≠ 0#48 ∨ (dw 0x18).extractLsb' 40 24 ≠ 0#24 ∨
      (dw 0x20).extractLsb' 40 24 ≠ 0#24 ∨ dw 0x38 ≠ 0 ∨ div = 0 ∨ mn = 0 ∨ mx < mn ∨ argsz % 8 ≠ 0 ∨ argsz < 8 ∨ 4096 < argsz then none
  else some { next := fieldOf (dw 0x18) 39 0, rem := fieldOf (dw 0x20) 39 0, div := div, min := mn, max := mx, launch := dw 0x30 }

/-- The chunk of a deal (R57). -/
def dealChunk (c : Card) (active : Nat) : Nat :=
  let k := (c.rem + c.div * active - 1) / (c.div * active)
  Nat.min (Nat.min (Nat.max k c.min) c.max) c.rem

/-- The groups of a launch that are bound now (R57). -/
def boundGroups (s : State) (lid : BitVec 64) : Nat :=
  ((List.finRange 512).filter (fun p => match (s.slot p).group with | some g => g.lr.id == lid | none => false)).length

def jobnx (d a : BitVec 6) (e : Env) : Act State :=
  e.t.reads [a] (e.t.writes d (
    match object e (e.t.getX a) 64 64 1 Cause.jobDesc with
    | .trap s x => .trapIn s x
    | .wait s => .wait s
    | .ok s pa =>
      match readCard s pa with
      | none => .trapIn s (.plain Cause.jobDesc)
      | some c =>
        let k := dealChunk c (Nat.max 1 (boundGroups s e.g.lr.id))
        let s := homeWrite s (pa + 0x18) (dwordBytes [BitVec.ofNat 64 ((c.next + k) % 2 ^ 40), BitVec.ofNat 64 (c.rem - k)])
        let v : BitVec 64 := BitVec.ofNat 64 (c.next * 2 ^ 24 + k)
        .done (s.setGroup e.p (e.g.setStream e.st (e.t.arrive d v)))))

def execJobnx (r : BitVec 4) (d a : BitVec 6) (s : State) := plain [.ctl] r 0 (jobnx d a) s

/-! ## Task queues (R234 to R236) -/

/-- Whether the fields of a task record keep to R235. -/
def taskOk (t : Vector (BitVec 64) 4) : Bool :=
  let kind := t[0].extractLsb' 60 4
  (kind == 1#4 || kind == 2#4) && t[0].extractLsb' 19 41 == 0#41 && t[0].extractLsb' 0 16 == 0#16 && t[2].extractLsb' 32 32 == 0#32 && t[3] == 0 &&
  (kind != 1#4 || t[2].extractLsb' 16 16 == 0#16)

/-- A record whose class does not outrank its maker (R235). -/
def taskForClass (t : Vector (BitVec 64) 4) (cls : BitVec 3) : Vector (BitVec 64) 4 :=
  if t[0].extractLsb' 16 3 < cls then t.set 0 ((t[0] &&& ~~~(7#64 <<< 16)) ||| (cls.zeroExtend 64 <<< 16)) else t

/-- The record of a job-card entry (R234, R235). -/
def jobTask (cls : BitVec 3) (card : BitVec 64) (g : Nat) : Vector (BitVec 64) 4 :=
  #v[(1#4 ++ 0#41 ++ cls ++ 0#16 : BitVec 64), card, BitVec.ofNat 64 (g - 1), 0]

/-- A record is accepted into its queue when the queue has room (R236). -/
def placeTask (e : Env) (s : State) (t : Vector (BitVec 64) 4) : Act State :=
  if !queueRoom s (taskClass t) then .wait s
  else .done (pushTask s { dws := t, asid := e.g.lr.asid, lid := e.g.lr.id, no := 0 })

/-- The card that a record names is checked (R235), its failure raising the given cause. -/
def checkCard (e : Env) (s : State) (va : BitVec 64) (own : BitVec 10) (k : State → Act State) : Act State :=
  match object { e with s := s } va 64 64 0 own with
  | .trap s x => .trapIn s x
  | .wait s => .wait s
  | .ok s pa =>
    match readCard s pa with
    | none => .trapIn s (.plain own)
    | some c => if c.launch = 0 then .trapIn s (.plain own) else k s

/-- A record of KIND 2 whose object is a save frame is refused (R312, R328): the object's first word is read as a load reads it, A set on the way (R84); one
that cannot be read is found wanting when it is resumed. -/
def refuseFrame (e : Env) (s : State) (va : BitVec 64) (k : State → Act State) : Act State :=
  if inWindow va then k s
  else
    match translate s (coreOf e.p) e.g.lr.asid va 0 false e.g.trapped.isSome with
    | .wait s => .wait s
    | .bad s _ _ => k s
    | .ok s pa _ =>
      if (region s pa).isHbm = false then k s
      else
        let s := l2Touch s pa (some (e.g.lr.asid, va.toNat)) false false
        if homeNat s pa 4 = magicSave.toNat then .trapIn s (.plain Cause.coDesc) else k s

def jobgo (a b : BitVec 6) (e : Env) : Act State :=
  e.t.reads [a, b] (
    let g := (e.t.getX b).toNat
    if g = 0 ∨ 65536 < g then .trap (.plain Cause.opRange)
    else
      checkCard e e.s (e.t.getX a) Cause.jobDesc (fun s =>
        if !releaseDone s e.p e.t 4 then .wait s else placeTask e s (jobTask e.g.cls (e.t.getX a) g)))

def execJobgo (r : BitVec 4) (a b : BitVec 6) (s : State) := plain [.ctl] r 0 (jobgo a b) s

/-- A record that an instruction reads from memory, as the stream's loads would find it: it waits for a page's frame and for a locked bank (R68, R71), asks
the L2 for the line (R75), and finds a poisoned line to be MC_ECC (R414). -/
def recordAt (e : Env) (va : BitVec 64) (n : Nat) (k : State → List Byte → Act State) : Act State :=
  match reach e va 0 false with
  | .trap s x => .trapIn s x
  | .wait s => .wait s
  | .ok s (.dcr _ _) => .trapIn s (Trap.at Cause.dcrSize va 0)
  | .ok s tgt =>
    if tgt.loc.locked s e.p n then .wait s
    else
      match readyPages s e.p e.g [tgt.loc] with
      | .wait s => .wait s
      | .ready s =>
        let run := readRun s e.p e.g e.t e.t.storesIn tgt.loc n
        let s := match tgt with | .mem pa _ => l2Run s pa n (some (e.g.lr.asid, va.toNat)) false false | _ => s
        if run.bad ≠ [] then .trapIn s (.plain Cause.mcEcc) else k s run.bytes

/-- Dword i of a list of bytes. -/
def dwordOf (bs : List Byte) (i : Nat) : BitVec 64 := BitVec.ofNat 64 (leNat ((bs.drop (8 * i)).take 8))

/-- The four dwords of a task record. -/
def taskOf (bs : List Byte) : Vector (BitVec 64) 4 := Vector.ofFn (fun i => dwordOf bs i.val)

def tqadd (a : BitVec 6) (e : Env) : Act State :=
  e.t.reads [a] (
    let va := e.t.getX a
    if va.toNat % 32 ≠ 0 then .trap (.plain Cause.tqDesc)
    else if !releaseDone e.s e.p e.t 4 then .wait e.s
    else
      recordAt e va 32 (fun s bs =>
        let t := taskOf bs
        if taskOk t = false then .trapIn s (.plain Cause.tqDesc)
        else
          let t' := taskForClass t e.g.cls
          if t[0].extractLsb' 60 4 = 1#4 then checkCard e s t[1] Cause.jobDesc (fun s => placeTask e s t')
          else refuseFrame e s t[1] (fun s => placeTask e s t')))

def execTqadd (r : BitVec 4) (a : BitVec 6) (s : State) := plain [.ctl] r 0 (tqadd a) s

/-! ## Watchpoints (R237 to R239) -/

def wpset (d a : BitVec 6) (once : BitVec 1) (e : Env) : Act State :=
  e.t.reads [a] (e.t.writes d (
    let va := e.t.getX a
    if va.toNat % 64 ≠ 0 then .trap (.plain Cause.wpDesc)
    else
      recordAt e va 64 (fun s bs =>
        let lo := dwordOf bs 0
        let hi := dwordOf bs 1
        let t := taskOf (bs.drop 32)
        if lo.toNat % 8 ≠ 0 ∨ hi.toNat % 8 ≠ 7 ∨ lo.toNat / 128 ≠ hi.toNat / 128 ∨ hi < lo ∨ taskOk t = false then .trapIn s (.plain Cause.wpDesc)
        else if inWindow lo then .trapIn s (.plain Cause.wpDesc)
        else
          (fun (k : State → Act State) => if t[0].extractLsb' 60 4 = 1#4 then checkCard e s t[1] Cause.wpDesc k else k s) (fun s =>
          match translateAs s e.p e.g e.st lo 0 false with
          | .wait s => .wait s
          | .bad s cause lvl => faultStream s e.p e.g e.st lo 0 cause lvl .wait .trapIn
          | .ok s pa _ =>
            if (region s pa).isHbm = false then .trapIn s (.plain Cause.wpDesc)
            else
              let die := s.dies.get (dieOf pa)
              let slice := sliceOf pa
              match (List.finRange 16).find? (fun i => !die.watch.any (fun w => w.slice == slice && w.entry == i)) with
              | none => .trapIn s (.plain Cause.wpNoslot)
              | some i =>
                let w : Watch := { slice := slice, entry := i, lo := pa, hi := pa + (hi.toNat - lo.toNat), mask := dwordOf bs 2, value := dwordOf bs 3,
                                   task := taskForClass t e.g.cls, once := once == 1#1, owner := e.g.lr.id, asid := e.g.lr.asid }
                let s := s.setDie (dieOf pa) { die with watch := die.watch ++ [w] }
                .done (s.setGroup e.p (e.g.setStream e.st
                  (e.t.setX d (BitVec.ofNat 64 ((dieOf pa).val * 256 + slice.val * 16 + i.val)))))))))

def execWpset (r ev : BitVec 4) (d a : BitVec 6) (once : BitVec 1) (s : State) := plain [.ctl] r ev (wpset d a once) s

def wpclr (a : BitVec 6) (e : Env) : Act State :=
  e.t.reads [a] (
    let v := e.t.getX a
    let d := fin4 (fieldOf v 9 8)
    let die := e.s.dies.get d
    let isIt (w : Watch) : Bool := w.slice.val == fieldOf v 7 4 && w.entry.val == fieldOf v 3 0
    if v.extractLsb' 10 54 ≠ 0#54 ∨ die.watch.any (fun w => isIt w && w.owner == e.g.lr.id) = false then .trap (.plain Cause.wpHandle)
    else .done (e.s.setDie d { die with watch := die.watch.filter (fun w => !isIt w) }))

def execWpclr (r : BitVec 4) (a : BitVec 6) (s : State) := plain [.ctl] r 0 (wpclr a) s

end Sys2Proof.Machine
end

