-- ==== Sys2Proof/Machine/Engine.lean ====
section
/-! DEFINITION. Sys2Proof/Machine/Engine.lean: what the engines share: what a command answers at the head of its queue (R41, R42, R45, R265), the
registers it reads and writes (R167, R244), the elements of a register by tag (R110 to R119, R242), and the way to the locations of a command's
elements (R83, R384, R396 to R398). -/

namespace Sys2Proof.Machine

open Sys2Proof

/-! ## A command at the head -/

/-- A command at the head of its queue, its takes made. -/
structure QEnv where
  s : State
  p : Place
  q : QueueId
  g : Group
  e : QEntry

/-- What a command answers at the head. -/
inductive QAct where
  /-- It cannot start yet. -/
  | wait (s : State)
  /-- It raises a cause and does not start (R383). -/
  | trap (t : Trap)
  /-- The same, and what came before in its entry stays (R11). -/
  | trapIn (s : State) (t : Trap)
  /-- It starts. -/
  | start (s : State) (w : Work)

/-- Work that does nothing. -/
def Work.none : Work :=
  { vw := [], tw := [], pw := [], xw := Option.none, lines := [], step := Option.none, close := Option.none, copies := [],
    cause := Option.none, status := 0, locks := [], access := false, await := Option.none, flush := false, ctx := Option.none, splice := Option.none }

/-- Scalar operand k as captured (R167). -/
def QEnv.x (v : QEnv) (k : Nat) : BitVec 64 := v.e.xops.toList.getD k 0

/-- Whether a command waits for page-fault answers: some request of its is open, and none was answered with a retry that it has not acted on (R397). -/
def QEntry.awaits (e : QEntry) : Bool := e.faults.any (fun f => f.ans.isNone) && e.faults.all (fun f => f.ans != some 0)

/-- The request of a command for a page and access kind, and its answer. -/
def QEntry.asked (e : QEntry) (f : PageFault) : Option PageFault := e.faults.find? (sameFault f)

/-- A head meets faults of translation, in the order of its elements: those not yet asked for are requested, and while any request is open it waits; then the
cause of the first is taken, as answered or as met (R396 to R398). -/
def faultHead (v : QEnv) (s : State) (fs : List (BitVec 64 × BitVec 2 × BitVec 10 × BitVec 3)) : QAct :=
  match fs with
  | [] => .wait s
  | (va, kind, cause, lvl) :: _ =>
    let ps := fs.map (fun f => mkFault v.g.lr.asid f.1 f.2.1 f.2.2.1 f.2.2.2)
    let new := ps.foldl (fun acc f => if (v.e.asked f).isNone && faultWaits s f && !acc.any (sameFault f) then acc ++ [f] else acc) []
    if new.isEmpty && !v.e.awaits then
      match (v.e.asked (mkFault v.g.lr.asid va kind cause lvl)).bind PageFault.ans with
      | some c => .trapIn s (Trap.walked c va lvl kind)
      | none => .trapIn s (Trap.walked cause va lvl kind)
    else
      let s := new.foldl (fun s f => openRequest s (dieOfPlace v.p) f) s
      .wait (s.setGroup v.p (v.g.mapEntry v.q v.e.id (fun e => { e with faults := e.faults ++ new })))

/-! ## Tags and elements (R110, R113, R115, R242) -/

/-- The width of a tag's elements (R242). -/
def tagWidth (t : BitVec 4) : Nat :=
  match t.toNat with
  | 2 | 6 | 7 | 9 | 10 => 8
  | 4 | 5 | 12 => 16
  | 8 => 4
  | _ => 32

/-- Whether a tag is INT32, INT16 or INT8. -/
def tagInt (t : BitVec 4) : Bool := t == 1#4 || t == 2#4 || t == 12#4
/-- Whether a tag is FP32, BF16 or FP16. -/
def tagFloat (t : BitVec 4) : Bool := t == 3#4 || t == 4#4 || t == 5#4

/-- The floating format of a tag; FP32 for the others. -/
def tagFmt (t : BitVec 4) : FFmt :=
  match t.toNat with
  | 4 => .bf16 | 5 => .fp16 | 6 => .e4m3 | 7 => .e5m2 | _ => .fp32

/-- Element i of width w. -/
def elemAt {n : Nat} (x : BitVec n) (w i : Nat) : Nat := (x.extractLsb' (w * i) w).toNat

/-- The value of element i of a register with a tag (R115, R117, R118). -/
def elemVal {n m : Nat} (t : BitVec 4) (data : BitVec n) (side : BitVec m) (i : Nat) : Val :=
  let w := tagWidth t
  let x := elemAt data w i
  let b : Byte := side.extractLsb' (8 * (i / 32)) 8
  match t.toNat with
  | 1 | 2 | 12 | 0 | 11 => Val.ofInt (BitVec.ofNat w x).toInt
  | 8 => q4Value (BitVec.ofNat 4 x) b
  | 9 => mxValue .e4m3 (BitVec.ofNat 8 x) b
  | 10 => mxValue .e5m2 (BitVec.ofNat 8 x) b
  | _ => (tagFmt t).decode x

/-- A register of n bits whose elements of width w are given, those without a value kept from an old one. -/
def putElems {n : Nat} (old : BitVec n) (w : Nat) (f : Nat → Option Nat) : BitVec n :=
  BitVec.ofNat n ((List.range (n / w)).foldr (fun i acc => acc * 2 ^ w + (match f i with | some v => v % 2 ^ w | none => elemAt old w i)) 0)

/-- Whether element e of width w is active (R242). -/
def active (p : BitVec 1024) (w e : Nat) : Bool := p.getLsbD (e * w / 16)

/-! ## Registers a command touches (R167, R244) -/

/-- Vector, predicate and tile registers read and written. -/
structure RegUse where
  vr : List (BitVec 6)
  vw : List (BitVec 6)
  pr : List (BitVec 3)
  pw : List (BitVec 3)
  tr : List (BitVec 2)
  tw : List (BitVec 2)
  deriving DecidableEq, Repr

/-- The tile registers from t(d) on. -/
def tilesFrom (d : BitVec 4) (n : Nat) : List (BitVec 2) := ((List.range 4).filter (fun k => d.toNat ≤ k ∧ k < d.toNat + n)).map (BitVec.ofNat 2)

/-- The registers of an engine command; a CHCLOSE to tiles, those that the close of a fused chain writes. -/
def regUse : Instr → RegUse
  | .vadd _ d a b p | .vsub _ d a b p | .vmul _ d a b p | .vmin _ d a b p | .vmax _ d a b p | .vdiv _ d a b p | .vand _ d a b p
  | .vor _ d a b p | .vxor _ d a b p | .vshl _ d a b p | .vshr _ d a b p | .vsra _ d a b p | .vsel _ d a b p | .vperm _ d a b p
  | .vscl _ d a b p | .vpack _ d a b p => ⟨[a, b], [d], [p], [], [], []⟩
  | .vfma _ d a b p | .vfms _ d a b p => ⟨[d, a, b], [d], [p], [], [], []⟩
  | .vcmp _ _ d a b p => ⟨[a, b], [], [p], [d], [], []⟩
  | .vmov _ d a p | .vabs _ d a p | .vneg _ d a p | .vrcp _ d a p | .vrsq _ d a p | .vsqrt _ d a p | .vexp2 _ d a p | .vlog2 _ d a p
  | .vred _ d a _ p | .vcvt _ _ d a p _ _ _ _ _ | .vext _ d a _ p | .vlane _ d a _ p | .vunpk _ d a _ p => ⟨[a], [d], [p], [], [], []⟩
  | .vbcast _ d _ _ p => ⟨[], [d], [p], [], [], []⟩
  | .vtag _ d a _ => ⟨[a], [d], [], [], [], []⟩
  | .vld _ d _ _ p => ⟨[], [d], [p], [], [], []⟩
  | .vst _ x _ p => ⟨[x], [], [p], [], [], []⟩
  | .vlds _ d _ _ p => ⟨[], [d], [p], [], [], []⟩
  | .vgat _ d _ b p => ⟨[b], [d], [p], [], [], []⟩
  | .pand _ d a b | .por _ d a b | .pxor _ d a b => ⟨[], [], [a, b], [d], [], []⟩
  | .pnot _ d a => ⟨[], [], [a], [d], [], []⟩
  | .pcnt _ d a _ => ⟨[], [d], [a], [], [], []⟩
  | .pset _ d _ _ => ⟨[], [], [], [d], [], []⟩
  | .tld _ _ t _ _ _ => ⟨[], [], [], [], [], [t]⟩
  | .tst _ _ t _ _ _ => ⟨[], [], [], [], [t], []⟩
  | .mma _ _ _ t _ _ _ _ => ⟨[], [], [], [], [t], []⟩
  | .mmaw _ _ _ t _ _ _ => ⟨[], [], [], [], [t], []⟩
  | .mself _ t _ => ⟨[], [], [], [], [], [t]⟩
  | .chclose _ _ d _ _ _ dst _ out _ _ _ =>
    if dst = 0#1 then ⟨[], [], [], [], [], tilesFrom d (Nat.max 1 (256 * tagWidth out / 1024))⟩ else ⟨[], [], [], [], [], []⟩
  | .chrd _ _ d _ _ _ _ => ⟨[], [d], [], [], [], []⟩
  | .saq _ _ x i _ p _ _ => ⟨[x, i], [], [p], [], [], []⟩
  | .sahist _ _ i _ p _ => ⟨[i], [], [p], [], [], []⟩
  | .cpy _ _ d x _ _ dk sk _ _ | .cpyw _ _ d x _ _ dk sk _ _ _ _ =>
    ⟨[], [], [], [], if sk = 1#1 then [x.extractLsb' 0 2] else [], if dk = 1#1 then [d.extractLsb' 0 2] else []⟩
  | _ => ⟨[], [], [], [], [], []⟩

/-- Whether two lists share an element. -/
def meets {α : Type} [BEq α] (a b : List α) : Bool := a.any (fun x => b.contains x)

/-- The tile registers that a command writes: for a CHCLOSE, as many as the columns of its chain's root fill (R282, R284). -/
def tilesAimed (s : State) (i : Instr) : List (BitVec 2) :=
  match i with
  | .chclose _ _ d _ _ _ dst chain out _ _ _ =>
    (match (findChain s chain).bind (fun c => c.links.head?) with
     | some l => if dst = 0#1 then tilesFrom d (Nat.max 1 ((if l.fused then 256 else 128) * tagWidth out / 1024)) else []
     | none => (regUse i).tw)
  | _ => (regUse i).tw

/-- The tile registers that a started command is to write. -/
def QEntry.tilesDue (e : QEntry) : List (BitVec 2) :=
  match e.instr, e.work with
  | .chclose _ _ _ _ _ _ _ _ _ _ _ _, some w => w.tw.map (·.1)
  | i, _ => (regUse i).tw

/-- Whether a command may not start yet because an earlier started command of its queue still has to write one of its registers (R244, R265). -/
def hazard (s : State) (l : List QEntry) (e : QEntry) : Bool :=
  let u := regUse e.instr
  l.any fun x => x.started && !x.done &&
    (let w := regUse x.instr
     meets w.vw (u.vr ++ u.vw) || meets w.pw (u.pr ++ u.pw) || meets x.tilesDue (u.tr ++ tilesAimed s e.instr))

/-- Whether every vector and tile register a command reads is full (R65). -/
def readsFull (g : Group) (u : RegUse) : Bool := u.vr.all (fun i => (g.v.get i.toFin).full) && u.tr.all (fun i => (g.t.get i.toFin).full)
/-- Whether every vector and tile register it writes is full (R65). -/
def writesFull (g : Group) (u : RegUse) : Bool := u.vw.all (fun i => (g.v.get i.toFin).full) && u.tw.all (fun i => (g.t.get i.toFin).full)

/-- Whether a register a command reads has an uncorrectable error (R416). -/
def readsDamaged (g : Group) (u : RegUse) : Bool :=
  g.damaged.any fun x => match x with
    | .v r _ => u.vr.contains r
    | .t r _ => u.tr.contains r
    | .p r _ => r != 0#3 && u.pr.contains r

/-! ## The locations of a command's elements -/

/-- An access of a command: its address, its bytes, and the alignment it asks for. -/
structure ElemAcc where
  va    : BitVec 64
  n     : Nat
  align : Nat

/-- What resolving the accesses of a command gives: their locations with whether they lie on HT pages, or what the head answers. -/
inductive Resolved where
  | ok (s : State) (ls : List (Loc × Bool))
  | no (a : QAct)

/-- The pages of the window that accesses touch, in order of first touch. -/
def pagesTouched (ls : List (Loc × Bool)) : List (Fin 64) :=
  ls.foldl (fun acc l => match l.1 with
    | .spad off => if acc.contains (pageOf off) then acc else acc ++ [pageOf off]
    | .mem _ => acc) []

/-- What one access of a command comes to, with the state it leaves (R11): its location and whether it lies on an HT page, a cause, or a wait for a link. -/
inductive OneAcc where
  | ok (s : State) (l : Loc) (ht : Bool)
  | bad (s : State) (cause : BitVec 10) (lvl : BitVec 3)
  | wait (s : State)

/-- One access of a command (R384); with `any`, wherever it lies outside the window. -/
def resolve1 (s : State) (p : Place) (g : Group) (a : ElemAcc) (kind : BitVec 2) (setD any : Bool) : OneAcc :=
  if a.va.toNat % a.align ≠ 0 then .bad s Cause.memAlign 0
  else if inWindow a.va then
    (if windowDead s p g (a.va.toNat - windowBase) then .bad s Cause.paNodie 0 else .ok s (.spad (a.va.toNat - windowBase)) false)
  else
    match translate s (coreOf p) g.lr.asid a.va kind setD g.trapped.isSome with
    | .wait s => .wait s
    | .bad s cause lvl => .bad s cause lvl
    | .ok s pa ht =>
      if any then .ok s (.mem pa) ht
      else
        match region s pa with
        | .hbm _ | .attic _ => .ok s (.mem pa) ht
        | .dcr _ _ => .bad s Cause.dcrSize 0
        | _ => .bad s Cause.paNodie 0

/-- The cause with which a request of a command has been answered (R398). -/
def QEntry.answered (e : QEntry) (asid : BitVec 16) (va : BitVec 64) (kind : BitVec 2) : Option (BitVec 10 × BitVec 3) :=
  e.faults.findSome? (fun f => f.gives asid va kind)

/-- One access of a command, which meets again a fault that has been answered with a cause (R398). -/
def resolveOne (v : QEnv) (s : State) (a : ElemAcc) (kind : BitVec 2) (setD any : Bool) : OneAcc :=
  match v.e.answered v.g.lr.asid a.va kind with
  | some (c, lvl) => .bad s c lvl
  | none => resolve1 s v.p v.g a kind setD any

/-- The accesses of a command in element order: the locations found, and the failures, up to the first that no answer can mend; none where one of them
waits for a link (R430). -/
def resolveList (v : QEnv) (kind : BitVec 2) (setD any : Bool) : State → List ElemAcc → List (Loc × Bool) →
    List (BitVec 64 × BitVec 2 × BitVec 10 × BitVec 3) → State × Option (List (Loc × Bool) × List (BitVec 64 × BitVec 2 × BitVec 10 × BitVec 3))
  | s, [], ls, fs => (s, some (ls.reverse, fs.reverse))
  | s, a :: rest, ls, fs =>
    match resolveOne v s a kind setD any with
    | .wait s => (s, none)
    | .ok s l ht => resolveList v kind setD any s rest ((l, ht) :: ls) fs
    | .bad s c lvl =>
      let f := (a.va, kind, c, lvl)
      if (v.e.answered v.g.lr.asid a.va kind).isSome || faultWaits s (mkFault v.g.lr.asid a.va kind c lvl) then resolveList v kind setD any s rest ls (f :: fs)
      else (s, some (ls.reverse, (f :: fs).reverse))

/-- What the accesses of a list come to. -/
def resolvedOf (v : QEnv) : State × Option (List (Loc × Bool) × List (BitVec 64 × BitVec 2 × BitVec 10 × BitVec 3)) → Resolved
  | (s, none) => .no (.wait s)
  | (s, some (ls, [])) => .ok s ls
  | (s, some (_, fs)) => .no (faultHead v s fs)

/-- Every access of a command is resolved before it starts (R245). -/
def resolveAll (v : QEnv) (s : State) (accs : List ElemAcc) (kind : BitVec 2) : Resolved :=
  resolvedOf v (resolveList v kind (kind == 1#2) false s accs [] [])

/-- The same for accesses whose target is looked at only later: each goes wherever its page lies (R345). -/
def resolveAnywhere (v : QEnv) (s : State) (accs : List ElemAcc) (kind : BitVec 2) : Resolved :=
  resolvedOf v (resolveList v kind (kind == 1#2) true s accs [] [])

/-- A write of a command: where it goes, and its virtual address. -/
abbrev Aim := Loc × BitVec 64

/-- The writes of a command, from its accesses and their locations. -/
def aims (ls : List (Loc × Bool)) (accs : List ElemAcc) : List Aim := (ls.zip accs).map (fun x => (x.1.1, x.2.va))

/-- The last of a command's checks (R67): every page that its writes touch is allocated, or none, and SP_POOL is raised at the first that cannot be. -/
def granted (v : QEnv) (s : State) (ws : List Aim) (k : State → QAct) : QAct :=
  match s.group v.p with
  | none => .wait s
  | some g =>
    let pages := pagesTouched (ws.map (fun w => (w.1, false)))
    match allocPages s v.p g pages with
    | some (s, _) => k s
    | none =>
      let bad := (pages.filter (fun pg => !(g.pages.get pg).alloc))[poolFreeCount (s.dies.get (dieOfPlace v.p))]?
      let va := match ws.find? (fun w => match w.1 with | .spad off => some (pageOf off) == bad | .mem _ => false) with
        | some w => w.2
        | none => 0
      .trapIn s (Trap.at Cause.spPool va 1)

/-- The pages of the window that a command's accesses touch take their frames, one after another; none while one of them must wait (R68). -/
def touchAll (s : State) (p : Place) (ls : List (Loc × Bool)) : Option State :=
  (pagesTouched ls).foldl (fun (acc : Option State) pg => match acc with
    | none => none
    | some s => (match s.group p with | some g => touchNow s p g pg | none => some s)) (some s)

/-- A command goes on once the pages it reads have their frames. -/
def touched (s : State) (p : Place) (ls : List (Loc × Bool)) (k : State → QAct) : QAct :=
  match touchAll s p ls with
  | none => .wait s
  | some s => k s

/-- A command that passes its last check takes the pages and the frames that its writes need. -/
def placed (v : QEnv) (s : State) (ws : List Aim) (k : State → QAct) : QAct :=
  granted v s ws (fun s => touched s v.p (ws.map (fun w => (w.1, false))) k)

/-- What an object of 64 bytes that a command is to write answers: its physical address, or that it lies where no such object can. -/
inductive ObjReach where
  | ok (s : State) (pa : Nat)
  | misplaced (s : State)
  | no (a : QAct)

/-- The way to an object with kind write (R444): its alignment, its translation, then its place. -/
def reachObject (v : QEnv) (s : State) (va : BitVec 64) : ObjReach :=
  if va.toNat % 64 ≠ 0 ∨ inWindow va = true then .misplaced s
  else
    match (match v.e.answered v.g.lr.asid va 1 with | some (c, lvl) => Xlat.bad s c lvl | none => translate s (coreOf v.p) v.g.lr.asid va 1 true v.g.trapped.isSome) with
    | .wait s => .no (.wait s)
    | .bad s cause lvl => .no (faultHead v s [(va, 1, cause, lvl)])
    | .ok s pa _ => if (region s pa).isHbm then .ok (l2Touch s pa (some (v.g.lr.asid, va.toNat)) false true) pa else .misplaced s

end Sys2Proof.Machine
end

