-- ==== Sys2Proof/Machine/Vector.lean ====
section
/-! DEFINITION. Sys2Proof/Machine/Vector.lean: the predicate commands (R195, R196) and the vector engine (R241 to R262): acceptance into the vector
queue, and what each command does when it starts. -/

namespace Sys2Proof.Machine

open Sys2Proof

/-! ## Acceptance -/

/-- DCNT rises at the acceptance of a command that rounds in DSR (R124, R246). -/
def dcntUp (rounds : Group → Bool) (g : Group) : Group := if rounds g then { g with vrs := { g.vrs with dcnt := g.vrs.dcnt + 1 } } else g

/-- The vector register that a command writes and the tag it leaves there, from the tags its sources have. -/
def newTag (tag : BitVec 6 → BitVec 4) : Instr → Option (BitVec 6 × BitVec 4)
  | .vadd _ d a _ _ | .vsub _ d a _ _ | .vmul _ d a _ _ | .vfma _ d a _ _ | .vfms _ d a _ _ | .vmin _ d a _ _ | .vmax _ d a _ _ | .vand _ d a _ _
  | .vor _ d a _ _ | .vxor _ d a _ _ | .vshl _ d a _ _ | .vshr _ d a _ _ | .vsra _ d a _ _ | .vsel _ d a _ _ | .vmov _ d a _ | .vabs _ d a _
  | .vneg _ d a _ | .vred _ d a _ _ | .vext _ d a _ _ | .vperm _ d a _ _ | .vlane _ d a _ _ | .vscl _ d a _ _ => some (d, tag a)
  | .vdiv _ d _ _ _ | .vrcp _ d _ _ | .vrsq _ d _ _ | .vsqrt _ d _ _ | .vexp2 _ d _ _ | .vlog2 _ d _ _ => some (d, 3)
  | .vcvt _ _ d _ _ t _ _ _ _ | .vbcast _ d _ t _ | .vtag _ d _ t | .vld _ d _ t _ => some (d, t)
  | .vpack _ d a _ _ => some (d, if tag a = 1#4 then 12 else 2)
  | .vunpk _ d a _ _ => some (d, if tag a = 12#4 then 1 else 12)
  | .pcnt _ d _ _ => some (d, 1)
  | .chrd _ _ d _ sp _ _ => if sp = 0#1 then some (d, 11) else none
  | _ => none

/-- The tags of vector registers with one replaced. -/
def retag (tag : BitVec 6 → BitVec 4) (x : BitVec 6 × BitVec 4) (k : BitVec 6) : BitVec 4 := if k = x.1 then x.2 else tag k

/-- The tags that a command leaves. -/
def tagsAfter (tag : BitVec 6 → BitVec 4) (e : QEntry) : BitVec 6 → BitVec 4 :=
  match e.work with
  | some w => w.vw.foldl (fun tag x => retag tag (x.1, x.2.tag)) tag
  | none => (match newTag tag e.instr with | some x => retag tag x | none => tag)

/-- The matrix commands that come before the vector command just accepted: those that have started, and those whose tokens, or tokens placed after theirs,
the vector queue must take before it starts that command (R41, R44, R45; log 40). -/
def matrixAhead (g : Group) : List QEntry :=
  let l : List QEntry := g.queue .matrix
  let takes := ((g.queue .vector).filter (fun e => !e.took && e.instr.ring.getLsbD 3)).length
  let need := takes - g.tokens.get (tokNext .mxe)
  let senders : List (QEntry × Nat) := l.zipIdx.filter (fun x => x.1.instr.ring.getLsbD 0)
  let ahead : Nat := if need = 0 then 0 else match senders[need - 1]? with | some x => x.2 + 1 | none => l.length
  (l.zipIdx.filter (fun (x : QEntry × Nat) => x.1.started || Nat.blt x.2 ahead)).map (·.1)

/-- The tag that a vector register will have when the vector command just accepted starts (R241): that of its last writer among the commands ahead of it in
its queue, and before those of the CHRDs that come before it. -/
def tagAtStart (g : Group) (ahead : List QEntry) : BitVec 6 → BitVec 4 :=
  ((matrixAhead g ++ ahead).filter (fun e => !e.done)).foldl tagsAfter (fun k => (g.v.get k.toFin).tag)

/-- Whether the results of the command just accepted are rounded in DSR with vmode: when v(a) carries a floating tag at its start (R246). -/
def dsrFloat (a : BitVec 6) (g : Group) : Bool := g.vrs.mode == 5#3 && tagFloat (tagAtStart g (g.queue .vector).dropLast a)

/-- A vector-queue command, with its captured scalar operands (R241). -/
def vcommand (i : Instr) (rs : List (BitVec 6)) (rounds : Group → Bool) (s : State) : Host.Outcome State Fault Refusal :=
  command .vector [.vec] i rs (capX rs) (dcntUp rounds) s

/-- No rounding in DSR. -/
def noDsr (_ : Group) : Bool := false

def execPand (r : BitVec 4) (d a b : BitVec 3) (s : State) := vcommand (.pand r d a b) [] noDsr s
def execPor (r : BitVec 4) (d a b : BitVec 3) (s : State) := vcommand (.por r d a b) [] noDsr s
def execPxor (r : BitVec 4) (d a b : BitVec 3) (s : State) := vcommand (.pxor r d a b) [] noDsr s
def execPnot (r : BitVec 4) (d a : BitVec 3) (s : State) := vcommand (.pnot r d a) [] noDsr s
def execPcnt (r : BitVec 4) (d : BitVec 6) (a : BitVec 3) (w : BitVec 1) (s : State) := vcommand (.pcnt r d a w) [] noDsr s
def execPset (r : BitVec 4) (d : BitVec 3) (a : BitVec 6) (i : BitVec 9) (s : State) := vcommand (.pset r d a i) [a] noDsr s
def execVadd (r : BitVec 4) (d a b : BitVec 6) (p : BitVec 3) (s : State) := vcommand (.vadd r d a b p) [] (dsrFloat a) s
def execVsub (r : BitVec 4) (d a b : BitVec 6) (p : BitVec 3) (s : State) := vcommand (.vsub r d a b p) [] (dsrFloat a) s
def execVmul (r : BitVec 4) (d a b : BitVec 6) (p : BitVec 3) (s : State) := vcommand (.vmul r d a b p) [] (dsrFloat a) s
def execVfma (r : BitVec 4) (d a b : BitVec 6) (p : BitVec 3) (s : State) := vcommand (.vfma r d a b p) [] (dsrFloat a) s
def execVfms (r : BitVec 4) (d a b : BitVec 6) (p : BitVec 3) (s : State) := vcommand (.vfms r d a b p) [] (dsrFloat a) s
def execVmin (r : BitVec 4) (d a b : BitVec 6) (p : BitVec 3) (s : State) := vcommand (.vmin r d a b p) [] noDsr s
def execVmax (r : BitVec 4) (d a b : BitVec 6) (p : BitVec 3) (s : State) := vcommand (.vmax r d a b p) [] noDsr s
def execVdiv (r : BitVec 4) (d a b : BitVec 6) (p : BitVec 3) (s : State) := vcommand (.vdiv r d a b p) [] (dsrFloat a) s
def execVand (r : BitVec 4) (d a b : BitVec 6) (p : BitVec 3) (s : State) := vcommand (.vand r d a b p) [] noDsr s
def execVor (r : BitVec 4) (d a b : BitVec 6) (p : BitVec 3) (s : State) := vcommand (.vor r d a b p) [] noDsr s
def execVxor (r : BitVec 4) (d a b : BitVec 6) (p : BitVec 3) (s : State) := vcommand (.vxor r d a b p) [] noDsr s
def execVshl (r : BitVec 4) (d a b : BitVec 6) (p : BitVec 3) (s : State) := vcommand (.vshl r d a b p) [] noDsr s
def execVshr (r : BitVec 4) (d a b : BitVec 6) (p : BitVec 3) (s : State) := vcommand (.vshr r d a b p) [] noDsr s
def execVsra (r : BitVec 4) (d a b : BitVec 6) (p : BitVec 3) (s : State) := vcommand (.vsra r d a b p) [] noDsr s
def execVsel (r : BitVec 4) (d a b : BitVec 6) (p : BitVec 3) (s : State) := vcommand (.vsel r d a b p) [] noDsr s
def execVcmp (r : BitVec 4) (k d : BitVec 3) (a b : BitVec 6) (p : BitVec 3) (s : State) := vcommand (.vcmp r k d a b p) [] noDsr s
def execVmov (r : BitVec 4) (d a : BitVec 6) (p : BitVec 3) (s : State) := vcommand (.vmov r d a p) [] noDsr s
def execVabs (r : BitVec 4) (d a : BitVec 6) (p : BitVec 3) (s : State) := vcommand (.vabs r d a p) [] noDsr s
def execVneg (r : BitVec 4) (d a : BitVec 6) (p : BitVec 3) (s : State) := vcommand (.vneg r d a p) [] noDsr s
def execVrcp (r : BitVec 4) (d a : BitVec 6) (p : BitVec 3) (s : State) := vcommand (.vrcp r d a p) [] (dsrFloat a) s
def execVrsq (r : BitVec 4) (d a : BitVec 6) (p : BitVec 3) (s : State) := vcommand (.vrsq r d a p) [] (dsrFloat a) s
def execVsqrt (r : BitVec 4) (d a : BitVec 6) (p : BitVec 3) (s : State) := vcommand (.vsqrt r d a p) [] (dsrFloat a) s
def execVexp2 (r : BitVec 4) (d a : BitVec 6) (p : BitVec 3) (s : State) := vcommand (.vexp2 r d a p) [] (dsrFloat a) s
def execVlog2 (r : BitVec 4) (d a : BitVec 6) (p : BitVec 3) (s : State) := vcommand (.vlog2 r d a p) [] (dsrFloat a) s
def execVred (r : BitVec 4) (d a : BitVec 6) (o : BitVec 2) (p : BitVec 3) (s : State) := vcommand (.vred r d a o p) [] noDsr s
def execVcvt (r ev : BitVec 4) (d a : BitVec 6) (p : BitVec 3) (tgt : BitVec 4) (dyn : BitVec 1) (rm pos : BitVec 3) (qt : BitVec 2) (s : State) :=
  vcommand (.vcvt r ev d a p tgt dyn rm pos qt) [] (fun g => if dyn = 1#1 then g.vrs.mode == 5#3 else rm == 5#3) s
def execVbcast (r : BitVec 4) (d a : BitVec 6) (t : BitVec 4) (p : BitVec 3) (s : State) := vcommand (.vbcast r d a t p) [a] noDsr s
def execVext (r : BitVec 4) (d a b : BitVec 6) (p : BitVec 3) (s : State) := vcommand (.vext r d a b p) [b] noDsr s
def execVperm (r : BitVec 4) (d a b : BitVec 6) (p : BitVec 3) (s : State) := vcommand (.vperm r d a b p) [] noDsr s
def execVlane (r : BitVec 4) (d a b : BitVec 6) (p : BitVec 3) (s : State) := vcommand (.vlane r d a b p) [b] noDsr s
def execVld (r : BitVec 4) (d a : BitVec 6) (t : BitVec 4) (p : BitVec 3) (s : State) := vcommand (.vld r d a t p) [a] noDsr s
def execVst (r : BitVec 4) (x a : BitVec 6) (p : BitVec 3) (s : State) := vcommand (.vst r x a p) [a] noDsr s
def execVlds (r : BitVec 4) (d a b : BitVec 6) (p : BitVec 3) (s : State) := vcommand (.vlds r d a b p) [a, b] noDsr s
def execVgat (r : BitVec 4) (d a b : BitVec 6) (p : BitVec 3) (s : State) := vcommand (.vgat r d a b p) [a] noDsr s
def execVtag (r : BitVec 4) (d a : BitVec 6) (t : BitVec 4) (s : State) := vcommand (.vtag r d a t) [] noDsr s
def execVscl (r : BitVec 4) (d a b : BitVec 6) (p : BitVec 3) (s : State) := vcommand (.vscl r d a b p) [] (dsrFloat a) s
def execVpack (r : BitVec 4) (d a b : BitVec 6) (p : BitVec 3) (s : State) := vcommand (.vpack r d a b p) [] noDsr s
def execVunpk (r : BitVec 4) (d a : BitVec 6) (h : BitVec 1) (p : BitVec 3) (s : State) := vcommand (.vunpk r d a h p) [] noDsr s

/-! ## Results

Each function answers the new contents of the destination, or the cause of its register checks (R262). -/

/-- The new contents of a vector register, or a cause. -/
abbrev VRes := Except (BitVec 10) VReg

/-- A check: its cause when the condition fails. -/
def need (ok : Bool) (c : BitVec 10) : Except (BitVec 10) Unit := if ok then .ok () else .error c

/-- PRED_BLOCK: a block tag with a predicate other than p0 (R243). -/
def needP0 (p : BitVec 3) (tags : List (BitVec 4)) : Except (BitVec 10) Unit := need (p == 0#3 || !tags.any tagBlock) Cause.predBlock

/-- The rounding of element col under a captured state (R126, R246). -/
def vrnd (rs : RState) (mode : BitVec 3) (col : Nat) : Rnd :=
  { mode := mode, ovf := rs.ovf, hash := if mode = 5#3 then dsrHash rs.seed 0 (BitVec.ofNat 32 col) rs.dcnt else 0 }

/-- A destination whose active elements of a tag's width receive values, with a zero sideband. -/
def elementwise (old : VReg) (tag : BitVec 4) (p : BitVec 1024) (f : Nat → Nat) : VReg :=
  let w := tagWidth tag
  { data := putElems old.data w (fun e => if active p w e then some (f e) else none), tag := tag, full := true, side := 0 }

/-- The value of an element of a vector register. -/
def VReg.val (r : VReg) (i : Nat) : Val := elemVal r.tag r.data r.side i
/-- The bits of an element at the register's own width. -/
def VReg.el (r : VReg) (i : Nat) : Nat := elemAt r.data (tagWidth r.tag) i

/-- A value rounded into a floating tag. -/
def roundTag (t : BitVec 4) (r : Rnd) (x : Val) : Nat := (tagFmt t).round r x

/-- Arithmetic on two sources of one tag: on integers mod 2^w, on floats rounded in vmode (R247). -/
def vArith (fi : (w : Nat) → BitVec w → BitVec w → BitVec w) (ff : Bool → Val → Val → Val) (rs : RState) (old a b : VReg) (pr : BitVec 1024) : VRes := do
  need (tagInt a.tag || tagFloat a.tag) Cause.tagMismatch
  need (a.tag == b.tag) Cause.tagMismatch
  let w := tagWidth a.tag
  .ok (elementwise old a.tag pr (fun e =>
    if tagInt a.tag then (fi w (BitVec.ofNat w (a.el e)) (BitVec.ofNat w (b.el e))).toNat
    else let r := vrnd rs rs.mode e; roundTag a.tag r (ff r.rdn (a.val e) (b.val e))))

/-- VMIN and VMAX (R247). -/
def vMinMax (mx : Bool) (old a b : VReg) (pr : BitVec 1024) : VRes := do
  need (tagInt a.tag || tagFloat a.tag) Cause.tagMismatch
  need (a.tag == b.tag) Cause.tagMismatch
  let w := tagWidth a.tag
  .ok (elementwise old a.tag pr (fun e =>
    if tagInt a.tag then
      let x := BitVec.ofNat w (a.el e)
      let y := BitVec.ofNat w (b.el e)
      (if x.slt y == mx then y else x).toNat
    else roundTag a.tag Rnd.rne (if mx then Val.max2 (a.val e) (b.val e) else Val.min2 (a.val e) (b.val e))))

/-- VFMA and VFMS (R247): sub: d − a × b. -/
def vFma (sub : Bool) (rs : RState) (d a b : VReg) (pr : BitVec 1024) : VRes := do
  need (tagFloat a.tag) Cause.tagMismatch
  need (a.tag == b.tag && a.tag == d.tag) Cause.tagMismatch
  .ok (elementwise d a.tag pr (fun e =>
    let r := vrnd rs rs.mode e
    let m := Val.mul (a.val e) (b.val e)
    roundTag a.tag r (Val.add r.rdn (if sub then m.flip else m) (d.val e))))

/-- VDIV (R247, R130). -/
def vDiv (rs : RState) (old a b : VReg) (pr : BitVec 1024) : VRes := do
  need (a.tag == 3#4 && b.tag == 3#4) Cause.tagMismatch
  .ok (elementwise old 3 pr (fun e => FFmt.fp32.round (vrnd rs rs.mode e) (Val.div (a.val e) (b.val e))))

/-- A function of one FP32 source (R130, R251). -/
def vFun (f : Rnd → Nat → Nat) (rs : RState) (old a : VReg) (pr : BitVec 1024) : VRes := do
  need (a.tag == 3#4) Cause.tagMismatch
  .ok (elementwise old 3 pr (fun e => f (vrnd rs rs.mode e) (a.el e)))

/-- The functions of R130 on FP32 bits. -/
def fRcp (r : Rnd) (x : Nat) : Nat := FFmt.fp32.round r (Val.recip (FFmt.fp32.decode x))
def fRsq (r : Rnd) (x : Nat) : Nat := FFmt.fp32.round r (Val.rsqrt (FFmt.fp32.decode x))
def fSqrt (r : Rnd) (x : Nat) : Nat := FFmt.fp32.round r (Val.sqrt (FFmt.fp32.decode x))
def fExp2 (r : Rnd) (x : Nat) : Nat := exp2 r (BitVec.ofNat 32 x)
def fLog2 (r : Rnd) (x : Nat) : Nat := log2 r (BitVec.ofNat 32 x)

/-- VAND, VOR, VXOR (R248). -/
def vLogic (f : Nat → Nat → Nat) (old a b : VReg) (p : BitVec 3) (pr : BitVec 1024) : VRes := do
  need (a.tag != 11#4 && b.tag != 11#4) Cause.tagMismatch
  needP0 p [a.tag, b.tag]
  let w := tagWidth a.tag
  .ok { elementwise old a.tag pr (fun e => f (a.el e) (elemAt b.data w e)) with side := if tagBlock a.tag then a.side else 0 }

/-- VSHL, VSHR, VSRA (R248). -/
def vShift (f : (w : Nat) → BitVec w → Nat → BitVec w) (old a b : VReg) (pr : BitVec 1024) : VRes := do
  need ((a.tag == 0#4 || tagInt a.tag) && (b.tag == 0#4 || tagInt b.tag)) Cause.tagMismatch
  let w := tagWidth a.tag
  .ok (elementwise old a.tag pr (fun e => (f w (BitVec.ofNat w (a.el e)) (elemAt b.data w e % w)).toNat))

/-- VSEL (R250). -/
def vSel (a b : VReg) (p : BitVec 3) (pr : BitVec 1024) : VRes := do
  need (a.tag == b.tag) Cause.tagMismatch
  needP0 p [a.tag]
  let w := tagWidth a.tag
  .ok { data := putElems a.data w (fun e => some (if active pr w e then a.el e else b.el e)), tag := a.tag, full := true,
        side := if tagBlock a.tag then a.side else 0 }

/-- The comparison of VCMP on one element (R178, R249). -/
def vCmp1 (k : BitVec 3) (a b : VReg) (e : Nat) : Bool :=
  let w := tagWidth a.tag
  if tagInt a.tag then condInt k (BitVec.ofNat w (a.el e)) (BitVec.ofNat w (b.el e))
  else (condFloat k (a.val e == .nan || b.val e == .nan) (Val.eq (a.val e) (b.val e)) (Val.lt (a.val e) (b.val e))).getD false

/-- VCMP: the predicate written (R249). -/
def vCmp (k : BitVec 3) (old : BitVec 1024) (a b : VReg) (pr : BitVec 1024) : Except (BitVec 10) (BitVec 1024) := do
  need (tagInt a.tag || tagFloat a.tag) Cause.tagMismatch
  need (a.tag == b.tag) Cause.tagMismatch
  need (tagInt a.tag || decide (k.toNat < 6)) Cause.tagMismatch
  let bit (j : Nat) : Bool :=
    match tagWidth a.tag with
    | 32 => if pr.getLsbD (j / 2 * 2) then j % 2 == 0 && vCmp1 k a b (j / 2) else old.getLsbD j
    | 16 => if pr.getLsbD j then vCmp1 k a b j else old.getLsbD j
    | _ => if pr.getLsbD j then vCmp1 k a b (2 * j) && vCmp1 k a b (2 * j + 1) else old.getLsbD j
  .ok (BitVec.ofNat 1024 ((List.range 1024).foldr (fun j acc => 2 * acc + (bit j).toNat) 0))

/-- VMOV (R251). -/
def vMov (old a : VReg) (p : BitVec 3) (pr : BitVec 1024) : VRes := do
  needP0 p [a.tag]
  .ok { elementwise old a.tag pr a.el with side := if tagBlock a.tag then a.side else 0 }

/-- VABS and VNEG (R251). -/
def vSign (isNeg : Bool) (old a : VReg) (pr : BitVec 1024) : VRes := do
  need (tagInt a.tag || tagFloat a.tag) Cause.tagMismatch
  let w := tagWidth a.tag
  .ok (elementwise old a.tag pr (fun e =>
    let x := BitVec.ofNat w (a.el e)
    if tagInt a.tag then (if isNeg || x.msb then -x else x).toNat
    else
      match a.val e with
      | .nan => (tagFmt a.tag).nanBits
      | _ => if isNeg then (x ^^^ BitVec.intMin w).toNat else (x &&& BitVec.intMax w).toNat))

/-- VRED (R252, R131). -/
def vRed (o : BitVec 2) (a : VReg) (pr : BitVec 1024) : VRes := do
  need (a.tag == 1#4 || tagFloat a.tag) Cause.tagMismatch
  let op : RedOp := match o.toNat with | 0 => .add | 1 => .max | _ => .min
  let w := tagWidth a.tag
  let els := List.range (16384 / w)
  let v : Nat :=
    if a.tag = 1#4 then
      ((redTree (redInt op) 9 (els.map (fun e => if active pr w e then BitVec.ofNat 32 (a.el e) else redIdInt op))).headD 0).toNat
    else
      let f := tagFmt a.tag
      (redTree (redFloat f op) (if w = 32 then 9 else 10) (els.map (fun e => if active pr w e then a.el e else redIdFloat f op))).headD 0
  .ok { data := BitVec.ofNat 16384 v, tag := a.tag, full := true, side := 0 }

/-- The element of a target that is no block format (R125, R254). -/
def convert1 (t : BitVec 4) (r : Rnd) (x : Val) : Nat :=
  match t.toNat with
  | 1 => (roundInt 32 r x).toNat
  | 2 => (roundInt 8 r x).toNat
  | 12 => (roundInt 16 r x).toNat
  | _ => roundTag t r x

/-- VCVT (R253, R254): the values of the source, taken in the order of the destination's part, rounded; blocks choose their scales (R128). A block converted
to its own type, MX8 or Q4, is encoded by R128 as well, which can change values that R254's last bullet says stay: of the two the model follows R128
(log 59). -/
def vCvt (tgt : BitVec 4) (dyn : BitVec 1) (rm pos : BitVec 3) (qt : BitVec 2) (rs : RState) (old a : VReg) (p : BitVec 3) (pr : BitVec 1024) : VRes := do
  need (!tagRsvd tgt) Cause.tagRsvd
  need (a.tag != 0#4 && a.tag != 11#4) Cause.tagMismatch
  needP0 p [a.tag, tgt]
  need (tgt != 0#4 && tgt != 11#4) Cause.opRange
  let ws := tagWidth a.tag
  let wd := tagWidth tgt
  need (decide (pos.toNat < Nat.max ws wd / Nat.min ws wd)) Cause.opRange
  need (dyn == 1#1 || decide (rm.toNat < 6)) Cause.rmRsvd
  let mode := if dyn = 1#1 then rs.mode else rm
  let m := 16384 / Nat.max ws wd
  let base := if wd < ws then pos.toNat * m else 0
  let src (i : Nat) : Nat := if ws < wd then pos.toNat * m + i else i
  if tagBlock tgt then
    let blocks := (List.range (m / 32)).map (fun j =>
      let xs := (List.range 32).map (fun k => a.val (src (32 * j + k)))
      let r (k : Nat) := vrnd rs mode (base + 32 * j + k)
      if tgt = 8#4 then
        let (b, cs) := blockQ4 qt.toNat r xs
        (b, cs.map BitVec.toNat)
      else
        let (b, es) := blockMx (if tgt = 9#4 then .e4m3 else .e5m2) r xs
        (b, es.map BitVec.toNat))
    let els := (blocks.map (·.2)).flatten.toArray
    let scs := (blocks.map (·.1)).toArray
    let b0 := base / 32
    .ok
      { data := putElems old.data wd (fun e => if base ≤ e ∧ e < base + m then some (els.getD (e - base) 0) else none)
        tag := tgt
        full := true
        side := sideOf tgt (putElems old.side 8 (fun j => if b0 ≤ j ∧ j < b0 + m / 32 then some (scs.getD (j - b0) 0).toNat else none)) }
  else
    .ok
      { data := putElems old.data wd (fun e =>
          if base ≤ e ∧ e < base + m ∧ active pr wd e = true then some (convert1 tgt (vrnd rs mode e) (a.val (src (e - base)))) else none)
        tag := tgt
        full := true
        side := 0 }

/-- VBCAST (R255). -/
def vBcast (t : BitVec 4) (x : BitVec 64) (old : VReg) (pr : BitVec 1024) : VRes := do
  need (!tagRsvd t) Cause.tagRsvd
  need (decide (t.toNat < 8) || t == 12#4) Cause.tagMismatch
  .ok (elementwise old t pr (fun _ => x.toNat % 2 ^ tagWidth t))

/-- VEXT, VLANE, VPERM: 32-bit lanes, from the lane that f names (R256). -/
def vLanes (f : Nat → Option Nat) (old a : VReg) (p : BitVec 3) (pr : BitVec 1024) : VRes := do
  needP0 p [a.tag]
  .ok
    { data := putElems old.data 32 (fun i =>
        if pr.getLsbD (2 * i) then some (match f i with | some k => elemAt a.data 32 k | none => 0) else none)
      tag := a.tag
      full := true
      side := sideOf a.tag a.side }

/-- VTAG (R257). -/
def vTag (t : BitVec 4) (a : VReg) : VRes := do
  need (!tagRsvd t) Cause.tagRsvd
  .ok { data := a.data, tag := t, full := true, side := if tagBlock t && tagBlock a.tag then sideOf t a.side else 0 }

/-- VSCL (R258). A shift by 2^16 or more acts as one by 2^16: the exponents of every format lie far below. -/
def vScl (rs : RState) (old a b : VReg) (p : BitVec 3) (pr : BitVec 1024) : VRes := do
  need ((tagFloat a.tag || tagBlock a.tag) && b.tag == 1#4) Cause.tagMismatch
  needP0 p [a.tag]
  let k (j : Nat) : Int := (BitVec.ofNat 32 (elemAt b.data 32 j)).toInt
  if tagFloat a.tag then
    .ok (elementwise old a.tag pr (fun e =>
      roundTag a.tag (vrnd rs rs.mode e) ((a.val e).scale (clampInt (k (e * tagWidth a.tag / 32)) (-65536) 65536))))
  else
    let scale (j : Nat) (x : Nat) : Nat :=
      if a.tag = 8#4 then (if x % 64 = 63 then x else x / 64 * 64 + (clampInt ((x % 64 : Nat) + k j) 0 62).toNat)
      else if x = 255 then x else (clampInt ((x : Int) + k j) 0 254).toNat
    .ok { a with full := true, side := sideOf a.tag (putElems a.side 8 (fun j => some (scale j (elemAt a.side 8 j)))) }

/-- VPACK (R259). -/
def vPack (old a b : VReg) (pr : BitVec 1024) : VRes := do
  need ((a.tag == 1#4 || a.tag == 12#4) && a.tag == b.tag) Cause.tagMismatch
  let ws := tagWidth a.tag
  let n := 16384 / ws
  let tag : BitVec 4 := if a.tag = 1#4 then 12 else 2
  .ok (elementwise old tag pr (fun e =>
    let x := BitVec.ofNat ws (if e < n then a.el e else b.el (e - n))
    (roundInt (ws / 2) Rnd.rne (Val.ofInt x.toInt)).toNat))

/-- VUNPK (R259). -/
def vUnpk (h : BitVec 1) (old a : VReg) (pr : BitVec 1024) : VRes := do
  need (a.tag == 12#4 || a.tag == 2#4) Cause.tagMismatch
  let ws := tagWidth a.tag
  let n := 16384 / (2 * ws)
  let tag : BitVec 4 := if a.tag = 12#4 then 1 else 12
  .ok (elementwise old tag pr (fun e => ((BitVec.ofNat ws (a.el (n * h.toNat + e))).signExtend (2 * ws)).toNat))

/-- PCNT (R195). -/
def pCnt (w : BitVec 1) (pr : BitVec 1024) : VReg :=
  { data := BitVec.ofNat 16384 ((predBits w).filter (fun i => pr.getLsbD i)).length, tag := 1, full := true, side := 0 }

/-- PSET (R196). -/
def pSet (x : BitVec 64) (i : BitVec 9) : BitVec 1024 := BitVec.ofNat 1024 (2 ^ (clampInt (x.toInt + i.toInt) 0 1024).toNat - 1)

/-! ## Starting -/

/-- A register result starts, or its cause is raised. -/
def QEnv.vres (v : QEnv) (d : BitVec 6) (r : VRes) : QAct :=
  match r with
  | .ok x => .start v.s { Work.none with vw := [(d, x)] }
  | .error c => .trap (.plain c)

/-- A predicate result starts. -/
def QEnv.pres (v : QEnv) (d : BitVec 3) (r : Except (BitVec 10) (BitVec 1024)) : QAct :=
  match r with
  | .ok x => .start v.s { Work.none with pw := [(d, x)] }
  | .error c => .trap (.plain c)

/-- Vector operand i. -/
def QEnv.v (v : QEnv) (i : BitVec 6) : VReg := v.g.v.get i.toFin
/-- Predicate operand i. -/
def QEnv.pr (v : QEnv) (i : BitVec 3) : BitVec 1024 := v.g.pred i

/-! ## Memory accesses (R260, R261) -/

/-- The active elements of an access. -/
def activeElems (pr : BitVec 1024) (w : Nat) : List Nat := (List.range (16384 / w)).filter (active pr w)

/-- The accesses of a block-tagged VLD or VST: 32 elements and then their scale byte, block after block. R262 reports the failing access of the lowest
element and gives a scale byte no number: the model ranks the scale byte of a block just after the block's elements (log 60). -/
def blockAccs (a : BitVec 64) (t : BitVec 4) : List ElemAcc :=
  let n := if t = 8#4 then 16 else 32
  (List.range (2048 / n)).flatMap (fun j =>
    [{ va := a + BitVec.ofNat 64 (n * j), n := n, align := 1 }, { va := a + BitVec.ofNat 64 (2048 + j), n := 1, align := 1 }])

/-- The positions in a register of the accesses of a block-tagged VLD. -/
def blockPos (t : BitVec 4) : List Nat :=
  let n := if t = 8#4 then 16 else 32
  (List.range (2048 / n)).flatMap (fun j => [n * j, 2048 + j])

/-- A vector load places its entry: v(d) becomes empty with its new tag (R65, R260, R261). -/
def placeLoad (v : QEnv) (d : BitVec 6) (tag : BitVec 4) (accs : List ElemAcc) (poss : List Nat) : QAct :=
  let st := StreamId.vec
  if 16 ≤ (v.g.stream st).loads.length then .wait v.s
  else
    match resolveAll v v.s accs 0 with
    | .no a => a
    | .ok s ls =>
      let t := v.g.stream st
      let parts := ((ls.zip accs).zip poss).map (fun x => ({ loc := x.1.1.1, va := x.1.2.va.toNat, n := x.1.2.n, pos := x.2 } : LoadPart))
      let r : LoadReq := { fpc := v.e.fpc, va := v.x 0, dest := .vector d (tagWidth tag) v.e.id, parts := parts, after := t.storesIn, mark := t.mark,
                           issued := (s.cores.get (coreOf v.p)).cycle }
      let t := { t with
        loads := t.loads ++ [r]
        loadsIn := t.loadsIn + 1 }
      let old := v.v d
      let reg : VReg := { old with tag := tag, full := false, side := 0 }
      let g := { v.g with v := v.g.v.set d.toNat reg d.isLt }
      .start (s.setGroup v.p (g.setStream st t)) { Work.none with access := true }

/-- VLD (R261). -/
def startVld (v : QEnv) (d : BitVec 6) (t : BitVec 4) (p : BitVec 3) : QAct :=
  let a := v.x 0
  if tagRsvd t then .trap (.plain Cause.tagRsvd)
  else if t = 11#4 then .trap (.plain Cause.tagMismatch)
  else if p ≠ 0#3 ∧ tagBlock t then .trap (.plain Cause.predBlock)
  else if tagBlock t then
    (if a.toNat % 64 ≠ 0 then .trap (Trap.at Cause.memAlign a 0) else placeLoad v d t (blockAccs a t) (blockPos t))
  else
    let n := tagWidth t / 8
    let es := activeElems (v.pr p) (tagWidth t)
    placeLoad v d t (es.map (fun e => { va := a + BitVec.ofNat 64 (n * e), n := n, align := n })) (es.map (n * ·))

/-- VLDS (R261). -/
def startVlds (v : QEnv) (d : BitVec 6) (p : BitVec 3) : QAct :=
  let t := (v.v d).tag
  if tagBlock t || t == 11#4 then .trap (.plain Cause.tagMismatch)
  else
    let n := tagWidth t / 8
    let es := activeElems (v.pr p) (tagWidth t)
    placeLoad v d t (es.map (fun e => { va := v.x 0 + BitVec.ofNat 64 e * v.x 1, n := n, align := n })) (es.map (n * ·))

/-- VGAT (R261). -/
def startVgat (v : QEnv) (d b : BitVec 6) (p : BitVec 3) : QAct :=
  let t := (v.v d).tag
  if !(t == 0#4 || t == 1#4 || t == 3#4) || (v.v b).tag != 1#4 then .trap (.plain Cause.tagMismatch)
  else
    let es := activeElems (v.pr p) 32
    placeLoad v d t (es.map (fun e => { va := v.x 0 + (BitVec.ofNat 32 (elemAt (v.v b).data 32 e)).signExtend 64, n := 4, align := 4 })) (es.map (4 * ·))

/-- The bytes of a register from a position: a position from 2,048 on is the sideband. -/
def VReg.bytesAt (r : VReg) (pos n : Nat) : List Byte :=
  if pos < 2048 then leBytes n (r.data.extractLsb' (8 * pos) (8 * n)).toNat else leBytes n (r.side.extractLsb' (8 * (pos - 2048)) (8 * n)).toNat

/-- The parts of a store: a block's 32 elements carry their scale byte with them (R103), and go by the page that either lies on (R85; log 16). -/
def storeParts (blk : Bool) (r : VReg) : List ((Loc × Bool) × ElemAcc × Nat) → List StorePart
  | [] => []
  | [x] => [{ loc := x.1.1, va := x.2.1.va.toNat, op := .write (r.bytesAt x.2.2 x.2.1.n), scale := none, ht := x.1.2 }]
  | x :: y :: rest =>
    if blk then
      { loc := x.1.1, va := x.2.1.va.toNat, op := .write (r.bytesAt x.2.2 x.2.1.n), scale := (r.bytesAt y.2.2 1).head?.map (fun b => { loc := y.1.1, va := y.2.1.va.toNat, byte := b }),
        ht := x.1.2 || y.1.2 } :: storeParts blk r rest
    else
      { loc := x.1.1, va := x.2.1.va.toNat, op := .write (r.bytesAt x.2.2 x.2.1.n), scale := none, ht := x.1.2 } :: storeParts blk r (y :: rest)

/-- VST (R261): the register's contents are read at the start; its entry takes its place in the store queue even when no element is active (R260). Its
writes come after the loads that VEC issued before the command (R95), and those to an HT page after every earlier load of the load queue (R85). -/
def startVst (v : QEnv) (x : BitVec 6) (p : BitVec 3) : QAct :=
  let st := StreamId.vec
  let r := v.v x
  let a := v.x 0
  let blk := tagBlock r.tag
  let n := tagWidth r.tag / 8
  let es := activeElems (v.pr p) (tagWidth r.tag)
  if p ≠ 0#3 ∧ blk then .trap (.plain Cause.predBlock)
  else if blk ∧ a.toNat % 64 ≠ 0 then .trap (Trap.at Cause.memAlign a 1)
  else
    let accs : List ElemAcc := if blk then blockAccs a r.tag else es.map (fun e => { va := a + BitVec.ofNat 64 (n * e), n := n, align := n })
    let poss := if blk then blockPos r.tag else es.map (n * ·)
    if 16 ≤ (v.g.stream st).stores.length then .wait v.s
    else
      match resolveAll v v.s accs 1 with
      | .no a => a
      | .ok s ls =>
        granted v s (aims ls accs) (fun s =>
          match s.group v.p with
          | none => .wait v.s
          | some g =>
            let t := g.stream st
            let ht := ls.any (·.2)
            let t := { t with
              stores := t.stores ++ [{ fpc := v.e.fpc, ht := ht, parts := storeParts blk r (ls.zip (accs.zip poss)), entry := some v.e.id, id := t.storesIn,
                                       before := if ht then t.loadsIn else v.e.afterLd, mark := t.mark, age := s.now }]
              storesIn := t.storesIn + 1 }
            .start (s.setGroup v.p (g.setStream st t)) { Work.none with access := true })

/-! ## The commands of the vector queue -/

/-- A vector-queue command at the head, its operands full (R244, R262). -/
def startVector (v : QEnv) : QAct :=
  let rs := v.e.rs
  match v.e.instr with
  | .pand _ d a b => v.pres d (.ok (v.pr a &&& v.pr b))
  | .por _ d a b => v.pres d (.ok (v.pr a ||| v.pr b))
  | .pxor _ d a b => v.pres d (.ok (v.pr a ^^^ v.pr b))
  | .pnot _ d a => v.pres d (.ok (~~~(v.pr a)))
  | .pcnt _ d a w => v.vres d (.ok (pCnt w (v.pr a)))
  | .pset _ d _ i => v.pres d (.ok (pSet (v.x 0) i))
  | .vadd _ d a b p => v.vres d (vArith (fun _ x y => x + y) Val.add rs (v.v d) (v.v a) (v.v b) (v.pr p))
  | .vsub _ d a b p => v.vres d (vArith (fun _ x y => x - y) (fun n x y => Val.add n x y.flip) rs (v.v d) (v.v a) (v.v b) (v.pr p))
  | .vmul _ d a b p => v.vres d (vArith (fun _ x y => x * y) (fun _ => Val.mul) rs (v.v d) (v.v a) (v.v b) (v.pr p))
  | .vfma _ d a b p => v.vres d (vFma false rs (v.v d) (v.v a) (v.v b) (v.pr p))
  | .vfms _ d a b p => v.vres d (vFma true rs (v.v d) (v.v a) (v.v b) (v.pr p))
  | .vmin _ d a b p => v.vres d (vMinMax false (v.v d) (v.v a) (v.v b) (v.pr p))
  | .vmax _ d a b p => v.vres d (vMinMax true (v.v d) (v.v a) (v.v b) (v.pr p))
  | .vdiv _ d a b p => v.vres d (vDiv rs (v.v d) (v.v a) (v.v b) (v.pr p))
  | .vand _ d a b p => v.vres d (vLogic (· &&& ·) (v.v d) (v.v a) (v.v b) p (v.pr p))
  | .vor _ d a b p => v.vres d (vLogic (· ||| ·) (v.v d) (v.v a) (v.v b) p (v.pr p))
  | .vxor _ d a b p => v.vres d (vLogic (· ^^^ ·) (v.v d) (v.v a) (v.v b) p (v.pr p))
  | .vshl _ d a b p => v.vres d (vShift (fun _ x k => x <<< k) (v.v d) (v.v a) (v.v b) (v.pr p))
  | .vshr _ d a b p => v.vres d (vShift (fun _ x k => x >>> k) (v.v d) (v.v a) (v.v b) (v.pr p))
  | .vsra _ d a b p => v.vres d (vShift (fun _ x k => x.sshiftRight k) (v.v d) (v.v a) (v.v b) (v.pr p))
  | .vsel _ d a b p => v.vres d (vSel (v.v a) (v.v b) p (v.pr p))
  | .vcmp _ k d a b p => v.pres d (vCmp k (v.pr d) (v.v a) (v.v b) (v.pr p))
  | .vmov _ d a p => v.vres d (vMov (v.v d) (v.v a) p (v.pr p))
  | .vabs _ d a p => v.vres d (vSign false (v.v d) (v.v a) (v.pr p))
  | .vneg _ d a p => v.vres d (vSign true (v.v d) (v.v a) (v.pr p))
  | .vrcp _ d a p => v.vres d (vFun fRcp rs (v.v d) (v.v a) (v.pr p))
  | .vrsq _ d a p => v.vres d (vFun fRsq rs (v.v d) (v.v a) (v.pr p))
  | .vsqrt _ d a p => v.vres d (vFun fSqrt rs (v.v d) (v.v a) (v.pr p))
  | .vexp2 _ d a p => v.vres d (vFun fExp2 rs (v.v d) (v.v a) (v.pr p))
  | .vlog2 _ d a p => v.vres d (vFun fLog2 rs (v.v d) (v.v a) (v.pr p))
  | .vred _ d a o p => v.vres d (vRed o (v.v a) (v.pr p))
  | .vcvt _ _ d a p tgt dyn rm pos qt => v.vres d (vCvt tgt dyn rm pos qt rs (v.v d) (v.v a) p (v.pr p))
  | .vbcast _ d _ t p => v.vres d (vBcast t (v.x 0) (v.v d) (v.pr p))
  | .vext _ d a _ p => v.vres d (vLanes (fun i => if i + (v.x 0).toNat ≤ 511 then some (i + (v.x 0).toNat) else none) (v.v d) (v.v a) p (v.pr p))
  | .vlane _ d a _ p => v.vres d (vLanes (fun _ => some ((v.x 0).toNat % 512)) (v.v d) (v.v a) p (v.pr p))
  | .vperm _ d a b p =>
    if (v.v b).tag ≠ 1#4 then .trap (.plain Cause.tagMismatch)
    else v.vres d (vLanes (fun i => some (elemAt (v.v b).data 32 i % 512)) (v.v d) (v.v a) p (v.pr p))
  | .vtag _ d a t => v.vres d (vTag t (v.v a))
  | .vscl _ d a b p => v.vres d (vScl rs (v.v d) (v.v a) (v.v b) p (v.pr p))
  | .vpack _ d a b p => v.vres d (vPack (v.v d) (v.v a) (v.v b) (v.pr p))
  | .vunpk _ d a h p => v.vres d (vUnpk h (v.v d) (v.v a) (v.pr p))
  | .vld _ d _ t p => startVld v d t p
  | .vlds _ d _ _ p => startVlds v d p
  | .vgat _ d _ b p => startVgat v d b p
  | .vst _ x _ p => startVst v x p
  | _ => .start v.s Work.none

end Sys2Proof.Machine
end

