-- ==== Sys2Proof/Machine/Tile.lean ====
section
/-! DEFINITION. Sys2Proof/Machine/Tile.lean: shape registers (R268 to R270), boxes (R271), and the tile unit's TLD and TST (R272). -/

namespace Sys2Proof.Machine

open Sys2Proof

/-! ## Shape records (R268, R269) -/

/-- The bit position and the width of a field of a shape record, by its number (R268, R269). -/
def shField (f : Nat) : Option (Nat × Nat) :=
  if f = 0 then some (0, 64)
  else if f = 1 then some (508, 4)
  else if f = 2 then some (505, 3)
  else if f = 3 then some (504, 1)
  else if f = 4 then some (484, 8)
  else if f = 5 then some (492, 12)
  else if 8 ≤ f ∧ f ≤ 12 then some (64 + 32 * (f - 8), 32)
  else if 16 ≤ f ∧ f ≤ 20 then some (224 + 40 * (f - 16), 40)
  else if 24 ≤ f ∧ f ≤ 28 then some (424 + 12 * (f - 24), 12)
  else none

/-- A field's bits. -/
def shGet (h : BitVec 512) (f : Nat) : Nat :=
  match shField f with
  | some (pos, w) => (h.extractLsb' pos w).toNat
  | none => 0

/-- A field replaced. -/
def shPut (h : BitVec 512) (f : Nat) (v : Nat) : BitVec 512 :=
  match shField f with
  | some (pos, w) => (h &&& ~~~(BitVec.ofNat 512 (2 ^ w - 1) <<< pos)) ||| (BitVec.ofNat 512 (v % 2 ^ w) <<< pos)
  | none => h

/-- A shape record read whole. -/
structure Shape where
  base   : BitVec 64
  tag    : BitVec 4
  rank   : Nat
  ef     : Bool
  swz    : Nat
  mxoff  : Nat
  dim    : List Nat
  stride : List Int
  box    : List Nat
  deriving DecidableEq, Repr

/-- The fields of a shape record (R268). -/
def Shape.of (h : BitVec 512) : Shape :=
  { base := h.extractLsb' 0 64, tag := h.extractLsb' 508 4, rank := shGet h 2, ef := h.getLsbD 504, swz := shGet h 4, mxoff := shGet h 5
    dim := (List.range 5).map (fun j => shGet h (8 + j))
    stride := (List.range 5).map (fun j => (h.extractLsb' (224 + 40 * j) 40).toInt)
    box := (List.range 5).map (fun j => shGet h (24 + j)) }

def Shape.dimAt (h : Shape) (j : Nat) : Nat := h.dim.getD j 0
def Shape.strideAt (h : Shape) (j : Nat) : Int := h.stride.getD j 0
/-- BOXj, read as 1 from RANK on in the count of the rows; BOX0 bounds the elements of a row as it stands (R271, R272). -/
def Shape.boxAt (h : Shape) (j : Nat) : Nat := if j < h.rank ∨ j = 0 then h.box.getD j 0 else 1

/-- The field constraint of R269 on a value of the field's width; its cause where it fails. -/
def fieldFault (f v : Nat) : Option (BitVec 10) :=
  if f = 1 then (if 13 ≤ v then some Cause.tagRsvd else if v = 11 then some Cause.shInval else none)
  else if f = 2 then (if 1 ≤ v ∧ v ≤ 5 then none else some Cause.shInval)
  else if f = 4 then (if v ≤ 3 then none else some Cause.shInval)
  else if f = 16 then (if v = 0 then none else some Cause.shInval)
  else none

/-- The record constraints of R269. -/
def Shape.recordOk (h : Shape) : Bool :=
  (List.range 5).all (fun j =>
    if j < h.rank then decide (1 ≤ h.dimAt j ∧ 1 ≤ h.box.getD j 0) else h.dimAt j == 0 && h.strideAt j == 0 && h.box.getD j 0 == 0) &&
  (if tagBlock h.tag then h.box.getD 0 0 % 32 == 0 && h.dimAt 0 % 32 == 0 && h.mxoff != 0 && h.swz == 0 else h.mxoff == 0)

/-- The checks of SHLD on a record: the fields in the order of their numbers, then the record (R269, R270). -/
def recordFault (h : BitVec 512) : Option (BitVec 10) :=
  match [1, 2, 4, 16].findSome? (fun f => fieldFault f (shGet h f)) with
  | some c => some c
  | none => if (Shape.of h).recordOk then none else some Cause.shInval

/-- The checks on the record that a command reads at its acceptance: a reserved tag, then the record constraints; the field constraints were met when the
fields were written (R111, R269). -/
def acceptFault (h : BitVec 512) : Option (BitVec 10) :=
  if tagRsvd (Shape.of h).tag then some Cause.tagRsvd else if (Shape.of h).recordOk then none else some Cause.shInval

/-! ## SHLD, SHSET, SHGET (R270) -/

/-- SHLD has issued and its data is not there yet (R440). -/
def Env.onItsWay (e : Env) (s : State) : Act State :=
  match s.group e.p with
  | some g => e.waitFor s g .other 0
  | none => .wait s

/-- SHLD: one read of 64 bytes through the load queue, whose data arrives no sooner than eight cycles after it issues (R440); a poisoned line raises MC_ECC
whatever the policy (R414). -/
def shld (h : BitVec 4) (a : BitVec 6) (e : Env) : Act State :=
  e.t.reads [a] (
    let va := e.t.getX a
    if va.toNat % 64 ≠ 0 then .trap (Trap.at Cause.memAlign va 0)
    else
      match reach e va 0 false with
      | .trap s x => .trapIn s x
      | .wait s => .wait s
      | .ok s (.dcr _ _) => .trapIn s (Trap.at Cause.dcrSize va 0)
      | .ok s tgt =>
        if !loadTurn s e.p e.t || tgt.loc.locked s e.p 64 || !dueFrom e.now (e.t.issuedAt e.now) then e.onItsWay s
        else
          match readyPages s e.p e.g [tgt.loc] with
          | .wait s => e.onItsWay s
          | .ready s =>
            let run := readRun s e.p e.g e.t e.t.storesIn tgt.loc 64
            if run.bad ≠ [] then .trapIn s (Trap.at Cause.mcEcc va 0)
            else
              let v := BitVec.ofNat 512 (leNat run.bytes)
              let s := match tgt with | .mem pa _ => l2Touch s pa (some (e.g.lr.asid, va.toNat)) false false | _ => s
              match recordFault v with
              | some c => .trapIn s (.plain c)
              | none =>
                let met := pairedWith s e.p e.st (((List.range 64).map tgt.loc.plus).filter (fun l => (queuedByte e.t.stores e.t.storesIn l).isNone))
                let t := { e.t with cum := (e.t.cum ++ run.bufs).dedup, seen := (e.t.seen ++ met).dedup }
                .done (s.setGroup e.p ({ e.g with h := e.g.h.set h.toNat v h.isLt }.setStream e.st t)))

def execShld (r h : BitVec 4) (a : BitVec 6) (s : State) := plain anyStream r 0 (shld h a) s

/-- The value SHSET stores in a field, from its register: the zero extension of the value, or the sign extension of a stride. -/
def shValue (f : Nat) (x : BitVec 64) : Option Nat :=
  match shField f with
  | none => none
  | some (_, w) =>
    if w = 40 then (if (x.extractLsb' 0 40).signExtend 64 = x then some (x.extractLsb' 0 40).toNat else none)
    else if x.toNat < 2 ^ w then some x.toNat else none

/-- SHSET. -/
def shset (h : BitVec 4) (a f : BitVec 6) (e : Env) : Act State :=
  e.t.reads [a] (
    match shValue f.toNat (e.t.getX a) with
    | none => .trap (.plain Cause.shInval)
    | some v =>
      match fieldFault f.toNat v with
      | some c => .trap (.plain c)
      | none => .done (e.s.setGroup e.p { e.g with h := e.g.h.set h.toNat (shPut (e.g.h.get h.toFin) f.toNat v) h.isLt }))

def execShset (r h : BitVec 4) (a f : BitVec 6) (s : State) := plain anyStream r 0 (shset h a f) s

/-- SHGET: a field, zero-extended, a stride sign-extended. -/
def shRead (h : BitVec 512) (f : Nat) : BitVec 64 :=
  if 16 ≤ f ∧ f ≤ 20 then (h.extractLsb' (224 + 40 * (f - 16)) 40).signExtend 64 else BitVec.ofNat 64 (shGet h f)

def execShget (r : BitVec 4) (d : BitVec 6) (h : BitVec 4) (f : BitVec 6) (s : State) :=
  plain anyStream r 0 (fun e => onStream (fun t => t.writes d (.done (t.setX d (shRead (e.g.h.get h.toFin) f.toNat)))) e) s

/-! ## Boxes (R271) -/

/-- The element width of a box: 8 for Raw (R271). -/
def boxWidth (t : BitVec 4) : Nat := if t = 0#4 then 8 else tagWidth t

/-- The origin of a box, o0 to o4 (R271). -/
def originOf (b c : BitVec 64) : List Nat :=
  [fieldOf b 31 0, fieldOf b 63 32, fieldOf c 20 0, fieldOf c 41 21, fieldOf c 62 42]

/-- The rows of a box. -/
def Shape.rows (h : Shape) : Nat := h.boxAt 1 * h.boxAt 2 * h.boxAt 3 * h.boxAt 4

/-- The alignment checks of R271, o0 the origin's first coordinate. -/
def Shape.alignOk (h : Shape) (o0 : Nat) : Bool :=
  let m : Nat := if h.swz = 0 then 16 else 128
  h.base.toNat % m == 0 && (List.range 4).all (fun j => h.strideAt (j + 1) % m == 0) && o0 * boxWidth h.tag % 128 == 0

/-- The box checks of R271. -/
def Shape.boxOk (h : Shape) (o : List Nat) : Bool :=
  decide (h.rows ≤ 64) && decide (h.boxAt 0 * boxWidth h.tag ≤ 1024) &&
    (List.range 5).all (fun j => decide (j < h.rank) || o.getD j 0 == 0)

/-- The acceptance checks of a command that maps a box (R271, R385). -/
def boxChecks (h : BitVec 512) (b c : BitVec 64) : Option (BitVec 10) :=
  let sh := Shape.of h
  match acceptFault h with
  | some x => some x
  | none =>
    if !sh.alignOk (fieldOf b 31 0) then some Cause.tlAlign
    else if !sh.boxOk (originOf b c) then some Cause.tlBox
    else if c.getLsbD 63 then some Cause.opRange
    else none

/-- The digits i1 to i4 of a tile row (R271). -/
def Shape.digits (h : Shape) (r : Nat) : List Nat :=
  [r % h.boxAt 1, r / h.boxAt 1 % h.boxAt 2, r / (h.boxAt 1 * h.boxAt 2) % h.boxAt 3, r / (h.boxAt 1 * h.boxAt 2 * h.boxAt 3)]

/-- box_elem: the address of element i0 of row r, and whether it is in bounds (R271). -/
def Shape.elem (h : Shape) (o : List Nat) (r i0 : Nat) : BitVec 64 × Bool :=
  let d := h.digits r
  let c (j : Nat) : Nat := o.getD j 0 + (if j = 0 then i0 else d.getD (j - 1) 0)
  let inb := (List.range (min h.rank 5)).all (fun j => decide (c j < h.dimAt j))
  let off : Int := ((c 0 * boxWidth h.tag / 8 : Nat) : Int) + c 1 * h.strideAt 1 + c 2 * h.strideAt 2 + c 3 * h.strideAt 3 + c 4 * h.strideAt 4
  let a := h.base + BitVec.ofInt 64 off
  (if h.swz = 0 then a else a ^^^ (BitVec.ofNat 64 (c 1 % 2 ^ h.swz) <<< 4), inb)

/-- The bytes of data of a block (R271). -/
def blockBytes (t : BitVec 4) : Nat := if t = 8#4 then 16 else 32

/-- The address of the scale byte of the block that holds a data byte (R271). -/
def Shape.scaleAddr (h : Shape) (a : BitVec 64) : BitVec 64 :=
  h.base + BitVec.ofNat 64 (h.mxoff * 65536) + BitVec.ofInt 64 ((a - h.base).toInt / (blockBytes h.tag : Int))

/-- Elements of one run: 16 bytes of a row, with the tile row, the first element and how many of the run's elements lie in the box and in bounds. -/
structure Chunk where
  row : Nat
  i0  : Nat
  n   : Nat
  va  : BitVec 64
  deriving DecidableEq, Repr

/-- The elements of a chunk, 16 bytes. -/
def chunkElems (t : BitVec 4) : Nat := 128 / boxWidth t

/-- The chunks of a box that hold an element in bounds, row by row (R271, R272). -/
def Shape.chunks (h : Shape) (o : List Nat) : List Chunk :=
  let k := chunkElems h.tag
  (List.range h.rows).flatMap fun r =>
    (List.range ((h.boxAt 0 + k - 1) / k)).filterMap fun j =>
      let n := ((List.range k).filter (fun i => decide (k * j + i < h.boxAt 0) && (h.elem o r (k * j + i)).2)).length
      if n = 0 then none else some { row := r, i0 := k * j, n := n, va := (h.elem o r (k * j)).1 }

/-- The bytes of a chunk. -/
def Shape.chunkBytes (h : Shape) (c : Chunk) : Nat := c.n * boxWidth h.tag / 8

/-- Whether a block begins with a chunk: its scale byte is accessed with it. -/
def Shape.hasScale (h : Shape) (c : Chunk) : Bool := tagBlock h.tag && c.i0 % 32 == 0

/-- The accesses of a list of chunks: each chunk's data, and a block's scale byte after its first chunk. -/
def Shape.accesses (h : Shape) (cs : List Chunk) : List ElemAcc :=
  cs.flatMap fun c =>
    { va := c.va, n := h.chunkBytes c, align := 1 } :: (if h.hasScale c then [{ va := h.scaleAddr c.va, n := 1, align := 1 }] else [])

/-- The locations of the accesses sorted to their chunks again: data and scale. -/
def Shape.pairs (h : Shape) : List Chunk → List (Loc × Bool) → List (Chunk × Loc × Option Loc)
  | [], _ => []
  | _ :: _, [] => []
  | c :: cs, x :: rest =>
    if h.hasScale c then (c, x.1, rest.head?.map (·.1)) :: h.pairs cs (rest.drop 1) else (c, x.1, none) :: h.pairs cs rest

/-- The locations of paired chunks with their lengths. -/
def Shape.sized (h : Shape) (ps : List (Chunk × Loc × Option Loc)) : List (Loc × Nat) :=
  ps.flatMap (fun x => (x.2.1, h.chunkBytes x.1) :: (match x.2.2 with | some l => [(l, 1)] | none => []))

/-- The scratchpad regions of a list of locations with their lengths. -/
def spadRegions (ls : List (Loc × Nat)) : List (Nat × Nat) :=
  ls.filterMap (fun l => match l.1 with | .spad off => some (off, l.2) | .mem _ => none)

/-- Whether a list of regions meets a bank that another command keeps locked (R71). -/
def regionsBlocked (v : QEnv) (s : State) (rs : List (Nat × Nat)) : Bool := rs.any (fun r => bankLocked s v.p (some (v.q, v.e.id)) r.1 r.2)

/-! ## What an engine reads and writes -/

/-- Bytes an engine reads at their home points (R96): those of a poisoned line read zero, and whether any did (R415). -/
def engineRead (s : State) (p : Place) (g : Group) (l : Loc) (n : Nat) : List Byte × Bool :=
  let locs := (List.range n).map l.plus
  (locs.map (fun x => if locPoisoned s p g x then 0#8 else locByte s p g x), locs.any (locPoisoned s p g))

/-- The lines of a list of reads that are poisoned, each once. -/
def badLines (s : State) (p : Place) (g : Group) (ls : List (Loc × Nat)) : List Loc :=
  firstOfLines (ls.flatMap (fun l => ((List.range l.2).map l.1.plus).filter (locPoisoned s p g)))

/-- An engine's requests at the L2 slices (R75, R78). -/
def engineTouch (s : State) (asid : BitVec 16) (ef write : Bool) (ls : List (Loc × BitVec 64)) : State :=
  ls.foldl (fun s l => match l.1 with
    | .mem pa => l2Touch s pa (some (asid, l.2.toNat)) ef write
    | .spad _ => s) s

/-- The first location of the line of a location, and the position in it. -/
def Loc.line : Loc → Loc × Nat
  | .mem pa => (.mem (pa / 128 * 128), pa % 128)
  | .spad off => (.spad (off / 128 * 128), off % 128)

/-- Every line of a write. -/
def LineWrite.lines (w : LineWrite) : List LineBytes := { loc := w.loc, va := w.va, bytes := w.bytes, poison := w.poison } :: w.more

/-- Bytes of one line added to a list of lines. -/
def joinLine (ls : List LineBytes) (x : LineBytes) : List LineBytes :=
  if ls.any (fun l => l.loc == x.loc) then
    ls.map (fun l => if l.loc = x.loc then { l with bytes := l.bytes ++ x.bytes, poison := l.poison || x.poison } else l)
  else ls ++ [x]

/-- A unit enters the writes of a command: runs of bytes that lie in one line each, by location and virtual address, and a scale byte. The writes of the
lines that it touches become one, so that each line and each unit is performed whole (R101, R103). -/
def addUnit (ef : Bool) (ws : List LineWrite) (rs : List (Loc × Nat × List Byte)) (scale : Option ScaleByte) (poison : Bool) : List LineWrite :=
  let new : List LineBytes := rs.map (fun r =>
    { loc := r.1.line.1, va := r.2.1, bytes := r.2.2.zipIdx.map (fun b => (r.1.line.2 + b.2, b.1)), poison := poison })
  let near (w : LineWrite) : Bool := w.lines.any (fun l => new.any (fun n => n.loc == l.loc))
  let old := ws.filter near
  match (old.flatMap LineWrite.lines ++ new).foldl joinLine [] with
  | [] => ws
  | x :: more =>
    ws.filter (fun w => !near w) ++
      [{ loc := x.loc, va := x.va, bytes := x.bytes, more := more, scales := old.flatMap (·.scales) ++ scale.toList, poison := x.poison, ef := ef }]

/-! ## TLD and TST (R272) -/

/-- Their acceptance: the shape register and the origin are captured, and the box checked. -/
def captureBox (h : BitVec 4) (b c : BitVec 6) (e : Env) : Except Trap Capture :=
  let rec_ := e.g.h.get h.toFin
  match boxChecks rec_ (e.t.getX b) (e.t.getX c) with
  | some x => .error (.plain x)
  | none => .ok { xs := [e.t.getX b, e.t.getX c], hs := [rec_], tid := 0 }

def execTld (r ev : BitVec 4) (t : BitVec 2) (h : BitVec 4) (b c : BitVec 6) (s : State) :=
  command .matrix [.mxe] (.tld r ev t h b c) [b, c] (captureBox h b c) id s

def execTst (r ev : BitVec 4) (t : BitVec 2) (h : BitVec 4) (b c : BitVec 6) (s : State) :=
  command .matrix [.mxe] (.tst r ev t h b c) [b, c] (captureBox h b c) id s

/-- Tile register operand. -/
def QEnv.t (v : QEnv) (i : BitVec 2) : TReg := v.g.t.get i.toFin

/-- Shape operand k as captured. -/
def QEnv.shape (v : QEnv) (k : Nat) : Shape := Shape.of (v.e.shops.toList.getD k 0)

/-- A tile register becomes empty (R65, R266). -/
def emptyTile (s : State) (p : Place) (ts : List (BitVec 2)) : State :=
  match s.group p with
  | none => s
  | some g => s.setGroup p (ts.foldl (fun g i => { g with t := g.t.set i.toNat { g.t.get i.toFin with full := false } i.isLt }) g)

/-- A tile built from rows of 128 bytes. -/
def tileOfBytes (bs : List (Nat × List Byte)) : BitVec 65536 := bs.foldl (fun acc b => overlay acc b.1 b.2) 0

/-- A chunk of a box with its location and that of its scale byte. -/
abbrev PlacedChunk := Chunk × Loc × Option Loc

/-- What the way to a box gives: its chunks in their places, the accesses and their locations, and the regions of the window it takes; or the head's answer. -/
inductive BoxPlan where
  | ok (s : State) (pl : List PlacedChunk) (as : List Aim) (locks : List (Nat × Nat))
  | no (a : QAct)

/-- The way to the chunks of a box: each address resolves, and no bank of them is locked (R71, R271, R272). -/
def planBox (v : QEnv) (s : State) (h : Shape) (cs : List Chunk) (kind : BitVec 2) : BoxPlan :=
  match resolveAll { v with s := s } s (h.accesses cs) kind with
  | .no a => .no a
  | .ok s ls =>
    let pl := h.pairs cs ls
    let locks := spadRegions (h.sized pl)
    if regionsBlocked v s locks then .no (.wait s) else .ok s pl (aims ls (h.accesses cs)) locks

/-- What a read of a box finds: the tile rows, the sideband, and the poisoned lines. -/
structure BoxRead where
  s    : State
  data : BitVec 65536
  side : BitVec 4096
  bad  : List Loc

/-- TLD of R272: the box read into tile rows. -/
def readBox (s : State) (p : Place) (g : Group) (h : Shape) (pl : List PlacedChunk) : BoxRead :=
  let s := engineTouch s g.lr.asid h.ef false (pl.map (fun x => (x.2.1, x.1.va)) ++ pl.filterMap (fun x => x.2.2.map (fun l => (l, h.scaleAddr x.1.va))))
  let w := boxWidth h.tag
  { s := s
    data := tileOfBytes (pl.map (fun x => (128 * x.1.row + x.1.i0 * w / 8, (engineRead s p g x.2.1 (h.chunkBytes x.1)).1)))
    side := pl.foldl (fun (acc : BitVec 4096) x => match x.2.2 with
      | some l => overlay acc ((x.1.row * (1024 / w) + x.1.i0) / 32) (engineRead s p g l 1).1
      | none => acc) 0
    bad := badLines s p g (h.sized pl) }

/-- TLD at the head, which places no reserved tag (R111): under ECC policy 0 a poisoned line leaves the tile empty and its cause is taken at the stream (R416). -/
def startTld (v : QEnv) (t : BitVec 2) : QAct :=
  let h := v.shape 0
  if tagRsvd h.tag then .trap (.plain Cause.tagRsvd)
  else
  match planBox v v.s h (h.chunks (originOf (v.x 0) (v.x 1))) 0 with
  | .no a => a
  | .ok s pl as locks =>
    touched s v.p (as.map (fun a => (a.1, false))) (fun s =>
      let r := readBox s v.p v.g h pl
      let s := emptyTile r.s v.p [t]
      if r.bad ≠ [] ∧ v.g.lr.ecc ≠ 1#2 then .start s { Work.none with locks := locks, cause := some Cause.mcEcc }
      else
        let s := r.bad.foldl (fun s l => recordZeroFill v.s s v.p v.g l) s
        .start s { Work.none with tw := [(t, { data := r.data, tag := h.tag, full := true, side := r.side })], locks := locks })

/-- The bytes of a tile from a byte position. -/
def TReg.bytesAt (r : TReg) (pos n : Nat) : List Byte := leBytes n (r.data.extractLsb' (8 * pos) (8 * n)).toNat

/-- The units of a box: a chunk without a scale byte that follows one of its block goes with it (R103). -/
def Shape.units (h : Shape) : List PlacedChunk → List (List PlacedChunk)
  | [] => []
  | x :: rest =>
    match h.units rest with
    | (y :: ys) :: us =>
      if tagBlock h.tag && !h.hasScale y.1 && y.1.row == x.1.row then (x :: y :: ys) :: us else [x] :: (y :: ys) :: us
    | us => [x] :: us

/-- The lines that a box's elements in bounds are written to: the bytes and the scale byte of each chunk are given (R271, R272). -/
def writeBox (h : Shape) (pl : List PlacedChunk) (bytes : Chunk → List Byte) (scale : Chunk → Byte) : List LineWrite :=
  (h.units pl).foldl (fun ws u =>
    addUnit h.ef ws (u.map (fun x => (x.2.1, x.1.va.toNat, bytes x.1))) (u.findSome? (fun x => x.2.2.map (fun l => { loc := l, va := (h.scaleAddr x.1.va).toNat, byte := scale x.1 }))) false) []

/-- The bytes of a chunk of a tile register, and its scale byte. -/
def TReg.chunkBytes (r : TReg) (h : Shape) (c : Chunk) : List Byte := r.bytesAt (128 * c.row + c.i0 * boxWidth h.tag / 8) (h.chunkBytes c)
/-- The scale byte of a chunk of a tile register. -/
def TReg.chunkScale (r : TReg) (h : Shape) (c : Chunk) : Byte := r.side.extractLsb' (8 * ((c.row * (1024 / boxWidth h.tag) + c.i0) / 32)) 8

/-- TST at the head. -/
def startTst (v : QEnv) (t : BitVec 2) : QAct :=
  let h := v.shape 0
  let r := v.t t
  if r.tag ≠ h.tag then .trap (.plain Cause.tagMismatch)
  else
    match planBox v v.s h (h.chunks (originOf (v.x 0) (v.x 1))) 1 with
    | .no a => a
    | .ok s pl as locks =>
      placed v s as (fun s => .start s { Work.none with lines := writeBox h pl (r.chunkBytes h) (r.chunkScale h), locks := locks })

end Sys2Proof.Machine
end

