-- ==== Sys2Proof/Machine/Chain.lean ====
section
/-! DEFINITION. Sys2Proof/Machine/Chain.lean: named accumulator chains (R132 to R159): building, contributions, forwards, notices and nodes,
splicing and freezing (R423 to R428), and the chain commands CHBLD, CHSTAT, CHFREE, CHSPLICE, CHRD, LNORM, LSET (R276 to R281). -/

namespace Sys2Proof.Machine

open Sys2Proof

/-! ## Links -/

/-- The columns of a link (R156). -/
def Link.ncol (l : Link) : Nat := if l.fused then 256 else 128

/-- The step after the last of a link's range. -/
def Link.stop (l : Link) : Nat := l.slo + l.scnt

/-- The links that name link i as their parent, with their indices (R137). -/
def Chain.kids (c : Chain) (i : Nat) : List (Nat × Link) := (c.links.zipIdx.filter (fun x => decide (0 < x.2) && x.1.parent == i)).map (fun x => (x.2, x.1))

/-- The die of link i. -/
def Chain.dieAt (c : Chain) (i : Nat) : DieId := (c.links[i]?.map (·.die)).getD 0

/-- Whether a link is a tree link of its chain (R146). -/
def Chain.isTree (c : Chain) (l : Link) : Bool := c.tf != 0#2 && l.hop == c.tf

/-- Whether a step is one of the local steps of link i (R137). -/
def Chain.isLocal (c : Chain) (i : Nat) (l : Link) (step : Nat) : Bool :=
  decide (l.slo ≤ step ∧ step < l.stop) && !(c.kids i).any (fun k => decide (k.2.slo ≤ step ∧ step < k.2.stop))

/-- Link i of a chain replaced. -/
def Chain.setLink (c : Chain) (i : Nat) (l : Link) : Chain := { c with links := c.links.set i l }

/-- A chain replaced. -/
def setChain (s : State) (c : Chain) : State := { s with chains := s.chains.map (fun x => if x.num = c.num then c else x) }

/-- A link as built: every exponent E0, everything else clear (R134, R139). -/
def Link.rebuilt (l : Link) (e0 : BitVec 16) : Link :=
  { l with state := .built, recv := 0, mask := 0, m := List.replicate 64 (List.replicate l.ncol 0), e := List.replicate 64 e0, ovr := 0, noded := false,
           flight := none, landed := false, reads := [], asks := [] }

/-- Rows of element words added into a link, each with its overflow (R141, R142). -/
def addRow (m : List (BitVec 48)) (new : List (BitVec 48 × Bool)) : List (BitVec 48) × Bool :=
  let out := List.zipWith (fun a b => (w48Add a b.1, b.2)) m new
  (out.map (·.1.1), out.any (fun x => x.1.2 || x.2))

/-- A contribution of 64 rows of rounded words: the additions, the OVR flags, and the rise of RECV; DONE when RECV reaches DECL (R134, R141, R142). -/
def Link.receive (l : Link) (rows : List (List (BitVec 48 × Bool))) (ovr : BitVec 64) (slot : Option (BitVec 3)) : Link :=
  let out := List.zipWith addRow l.m rows
  let o := out.zipIdx.foldl (fun (acc : BitVec 64) x => if x.1.2 then acc ||| (1#64 <<< x.2) else acc) (l.ovr ||| ovr)
  let recv := l.recv + 1
  { l with m := out.map (·.1), ovr := o, recv := recv
           mask := match slot with | some k => l.mask ||| (1#8 <<< k.toNat) | none => l.mask
           state := if recv = l.decl then .done else .open }

/-- The incarnation of a die as a die holds it (R428). -/
def incOf (s : State) (holder d : DieId) : BitVec 8 := (s.dies.get holder).incs.get d

/-- A forward or notice leaves link i for its parent (R142, R147, R157). -/
def Link.send (l : Link) (s : State) (parent : DieId) : Link :=
  { l with flight := some { src := incOf s l.die l.die, dst := incOf s l.die parent }, landed := false }

/-! ## Nodes of a canonical chain (R145, R146) -/

/-- How a node's value is formed from the values a link has. -/
inductive NodeExp where
  | kid (i : Nat)
  | leaf
  | join (l r : NodeExp)
  deriving DecidableEq, Repr

/-- ceil(log2 n) for n > 0. -/
def ceilLog2 (n : Nat) : Nat := if n ≤ 1 then 0 else Nat.log2 (n - 1) + 1

/-- The number of blocks of a chain with steps [0, S) at level c (R145). -/
def blocksOf (steps c : Nat) : Nat := (steps + 2 ^ c - 1) / 2 ^ c

/-- The range of node (j, i) (R145). -/
def nodeRange (steps c j i : Nat) : Nat × Nat := (i * 2 ^ (c + j), Nat.min ((i + 1) * 2 ^ (c + j)) steps)

/-- The highest node with a range, at or below level top (R146). -/
def nodeOf (steps c top lo hi : Nat) : Option (Nat × Nat) :=
  ((List.range (top + 1)).reverse.find? (fun j => lo % 2 ^ (c + j) == 0 && lo < steps && nodeRange steps c j (lo / 2 ^ (c + j)) == (lo, hi))).map
    (fun j => (j, lo / 2 ^ (c + j)))

/-- tree(j, i) as an expression over the tree children's nodes and the link's own block part (R145, R146). -/
def nodeExp (steps c nb : Nat) (kids : List (Nat × Nat × Nat)) : Nat → Nat → Bool → NodeExp
  | 0, i, own =>
    match (if own then none else kids.find? (fun k => (k.2.1, k.2.2) == nodeRange steps c 0 i)) with
    | some k => .kid k.1
    | none => .leaf
  | j + 1, i, own =>
    match (if own then none else kids.find? (fun k => (k.2.1, k.2.2) == nodeRange steps c (j + 1) i)) with
    | some k => .kid k.1
    | none =>
      let l := nodeExp steps c nb kids j (2 * i) false
      if nb ≤ (2 * i + 1) * 2 ^ j then l else .join l (nodeExp steps c nb kids j (2 * i + 1) false)

/-- The format of a chain's nodes (R135). -/
def treeFmt (tf : BitVec 2) : FFmt := if tf = 2#2 then .bf16 else .fp32

/-- The value of an expression at one element. -/
def NodeExp.value (f : FFmt) (own : BitVec 48) (e : BitVec 16) (kid : Nat → Nat) : NodeExp → Nat
  | .kid i => kid i
  | .leaf => f.round Rnd.rne (w48Value own e)
  | .join l r => canonNode f (l.value f own e kid) (r.value f own e kid)

/-- The word of a list of rows. -/
def rowWord (m : List (List (BitVec 48))) (r c : Nat) : BitVec 48 := (m.getD r []).getD c 0

/-- The tree children of a link (R146). -/
def Chain.treeKids (c : Chain) (i : Nat) : List (Nat × Link) := (c.kids i).filter (fun k => c.isTree k.2)

/-- The number of steps of a canonical chain: link 0 covers [0, S). -/
def Chain.steps (c : Chain) : Nat := (c.links.head?.map Link.stop).getD 0

/-- A tree link that has reached DONE computes its node from its children's nodes as it has read them, which replaces its element words (R133, R146, R157). -/
def Chain.computeNode (c : Chain) (i : Nat) (l : Link) : Link :=
  let nb := blocksOf c.steps c.level
  let kids := c.treeKids i
  let own := match nodeOf c.steps c.level (ceilLog2 nb) l.slo l.stop with | some x => x | none => (0, 0)
  let ex := nodeExp c.steps c.level nb (kids.map (fun k => (k.1, k.2.slo, k.2.stop))) own.1 own.2 true
  let f := treeFmt c.tf
  let m := l.m.zipIdx.map (fun row => row.1.zipIdx.map (fun w =>
    BitVec.ofNat 48 (ex.value f w.1 (l.e.getD row.2 0) (fun k => match l.reads.find? (fun x => x.1 == k) with
      | some x => (rowWord x.2 row.2 w.2).toNat
      | none => 0))))
  { l with m := m, noded := true }

/-- A tree link that has reached DONE asks for the node values of its tree children, each read tagged with the incarnations of both dies (R147, R157). -/
def Link.ask (l : Link) (s : State) (kids : List (Nat × Link)) : Link :=
  { l with asks := l.asks ++ (kids.filter (fun k => !l.asks.any (fun a => a.1 == k.1))).map (fun k =>
      (k.1, some { src := incOf s k.2.die k.2.die, dst := incOf s k.2.die l.die })) }

/-- A link asks for the node of tree child i anew when a spare has taken the child's place: a node that it has received stays (R425, R426). -/
def Link.askAgain (l : Link) (s : State) (i : Nat) (spare : Link) (tree : Bool) : Link :=
  let l := { l with asks := l.asks.filter (fun a => a.1 ≠ i) }
  if tree && l.state == .done && !l.noded && !l.reads.any (fun x => x.1 == i) then l.ask s [(i, spare)] else l

/-- Link i of a chain after it has changed: on reaching DONE no group holds it, a tree link asks for its children's nodes and, once it has received them
all, computes its node, and a link with a parent forwards or gives notice (R142, R146, R147, R158). -/
def settleLink (s : State) (c : Chain) (i : Nat) (l : Link) : State :=
  if l.state = .done then
    let l := { l with holders := [] }
    let l := if c.isTree l && !l.noded then l.ask s (c.treeKids i) else l
    let l := if c.isTree l && !l.noded && (c.treeKids i).all (fun k => l.reads.any (fun x => x.1 == k.1)) then c.computeNode i l else l
    setChain s (c.setLink i (if i = 0 || l.flight.isSome || l.landed then l else l.send s (c.dieAt l.parent)))
  else setChain s (c.setLink i l)

/-! ## CHBLD (R135 to R139, R148) -/

/-- The link entry i of a descriptor from its dwords (R136). -/
def readLink (w0 w1 : BitVec 64) : Link :=
  { die := fin4 (fieldOf w0 51 48), core := fin32 (fieldOf w0 47 43), array := if w0.getLsbD 42 then 1 else 0, fused := w0.getLsbD 41,
    slot := fieldOf w0 40 37, hop := w0.extractLsb' 35 2, parent := fieldOf w0 34 29, cslot := w0.extractLsb' 26 3, decl := w0.extractLsb' 0 20,
    slo := fieldOf w1 19 0, scnt := fieldOf w1 40 20, state := .built, recv := 0, mask := 0, m := [], e := [], ovr := 0, noded := false,
    flight := none, landed := false, reads := [], holders := [], lasting := 0 }

/-- The entries a link occupies: core, array, slot (R156). -/
def Link.entries (l : Link) : List (CoreId × Fin 2 × Nat) :=
  if l.fused then [(l.coreId, 0, l.slot), (l.coreId, 1, l.slot)] else [(l.coreId, l.array, l.slot)]

/-- The entry a step of a link names it by. -/
def Link.home (l : Link) : CoreId × Fin 2 × Nat := (l.coreId, l.array, l.slot)

/-- Whether an entry is free of links and not retired (R133, R425). -/
def entryFree (s : State) (x : CoreId × Fin 2 × Nat) : Bool :=
  !s.chains.any (fun c => c.links.any (fun l => l.entries.contains x)) && !((s.cores.get x.1).arrays.get x.2.1).ldead.getLsbD x.2.2

/-- Whether an array that an entry lies on is retired (R421). -/
def entryRetired (s : State) (x : CoreId × Fin 2 × Nat) : Bool := ((s.cores.get x.1).arrays.get x.2.1).ret

/-- The header checks of a descriptor (R135, R138). -/
def headOk (d : List (BitVec 64)) : Bool :=
  let w (k : Nat) : BitVec 64 := d.getD k 0
  (w 0).extractLsb' 32 32 == 1#32 && (w 0).extractLsb' 0 32 == 0x48433953#32 &&
    (w 1).extractLsb' 40 24 == 0#24 && (w 1).extractLsb' 22 10 == 0#10 && (w 1).extractLsb' 12 4 == 0#4 &&
    (w 1).extractLsb' 37 2 != 3#2 && decide (fieldOf (w 1) 36 32 ≤ 20) && ((w 1).extractLsb' 37 2 != 0#2 || fieldOf (w 1) 36 32 == 0) &&
    (w 2).extractLsb' 16 48 == 0#48 && (List.range 5).all (fun k => w (3 + k) == 0)

/-- The checks of one link entry that raise CH_DESC (R138). -/
def entryOk (i : Nat) (w0 w1 w2 w3 : BitVec 64) : Bool :=
  let l := readLink w0 w1
  w0.extractLsb' 52 12 == 0#12 && w0.extractLsb' 20 6 == 0#6 && w1.extractLsb' 41 23 == 0#23 && w2 == 0 && w3 == 0 && l.hop != 3#2 &&
    (if i = 0 then l.parent == 0 && l.cslot == 0#3 else decide (l.parent < i)) &&
    decide (0 < l.scnt ∧ l.stop ≤ 2 ^ 20) && l.decl != 0#20

/-- Two ranges that share a step. -/
def overlaps (a b : Link) : Bool := decide (a.slo < b.stop ∧ b.slo < a.stop)

/-- Every pair of a list, in order. -/
def pairsOf {α : Type} : List α → List (α × α)
  | [] => []
  | a :: rest => rest.map (fun b => (a, b)) ++ pairsOf rest

/-- The placement checks of R138 and R421. -/
def placesOk (s : State) (die4 : List Nat) (ls : List Link) : Bool :=
  die4.all (fun d => if h : d < 4 then dieLive s ⟨d, h⟩ else false) && ls.all (fun l => decide (l.slot ≤ 13)) &&
    (pairsOf ls).all (fun x => !meets x.1.entries x.2.entries) && ls.all (fun l => !(l.fused && l.array == 1)) &&
    ls.zipIdx.all (fun x => x.2 == 0 || (ls.getD x.1.parent x.1).fused == x.1.fused) && ls.all (fun l => l.entries.all (fun e => !entryRetired s e))

/-- The counting checks of R138. -/
def countsOk (c : Chain) : Bool :=
  c.links.zipIdx.all (fun x =>
    let kids := (c.kids x.2).map (·.2)
    (pairsOf kids).all (fun y => !overlaps y.1 y.2) && kids.all (fun k => decide (x.1.slo ≤ k.slo ∧ k.stop ≤ x.1.stop)) &&
      (x.1.scnt - (kids.map (·.scnt)).sum) + kids.length == x.1.decl.toNat)

/-- The intervals of a link's range that no child covers. -/
def localRuns (lo hi : Nat) : List (Nat × Nat) → List (Nat × Nat)
  | [] => if lo < hi then [(lo, hi)] else []
  | k :: rest => (if lo < k.1 then [(lo, k.1)] else []) ++ localRuns (Nat.max lo k.2) hi rest

/-- The block that a list of intervals lies in: some none for no interval, none where there are two blocks. -/
def oneBlock (c : Nat) (rs : List (Nat × Nat)) : Option (Option Nat) :=
  rs.foldl (fun acc r =>
    match acc with
    | none => none
    | some b =>
      let x := r.1 / 2 ^ c
      if (r.2 - 1) / 2 ^ c ≠ x then none
      else match b with | none => some (some x) | some y => if x = y then some (some y) else none) (some none)

/-- The rules of R148; of TF = 0: every HOP W48 (R138). -/
def alignOk (c : Chain) : Bool :=
  if c.tf = 0#2 then c.links.all (fun l => l.hop == 0#2)
  else
    let nb := blocksOf c.steps c.level
    let top := ceilLog2 nb
    let node (l : Link) := nodeOf c.steps c.level top l.slo l.stop
    c.links.zipIdx.all (fun x =>
      let l := x.1
      let kids := (c.kids x.2).map (·.2)
      let parts := kids.filter (fun k => !c.isTree k)
      let sorted := kids.mergeSort (fun a b => decide (a.slo ≤ b.slo))
      let own := localRuns l.slo l.stop (sorted.map (fun k => (k.slo, k.stop))) ++ parts.map (fun k => (k.slo, k.stop))
      (l.hop == 0#2 || l.hop == c.tf) && (x.2 != 0 || (c.isTree l && l.slo == 0)) &&
        (if c.isTree l then
          (match node l with
           | none => false
           | some n => (kids.filter c.isTree).all (fun k => match node k with
             | none => false
             | some m => decide (m.1 < n.1) && m.2 / 2 ^ (n.1 - m.1) == n.2)) &&
            (oneBlock c.level own).isSome
         else
          (oneBlock c.level [(l.slo, l.stop)]).isSome && kids.all (fun k => !c.isTree k && k.slo / 2 ^ c.level == l.slo / 2 ^ c.level)))

/-- The checks of CHBLD on a descriptor read whole, in the order of R138: the chain, or the cause. -/
def buildChain (s : State) (owner : BitVec 64) (hd ls : List (BitVec 64)) : Except (BitVec 10) Chain :=
  let w1 := hd.getD 1 0
  let n := fieldOf w1 21 16 + 1
  let raw (i k : Nat) : BitVec 64 := ls.getD (4 * i + k) 0
  let links := (List.range n).map (fun i => readLink (raw i 0) (raw i 1))
  let e0 : BitVec 16 := (hd.getD 2 0).extractLsb' 0 16
  let c : Chain :=
    { num := w1.extractLsb' 0 12, born := s.fresh, owner := owner, satok := w1.getLsbD 39, tf := w1.extractLsb' 37 2, level := fieldOf w1 36 32, e0 := e0,
      links := links.map (fun l => l.rebuilt e0) }
  let sameSlot := (pairsOf (c.links.zipIdx.filter (fun x => decide (0 < x.2)))).any (fun y => y.1.1.parent == y.2.1.parent && y.1.1.cslot == y.2.1.cslot)
  if !(List.range n).all (fun i => entryOk i (raw i 0) (raw i 1) (raw i 2) (raw i 3)) || sameSlot then .error Cause.chDesc
  else if (findChain s c.num).isSome then .error Cause.chLive
  else if !placesOk s ((List.range n).map (fun i => fieldOf (raw i 0) 51 48)) c.links then .error Cause.chPlace
  else if c.links.any (fun l => l.entries.any (fun x => !entryFree s x)) then .error Cause.chBusy
  else if !countsOk c then .error Cause.chCount
  else if !alignOk c then .error Cause.chAlign
  else .ok c

/-- A read of n 64-byte pieces of a structure by a command at its head: every piece translated; a poisoned line is MC_ECC whatever the policy (R414). -/
inductive StructRead where
  | ok (s : State) (ds : List (BitVec 64))
  | no (a : QAct)

/-- The read of a structure of n pieces at a 64-byte aligned address. -/
def readStruct (v : QEnv) (s : State) (va : BitVec 64) (n : Nat) : StructRead :=
  let accs := (List.range n).map (fun i => ({ va := va + BitVec.ofNat 64 (64 * i), n := 64, align := 1 } : ElemAcc))
  match resolveAll { v with s := s } s accs 0 with
  | .no a => .no a
  | .ok s ls =>
    if regionsBlocked v s (spadRegions (ls.map (fun l => (l.1, 64)))) then .no (.wait s)
    else
      match touchAll s v.p ls with
      | none => .no (.wait s)
      | some s =>
        let s := engineTouch s v.g.lr.asid false false (aims ls accs)
        match (ls.zip accs).find? (fun x => locPoisoned s v.p v.g x.1.1) with
        | some x => .no (.trapIn s (Trap.at Cause.mcEcc x.2.va 0))
        | none => .ok s (ls.flatMap (fun l => (List.range 8).map (fun k => BitVec.ofNat 64 (leNat (locBytes s v.p v.g (l.1.plus (8 * k)) 8)))))

def execChbld (r : BitVec 4) (a : BitVec 6) (s : State) :=
  command .matrix [.mxe] (.chbld r a) [a] (fun e => if (e.t.getX a).toNat % 64 ≠ 0 then .error (.plain Cause.chDesc) else capX [a] e) id s

/-- The die that holds the chain directory (R132, R429). -/
def directoryDie (s : State) : Option DieId := match s.dawn.directory with | some d => some d | none => (List.finRange 4).find? (fun d => dieLive s d)

/-- Whether a chain number cannot be claimed: the directory is being rebuilt (R429), or the link to its die is being retrained (R430). -/
def directoryAway (s : State) (d : DieId) : Bool := s.dawn.rebuilding || (match directoryDie s with | some x => linkHeld s d x | none => false)

/-- CHBLD at the head: it completes when every link is BUILT (R139). -/
def startChbld (v : QEnv) : QAct :=
  if directoryAway v.s (dieOfPlace v.p) then .wait v.s
  else
  match readStruct v v.s (v.x 0) 1 with
  | .no a => a
  | .ok s hd =>
    if !headOk hd then .trapIn s (.plain Cause.chDesc)
    else
      let n := fieldOf (hd.getD 1 0) 21 16 + 1
      match readStruct v s (v.x 0 + 64) ((n + 1) / 2) with
      | .no a => a
      | .ok s ls =>
        match buildChain s v.g.lr.id hd ls with
        | .error c => .trapIn s (.plain c)
        | .ok c => .start { s with chains := s.chains ++ [c], fresh := s.fresh + 1 } Work.none

/-! ## Selectors (R132, R276) -/

/-- A selector whose bits above LINK are zero. -/
def selectorOk (x : BitVec 64) : Bool := x.extractLsb' 18 46 == 0#46

/-- The chain and link a selector names, of the group's own launch, at the head; it waits while the chain is not built (R276). OP_RANGE of LINK comes
before CH_OWNER, but for CHRD (R385). -/
def withLink (v : QEnv) (x : BitVec 64) (ownerFirst : Bool) (k : Chain → Nat → Link → QAct) : QAct :=
  match findChain v.s (x.extractLsb' 0 12) with
  | none => .wait v.s
  | some c =>
    match c.links[fieldOf x 17 12]? with
    | none => .trap (.plain (if ownerFirst && c.owner != v.g.lr.id then Cause.chOwner else Cause.opRange))
    | some l => if c.owner ≠ v.g.lr.id then .trap (.plain Cause.chOwner) else k c (fieldOf x 17 12) l

/-- Captured operands, their selector in range (R276). -/
def capSel (rs : List (BitVec 6)) (a : BitVec 6) (ok : Env → Bool) (e : Env) : Except Trap Capture :=
  if !selectorOk (e.t.getX a) || !ok e then .error (.plain Cause.opRange) else capX rs e

/-! ## CHSTAT, CHFREE (R278, R155) -/

/-- The code of a link's state (R278). -/
def LinkState.code : LinkState → BitVec 3
  | .built => 1 | .open => 2 | .done => 3 | .frozen => 4

/-- The status word of a link (R278). -/
def Link.status (l : Link) : BitVec 64 := 1#1 ++ l.state.code ++ l.mask ++ BitVec.ofBool (l.ovr != 0) ++ 0#11 ++ l.decl ++ l.recv

/-- CHSTAT: x(d) is empty from its acceptance on (R65). -/
def execChstat (r : BitVec 4) (d a : BitVec 6) (s : State) :=
  plain [.mxe] 0 0 (fun e =>
    e.t.reads [a] (e.t.writes d (
      if 16 ≤ (e.g.queue .matrix).length then .hold
      else
        match capSel [a] a (fun _ => true) e with
        | .error x => .trap x
        | .ok c =>
          let g := accept e.g .matrix e.st (.chstat r d a) c
          .done (e.s.setGroup e.p (g.setStream e.st ((g.stream e.st).markEmpty d)))))) s

/-- CHSTAT at the head: a chain that is not built reads 0. -/
def startChstat (v : QEnv) (d : BitVec 6) : QAct :=
  match findChain v.s ((v.x 0).extractLsb' 0 12) with
  | none => .start v.s { Work.none with xw := some (d, 0) }
  | some _ => withLink v (v.x 0) false (fun _ _ l => .start v.s { Work.none with xw := some (d, l.status) })

def execChfree (r : BitVec 4) (a : BitVec 6) (s : State) :=
  command .matrix [.mxe] (.chfree r a) [a]
    (fun e => if (e.t.getX a).extractLsb' 12 52 ≠ 0#52 then .error (.plain Cause.opRange) else capX [a] e) id s

/-- CHFREE at the head; a chain that is not built: no effect. -/
def startChfree (v : QEnv) : QAct :=
  let n : BitVec 12 := (v.x 0).extractLsb' 0 12
  match findChain v.s n with
  | none => .start v.s Work.none
  | some c => if c.owner ≠ v.g.lr.id then .trap (.plain Cause.chOwner) else .start (freeChain v.s n) Work.none

/-! ## LNORM, LSET (R280) -/

def execLnorm (r ev : BitVec 4) (a b k : BitVec 6) (s : State) :=
  command .matrix [.mxe] (.lnorm r ev a b k) [a, b] (capSel [a, b] a (fun _ => k != 0#6)) id s

def execLset (r ev : BitVec 4) (a b : BitVec 6) (x : BitVec 16) (s : State) :=
  command .matrix [.mxe] (.lset r ev a b x) [a, b] (capSel [a, b] a (fun _ => true)) id s

/-- LNORM at the head. -/
def startLnorm (v : QEnv) (k : BitVec 6) : QAct :=
  withLink v (v.x 0) false (fun c i l =>
    let mask := v.x 1
    if l.coreId ≠ coreOf v.p then .trap (.plain Cause.chRemote)
    else if l.state ≠ .built ∧ l.state ≠ .open then .trap (.plain Cause.chState)
    else if (List.range 64).any (fun r => mask.getLsbD r && decide (32767 < (l.e.getD r 0).toInt + (k.toNat : Int))) then .trap (.plain Cause.opRange)
    else
      let m := l.m.zipIdx.map (fun row =>
        if mask.getLsbD row.2 then
          let e := l.e.getD row.2 0
          row.1.map (fun w => (w48Round (w48Value w e) (e + BitVec.ofNat 16 k.toNat)).1)
        else row.1)
      let es := l.e.zipIdx.map (fun x => if mask.getLsbD x.2 then x.1 + BitVec.ofNat 16 k.toNat else x.1)
      .start (setChain v.s (c.setLink i { l with m := m, e := es })) Work.none)

/-- LSET at the head. -/
def startLset (v : QEnv) (x : BitVec 16) : QAct :=
  withLink v (v.x 0) false (fun c i l =>
    let mask := v.x 1
    if l.coreId ≠ coreOf v.p then .trap (.plain Cause.chRemote)
    else if l.state ≠ .built then .trap (.plain Cause.chState)
    else
      let es := l.e.zipIdx.map (fun y => if mask.getLsbD y.2 then x else y.1)
      .start (setChain v.s (c.setLink i { l with e := es })) Work.none)

/-! ## CHRD (R279) -/

/-- CHRD: the operands are the scratchpad address, when there is one, and the selector. -/
def execChrd (r ev : BitVec 4) (d a : BitVec 6) (sp : BitVec 1) (plane : BitVec 2) (part : BitVec 5) (s : State) :=
  command .matrix [.mxe] (.chrd r ev d a sp plane part) (if sp = 1#1 then [d, a] else [a])
    (fun e =>
      if !selectorOk (e.t.getX a) || (sp == 1#1 && part != 0#5) then .error (.plain Cause.opRange)
      else if sp = 1#1 ∧ (inWindow (e.t.getX d) = false ∨ (e.t.getX d).toNat % 128 ≠ 0) then .error (Trap.at Cause.tlAlign (e.t.getX d) 1)
      else capX (if sp = 1#1 then [d, a] else [a]) e) id s

/-- The words of a plane in the order of the destination: mantissa words of 4 bytes, guard and exponent words of 2 (R279). -/
def Link.plane (l : Link) (pl : BitVec 2) : List Nat × Nat :=
  match pl.toNat with
  | 0 => ((l.m.flatten).map (fun w => (w.extractLsb' 0 32).toNat), 4)
  | 1 => ((l.m.flatten).map (fun w => (w.extractLsb' 32 16).toNat), 2)
  | _ => (l.e.map BitVec.toNat ++ (List.range 64).map (fun r => (l.ovr.getLsbD r).toNat), 2)

/-- A run of bytes in a window, as the writes of its lines. -/
def spadLines (off : Nat) (bs : List Byte) : List LineWrite :=
  (List.range ((bs.length + 127) / 128)).map (fun i =>
    { loc := .spad (off + 128 * i), va := windowBase + off + 128 * i, bytes := ((bs.drop (128 * i)).take 128).zipIdx.map (fun b => (b.2, b.1)),
      scales := [], poison := false, ef := false })

/-- CHRD at the head: the whole link is read as of one cycle. A tree link that is DONE and whose node has not been computed, since its children's nodes are
still on their way, yields the words of its block part: the spec gives node words for a link that has completed and leaves open what is read before
(log 62). -/
def startChrd (v : QEnv) (d : BitVec 6) (sp : BitVec 1) (plane : BitVec 2) (part : BitVec 5) : QAct :=
  withLink v (if sp = 1#1 then v.x 1 else v.x 0) true (fun _ _ l =>
    let (ws, n) := l.plane plane
    let per := 2048 / n
    if sp = 0#1 then
      (if (if plane = 2#2 then 1 else 64 * l.ncol / per) ≤ part.toNat then .trap (.plain Cause.opRange)
       else
        let els := ((ws.drop (per * part.toNat)).take per).toArray
        let reg : VReg := { data := putElems 0 (8 * n) (fun e => some (els.getD e 0)), tag := 11, full := true, side := 0 }
        match v.s.group v.p with
        | none => .wait v.s
        | some g =>
          let g := { g with v := g.v.set d.toNat { g.v.get d.toFin with full := false } d.isLt }
          .start (v.s.setGroup v.p g) { Work.none with vw := [(d, reg)] })
    else
      let off := (v.x 0).toNat - windowBase
      let bs := ws.flatMap (leBytes n)
      if 2 ^ 22 < off + bs.length then .trap (Trap.at Cause.tlAlign (v.x 0) 1)
      else if regionsBlocked v v.s [(off, bs.length)] then .wait v.s
      else
        let accs := (List.range ((bs.length + 127) / 128)).map (fun i => ({ va := v.x 0 + BitVec.ofNat 64 (128 * i), n := 128, align := 1 } : ElemAcc))
        match resolveAll v v.s accs 1 with
        | .no a => a
        | .ok s ls => placed v s (aims ls accs) (fun s => .start s { Work.none with lines := spadLines off bs, locks := [(off, bs.length)] }))

/-! ## CHSPLICE (R281, R425) -/

def execChsplice (r : BitVec 4) (a b : BitVec 6) (s : State) :=
  command .matrix [.mxe] (.chsplice r a b) [a, b]
    (capSel [a, b] a (fun e => (e.t.getX b).extractLsb' 52 12 == 0#12 && (e.t.getX b).extractLsb' 0 37 == 0#37)) id s

/-- CHSPLICE at the head. R136 asks that ARRAY be 0 in a fused placement, and neither R281 nor R385 names the cause for CHSPLICE: the model raises CH_PLACE,
which R138 names for CHBLD (log 63). -/
def startChsplice (v : QEnv) : QAct :=
  let x := v.x 0
  let b := v.x 1
  match findChain v.s (x.extractLsb' 0 12) with
  | none => .trap (.plain Cause.chState)
  | some _ => withLink v x false (fun c i l =>
    let d := fieldOf b 51 48
    let place : Link := readLink b 0
    if l.state ≠ .frozen then .trap (.plain Cause.chState)
    else if (if h : d < 4 then dieLive v.s ⟨d, h⟩ else false) = false ∨ place.slot < 14 ∨ place.fused ≠ l.fused ∨ (place.fused = true ∧ place.array = 1) ∨
        place.entries.any (entryRetired v.s) = true then .trap (.plain Cause.chPlace)
    else if place.entries.any (fun e => !entryFree v.s e) then .trap (.plain Cause.chBusy)
    else
      let s := retireEntries v.s l
      let spare := { ({ l with die := place.die, core := place.core, array := place.array, slot := place.slot }).rebuilt c.e0 with lasting := 0 }
      let links := (c.setLink i spare).links.zipIdx.map (fun k =>
        if 0 < k.2 ∧ k.1.parent = i ∧ k.1.state = .done then k.1.send s place.die
        else if 0 < i ∧ k.2 = l.parent then k.1.askAgain s i spare (c.isTree k.1 && c.isTree spare)
        else k.1)
      .start (setChain s { c with links := links }) { Work.none with splice := some (c.num, i) })

/-- Whether every forward or notice that a CHSPLICE sent for again has been received. -/
def spliceDone (s : State) (x : BitVec 12 × Nat) : Bool :=
  match findChain s x.1 with
  | none => true
  | some c => (c.kids x.2).all (fun k => k.2.flight.isNone)

/-! ## Forwards, notices and node reads (R142, R147, R157, R428) -/

/-- A stale message between dies is discarded, counted and recorded (R428). -/
def staleDiscard (s : State) (at_ peer : DieId) : State :=
  let die := s.dies.get at_
  let s := s.setDie at_ { die with stale := if die.stale = BitVec.allOnes 32 then die.stale else die.stale + 1 }
  logErr { s with fresh := s.fresh + 1 }
    { src := 8, kind := 5, die := BitVec.ofNat 4 at_.val, core := 0, sub := BitVec.ofNat 5 peer.val, count := siteCount s 8 at_ peer.val, cause := 0, addr := 0,
      lid := 0, cycle := die.cycle, synd := Config.freeBits s.fresh 64 }

/-- A message of link i arrives at its parent: it waits for a link between dies (R430), is stale, is held back while the parent cannot take it (R159, R424),
is a repeat (R425), or is received. -/
def receiveAt (num : BitVec 12) (i : Nat) (tree : Bool) (s : State) : State :=
  match findChain s num with
  | none => s
  | some c =>
    match c.links[i]?, c.links[(c.links[i]?.map (·.parent)).getD 0]? with
    | some l, some p =>
      if i = 0 || c.isTree l != tree then s
      else
        match l.flight with
        | none => s
        | some f =>
          let gone := setChain s (c.setLink i { l with flight := none })
          let got := { l with flight := none, landed := true }
          if linkHeld s l.die p.die then s
          else if f.src ≠ incOf s p.die l.die ∨ f.dst ≠ incOf s p.die p.die then staleDiscard gone p.die l.die
          else if p.state = .frozen then s
          else if p.mask.getLsbD l.cslot.toNat then setChain s (c.setLink i got)
          else if p.state ≠ .built ∧ p.state ≠ .open then s
          else
            let rows : List (List (BitVec 48 × Bool)) :=
              if tree then l.m.map (fun row => row.map (fun _ => ((0 : BitVec 48), false)))
              else l.m.zipIdx.map (fun row => row.1.map (fun w => w48Round (w48Value w (l.e.getD row.2 0)) (p.e.getD row.2 0)))
            let c := c.setLink i got
            settleLink (setChain s c) c l.parent (p.receive rows l.ovr (some l.cslot))
    | _, _ => s

/-- LINK_FORWARD_RECEIVE (R142). -/
def execLinkForwardReceive (num : BitVec 12) (i : Nat) (s : State) : Host.Outcome State Fault Refusal := .next (receiveAt num i false s)

/-- LINK_NOTICE_RECEIVE (R147). -/
def execLinkNoticeReceive (num : BitVec 12) (i : Nat) (s : State) : Host.Outcome State Fault Refusal := .next (receiveAt num i true s)

/-- NODE_READ_RECEIVE (R146, R147, R157, R428): the node value of tree link i, as it then stands, is received at its parent, which has asked for it and keeps
it; a stale one is discarded. -/
def execNodeReadReceive (num : BitVec 12) (i : Nat) (s : State) : Host.Outcome State Fault Refusal :=
  match findChain s num with
  | none => .next s
  | some c =>
    match c.links[i]?, c.links[(c.links[i]?.map (·.parent)).getD 0]? with
    | some l, some p =>
      if i = 0 || !c.isTree l || !l.noded || l.state != .done || p.state != .done || p.noded || p.reads.any (fun x => x.1 == i) || linkHeld s l.die p.die then .next s
      else
        match p.asks.find? (fun a => a.1 == i) with
        | some (_, some f) =>
          if f.src ≠ incOf s p.die l.die ∨ f.dst ≠ incOf s p.die p.die then
            .next (staleDiscard (setChain s (c.setLink l.parent { p with asks := p.asks.map (fun a => if a.1 = i then (i, none) else a) })) p.die l.die)
          else .next (settleLink s c l.parent { p with reads := (i, l.m) :: p.reads })
        | _ => .next s
    | _, _ => .next s

end Sys2Proof.Machine
end

