-- ==== Sys2Proof/Machine/Complete.lean ====
section
/-! DEFINITION. Sys2Proof/Machine/Complete.lean: the completion of engine commands: their register writes, the end of a closed chain (R154), result
elements (R98, R99), and completion signals in queue order (R41, R45, R46). -/

namespace Sys2Proof.Machine

open Sys2Proof

/-! ## Register writes -/

/-- A vector register is written whole: it holds no error any more. -/
def Group.writeV (g : Group) (d : BitVec 6) (r : VReg) : Group :=
  { g with v := g.v.set d.toNat r d.isLt, damaged := g.damaged.filter (fun u => match u with | .v x _ => x != d | _ => true) }

/-- A tile register is written whole. -/
def Group.writeT (g : Group) (d : BitVec 2) (r : TReg) : Group :=
  { g with t := g.t.set d.toNat r d.isLt, damaged := g.damaged.filter (fun u => match u with | .t x _ => x != d | _ => true) }

/-- A predicate register is written whole; p0 discards it (R64). -/
def Group.writeP (g : Group) (d : BitVec 3) (x : BitVec 1024) : Group :=
  { g with p := if d = 0#3 then g.p else g.p.set d.toNat x d.isLt
           damaged := g.damaged.filter (fun u => match u with | .p y _ => y != d | _ => true) }

/-- The registers a command writes when it completes. -/
def writeRegs (g : Group) (st : StreamId) (w : Work) : Group :=
  let g := w.vw.foldl (fun g x => g.writeV x.1 x.2) g
  let g := w.tw.foldl (fun g x => g.writeT x.1 x.2) g
  let g := w.pw.foldl (fun g x => g.writeP x.1 x.2) g
  match w.xw with
  | some (d, v) => g.setStream st ((g.stream st).setX d v)
  | none => g

/-! ## The end of a close (R154) -/

/-- A closed chain is freed, or with KEEP every link returns to BUILT but for one that has frozen meanwhile (R423); one that has been freed and built anew is another chain. -/
def closeChain (s : State) (num : BitVec 12) (born : Nat) (keep : Bool) : State :=
  match findChain s num with
  | none => s
  | some c =>
    if c.born ≠ born then s
    else if keep then setChain s { c with links := c.links.map (fun l => if l.state = .frozen then l else { l.rebuilt c.e0 with holders := [] }) }
    else freeChain s num

/-! ## Result elements (R98, R99) -/

/-- A result element. -/
def element (eng : BitVec 4) (chan : BitVec 3) (status : BitVec 8) (tid : BitVec 48) : BitVec 64 := eng ++ 0#1 ++ chan ++ status ++ tid

/-- The engine code of a command that pushes one element with a completion number, by its instruction (R98). -/
def elementCode : Instr → Option (Fin 5)
  | .tst .. => some 0
  | .chclose _ _ _ _ _ _ dst _ _ _ _ _ => if dst = 1#1 then some 0 else none
  | .safl _ => some 3
  | .colgo .. => some 4
  | _ => none

/-- The element of a command that completes, and the count of its engine after it. -/
def numberElement (g : Group) (i : Instr) (status : BitVec 8) : Group × List (BitVec 64) :=
  match elementCode i with
  | none => (g, [])
  | some k =>
    let n := g.cnum.get k
    ({ g with cnum := g.cnum.set k.val (n + 1) }, [element (BitVec.ofNat 4 k.val) 0 status n])

/-- A transfer of a channel is complete: WM rises past every complete transfer that follows it (R288). -/
def raiseMark : Nat → Chan → Chan
  | 0, c => c
  | fuel + 1, c => if c.done.contains (c.wm + 1) then raiseMark fuel { c with wm := c.wm + 1, done := c.done.filter (· ≠ c.wm + 1) } else c

/-- The transfer is recorded as complete. -/
def Chan.finish (c : Chan) (tid : BitVec 48) : Chan := raiseMark (c.done.length + 1) { c with done := tid :: c.done }

/-- Whether a copy has performed its lines, its portions and its flag word (R292). -/
def CopyRun.finished (c : CopyRun) : Bool := c.lines.isEmpty && c.tile.isNone && (c.barrier.isNone || c.owed == 0) && c.flagw.isNone

/-- The copies of a command that have finished are complete (R288). -/
def finishCopies (g : Group) (cs : List CopyRun) : Group × List CopyRun :=
  cs.foldl (fun (acc : Group × List CopyRun) c =>
    if c.finished && !c.fin then
      let g := acc.1
      ({ g with chans := g.chans.set c.chan.toNat ((g.chans.get c.chan.toFin).finish c.tid) c.chan.isLt }, acc.2 ++ [{ c with fin := true }])
    else (acc.1, acc.2 ++ [c])) (g, [])

/-- The engine code of a copy by its queue (R98). -/
def copyCode (q : QueueId) : BitVec 4 := if q = .storer then 2 else 1

/-! ## Completion signals (R41, R45, R46) -/

/-- Elements of the front command enter their result queues while there is room (R98). -/
def pushElems (g : Group) : List (BitVec 64) → Group × List (BitVec 64)
  | [] => (g, [])
  | x :: rest =>
    let k : Fin 5 := ⟨fieldOf x 63 60 % 5, Nat.mod_lt _ (by decide)⟩
    if 16 ≤ (g.rq.get k).length then (g, x :: rest) else pushElems { g with rq := g.rq.set k.val (g.rq.get k ++ [x]) } rest

/-- Commands at the front of a queue that have completed deliver their signals, in order: their tokens and posts are releases of what the command wrote (R96). -/
def deliverFront (q : QueueId) : Nat → Group → Group
  | 0, g => g
  | fuel + 1, g =>
    match g.queue q with
    | [] => g
    | e :: rest =>
      let (g, left) := pushElems g e.elems
      if !e.done || !left.isEmpty || !canPlace g e.stream e.instr.ring then g.setQueue q ({ e with elems := left } :: rest)
      else
        let g := postEv (placeTok (g.setQueue q rest) e.stream e.instr.ring e.wrote) e.instr.ev e.wrote
        let g := { g with qdone := g.qdone.set q.toFin.val (g.qdone.get q.toFin + 1) }
        deliverFront q fuel (g.setStream e.stream { g.stream e.stream with wdcnt := 0 })

/-- The signals that are due in a queue of the group at a place are delivered. -/
def deliverSignals (s : State) (p : Place) (q : QueueId) : State :=
  match s.group p with
  | none => s
  | some g => s.setGroup p (deliverFront q 17 g)

/-! ## Completion (R41) -/

/-- Whether the replay that a command waits for is over: it is no longer in its context (R304). -/
def replayOver (s : State) (p : Place) (id : Nat) (x : DieId × Fin 64) : Bool :=
  match (s.dies.get x.1).ctxs.get x.2 with
  | none => true
  | some c => !c.replays.any (fun r => r.place == p && r.entry == id)

/-- Whether the data effects of a started command are complete but for its copies. -/
def workReady (s : State) (p : Place) (g : Group) (e : QEntry) (w : Work) : Bool :=
  w.lines.isEmpty && w.step.isNone && !w.access && w.await.isNone &&
    (match w.ctx with | some x => replayOver s p e.id x | none => true) &&
    (match w.splice with | some x => spliceDone s x | none => true) && (!w.flush || g.scat.all (fun u => decide (e.id < u.cmd)))

/-- The copies of a command that have finished give their elements in order; the command is what remains of it. -/
def settleCopies (g : Group) (q : QueueId) (e : QEntry) (w : Work) : Group × QEntry × Work :=
  let (g, cs) := finishCopies g w.copies
  let ended := cs.takeWhile (·.fin)
  let e := { e with elems := e.elems ++ ended.map (fun c => element (copyCode q) c.chan c.status c.tid) }
  (g, e, { w with copies := cs.drop ended.length })

/-- A started command completes if it can. Its element gets its completion number now, while it enters the result queue in queue order: the spec says
"completion number" and "completion order" of both and leaves open which of the two orders numbers two commands of one queue whose data completes out of
order (R98, R99; log 64). -/
def completeEntry (s : State) (p : Place) (q : QueueId) (k : Nat) : State :=
  match s.group p with
  | none => s
  | some g =>
    match (g.queue q)[k]? with
    | none => s
    | some e =>
      match e.work with
      | none => s
      | some w =>
        if !e.started || e.done then s
        else
          let (g, e, w) := settleCopies g q e w
          let put (g : Group) (e : QEntry) : Group := g.mapEntry q e.id (fun _ => e)
          if !workReady s p g e w || !w.copies.isEmpty then
            s.setGroup p (put g { e with work := some w })
          else
            let (g, el) := numberElement g e.instr w.status
            let g := put (writeRegs g e.stream w) { e with work := none, done := true, elems := e.elems ++ el }
            let s := s.setGroup p g
            let s := match w.close with | some (num, born, keep) => closeChain s num born keep | none => s
            match w.cause with
            | some c => raise s p { stream := e.stream, queue := none, async := true, fpc := e.fpc } (.plain c)
            | none => s

/-! ## A command that returns to its head (R416, R419, R423) -/

/-- A started command returns to the head of its queue unstarted, its tokens with it, and the head raises a cause. -/
def refuseEntry (s : State) (p : Place) (q : QueueId) (e : QEntry) (t : Trap) : State :=
  match s.group p with
  | none => s
  | some g =>
    let g := returnTok g e.stream e.instr.ring e.tookSets
    let g := g.mapEntry q e.id (fun e => { e with took := false, tookSets := ([], []), started := false, work := none })
    raise (s.setGroup p g) p { stream := e.stream, queue := some q, async := false, fpc := e.fpc } t

end Sys2Proof.Machine
end

