-- ==== Sys2Proof/Machine/Matrix.lean ====
section
/-! DEFINITION. Sys2Proof/Machine/Matrix.lean: steps (R273 to R275), their chain checks (R140), checksums, reruns and fencing (R417 to R423), RMODE
(R285), and the self-test product (R286). -/

namespace Sys2Proof.Machine

open Sys2Proof

/-! ## Acceptance -/

/-- The acceptance checks of a step on its index and B slot (R275). -/
def stepOperandsOk (s : BitVec 64) (slot : BitVec 6) : Bool := s.extractLsb' 20 44 == 0#44 && decide (slot.toNat ≤ 47)

/-- The bytes of A's sideband in the scratchpad (R273). -/
def sideBytes (t : BitVec 4) : Nat := if t = 8#4 then 512 else if tagBlock t then 256 else 0

def execMma (r ev : BitVec 4) (x : BitVec 6) (t : BitVec 2) (slot : BitVec 6) (m : BitVec 1) (chain : BitVec 12) (btag : BitVec 4) (s : State) :=
  command .matrix [.mxe] (.mma r ev x t slot m chain btag) [x]
    (fun e => if stepOperandsOk (e.t.getX x) slot then capX [x] e else .error (.plain Cause.opRange)) id s

def execMmaw (r ev : BitVec 4) (x : BitVec 6) (t : BitVec 2) (slot : BitVec 6) (chain : BitVec 12) (btag : BitVec 4) (s : State) :=
  command .matrix [.mxe] (.mmaw r ev x t slot chain btag) [x]
    (fun e => if stepOperandsOk (e.t.getX x) slot then capX [x] e else .error (.plain Cause.opRange)) id s

def execMmas (r ev : BitVec 4) (x a slot : BitVec 6) (m : BitVec 1) (chain : BitVec 12) (btag atag : BitVec 4) (s : State) :=
  command .matrix [.mxe] (.mmas r ev x a slot m chain btag atag) [x, a]
    (fun e =>
      let va := e.t.getX a
      if !stepOperandsOk (e.t.getX x) slot then .error (.plain Cause.opRange)
      else if inWindow va = false ∨ va.toNat % 128 ≠ 0 ∨ 2 ^ 57 < va.toNat + 8192 + sideBytes atag then .error (Trap.at Cause.tlAlign va 0)
      else capX [x, a] e) id s

/-- A tag that names the product and its scale, or a cause: reserved tags first, then those outside the set of R112 (R274). -/
def stepTagFault (t : BitVec 4) : Option (BitVec 10) :=
  if tagRsvd t then some Cause.tagRsvd
  else if t = 0#4 ∨ t = 1#4 ∨ t = 3#4 ∨ t = 11#4 ∨ t = 12#4 then some Cause.tagMismatch
  else none

/-- The depth of a step, by its class (R274). -/
def stepDepth (t : BitVec 4) : Nat := if t = 8#4 then 256 else if t = 4#4 ∨ t = 5#4 then 64 else 128

/-- The tag checks of R274: reserved, outside the set, then the class. -/
def stepTags (a b : BitVec 4) : Option (BitVec 10) :=
  if tagRsvd a || tagRsvd b then some Cause.tagRsvd
  else if (stepTagFault a).isSome || (stepTagFault b).isSome then some Cause.tagMismatch
  else if stepDepth a ≠ stepDepth b then some Cause.mxFmt
  else none

/-! ## Units (R264, R420, R421) -/

/-- The array units that a command of the matrix queue needs: bits 0 and 1 for M0 and M1 (R264, R275, R286). -/
def arraysOf (e : QEntry) : BitVec 2 :=
  match e.instr with
  | .mma _ _ _ _ _ m _ _ => if m = 0#1 then 1 else 2
  | .mmas _ _ _ _ _ m _ _ _ => if m = 0#1 then 1 else 2
  | .mmaw .. => 3
  | .mself .. => if (e.xops.get 0).getLsbD 0 then 2 else 1
  | _ => 0

/-- Whether a command runs on the tile unit, and on the close unit (R264). -/
def usesTileUnit : Instr → Bool
  | .tld .. | .tst .. | .chrd .. => true
  | _ => false
def usesCloseUnit : Instr → Bool
  | .chclose .. => true
  | _ => false

/-- Whether a started command of any slot of the core of a place satisfies a condition. -/
def coreRuns (s : State) (p : Place) (q : QueueId) (f : QEntry → Bool) : Bool :=
  (List.finRange 4).any fun k =>
    match (s.slot ⟨p.val / 4 * 4 + k.val, by omega⟩).group with
    | none => false
    | some g => (g.queue q).any (fun e => e.started && !e.done && f e)

/-- Whether the units a command of the matrix queue needs are free. -/
def unitsFree (s : State) (p : Place) (e : QEntry) : Bool :=
  !coreRuns s p .matrix (fun x => (arraysOf x &&& arraysOf e) != 0 || (usesTileUnit x.instr && usesTileUnit e.instr) || (usesCloseUnit x.instr && usesCloseUnit e.instr))

/-- The health of array m of a core. -/
def healthOf (s : State) (c : CoreId) (m : Fin 2) : Health := (s.cores.get c).arrays.get m

/-- The health of an array replaced. -/
def setHealth (s : State) (c : CoreId) (m : Fin 2) (h : Health) : State :=
  let core := s.cores.get c
  s.setCore c { core with arrays := core.arrays.set m.val h }

/-- Whether any of a set of arrays is retired, and whether any is under self-test. -/
def anyRetired (s : State) (c : CoreId) (ms : BitVec 2) : Bool := (List.finRange 2).any (fun m => ms.getLsbD m.val && (healthOf s c m).ret)
def anyTesting (s : State) (c : CoreId) (ms : BitVec 2) : Bool := (List.finRange 2).any (fun m => ms.getLsbD m.val && (healthOf s c m).test)

/-- Whether a command that writes a tile register must wait for an earlier reader of it in its queue (R266). -/
def tileHazard (s : State) (l : List QEntry) (e : QEntry) : Bool :=
  l.any fun x => x.started && !x.done && x.id != e.id && meets (regUse x.instr).tr (tilesAimed s e.instr)

/-! ## B operands (R21, R73, R273) -/

/-- The bytes of a B slot: 16 KiB of data, then 1 KiB of block scales. -/
def slotBytes (s : State) (c : CoreId) (m : Fin 2) (slot : Nat) : List Byte :=
  homeBytes s (bWindow c m + 16384 * slot) 16384 ++ homeBytes s (bWindow c m + 786432 + 1024 * slot) 1024

/-- The physical address of byte i of a B slot. -/
def slotAddr (c : CoreId) (m : Fin 2) (slot i : Nat) : Nat :=
  if i < 16384 then bWindow c m + 16384 * slot + i else bWindow c m + 786432 + 1024 * slot + (i - 16384)

/-- The bytes of a B slot as its step takes them: each line as it stood at the start or as it stands now (R73), and zero where the line is poisoned
(R415). -/
def slotTaken (s : State) (c : CoreId) (m : Fin 2) (slot : Nat) (old : List Byte) : List Byte :=
  let new := slotBytes s c m slot
  (old.zip new).zipIdx.map (fun b =>
    if poisoned s (slotAddr c m slot b.2) then 0#8 else if Config.bLineLate s.fresh (m.val * 256 + b.2 / 128) then b.1.2 else b.1.1)

/-- The poisoned lines of the part of a B slot that a step reads, by an address in each. -/
def slotBad (s : State) (c : CoreId) (m : Fin 2) (slot : Nat) (t : BitVec 4) : List Loc :=
  ((List.range (if tagBlock t then 136 else 128)).filter (fun i => poisoned s (slotAddr c m slot (128 * i)))).map (fun i => .mem (slotAddr c m slot (128 * i)))

/-- The value of B(k, c) from the bytes of a slot (R273). -/
def bValue (t : BitVec 4) (bs : Array Byte) (k c : Nat) : Val :=
  let scale := bs.getD (16384 + k / 32 * 128 + c) 0
  match t.toNat with
  | 8 =>
    let b := bs.getD (k * 64 + c / 2) 0
    q4Value (if c % 2 = 0 then b.extractLsb' 0 4 else b.extractLsb' 4 4) scale
  | 9 => mxValue .e4m3 (bs.getD (k * 128 + c) 0) scale
  | 10 => mxValue .e5m2 (bs.getD (k * 128 + c) 0) scale
  | 2 => Val.ofInt (bs.getD (k * 128 + c) 0).toInt
  | 4 | 5 => (tagFmt t).decode ((bs.getD (k * 256 + 2 * c) 0).toNat + 256 * (bs.getD (k * 256 + 2 * c + 1) 0).toNat)
  | _ => (tagFmt t).decode (bs.getD (k * 128 + c) 0).toNat

/-- The step sums of a step over the columns of its arrays, rounded at the row exponents of its link (R122, R141). -/
def stepRows (w : StepWork) (slots : List (Array Byte)) (l : Link) : List (List (BitVec 48 × Bool)) :=
  let depth := stepDepth w.aTag
  (List.range 64).map fun r =>
    let xs := (List.range depth).map (fun k => elemVal w.aTag w.aData w.aSide (r * depth + k))
    let e := l.e.getD r 0
    (List.range l.ncol).map fun c =>
      w48Round (stepSum (depth == 64) xs ((List.range depth).map (fun k => bValue w.bTag (slots.getD (c / 128) #[]) k (c % 128)))) e

/-! ## The head of a step (R140, R275, R421, R424) -/

/-- The chain checks of a step: the receiving link, or what the head answers. -/
def receiving (v : QEnv) (num : BitVec 12) (arrays : BitVec 2) (step : Nat) (k : Chain → Nat → Link → QAct) : QAct :=
  match findChain v.s num with
  | none => .wait v.s
  | some c =>
    if c.owner ≠ v.g.lr.id then .trap (.plain Cause.chOwner)
    else
      match c.links.zipIdx.find? (fun x =>
          x.1.entries.any (fun e => e.1 == coreOf v.p && arrays.getLsbD e.2.1.val) && c.isLocal x.2 x.1 step) with
      | none => .trap (.plain Cause.chNostep)
      | some (l, i) =>
        if l.state = .frozen then .trap (.plain Cause.chFrozen)
        else if l.fused != (arrays == 3#2) then .trap (.plain Cause.chFused)
        else if l.state = .done then .wait v.s
        else k c i l

/-- A group holds a link while a step of one of its streams has started into it, once for each such step (R158). -/
def Link.hold (l : Link) (g : Group) : Link := { l with holders := l.holders ++ [(g.lr.id, g.gindex)] }

/-- A step starts: A is taken, B as it stands is kept (R73). -/
def startStep (v : QEnv) (num : BitVec 12) (slot : BitVec 6) (aTag bTag : BitVec 4) (a : State → Except QAct (State × BitVec 65536 × BitVec 4096 × List (Nat × Nat) × List Loc)) : QAct :=
  let arrays := arraysOf v.e
  match stepTags aTag bTag with
  | some c => .trap (.plain c)
  | none =>
    if anyRetired v.s (coreOf v.p) arrays then .trap (.plain Cause.mcCksum)
    else
      receiving v num arrays (v.x 0).toNat (fun c i l =>
        if anyTesting v.s (coreOf v.p) arrays || !unitsFree v.s v.p v.e then .wait v.s
        else
          match a v.s with
          | .error x => x
          | .ok (s, data, side, locks, bad) =>
            let w : StepWork :=
              { chain := num, born := c.born, idx := i, home := l.home, aData := data, aSide := side, aTag := aTag, bTag := bTag, slot := slot.toNat,
                arrays := arrays, bOld := ((List.finRange 2).filter (fun m => arrays.getLsbD m.val)).map (fun m => slotBytes s (coreOf v.p) m slot.toNat),
                rerun := none, due := [], refused := if bad ≠ [] ∧ v.g.lr.ecc ≠ 1#2 then some Cause.mcEcc else none, self := none }
            let s := if v.g.lr.ecc = 1#2 then bad.foldl (fun s x => recordZeroFill v.s s v.p v.g x) s else s
            .start (setChain s (c.setLink i (l.hold v.g))) { Work.none with step := some w, locks := locks })

/-- A step whose A is a tile register (R275). -/
def startMma (v : QEnv) (t : BitVec 2) (slot : BitVec 6) (chain : BitVec 12) (btag : BitVec 4) : QAct :=
  let r := v.t t
  startStep v chain slot r.tag btag (fun s => .ok (s, r.data, r.side, [], []))

/-- What a step reads as A: its data, its sideband, and the poisoned lines met. -/
structure StepA where
  s    : State
  data : BitVec 65536
  side : BitVec 4096
  bad  : List Loc

/-- A read from the scratchpad, whose pages take their frames first; none while one of them must wait (R68, R275). -/
def readSpadA (s : State) (p : Place) (g : Group) (off : Nat) (atag : BitVec 4) : Option StepA :=
  let n := 8192 + sideBytes atag
  (touchAll s p ((List.range ((n + 127) / 128)).map (fun i => (.spad (off + 128 * i), false)))).map (fun s =>
    { s := s
      data := BitVec.ofNat 65536 (leNat (engineRead s p g (.spad off) 8192).1)
      side := BitVec.ofNat 4096 (leNat (engineRead s p g (.spad (off + 8192)) (sideBytes atag)).1)
      bad := badLines s p g [(.spad off, n)] })

/-- A step whose A lies in the scratchpad: its banks are locked (R71, R275). -/
def startMmas (v : QEnv) (slot : BitVec 6) (chain : BitVec 12) (btag atag : BitVec 4) : QAct :=
  startStep v chain slot atag btag (fun s =>
    let off := (v.x 1).toNat - windowBase
    let n := 8192 + sideBytes atag
    if regionsBlocked v s [(off, n)] then .error (.wait s)
    else
      match (List.range ((n + 127) / 128)).find? (fun i => windowDead s v.p v.g (off + 128 * i)), readSpadA s v.p v.g off atag with
      | some i, _ => .error (.trapIn s (Trap.at Cause.paNodie (v.x 1 + BitVec.ofNat 64 (128 * i)) 0))
      | none, none => .error (.wait s)
      | none, some a => .ok (a.s, a.data, a.side, [(off, n)], a.bad))

/-- A is read again for the rerun of a step, from its tile register or its locked region (R418). -/
def rereadA (s : State) (p : Place) (g : Group) (e : QEntry) (w : StepWork) : Option StepA :=
  let tile (t : BitVec 2) : Option StepA := some { s := s, data := (g.t.get t.toFin).data, side := (g.t.get t.toFin).side, bad := [] }
  match e.instr with
  | .mma _ _ _ t _ _ _ _ | .mmaw _ _ _ t _ _ _ => tile t
  | .mmas _ _ _ _ _ _ _ _ atag => readSpadA s p g ((e.xops.get 1).toNat - windowBase) atag
  | _ => some { s := s, data := w.aData, side := w.aSide, bad := [] }

/-! ## Sites of the arrays (R408, R409, R417) -/

/-- The site of a strip, or of the row path (4). -/
def arrayKey (c : CoreId) (m : Fin 2) (strip : Nat) : Nat := c.val * 16 + m.val * 8 + strip

/-- An error record of an array. -/
def arrayRecord (s : State) (c : CoreId) (m : Fin 2) (strip : Nat) (kind : BitVec 4) (cause : BitVec 10) (lid : BitVec 64) : State :=
  let d := dieOfCore c
  let sub : BitVec 5 := BitVec.ofNat 1 m.val ++ 0#1 ++ (if strip = 4 then 4#3 else BitVec.ofNat 3 strip)
  logErr { s with fresh := s.fresh + 1 }
    { src := 7, kind := kind, die := BitVec.ofNat 4 d.val, core := BitVec.ofNat 7 c.val, sub := sub, count := siteCount s 7 d (arrayKey c m strip), cause := cause,
      addr := 0, lid := lid, cycle := (s.dies.get d).cycle, synd := if strip = 4 then 0 else (Config.freeBits s.fresh 32).zeroExtend 64 }

/-- The sites that a mismatch counts at: the strips that disagree, or the row path of an array where only row sums do (R417). -/
def badSites (arrays : BitVec 2) (bad : BitVec 10) : List (Fin 2 × Nat) :=
  (List.finRange 2).flatMap fun m =>
    if arrays.getLsbD m.val then
      let strips := (List.range 4).filter (fun j => bad.getLsbD (4 * m.val + j))
      if strips ≠ [] then strips.map (fun j => (m, j)) else if bad.getLsbD (8 + m.val) then [(m, 4)] else []
    else []

/-- A mismatch is counted at its sites: those that became lasting by it (R408); CKCNT takes the count of the last one (R420). -/
def countMismatch (s : State) (c : CoreId) (sites : List (Fin 2 × Nat)) : State × List (Fin 2 × Nat) :=
  sites.foldl (fun (acc : State × List (Fin 2 × Nat)) x =>
    let (s, n, lasting) := countSite acc.1 7 (dieOfCore c) (arrayKey c x.1 x.2) (2 ^ 24) 2
    let s := setHealth s c x.1 { healthOf s c x.1 with ckcnt := n }
    (s, if lasting then acc.2 ++ [x] else acc.2)) (s, [])

/-- Lasting sites of the arrays of a core are recorded, and each array that finishes its step sets TEST (R408, R420). -/
def startTests (s : State) (c : CoreId) (lid : BitVec 64) (due : List (Fin 2 × Nat)) : State :=
  due.foldl (fun s x =>
    let s := arrayRecord s c x.1 x.2 4 Cause.mcCksum lid
    let h := healthOf s c x.1
    setHealth s c x.1 { h with test := true, under := if x.2 = 4 then h.under else h.under ++ [BitVec.ofNat 2 x.2] }) s

/-! ## Completion of a step (R141, R417 to R419, R423) -/

/-- The step of a command is over: its count rises and the command completes with its signals. -/
def endStep (s : State) (p : Place) (e : QEntry) : State :=
  match s.group p with
  | none => s
  | some g =>
    let core := s.cores.get (coreOf p)
    let s := s.setCore (coreOf p) { core with steps := core.steps + 1 }
    let s := s.setGroup p (g.mapEntry .matrix e.id (fun e => { e with work := e.work.map (fun w => { w with step := none }) }))
    match s.group p with
    | none => s
    | some g =>
      let k := (g.queue .matrix).findIdx (fun x => x.id == e.id)
      deliverSignals (completeEntry s p .matrix k) p .matrix

/-- The link a started step goes into, while it is the one the step started into. -/
def stepLink (s : State) (w : StepWork) : Option (Chain × Link) :=
  match findChain s w.chain with
  | none => none
  | some c =>
    match c.links[w.idx]? with
    | none => none
    | some l => if c.born = w.born ∧ l.home = w.home then some (c, l) else none

/-- A started step is refused: it no longer holds its link, unless the link is frozen, and its command returns to the head (R158, R419). -/
def refuseStep (s : State) (p : Place) (e : QEntry) (w : StepWork) (cause : BitVec 10) : State :=
  let s := match s.group p, (if w.self.isSome then none else stepLink s w) with
    | some g, some (c, l) => if l.state = .frozen then s else setChain s (c.setLink w.idx { l with holders := l.holders.erase (g.lr.id, g.gindex) })
    | _, _ => s
  refuseEntry s p .matrix e (.plain cause)

/-- The step's sums reach its link: at a link that is freed or spliced away nothing is added and the command completes (R155); at a frozen link it is
refused (R423); at a link that is DONE it waits (R159). -/
def receiveStep (s : State) (p : Place) (e : QEntry) (w : StepWork) : State :=
  let c := coreOf p
  match findChain s w.chain with
  | none => endStep s p e
  | some ch =>
    if ch.born ≠ w.born then endStep s p e
    else
      match ch.links[w.idx]? with
      | none => endStep s p e
      | some l =>
        if l.state = .frozen ∨ l.home ≠ w.home then refuseStep s p e w Cause.chFrozen
        else if l.state = .done then s
        else
          match s.group p with
          | none => s
          | some g =>
            let ms := (List.finRange 2).filter (fun m => w.arrays.getLsbD m.val)
            let bad := ms.flatMap (fun m => slotBad s c m w.slot w.bTag)
            if bad ≠ [] ∧ g.lr.ecc ≠ 1#2 then refuseStep s p e w Cause.mcEcc
            else
              let slots := (ms.zip w.bOld).map (fun x => (slotTaken s c x.1 w.slot x.2).toArray)
              let s := bad.foldl (fun s x => recordZeroFill s s p g x) { s with fresh := s.fresh + 1 }
              endStep (settleLink s ch w.idx (l.receive (stepRows w slots l) 0 none)) p e

/-- A step that agrees is received, a self-test product has nothing to receive. -/
def finishStep (s : State) (p : Place) (e : QEntry) (w : StepWork) : State :=
  match w.self with
  | some _ => endStep s p e
  | none => receiveStep s p e w

/-- The started step of entry k of the matrix queue of the group at a place. -/
def stepAt (s : State) (p : Place) (k : Nat) : Option (Group × QEntry × StepWork) :=
  match s.group p with
  | none => none
  | some g =>
    match (g.queue .matrix)[k]? with
    | none => none
    | some e =>
      match e.work.bind (·.step) with
      | none => none
      | some w => if e.started && !e.done then some (g, e, w) else none

/-- MATRIX_STEP_COMPLETE (R141, R416 to R418): on a mismatch the rerun begins, A and B read again; poison or damage met there is refused when it ends. -/
def execMatrixStepComplete (p : Place) (k : Nat) (bad : BitVec 10) (s : State) : Host.Outcome State Fault Refusal :=
  match stepAt s p k with
  | none => .next s
  | some (g, e, w) =>
    let c := coreOf p
    let sites := badSites w.arrays bad
    if w.rerun.isSome then .next s
    else
    match w.refused with
    | some x => .next (refuseStep s p e w x)
    | none =>
      if sites = [] then .next (finishStep s p e w)
      else
        match rereadA s p g e w with
        | none => .next s
        | some a =>
          let s := if g.lr.ecc = 1#2 then a.bad.foldl (fun s x => recordZeroFill a.s s p g x) a.s else a.s
          let (s, due) := countMismatch s c sites
          let hurt := (a.bad ≠ [] ∧ g.lr.ecc ≠ 1#2) ∨ readsDamaged g (regUse e.instr) = true
          let w := { w with
            rerun := some bad, due := due, aData := a.data, aSide := a.side, refused := if hurt then some Cause.mcEcc else none
            bOld := if w.self.isSome then [] else ((List.finRange 2).filter (fun m => w.arrays.getLsbD m.val)).map (fun m => slotBytes s c m w.slot) }
          .next (s.setGroup p (g.mapEntry .matrix e.id (fun e => { e with work := e.work.map (fun x => { x with step := some w }) })))

/-- A link freezes: any forward of it stops (R423). -/
def freezeLink (s : State) (c : Chain) (i : Nat) (l : Link) : State := setChain s (c.setLink i { l with state := .frozen, flight := none })

/-- The records of an uncorrectable error at a link store entry, which is lasting at once (R408, R409). -/
def entryRecords (s : State) (c : CoreId) (m : Fin 2) (slot : Nat) (addr lid : BitVec 64) : State :=
  let d := dieOfCore c
  let r : ErrRec :=
    { src := 6, kind := 2, die := BitVec.ofNat 4 d.val, core := BitVec.ofNat 7 c.val, sub := BitVec.ofNat 1 m.val ++ BitVec.ofNat 4 slot,
      count := siteCount s 6 d (c.val * 32 + m.val * 16 + slot), cause := Cause.mcLink, addr := addr, lid := lid,
      cycle := (s.dies.get d).cycle, synd := Config.freeBits s.fresh 64 }
  logErr (logErr { s with fresh := s.fresh + 1 } r) { r with kind := 4 }

/-- A link freezes on an uncorrectable error in an item of its entry: the entry, of a fused link the one that holds the item, is lasting, and both are
recorded (R408, R409, R423). The item, which the spec does not name, is an element, an exponent or a count: the first two read zero from now on, and the
counts stay as they stood (R411, R424). -/
def freezeItem (s : State) (c : Chain) (i : Nat) (l : Link) : State :=
  let b := Config.freeBits s.fresh 17
  let row := (b.extractLsb' 0 6).toNat
  let col := (b.extractLsb' 6 8).toNat % l.ncol
  let kind := (b.extractLsb' 15 2).toNat
  let m : Fin 2 := if !l.fused then l.array else if (if kind = 0 then decide (128 ≤ col) else b.getLsbD 14) then 1 else 0
  let l := if kind = 0 then { l with m := l.m.modify row (fun ws => ws.modify col (fun _ => 0)) }
    else if kind = 1 then { l with e := l.e.set row 0 }
    else l
  let s := freezeLink { s with fresh := s.fresh + 1 } c i { l with lasting := l.lasting ||| (1#2 <<< m.val) }
  entryRecords s l.coreId m l.slot (BitVec.ofNat 64 (c.num.toNat + 4096 * i)) c.owner

/-- An uncorrectable error in an entry in which no link stands: the entry is lasting at once and, being free, is retired (R408, R425). -/
def faultEntry (s : State) (c : CoreId) (m : Fin 2) (slot : Fin 16) : State :=
  if dieLive s (dieOfCore c) && entryFree s (c, m, slot.val) then entryRecords (retireAt s c m slot.val) c m slot.val 0 0 else s

/-- CHECKSUM_RERUN_END (R418, R419, R423). -/
def execChecksumRerunEnd (p : Place) (k : Nat) (bad : BitVec 10) (s : State) : Host.Outcome State Fault Refusal :=
  match stepAt s p k with
  | none => .next s
  | some (g, e, w) =>
    match w.rerun with
    | none => .next s
    | some old =>
      let c := coreOf p
      let sites := badSites w.arrays bad
      match w.refused with
      | some x => .next (refuseStep (startTests s c g.lr.id w.due) p e w x)
      | none =>
      if sites = [] then
        let s := (badSites w.arrays old).foldl (fun s x => arrayRecord s c x.1 x.2 3 0 g.lr.id) s
        let s := startTests s c g.lr.id w.due
        let w := { w with rerun := none, due := [] }
        let s := s.setGroup p (g.mapEntry .matrix e.id (fun e => { e with work := e.work.map (fun x => { x with step := some w }) }))
        .next (finishStep s p e w)
      else
        let (s, due) := countMismatch s c sites
        let s := sites.foldl (fun s x => arrayRecord s c x.1 x.2 2 Cause.mcCksum g.lr.id) s
        let s := startTests s c g.lr.id (w.due ++ due)
        let s := match (if w.self.isSome then none else stepLink s w) with
          | some (ch, l) => if l.state = .frozen then s else freezeLink s ch w.idx l
          | none => s
        .next (refuseStep s p e w Cause.mcCksum)

/-- ARRAY_SELF_TEST_END (R420): the lasting strips and those with a mismatching byte are fenced. -/
def execArraySelfTestEnd (core : CoreId) (m : Fin 2) (bad : BitVec 4) (s : State) : Host.Outcome State Fault Refusal :=
  let h := healthOf s core m
  if h.test = false then .next s
  else
    let fenced := (List.range 4).filter (fun j => bad.getLsbD j || h.under.any (fun u => u.toNat == j))
    let s := ((List.range 4).filter (fun j => bad.getLsbD j)).foldl (fun s j => arrayRecord s core m j 2 Cause.mcCksum 0) s
    let h' : Health := match fenced with
      | [] => h
      | [j] => if h.spu then { h with ret := true } else { h with spu := true, scg := BitVec.ofNat 2 j }
      | _ => { h with ret := true }
    .next (setHealth s core m { h' with test := false, under := [] })

/-- The started steps into a link, with their places. -/
def stepsInto (s : State) (num : BitVec 12) (i born : Nat) : List (Place × QEntry) :=
  (List.finRange 512).flatMap fun p =>
    match s.group p with
    | none => []
    | some g => ((g.queue .matrix).filter (fun e => e.started && !e.done && (match e.work.bind (·.step) with
        | some w => w.self.isNone && w.chain == num && w.idx == i && w.born == born
        | none => false))).map (fun e => (p, e))

/-- LINK_FREEZE (R423): which happening finds the fault is open; a step that adds into the entry may be the one, and is refused with MC_LINK, the sites that
its mismatch made lasting tested all the same (R420). -/
def execLinkFreeze (num : BitVec 12) (i : Nat) (s : State) : Host.Outcome State Fault Refusal :=
  match findChain s num with
  | none => .next s
  | some c =>
    match c.links[i]? with
    | none => .next s
    | some l =>
      if l.state = .frozen then .next s
      else
        let found := Config.freeBool s.fresh
        let s := freezeItem { s with fresh := s.fresh + 1 } c i l
        match stepsInto s num i c.born with
        | [] => .next s
        | (p, e) :: _ =>
          if found then
            let due := match e.work.bind (·.step) with | some w => w.due | none => []
            .next (refuseEntry (startTests s (coreOf p) c.owner due) p .matrix e (.plain Cause.mcLink))
          else .next s

/-! ## RMODE (R124, R285) -/

/-- The queue that RMODE enters, by its stream. -/
def rmodeQueue (s : State) : QueueId := if s.curStream = .vec then .vector else .matrix

/-- The rounding state of a queue changed. -/
def setRState (g : Group) (q : QueueId) (f : RState → RState) : Group := if q = .vector then { g with vrs := f g.vrs } else { g with mrs := f g.mrs }

def execRmode (r : BitVec 4) (o : BitVec 1) (m : BitVec 3) (s : State) :=
  let q := rmodeQueue s
  command q [.mxe, .vec] (.rmode r o m) [] (fun e => if 6 ≤ m.toNat then .error (.plain Cause.rmRsvd) else capX [] e)
    (fun g => setRState g q (fun x => { x with ovf := o, mode := m })) s

/-- RMODE with a seed: in the vector queue DCNT returns to 0. -/
def execRmodeSeed (r : BitVec 4) (o : BitVec 1) (m : BitVec 3) (a : BitVec 6) (s : State) :=
  plain [.mxe, .vec] 0 0 (fun e =>
    let q := rmodeQueue e.s
    e.t.reads [a] (
      if 16 ≤ (e.g.queue q).length then .hold
      else if 6 ≤ m.toNat then .trap (.plain Cause.rmRsvd)
      else
        let g := accept e.g q e.st (.rmodeSeed r o m a) { xs := [e.t.getX a], hs := [], tid := 0 }
        .done (e.s.setGroup e.p (setRState g q (fun x =>
          { x with ovf := o, mode := m, seed := (e.t.getX a).extractLsb' 0 32, dcnt := if q = .vector then 0 else x.dcnt }))))) s

/-! ## MSELF (R286) -/

def execMself (r : BitVec 4) (t : BitVec 2) (a : BitVec 6) (s : State) :=
  command .matrix [.mxe] (.mself r t a) [a]
    (fun e => if (e.t.getX a) &&& ~~~0xFF01#64 ≠ 0 then .error (.plain Cause.opRange) else capX [a] e) id s

/-- A byte of the self-test product (R286). -/
def selfByte (seed r c : Nat) : Byte :=
  BitVec.ofInt 8 (((List.range 128).map (fun k =>
    (BitVec.ofNat 8 (7 * r + 13 * k + seed)).toInt * (BitVec.ofNat 8 (11 * k + 5 * c + seed)).toInt)).sum)

/-- The tile of the self-test product. -/
def selfTile (seed : Nat) : TReg :=
  { data := BitVec.ofNat 65536 (leNat ((List.range 64).flatMap (fun r => (List.range 128).map (fun c => selfByte seed r c)))), tag := 2, full := true, side := 0 }

/-- MSELF at the head: on a retired array it is not started (R421). -/
def startMself (v : QEnv) (t : BitVec 2) : QAct :=
  let arrays := arraysOf v.e
  let seed : BitVec 8 := (v.x 0).extractLsb' 8 8
  if anyRetired v.s (coreOf v.p) arrays then .trap (.plain Cause.mcCksum)
  else if anyTesting v.s (coreOf v.p) arrays || !unitsFree v.s v.p v.e then .wait v.s
  else
    let w : StepWork :=
      { chain := 0, born := 0, idx := 0, home := (0, 0, 0), aData := 0, aSide := 0, aTag := 0, bTag := 0, slot := 0, arrays := arrays, bOld := [],
        rerun := none, due := [], refused := none, self := some seed }
    .start (emptyTile v.s v.p [t]) { Work.none with step := some w, tw := [(t, selfTile seed.toNat)] }

end Sys2Proof.Machine
end

