-- ==== Sys2Proof/Machine/Close.lean ====
section
/-! DEFINITION. Sys2Proof/Machine/Close.lean: CHCLOSE (R153, R154, R282 to R284). -/

namespace Sys2Proof.Machine

open Sys2Proof

/-! ## Acceptance (R283) -/

/-- The acceptance checks of CHCLOSE. -/
def closeChecks (e : Env) (d : BitVec 4) (a b c : BitVec 6) (dst : BitVec 1) (out : BitVec 4) (smode : BitVec 2) : Option Trap :=
  if out = 0#4 ∨ out = 11#4 ∨ smode = 3#2 then some (.plain Cause.opRange)
  else if tagRsvd out then some (.plain Cause.tagRsvd)
  else
    let box := if dst = 1#1 then
        match boxChecks (e.g.h.get d.toFin) (e.t.getX b) (e.t.getX c) with
        | some x => some x
        | none => if (Shape.of (e.g.h.get d.toFin)).tag ≠ out then some Cause.tagMismatch else none
      else none
    match box with
    | some x => some (.plain x)
    | none => if smode ≠ 0#2 ∧ (e.t.getX a).toNat % 256 ≠ 0 then some (Trap.at Cause.tlAlign (e.t.getX a) 0) else none

def execChclose (r ev d : BitVec 4) (a b : BitVec 6) (keep dst : BitVec 1) (chain : BitVec 12) (out : BitVec 4) (smode qt : BitVec 2) (c : BitVec 6) (s : State) :=
  command .matrix [.mxe] (.chclose r ev d a b keep dst chain out smode qt c) (if dst = 1#1 then [a, b, c] else [a])
    (fun e =>
      match closeChecks e d a b c dst out smode with
      | some x => .error x
      | none =>
        .ok { xs := (if dst = 1#1 then [a, b, c] else [a]).map e.t.getX, hs := if dst = 1#1 then [e.g.h.get d.toFin] else [], tid := 0 }) id s

/-! ## The close datapath (R284) -/

/-- The value of an element of a closed link. -/
def closeValue (c : Chain) (l : Link) (r col : Nat) : Val :=
  if c.tf = 0#2 then w48Value (rowWord l.m r col) (l.e.getD r 0) else (treeFmt c.tf).decode (rowWord l.m r col).toNat

/-- The rounding of an element of a close (R126). -/
def closeRnd (rs : RState) (chain : BitVec 12) (r col : Nat) : Rnd :=
  { mode := rs.mode, ovf := rs.ovf,
    hash := if rs.mode = 5#3 then dsrHash rs.seed (BitVec.ofNat 32 r) (BitVec.ofNat 32 col) (chain.zeroExtend 32) else 0 }

/-- A row of results: the elements, and the scale bytes of its blocks. -/
structure CloseRow where
  els : List Nat
  scs : List Byte

/-- A row of the close (R284). -/
def closeRow (rs : RState) (c : Chain) (l : Link) (out : BitVec 4) (qt : BitVec 2) (sc : Nat → Nat → Val) (r : Nat) : CloseRow :=
  let z (col : Nat) : Val := Val.mul (closeValue c l r col) (sc r col)
  if tagBlock out then
    let blocks := (List.range (l.ncol / 32)).map (fun j =>
      let xs := (List.range 32).map (fun k => z (32 * j + k))
      let rnd (k : Nat) := closeRnd rs c.num r (32 * j + k)
      if out = 8#4 then
        let (b, cs) := blockQ4 qt.toNat rnd xs
        (b, cs.map BitVec.toNat)
      else
        let (b, es) := blockMx (if out = 9#4 then .e4m3 else .e5m2) rnd xs
        (b, es.map BitVec.toNat))
    { els := (blocks.map (·.2)).flatten, scs := blocks.map (·.1) }
  else { els := (List.range l.ncol).map (fun col => convert1 out (closeRnd rs c.num r col) (z col)), scs := [] }

/-- Elements of width w as one number, the first lowest. -/
def packEls (w : Nat) (els : List Nat) : Nat := els.foldr (fun x acc => acc * 2 ^ w + x % 2 ^ w) 0

/-- The tiles that a close writes (R284): each takes its part of a row's elements, and of the row's scale bytes that of its blocks. -/
def closeTiles (d : BitVec 4) (out : BitVec 4) (ncol : Nat) (rows : List CloseRow) : List (BitVec 2 × TReg) :=
  let w := tagWidth out
  let n := 1024 / w
  (List.range (Nat.max 1 (ncol * w / 1024))).map fun p =>
    let data := rows.zipIdx.foldl (fun (acc : BitVec 65536) x => acc ||| (BitVec.ofNat 65536 (packEls w ((x.1.els.drop (p * n)).take n)) <<< (1024 * x.2))) 0
    let side := rows.zipIdx.foldl (fun (acc : BitVec 4096) x => overlay acc (x.2 * (n / 32)) ((x.1.scs.drop (p * (n / 32))).take (n / 32))) 0
    (BitVec.ofNat 2 (d.toNat + p), { data := data, tag := out, full := true, side := side })

/-! ## The head (R283) -/

/-- The accesses that read the scales of a close, and none for a scalar operand. -/
def scaleAccs (v : QEnv) (smode : BitVec 2) (ncol : Nat) : List ElemAcc :=
  if smode = 0#2 then []
  else (List.range ((if smode = 1#2 then 256 else 4 * ncol) / 128)).map (fun i => { va := v.x 0 + BitVec.ofNat 64 (128 * i), n := 128, align := 1 })

/-- The scales of a close, by row and column: a scalar operand, or FP32 values at x(a) (R284). -/
def scaleAt (s : State) (v : QEnv) (smode : BitVec 2) (ls : List (Loc × Bool)) : Nat → Nat → Val :=
  if smode = 0#2 then fun _ _ => FFmt.fp32.decode ((v.x 0).extractLsb' 0 32).toNat
  else
    let bs := (ls.flatMap (fun l => (engineRead s v.p v.g l.1 128).1)).toArray
    let at_ (i : Nat) : Val := FFmt.fp32.decode (leNat ((List.range 4).map (fun k => bs.getD (4 * i + k) 0)))
    fun r col => if smode = 1#2 then at_ r else at_ col

/-- A close to tile registers. -/
def closeToTiles (v : QEnv) (s : State) (work : Work) (d out : BitVec 4) (ncol : Nat) (rows : List CloseRow) : QAct :=
  let tiles := closeTiles d out ncol rows
  .start (emptyTile s v.p (tiles.map (·.1))) { work with tw := tiles }

/-- The writes of a close to a box. -/
def closeLines (h : Shape) (pl : List PlacedChunk) (rows : List CloseRow) : List LineWrite :=
  let arr := rows.toArray
  let row (k : Nat) : CloseRow := arr.getD k { els := [], scs := [] }
  writeBox h pl (fun k => leBytes (h.chunkBytes k) (packEls (boxWidth h.tag) (((row k.row).els.drop k.i0).take k.n)))
    (fun k => (row k.row).scs.getD (k.i0 / 32) 0)

/-- A close whose checks and translations have passed: it reads its scales, of which a poisoned line is refused under policy 0 (R415, R416), and writes; the
banks of its scales and of its box stay locked until it completes (R71). -/
def runClose (v : QEnv) (s : State) (c : Chain) (l : Link) (d out : BitVec 4) (keep : Bool) (smode qt : BitVec 2) (sl : List (Loc × Bool))
    (box : Option (List PlacedChunk × List Aim × List (Nat × Nat))) : QAct :=
  touched s v.p sl (fun s =>
    let bad := badLines s v.p v.g (sl.map (fun x => (x.1, 128)))
    let s := engineTouch s v.g.lr.asid false false (aims sl (scaleAccs v smode l.ncol))
    if bad ≠ [] ∧ v.g.lr.ecc ≠ 1#2 then .trapIn s (.plain Cause.mcEcc)
    else
      let go (s : State) : QAct :=
        let rows := (List.range 64).map (closeRow v.e.rs c l out qt (scaleAt s v smode sl))
        let s := bad.foldl (fun s x => recordZeroFill v.s s v.p v.g x) s
        let held := spadRegions (sl.map (fun x => (x.1, 128)))
        let work : Work := { Work.none with close := some (c.num, c.born, keep), status := if bad = [] then 0 else 1, locks := held }
        match box with
        | none => closeToTiles v s work d out l.ncol rows
        | some (pl, _, locks) => .start s { work with lines := closeLines (v.shape 0) pl rows, locks := held ++ locks }
      match box with
      | none => go s
      | some (_, as, _) => placed v s as go)

/-- CHCLOSE at the head; it places no reserved tag (R111). -/
def startChclose (v : QEnv) (d : BitVec 4) (keep dst : BitVec 1) (chain : BitVec 12) (out : BitVec 4) (smode qt : BitVec 2) : QAct :=
  match findChain v.s chain with
  | none => .wait v.s
  | some c =>
    if c.owner ≠ v.g.lr.id then .trap (.plain Cause.chOwner)
    else
      match c.links.head? with
      | none => .wait v.s
      | some l =>
        let w := tagWidth out
        if tagRsvd out then .trap (.plain Cause.tagRsvd)
        else if l.coreId ≠ coreOf v.p then .trap (.plain Cause.chNotroot)
        else if c.links.any (fun x => x.state == .frozen) then .trap (.plain Cause.chFrozen)
        else if l.state ≠ .done ∨ (c.isTree l && !l.noded) = true then .wait v.s
        else if !c.satok && l.ovr != 0 then .trap (.plain Cause.chOverflow)
        else if dst = 0#1 ∧ 4 < d.toNat + Nat.max 1 (l.ncol * w / 1024) then .trap (.plain Cause.opRange)
        else if dst = 1#1 ∧ l.ncol < (v.shape 0).boxAt 0 then .trap (.plain Cause.tlBox)
        else if !unitsFree v.s v.p v.e then .wait v.s
        else
          match resolveAll v v.s (scaleAccs v smode l.ncol) 0 with
          | .no a => a
          | .ok s sl =>
            if regionsBlocked v s (spadRegions (sl.map (fun x => (x.1, 128)))) then .wait s
            else if dst = 0#1 then runClose v s c l d out (keep == 1#1) smode qt sl none
            else
              let h := v.shape 0
              match planBox v s h (h.chunks (originOf (v.x 1) (v.x 2))) 1 with
              | .no a => a
              | .ok s pl as locks => runClose v s c l d out (keep == 1#1) smode qt sl (some (pl, as, locks))

end Sys2Proof.Machine
end

