-- ==== Sys2Proof/Machine/Copy.lean ====
section
/-! DEFINITION. Sys2Proof/Machine/Copy.lean: the copy engines (R288 to R295): CPY, CPYW, CPSTAT, STGNX, and the portions a copy subtracts from its
barrier (R292). -/

namespace Sys2Proof.Machine

open Sys2Proof

/-! ## A copy as it is asked for -/

/-- One side of a copy. -/
inductive CopySide where
  | shape (h : BitVec 512)
  | tile (t : BitVec 2)
  deriving DecidableEq, Repr

/-- A copy: its sides, their origins, its barrier and its flag (R289). -/
structure CopySpec where
  chan : BitVec 3
  dst  : CopySide
  src  : CopySide
  od   : BitVec 64
  os   : BitVec 64
  bar  : Option (BitVec 64)
  flag : Option (BitVec 64 × BitVec 64)
  deriving DecidableEq, Repr

/-- The origin that a register gives (R290). -/
def copyOrigin (o : BitVec 64) : List Nat := [fieldOf o 31 0, fieldOf o 63 32, 0, 0, 0]

/-- The elements of a box. -/
def Shape.boxElems (h : Shape) : Nat := h.boxAt 0 * h.rows

/-- The record constraints of a side. -/
def CopySide.fault : CopySide → Option (BitVec 10)
  | .shape h => acceptFault h
  | .tile _ => none

/-- The checks of R271 on a shape side opposite a tile. -/
def besideTile (h : BitVec 512) (o : BitVec 64) : Option (BitVec 10) :=
  let sh := Shape.of h
  if !sh.alignOk (fieldOf o 31 0) then some Cause.tlAlign else if !sh.boxOk (copyOrigin o) then some Cause.tlBox else none

/-- The alignment of a shape side opposite another (R290). -/
def copyAligned (h : BitVec 512) (o : BitVec 64) : Bool :=
  let sh := Shape.of h
  let m := Nat.max 1 (boxWidth sh.tag / 8)
  sh.base.toNat % m == 0 && (List.range 4).all (fun j => sh.strideAt (j + 1) % m == 0) && (!tagBlock sh.tag || fieldOf o 31 0 % 32 == 0)

/-- A cause of the first check in a list that fails. -/
def firstFault (l : List (Bool × BitVec 10)) : Option (BitVec 10) := (l.find? (fun x => x.1)).map (·.2)

/-- The checks of R290, in order, but for that of the flag's address. -/
def copyFault (c : CopySpec) : Option (BitVec 10) :=
  match c.dst, c.src with
  | .tile _, .tile _ => some Cause.opRange
  | .shape d, .tile _ => (c.dst.fault).or ((besideTile d c.od).or (if 2 ^ 35 < (Shape.of d).boxElems * boxWidth (Shape.of d).tag then some Cause.tlBox else none))
  | .tile _, .shape x => (c.src.fault).or ((besideTile x c.os).or (if 2 ^ 35 < (Shape.of x).boxElems * boxWidth (Shape.of x).tag then some Cause.tlBox else none))
  | .shape d, .shape x =>
    let a := Shape.of d
    let b := Shape.of x
    (c.dst.fault).or ((c.src.fault).or (firstFault
      [(a.tag != b.tag || (List.range 5).any (fun j => a.boxAt j != b.boxAt j), Cause.cpShape),
       (!copyAligned d c.od || !copyAligned x c.os, Cause.tlAlign),
       (decide (2 ^ 35 < a.boxElems * boxWidth a.tag), Cause.tlBox)]))

/-- Every check of R290. -/
def copyTrap (c : CopySpec) : Option Trap :=
  match copyFault c with
  | some x => some (.plain x)
  | none => match c.flag with
    | some (fa, _) => if fa.toNat % 8 ≠ 0 then some (Trap.at Cause.memAlign fa 1) else none
    | none => none

/-- The shape registers of a copy as captured, the destination's first (R311). -/
def CopySpec.shapes (c : CopySpec) : List (BitVec 512) :=
  (match c.dst with | .shape h => [h] | .tile _ => []) ++ (match c.src with | .shape h => [h] | .tile _ => [])

/-! ## Acceptance (R288 to R290) -/

/-- The queue that a copy command enters, by its stream. -/
def copyQueue (s : State) : QueueId := if s.curStream = .str then .storer else .loader

/-- A side of a copy at its acceptance. -/
def sideAt (g : Group) (kind : BitVec 1) (n : BitVec 4) : CopySide := if kind = 0#1 then .shape (g.h.get n.toFin) else .tile (n.extractLsb' 0 2)

/-- NEXTID of a channel rises (R288). -/
def nextTid (ch : BitVec 3) (g : Group) : Group :=
  let c := g.chans.get ch.toFin
  { g with chans := g.chans.set ch.toNat { c with nextid := c.nextid + 1 } ch.isLt }

/-- The capture of a copy: its checks, then its transfer identifier. -/
def captureCopy (c : CopySpec) (xs : List (BitVec 64)) (e : Env) : Except Trap Capture :=
  match copyTrap c with
  | some t => .error t
  | none =>
    let tid := (e.g.chans.get c.chan.toFin).nextid
    if tid = BitVec.allOnes 48 then .error (.plain Cause.opRange) else .ok { xs := xs, hs := c.shapes, tid := tid }

/-- CPY: the operands in field order are BR, OD, OS. -/
def execCpy (r ev d x : BitVec 4) (br : BitVec 6) (ch : BitVec 3) (dk sk : BitVec 1) (od os : BitVec 6) (s : State) :=
  command (copyQueue s) [.ldr, .str] (.cpy r ev d x br ch dk sk od os) [br, od, os]
    (fun e => captureCopy
      { chan := ch, dst := sideAt e.g dk d, src := sideAt e.g sk x, od := e.t.getX od, os := e.t.getX os, bar := none, flag := none }
      ([br, od, os].map e.t.getX) e) (nextTid ch) s

/-- CPYW: then FA and FV. -/
def execCpyw (r ev d x : BitVec 4) (br : BitVec 6) (ch : BitVec 3) (dk sk : BitVec 1) (od os fa fv : BitVec 6) (s : State) :=
  command (copyQueue s) [.ldr, .str] (.cpyw r ev d x br ch dk sk od os fa fv) [br, od, os, fa, fv]
    (fun e => captureCopy
      { chan := ch, dst := sideAt e.g dk d, src := sideAt e.g sk x, od := e.t.getX od, os := e.t.getX os, bar := none,
        flag := some (e.t.getX fa, e.t.getX fv) }
      ([br, od, os, fa, fv].map e.t.getX) e) (nextTid ch) s

/-! ## The elements of a copy between shapes (R291) -/

/-- A unit that a copy moves: an element, or a block of 32 with its scale byte. -/
structure CopyUnit where
  n   : Nat
  dst : BitVec 64
  src : Option (BitVec 64)
  dsc : Option (BitVec 64)
  ssc : Option (BitVec 64)
  deriving DecidableEq, Repr

/-- The units of a copy whose destination is in bounds. -/
def copyUnits (d x : Shape) (od os : List Nat) : List CopyUnit :=
  let blk := tagBlock d.tag
  let k := if blk then 32 else 1
  let n := if blk then blockBytes d.tag else boxWidth d.tag / 8
  (List.range d.rows).flatMap fun r =>
    (List.range (d.boxAt 0 / k)).filterMap fun j =>
      let (da, din) := d.elem od r (k * j)
      let (sa, sin) := x.elem os r (k * j)
      if din then
        some { n := n, dst := da, src := if sin then some sa else none, dsc := if blk then some (d.scaleAddr da) else none,
               ssc := if blk && sin then some (x.scaleAddr sa) else none }
      else none

/-- A run of bytes as the runs of it that lie in one line each. -/
def lineParts (va : BitVec 64) (n : Nat) : List (BitVec 64 × Nat) :=
  let k := 128 - va.toNat % 128
  if n ≤ k then [(va, n)] else [(va, k), (va + BitVec.ofNat 64 k, n - k)]

/-- The runs that a unit is read from, its scale byte last. -/
def CopyUnit.reads (u : CopyUnit) : List (BitVec 64 × Nat) :=
  (match u.src with | some a => lineParts a u.n | none => []) ++ (match u.ssc with | some a => [(a, 1)] | none => [])

/-- The runs that a unit is written to, its scale byte last. -/
def CopyUnit.writes (u : CopyUnit) : List (BitVec 64 × Nat) := lineParts u.dst u.n ++ (match u.dsc with | some a => [(a, 1)] | none => [])

/-- The accesses of a list of runs. -/
def runAccs (rs : List (BitVec 64 × Nat)) : List ElemAcc := rs.map (fun r => { va := r.1, n := r.2, align := 1 })

/-- The source accesses of units. -/
def srcAccs (us : List CopyUnit) : List ElemAcc := runAccs (us.flatMap CopyUnit.reads)

/-- The destination accesses of units. -/
def dstAccs (us : List CopyUnit) : List ElemAcc := runAccs (us.flatMap CopyUnit.writes)

/-- One byte that a copy writes: where, from where, the source byte as it stood before the copy, and whether it came from a poisoned line. -/
structure CopyByte where
  dst : Loc
  src : Option Loc
  old : Byte
  bad : Bool
  deriving DecidableEq, Repr

/-- The places of the bytes of runs, from the places of the runs. -/
def byteLocs (rs : List (BitVec 64 × Nat)) (ls : List (Loc × Bool)) : List Loc := (rs.zip ls).flatMap (fun x => (List.range x.1.2).map x.2.1.plus)

/-- One byte that a copy writes, from its places: a source out of bounds gives zero (R291). -/
def copyByte (s : State) (p : Place) (g : Group) (dst : Loc) (src : Option Loc) : CopyByte :=
  match src with
  | none => { dst := dst, src := none, bad := false, old := 0 }
  | some l =>
    let bad := locPoisoned s p g l
    { dst := dst, src := some l, bad := bad, old := if bad then 0 else locByte s p g l }

/-- A unit with the places of the runs it is written to, and its bytes, the scale byte last. -/
structure UnitBytes where
  unit  : CopyUnit
  runs  : List (Loc × BitVec 64 × Nat)
  bytes : List CopyByte

/-- The bytes of units, with their locations taken in order. -/
def unitBytes (s : State) (p : Place) (g : Group) : List CopyUnit → List (Loc × Bool) → List (Loc × Bool) → List UnitBytes
  | [], _, _ => []
  | u :: us, sl, dl =>
    let src := byteLocs u.reads sl
    { unit := u
      runs := (u.writes.zip dl).map (fun x => (x.2.1, x.1.1, x.1.2))
      bytes := (byteLocs u.writes dl).zipIdx.map (fun x => copyByte s p g x.1 src[x.2]?) } ::
      unitBytes s p g us (sl.drop u.reads.length) (dl.drop u.writes.length)

/-- Bytes cut to the lengths of runs. -/
def cutBytes : List (Loc × BitVec 64 × Nat) → List Byte → List (Loc × Nat × List Byte)
  | [], _ => []
  | r :: rs, bs => (r.1, r.2.1.toNat, bs.take r.2.2) :: cutBytes rs (bs.drop r.2.2)

/-- A unit enters the writes of its copy, its scale byte with it (R103); a line is written poisoned when its own source was, under a policy that poisons
(R416). -/
def UnitBytes.add (u : UnitBytes) (ef : Bool) (ws : List LineWrite) (bytes : List Byte) (hard : Bool) : List LineWrite :=
  let rs := cutBytes u.runs bytes
  if u.unit.dsc.isSome then
    let dead := hard && (match u.bytes.getLast? with | some b => b.bad | none => false)
    let scale : Option ScaleByte := rs.getLast?.bind (fun r => r.2.2.head?.map (fun b => { loc := r.1, va := r.2.1, byte := b, poison := dead }))
    addUnit ef ws rs.dropLast scale (hard && u.bytes.dropLast.any (·.bad))
  else addUnit ef ws rs none (hard && u.bytes.any (·.bad))

/-- The byte that a destination receives: where the copy writes its source byte too, that byte from before the copy or from after the copy's own write
to it, each drawn (R291). -/
def copiedByte (draw : Nat) (all : Array CopyByte) : Nat → CopyByte → Byte
  | 0, b => b.old
  | fuel + 1, b =>
    match b.src with
    | none => b.old
    | some l =>
      match all.findIdx? (fun x => x.dst == l) with
      | none => b.old
      | some i => if Config.overlapLate draw i then copiedByte draw all fuel (all.getD i b) else b.old

/-- The bytes of a list as copied. -/
def copiedBytes (draw : Nat) (lap : Bool) (all : Array CopyByte) (bs : List CopyByte) : List Byte :=
  bs.map (fun b => if lap then copiedByte draw all all.size b else b.old)

/-! ## Starting a copy -/

/-- What the checks of a copy give, before any of its effects: the writes it is to make and the places it reads, and the copy from the state that then
stands; or the head's answer. -/
inductive CopyPlan where
  | ok (s : State) (ws : List Aim) (rs : List (Loc × Bool)) (run : State → State × CopyRun)
  | no (a : QAct)

/-- Whether one of a list of accesses lies in a locked bank. -/
def accsBlocked (v : QEnv) (s : State) (ls : List (Loc × Bool)) (accs : List ElemAcc) : Bool :=
  regionsBlocked v s (spadRegions ((ls.zip accs).map (fun x => (x.1.1, x.2.n))))

/-- The status of a copy by the poison it met and the policy of its launch (R415, R416). -/
def copyStatus (g : Group) (bad : List Loc) : BitVec 8 := if bad = [] then 0 else if g.lr.ecc = 1#2 then 1 else 2

/-- Zero-filled reads are recorded under policy 1 (R415). -/
def recordFills (was s : State) (p : Place) (g : Group) (bad : List Loc) : State :=
  if g.lr.ecc = 1#2 then bad.foldl (fun s l => recordZeroFill was s p g l) s else s

/-- The lines of a copy between shapes, as its source stands; an overlapped byte is drawn (R291). -/
def copyLines (was s : State) (p : Place) (g : Group) (x d : Shape) (us : List CopyUnit) (sl dl : List (Loc × Bool)) (run : CopyRun) : State × CopyRun :=
  let s := engineTouch s g.lr.asid x.ef false (aims sl (srcAccs us))
  let parts := unitBytes s p g us sl dl
  let all := (parts.flatMap (·.bytes)).toArray
  let lap := all.any (fun b => match b.src with | some l => all.any (fun y => y.dst == l) | none => false)
  let bad := firstOfLines (all.toList.filterMap (fun b => if b.bad then b.src else none))
  let hard := g.lr.ecc != 1#2
  let ws := parts.foldl (fun ws u => u.add d.ef ws (copiedBytes s.fresh lap all u.bytes) hard) []
  (recordFills was { s with fresh := s.fresh + 1 } p g bad, { run with lines := ws, status := copyStatus g bad })

/-- The payload of a copy between shapes. -/
def copyShapes (v : QEnv) (s : State) (d x : Shape) (od os : List Nat) (run : CopyRun) : CopyPlan :=
  let us := copyUnits d x od os
  match resolveAll { v with s := s } s (srcAccs us) 0 with
  | .no a => .no a
  | .ok s sl =>
    match resolveAll { v with s := s } s (dstAccs us) 1 with
    | .no a => .no a
    | .ok s dl =>
      if accsBlocked v s sl (srcAccs us) || accsBlocked v s dl (dstAccs us) then .no (.wait s)
      else .ok s (aims dl (dstAccs us)) sl (fun s' => copyLines v.s s' v.p v.g x d us sl dl run)

/-- A tile register as a copy writes it from a box: rows whose source was poisoned have no stated value under policy 0 (R416). -/
def copiedTile (s : State) (g : Group) (h : Shape) (pl : List PlacedChunk) (r : BoxRead) : TReg :=
  let rows := (pl.filter (fun x => r.bad.any (fun b => b.sameLine x.2.1))).map (·.1.row)
  let data := if g.lr.ecc = 1#2 then r.data else rows.dedup.foldl (fun acc k => overlay acc (128 * k) (leBytes 128 (Config.freeBits (s.fresh + k) 1024).toNat)) r.data
  { data := data, tag := h.tag, full := true, side := r.side }

/-- The payload of a copy to a tile register, which receives no reserved tag (R111). -/
def copyToTile (v : QEnv) (s : State) (t : BitVec 2) (x : Shape) (o : List Nat) (run : CopyRun) : CopyPlan :=
  if tagRsvd x.tag then .no (.trapIn s (.plain Cause.tagRsvd))
  else
  match planBox v s x (x.chunks o) 0 with
  | .no a => .no a
  | .ok s pl as _ =>
    .ok s [] (as.map (fun a => (a.1, false))) (fun s' =>
      let r := readBox s' v.p v.g x pl
      (recordFills v.s { r.s with fresh := r.s.fresh + 64 } v.p v.g r.bad, { run with tile := some (t, copiedTile r.s v.g x pl r), status := copyStatus v.g r.bad }))

/-- The payload of a copy from a tile register. -/
def copyFromTile (v : QEnv) (s : State) (h : Shape) (t : BitVec 2) (o : List Nat) (run : CopyRun) : CopyPlan :=
  let r := v.t t
  if r.tag ≠ h.tag then .no (.trapIn s (.plain Cause.tagMismatch))
  else
    match planBox v s h (h.chunks o) 1 with
    | .no a => .no a
    | .ok s pl as _ => .ok s as [] (fun s' => (s', { run with lines := writeBox h pl (r.chunkBytes h) (r.chunkScale h) }))

/-- The barrier of a copy: reached under R444 with kind write, its placement and its fields checked (R227, R290); its physical address. -/
def copyBarrier (v : QEnv) (s : State) (bar : Option (BitVec 64)) (k : State → Option Nat → CopyPlan) : CopyPlan :=
  match bar with
  | none => k s none
  | some va =>
    match reachObject v s va with
    | .no a => .no a
    | .misplaced s => .no (.trapIn s (.plain Cause.barPlace))
    | .ok s pa =>
      if poisoned s pa then .no (.trapIn s (.plain Cause.mcEcc))
      else
        match readBarrier s pa with
        | none => .no (.trapIn s (.plain Cause.barDesc))
        | some _ => k s (some pa)

/-- The flag word of CPYW: its place. -/
def copyFlag (v : QEnv) (s : State) (flag : Option (BitVec 64 × BitVec 64)) (k : State → Option (Aim × BitVec 64) → CopyPlan) : CopyPlan :=
  match flag with
  | none => k s none
  | some (fa, fv) =>
    match resolveAll { v with s := s } s [{ va := fa, n := 8, align := 8 }] 1 with
    | .no a => .no a
    | .ok s ls =>
      match ls with
      | [] => .no (.wait s)
      | l :: _ => k s (some ((l.1, fa), fv))

/-- The checks of a copy: its payload's addresses, its flag's, its barrier (R290). -/
def planCopy (v : QEnv) (s : State) (c : CopySpec) (tid : BitVec 48) : CopyPlan :=
  let run : CopyRun :=
    { chan := c.chan, tid := tid, lines := [], tile := none, barrier := none, owed := 0, flagw := none, status := 0, fin := false }
  let payload := match c.dst, c.src with
    | .shape d, .shape x => copyShapes v s (Shape.of d) (Shape.of x) (copyOrigin c.od) (copyOrigin c.os) run
    | .tile t, .shape x => copyToTile v s t (Shape.of x) (copyOrigin c.os) run
    | .shape d, .tile t => copyFromTile v s (Shape.of d) t (copyOrigin c.od) run
    | .tile _, .tile _ => .no (.trapIn s (.plain Cause.opRange))
  match payload with
  | .no a => .no a
  | .ok s ws rs go =>
    copyFlag v s c.flag (fun s flag =>
      copyBarrier v s c.bar (fun s bar =>
        let flagw := flag.bind (fun f => (addUnit false [] [(f.1.1, f.1.2.toNat, leBytes 8 f.2.toNat)] none false).head?)
        .ok s (ws ++ (flag.map (·.1)).toList) rs (fun s' => let r := go s'; (r.1, { r.2 with flagw := flagw, barrier := bar, barVa := (c.bar.getD 0).toNat }))))

/-- The work of the copies that a command runs. -/
def copyWork (runs : List CopyRun) : Work :=
  { Work.none with copies := runs, cause := if runs.any (fun r => r.status == 2) then some Cause.mcEcc else none }

/-- The copy that a queued CPY or CPYW asks for. -/
def queuedCopy (e : QEntry) (d x : BitVec 4) (br : BitVec 6) (ch : BitVec 3) (dk sk wide : BitVec 1) : CopySpec :=
  let h (k : Nat) : BitVec 512 := e.shops.toList.getD k 0
  let o (k : Nat) : BitVec 64 := e.xops.toList.getD k 0
  { chan := ch, dst := if dk = 0#1 then .shape (h 0) else .tile (d.extractLsb' 0 2),
    src := if sk = 0#1 then .shape (h (if dk = 0#1 then 1 else 0)) else .tile (x.extractLsb' 0 2), od := o 1, os := o 2,
    bar := if br = 0#6 then none else some (o 0), flag := if wide = 1#1 then some (o 3, o 4) else none }

/-- CPY or CPYW at the head. -/
def startCpy (v : QEnv) (d x : BitVec 4) (br : BitVec 6) (ch : BitVec 3) (dk sk wide : BitVec 1) : QAct :=
  match planCopy v v.s (queuedCopy v.e d x br ch dk sk wide) v.e.tid with
  | .no a => a
  | .ok s ws rs go => touched s v.p rs (fun s => placed v s ws (fun s => let r := go s; .start r.1 (copyWork [r.2])))

/-! ## COPY_BARRIER_PORTION (R292) -/

/-- A barrier's PEND falls by the bytes of a portion, and its slice tests it (R228). -/
def subtractPend (s : State) (pa n : Nat) : State :=
  match readBarrier s pa with
  | some b => updateBarrier s pa { b with pend := b.pend - BitVec.ofNat 64 n }
  | none => homeWrite8 s (pa + 8) (homeDword s (pa + 8) - BitVec.ofNat 64 n)

/-- The first copy of a list that owes its barrier bytes gives a portion of n. -/
def payPortion (n : Nat) : List CopyRun → List CopyRun
  | [] => []
  | c :: rest => if c.barrier.isSome && c.owed != 0 then { c with owed := c.owed - n } :: rest else c :: payPortion n rest

/-- COPY_BARRIER_PORTION: how many bytes a portion has, up to 2,048, is open. At a poisoned barrier it takes no effect, and MC_ECC is raised at the stream
(R383, R414; log 44). -/
def execCopyBarrierPortion (p : Place) (q : QueueId) (k : Nat) (s : State) : Host.Outcome State Fault Refusal :=
  match s.group p with
  | none => .next s
  | some g =>
    match (g.queue q)[k]? with
    | none => .next s
    | some e =>
      match e.work with
      | none => .next s
      | some w =>
        match w.copies.find? (fun c => c.barrier.isSome && c.owed != 0) with
        | none => .next s
        | some c =>
          match c.barrier with
          | none => .next s
          | some pa =>
            if farHeld s (dieOfPlace p) pa then .next s
            else
              let n := (Config.freeBits s.fresh 11).toNat % Nat.min 2048 c.owed + 1
              let s := { s with fresh := s.fresh + 1 }.setGroup p (g.mapEntry q e.id (fun e => { e with work := some { w with copies := payPortion n w.copies } }))
              if poisoned s pa then .next (raise s p { stream := e.stream, queue := none, async := true, fpc := e.fpc } (.plain Cause.mcEcc))
              else .next (subtractPend (l2Touch s pa (some (g.lr.asid, c.barVa)) false true) pa n)

/-! ## CPSTAT (R293) -/

def execCpstat (r : BitVec 4) (d : BitVec 6) (k : BitVec 1) (c : BitVec 3) (s : State) :=
  plain anyStream r 0 (fun e =>
    let ch := e.g.chans.get c.toFin
    onStream (fun t => t.writes d (.done (t.setX d ((if k = 1#1 then ch.nextid else ch.wm).zeroExtend 64)))) e) s

/-! ## STGNX (R294, R295) -/

def execStgnx (r : BitVec 4) (a : BitVec 6) (s : State) := command (copyQueue s) [.ldr, .str] (.stgnx r a) [a] (capX [a]) id s

/-- The header of a schedule (R294): its number of entries. -/
def scheduleHead (d : List (BitVec 64)) : Option Nat :=
  let w (k : Nat) : BitVec 64 := d.getD k 0
  if w 0 ≠ (0#16 ++ 1#16 ++ 0x48435343#32 : BitVec 64) ∨ (w 1).extractLsb' 16 48 ≠ 0#48 ∨ (w 1).extractLsb' 0 16 = 0#16 ∨
      (List.range 6).any (fun k => w (2 + k) != 0) then none
  else some (fieldOf (w 1) 15 0)

/-- STAGE of a schedule entry, and its queue: 0 loader, 1 storer. -/
def entryStage (d : List (BitVec 64)) : Nat := fieldOf (d.getD 0 0) 47 32
def entryQueue (d : List (BitVec 64)) : Nat := fieldOf (d.getD 0 0) 4 4

/-- The checks of an entry that raise CP_DESC (R294). -/
def scheduleEntryOk (d : List (BitVec 64)) : Bool :=
  let w (k : Nat) : BitVec 64 := d.getD k 0
  (w 0).extractLsb' 48 16 == 0#16 && (w 0).extractLsb' 5 27 == 0#27 && ((w 0).getLsbD 3 || (w 6 == 0 && w 7 == 0)) &&
    (w 1).toNat % 64 == 0 && (w 2).toNat % 64 == 0

/-- What a walk over a schedule gives: the entries of a stage, and the cursor after them. -/
inductive StageScan where
  | ok (s : State) (es : List (List (BitVec 64))) (cursor : Nat)
  | no (a : QAct)

/-- The entries from one on, to the schedule's end: those of the queue and stage are collected and checked, a STAGE below that of the entry before one of them
among their faults, and the cursor is the first entry past every entry of the queue up to the stage (R295). -/
def scanStage (v : QEnv) (base : BitVec 64) (q g nent : Nat) : Nat → State → Nat → Nat → List (List (BitVec 64)) → Nat → StageScan
  | 0, s, _, _, es, cur => .ok s es cur
  | fuel + 1, s, i, before, es, cur =>
    if nent ≤ i then .ok s es cur
    else
      match readStruct v s (base + BitVec.ofNat 64 (64 * (i + 1))) 1 with
      | .no a => .no a
      | .ok s d =>
        let mine := entryQueue d == q
        if mine && entryStage d == g && (decide (entryStage d < before) || !scheduleEntryOk d) then .no (.trapIn s (.plain Cause.cpDesc))
        else
          scanStage v base q g nent fuel s (i + 1) (entryStage d) (if mine && entryStage d == g then es ++ [d] else es)
            (if mine && decide (entryStage d ≤ g) then i + 1 else cur)

/-- The copy that a schedule entry asks for, with its shape records read and the offsets of x(a) added (R295). -/
def entrySpec (d : List (BitVec 64)) (sr dr : BitVec 512) (x : BitVec 64) : CopySpec :=
  let w (k : Nat) : BitVec 64 := d.getD k 0
  let o (v : BitVec 64) (a : BitVec 32) : BitVec 64 := (v.extractLsb' 32 32 + a) ++ v.extractLsb' 0 32
  { chan := (w 0).extractLsb' 0 3, dst := .shape dr, src := .shape sr, od := o (w 4) (x.extractLsb' 0 32), os := o (w 3) (x.extractLsb' 32 32),
    bar := if w 5 = 0 then none else some (w 5), flag := if (w 0).getLsbD 3 then some (w 6, w 7) else none }

/-- The shape records that entries name are read. -/
inductive SpecsRead where
  | ok (s : State) (cs : List CopySpec)
  | no (a : QAct)

/-- The copies of a list of entries. -/
def readSpecs (v : QEnv) : State → List (List (BitVec 64)) → List CopySpec → SpecsRead
  | s, [], cs => .ok s cs
  | s, d :: rest, cs =>
    match readStruct v s (d.getD 1 0) 1 with
    | .no a => .no a
    | .ok s x =>
      match readStruct v s (d.getD 2 0) 1 with
      | .no a => .no a
      | .ok s y =>
        let h (l : List (BitVec 64)) : BitVec 512 := BitVec.ofNat 512 (leNat (dwordBytes l))
        readSpecs v s rest (cs ++ [entrySpec d (h x) (h y) (v.x 0)])

/-- The counters of a command's group as they stood before it. -/
def uncount (v : QEnv) (s : State) : State :=
  match s.group v.p with
  | none => s
  | some g => s.setGroup v.p { g with chans := v.g.chans, stages := v.g.stages }

/-- What a head answers that does not start keeps no count. -/
def QAct.uncounted (v : QEnv) : QAct → QAct
  | .wait s => .wait (uncount v s)
  | .trapIn s t => .trapIn (uncount v s) t
  | a => a

/-- The checks of the copies of a stage in order, each with its transfer identifier; then all are run (R67, R295). -/
def runStage (v : QEnv) : State → List CopySpec → List Aim → List (Loc × Bool) → List (State → State × CopyRun) → QAct
  | s, [], ws, rs, gos =>
    touched s v.p rs (fun s => placed v s ws (fun s =>
      let r := gos.foldl (fun (acc : State × List CopyRun) go => let x := go acc.1; (x.1, acc.2 ++ [x.2])) (s, [])
      .start r.1 (copyWork r.2)))
  | s, c :: rest, ws, rs, gos =>
    match s.group v.p with
    | none => .wait s
    | some g =>
      let tid := (g.chans.get c.chan.toFin).nextid
      if tid = BitVec.allOnes 48 then .trapIn s (.plain Cause.opRange)
      else
        match planCopy v (s.setGroup v.p (nextTid c.chan g)) c tid with
        | .no a => a
        | .ok s w r go => runStage v s rest (ws ++ w) (rs ++ r) (gos ++ [go])

/-- STGNX at the head. -/
def startStgnx (v : QEnv) : QAct :=
  let qi : Fin 2 := if v.q = .storer then 1 else 0
  let st := v.g.stages.get qi
  let base := v.g.lr.cpsched
  if base = 0 then .trap (.plain Cause.cpNosched)
  else if st.stage = 65535#16 then .trap (.plain Cause.opRange)
  else if base.toNat % 64 ≠ 0 then .trap (.plain Cause.cpDesc)
  else
    match readStruct v v.s base 1 with
    | .no a => a
    | .ok s hd =>
      match scheduleHead hd with
      | none => .trapIn s (.plain Cause.cpDesc)
      | some nent =>
        let gen := st.stage.toNat + 1
        let cur := st.cursor.toNat
        let before : Except QAct (State × Nat) :=
          if cur = 0 then .ok (s, 0)
          else match readStruct v s (base + BitVec.ofNat 64 (64 * cur)) 1 with
            | .no a => .error a
            | .ok s d => .ok (s, entryStage d)
        match before with
        | .error a => a
        | .ok (s, b) =>
          match scanStage v base qi.val gen nent nent s cur b [] cur with
          | .no a => a
          | .ok s es cursor =>
            match readSpecs v s es [] with
            | .no a => a
            | .ok s cs =>
              match (cs.findSome? (fun c => c.shapes.findSome? recordFault)).map Trap.plain |>.or (cs.findSome? copyTrap) with
              | some t => .trapIn s t
              | none =>
                match s.group v.p with
                | none => .wait s
                | some g =>
                  let g := { g with stages := g.stages.set qi.val { stage := BitVec.ofNat 16 gen, cursor := BitVec.ofNat 16 cursor } }
                  (runStage v (s.setGroup v.p g) cs [] [] []).uncounted v

end Sys2Proof.Machine
end

