-- ==== Sys2Proof/Machine/Scatter.lean ====
section
/-! DEFINITION. Sys2Proof/Machine/Scatter.lean: the scatter-accumulate engine (R296 to R301). -/

namespace Sys2Proof.Machine

open Sys2Proof

/-! ## Acceptance -/

/-- The width in bytes of a scatter target. -/
def scatBytes (fmt : BitVec 4) : Nat := tagWidth fmt / 8

/-- The width by which SAQ's base is aligned: that of FMT. A FMT whose tag has no width, 0 and 13 to 15, is refused only at the head; its base is checked here
for 4 bytes, and so is that of FMT 11, whose words have 32 or 16 bits; the spec leaves both open (log 65). -/
def baseWidth (fmt : BitVec 4) : Nat := Nat.max 1 (scatBytes fmt)

/-- The acceptance check of a target base (R297). -/
def captureBase (b : BitVec 6) (n : Nat) (e : Env) : Except Trap Capture :=
  let va := e.t.getX b
  if va.toNat % n ≠ 0 then .error (Trap.at Cause.memAlign va 1) else capX [b] e

def execSaq (r ev : BitVec 4) (x i b : BitVec 6) (p : BitVec 3) (op : BitVec 2) (fmt : BitVec 4) (s : State) :=
  command .scatter [.vec, .ctl] (.saq r ev x i b p op fmt) [b] (captureBase b (baseWidth fmt)) id s

def execSahist (r ev : BitVec 4) (i b : BitVec 6) (p : BitVec 3) (limit : BitVec 12) (s : State) :=
  command .scatter [.vec, .ctl] (.sahist r ev i b p limit) [b] (captureBase b 4) id s

def execSafl (r : BitVec 4) (s : State) := command .scatter [.vec, .ctl] (.safl r) [] (capX []) id s

def execSalat (r : BitVec 4) (a : BitVec 6) (s : State) := command .scatter [.vec, .ctl] (.salat r a) [a] (capX [a]) id s

/-! ## The operation (R298) -/

/-- merge of R298 on the bits of a format. -/
def scatMerge (fmt : BitVec 4) (op : BitVec 2) (a b : Nat) : Nat :=
  if tagInt fmt then
    let w := tagWidth fmt
    let x := BitVec.ofNat w a
    let y := BitVec.ofNat w b
    (match op.toNat with
     | 0 => x + y
     | 1 => if x.slt y then y else x
     | _ => if y.slt x then y else x).toNat
  else redFloat (tagFmt fmt) (match op.toNat with | 0 => .add | 1 => .max | _ => .min) a b

/-- An active entry: its index and its value. -/
structure ScatEntry where
  k : Nat
  v : Nat
  deriving DecidableEq, Repr

/-- The entries of one window merged by index, in the order of first appearance. -/
def mergeWindow (fmt : BitVec 4) (op : BitVec 2) (w : List ScatEntry) : List ScatEntry :=
  w.foldl (fun acc x =>
    if acc.any (fun y => y.k == x.k) then acc.map (fun y => if y.k = x.k then { y with v := scatMerge fmt op y.v x.v } else y) else acc ++ [x]) []

/-- A list cut into windows of 64. -/
def windowsOf (es : List ScatEntry) : List (List ScatEntry) := (List.range ((es.length + 63) / 64)).map (fun i => (es.drop (64 * i)).take 64)

/-- The word of an index. -/
def scatAddr (base : BitVec 64) (fmt : BitVec 4) (k : Nat) : BitVec 64 := base + BitVec.ofNat 64 (k * scatBytes fmt)

/-- Whether every address of a list lies in the window or translates into an attic range, as far as it translates, with what the translations have changed
(R84, R297); none where one of them waits (R430). -/
def scatPlaced (p : Place) (g : Group) : State → List (BitVec 64) → State × Option Bool
  | s, [] => (s, some true)
  | s, va :: rest =>
    if inWindow va then scatPlaced p g s rest
    else
      match translate s (coreOf p) g.lr.asid va 1 false g.trapped.isSome with
      | .wait s => (s, none)
      | .ok s pa _ => if (region s pa).isAttic then scatPlaced p g s rest else (s, some false)
      | .bad s _ _ => scatPlaced p g s rest

/-- A scatter command at the head: its updates are formed and left pending (R296 to R298). -/
def startScatter (v : QEnv) (fmt : BitVec 4) (op : BitVec 2) (es : List ScatEntry) : QAct :=
  let base := v.x 0
  match scatPlaced v.p v.g v.s (es.map (fun x => scatAddr base fmt x.k)) with
  | (s, none) => .wait s
  | (s, some false) => .trapIn s (.plain Cause.saTarget)
  | (s, some true) =>
    let accs : List ElemAcc := es.map (fun x => { va := scatAddr base fmt x.k, n := scatBytes fmt, align := 1 })
    match resolveAll { v with s := s } s accs 1 with
    | .no a => a
    | .ok s ls =>
      placed v s (aims ls accs) (fun s =>
        match s.group v.p with
        | none => .wait s
        | some g =>
          let ups := ((windowsOf es).flatMap (mergeWindow fmt op)).filterMap (fun x =>
            ((es.zip ls).find? (fun y => y.1.k == x.k)).map (fun y =>
              ({ cmd := v.e.id, afterLd := v.e.afterLd, stream := v.e.stream, fpc := v.e.fpc, va := (scatAddr base fmt x.k).toNat, loc := y.2.1, fmt := fmt, op := op, v := BitVec.ofNat 32 x.v } : ScatUpd)))
          .start (s.setGroup v.p { g with scat := g.scat ++ ups }) Work.none)

/-- The active entries of a scatter command (R297). -/
def scatEntries (idx : VReg) (pr : BitVec 1024) (val : Nat → Nat) : List ScatEntry :=
  ((List.range 512).filter (fun e => pr.getLsbD (2 * e))).map (fun e => { k := elemAt idx.data 32 e, v := val e })

/-- SAQ at the head (R297). -/
def startSaq (v : QEnv) (x i : BitVec 6) (p : BitVec 3) (op : BitVec 2) (fmt : BitVec 4) : QAct :=
  if (v.v i).tag ≠ 1#4 then .trap (.plain Cause.tagMismatch)
  else if tagRsvd fmt then .trap (.plain Cause.tagRsvd)
  else if !(fmt == 1#4 || fmt == 3#4 || fmt == 4#4 || fmt == 5#4 || fmt == 12#4) || (v.v x).tag != fmt then .trap (.plain Cause.tagMismatch)
  else startScatter v fmt op (scatEntries (v.v i) (v.pr p) (fun e => elemAt (v.v x).data (tagWidth fmt) e))

/-- SAHIST at the head. -/
def startSahist (v : QEnv) (i : BitVec 6) (p : BitVec 3) (limit : BitVec 12) : QAct :=
  if (v.v i).tag ≠ 1#4 then .trap (.plain Cause.tagMismatch)
  else startScatter v 1 0 ((scatEntries (v.v i) (v.pr p) (fun _ => 1)).filter (fun x => limit == 0#12 || decide (x.k < limit.toNat)))

/-- Whether a location lies on no live die any more (R23, R26). -/
def locGone (s : State) (p : Place) (g : Group) : Loc → Bool
  | .mem pa => region s pa == .none
  | .spad off => windowDead s p g off

/-- A pending update is performed, its page in a frame (R298, R415, R416); one of a word whose die is no longer live has no effect (R26). -/
def applyUpdate (s : State) (p : Place) (g : Group) (u : ScatUpd) (rest : List ScatUpd) : State :=
  let n := scatBytes u.fmt
  let g := { g with scat := rest }
  let s := s.setGroup p g
  if locGone s p g u.loc then s
  else
  let bad := locPoisoned s p g u.loc
  if bad && g.lr.ecc != 1#2 then raise s p { stream := u.stream, queue := none, async := true, fpc := u.fpc } (.plain Cause.mcEcc)
  else
    let s := if bad then recordZeroFill s s p g u.loc else s
    let old := if bad then 0 else leNat (locBytes s p g u.loc n)
    locWrite s p g u.loc (leBytes n (scatMerge u.fmt u.op old (u.v.toNat % 2 ^ (8 * n))))

/-- SCATTER_UPDATE (R298, R415, R416, R430): the next pending update is performed, after the loads its stream issued before the command (R95); one whose word lies
in a poisoned line reads zero under policy 1, and under policy 0 is not performed and its cause is taken at its stream. -/
def execScatterUpdate (p : Place) (s : State) : Host.Outcome State Fault Refusal :=
  match s.group p with
  | none => .next s
  | some g =>
    match g.scat with
    | [] => .next s
    | u :: rest =>
      if (g.stream u.stream).loadsDone < u.afterLd ||
          (match u.loc with | .spad off => bankLocked s p none off (scatBytes u.fmt) | .mem pa => farHeld s (dieOfPlace p) pa) then .next s
      else
        match touchAll s p [(u.loc, false)] with
        | none => .next s
        | some s => .next (applyUpdate s p g u rest)

/-! ## SAFL and SALAT (R300, R301) -/

/-- SAFL completes, and pushes its element, when the updates of earlier commands have been performed. -/
def startSafl (v : QEnv) : QAct := .start v.s { Work.none with flush := true }

/-- A latch record; none when it breaks SA_DESC. -/
structure Latch where
  counts : BitVec 64
  cards  : BitVec 64
  args   : BitVec 64
  clr    : Bool
  n      : Nat

/-- The latch record in eight dwords (R301). -/
def readLatch (d : List (BitVec 64)) : Option Latch :=
  let w (k : Nat) : BitVec 64 := d.getD k 0
  if w 0 ≠ (0#16 ++ 1#16 ++ 0x54414C53#32 : BitVec 64) ∨ (w 1).toNat % 4 ≠ 0 ∨ (w 4).extractLsb' 13 51 ≠ 0#51 ∨ w 5 ≠ 0 ∨ w 6 ≠ 0 ∨ w 7 ≠ 0 then none
  else some { counts := w 1, cards := w 2, args := w 3, clr := (w 4).getLsbD 12, n := fieldOf (w 4) 11 0 + 1 }

/-- A card that SALAT latches: where it lies, its virtual address and its argument size. -/
structure LatchCard where
  pa    : Nat
  va    : BitVec 64
  argsz : Nat

/-- The cards of a latch, or what the head answers (R444). -/
inductive CardsRead where
  | ok (s : State) (cs : List LatchCard)
  | no (a : QAct)

/-- Every card is reached and checked, in order. -/
def reachCards (v : QEnv) (base : BitVec 64) : List Nat → State → List LatchCard → CardsRead
  | [], s, cs => .ok s cs
  | j :: rest, s, cs =>
    match reachObject v s (base + BitVec.ofNat 64 (64 * j)) with
    | .no a => .no a
    | .misplaced s => .no (.trapIn s (.plain Cause.jobDesc))
    | .ok s pa =>
      if poisoned s pa then .no (.trapIn s (.plain Cause.mcEcc))
      else
        match readCard s pa with
        | none => .no (.trapIn s (.plain Cause.jobDesc))
        | some _ => reachCards v base rest s (cs ++ [{ pa := pa, va := base + BitVec.ofNat 64 (64 * j), argsz := fieldOf (homeDword s (pa + 0x10)) 15 0 }])

/-- The cards are written from the counts, in order; with CLR each count is zeroed after it is latched (R301). -/
def latchCards (p : Place) (args : BitVec 64) (clr : Bool) : List (LatchCard × Loc) → State → Nat → State
  | [], s, _ => s
  | (c, l) :: rest, s, base =>
    match s.group p with
    | none => s
    | some g =>
      let n := if locPoisoned s p g l then 0 else leNat (locBytes s p g l 4)
      let at_ : Nat := c.pa % 128
      let s := homeWriteLine (l2Touch s c.pa (some (g.lr.asid, c.va.toNat)) false true) (c.pa / 128)
        ((leBytes 8 (args + BitVec.ofNat 64 (base * c.argsz)).toNat).zipIdx.map (fun b => (at_ + 8 + b.2, b.1)) ++
        (dwordBytes [0, BitVec.ofNat 64 n]).zipIdx.map (fun b => (at_ + 0x18 + b.2, b.1)))
      let s := if clr then locWrite s p g l [0, 0, 0, 0] else s
      latchCards p args clr rest s (base + n)

/-- SALAT at the head: it waits as SAFL does and, since it writes as it starts, for the loads its stream issued before it (R95); it checks its record and
every card, and latches the counts. -/
def startSalat (v : QEnv) : QAct :=
  if v.g.scat.any (fun u => decide (u.cmd < v.e.id)) || (v.g.stream v.e.stream).loadsDone < v.e.afterLd then .wait v.s
  else if (v.x 0).toNat % 64 ≠ 0 then .trap (.plain Cause.saDesc)
  else
    match readStruct v v.s (v.x 0) 1 with
    | .no a => a
    | .ok s d =>
      match readLatch d with
      | none => .trapIn s (.plain Cause.saDesc)
      | some l =>
        match reachCards v l.cards (List.range l.n) s [] with
        | .no a => a
        | .ok s cards =>
          let accs : List ElemAcc := (List.range l.n).map (fun j => { va := l.counts + BitVec.ofNat 64 (4 * j), n := 4, align := 4 })
          match resolveAll { v with s := s } s accs (if l.clr then 1 else 0) with
          | .no a => a
          | .ok s ls =>
            if accsBlocked v s ls accs then .wait s
            else
              touched s v.p ls (fun s =>
                let s := engineTouch s v.g.lr.asid false l.clr (aims ls accs)
                let bad := badLines s v.p v.g (ls.map (fun x => (x.1, 4)))
                if bad ≠ [] ∧ v.g.lr.ecc ≠ 1#2 then .trapIn s (.plain Cause.mcEcc)
                else
                  placed v s (if l.clr then aims ls accs else []) (fun s =>
                    .start (latchCards v.p l.args l.clr (cards.zip (ls.map (·.1))) (recordFills v.s s v.p v.g bad) 0) Work.none))

end Sys2Proof.Machine
end

