-- ==== Sys2Proof/Machine/Collective.lean ====
section
/-! DEFINITION. Sys2Proof/Machine/Collective.lean: collectives (R302 to R306, R339 to R349, R431, R432): COLLD, COLGO, COLWAIT, the replay of a graph,
the cellar adders, and the fabric ports (R338). Switches and the members outside the package are the turns' (log 14). -/

namespace Sys2Proof.Machine

open Sys2Proof

/-! ## Graphs (R339 to R342) -/

/-- Whether a list of dwords from one on is zero. -/
def zeroFrom (d : List (BitVec 64)) (k : Nat) : Bool := (d.drop k).all (· == 0)

/-- A path entry (R339). -/
def readPath (a : BitVec 64) : GPath :=
  { weight := fieldOf a 47 32, ring := a.getLsbD 30, cred := fieldOf a 29 26, pieces := fieldOf a 25 18 + 1, ports := a.extractLsb' 0 18, n := 0, start := 0 }

/-- An operation entry (R339). -/
def readOp (a b : BitVec 64) : GOp :=
  { kind := a.extractLsb' 61 3, port := fieldOf a 60 56, path := fieldOf a 55 52, piece := fieldOf a 51 44, base := fieldOf a 43 38, base2 := fieldOf a 37 32,
    tag := a.extractLsb' 16 16, dep := fieldOf a 15 0, succ0 := b.extractLsb' 48 16, succ1 := b.extractLsb' 32 16, ev := b.extractLsb' 0 5 }

/-- Whether an operation sends, and whether it receives. -/
def GOp.sends (o : GOp) : Bool := o.kind == 1#3
def GOp.receives (o : GOp) : Bool := o.kind == 2#3 || o.kind == 3#3

/-- The operations that an operation names as successors, each once (R339, R345). -/
def GOp.succs (o : GOp) : List Nat := (([o.succ0, o.succ1].filter (· != 0xFFFF#16)).map BitVec.toNat).dedup

/-- The header's field checks (R339). -/
def graphHeadOk (h : List (BitVec 64)) : Bool :=
  let w (k : Nat) : BitVec 64 := h.getD k 0
  w 0 == (0#16 ++ 1#16 ++ 0x52474C43#32 : BitVec 64) && (w 1).extractLsb' 40 24 == 0#24 && (w 1).extractLsb' 0 40 != 0#40 && (w 2).extractLsb' 24 8 == 0#8 &&
    (let t := (w 2).extractLsb' 20 4; t == 1#4 || t == 3#4 || t == 4#4 || t == 5#4) && (w 2).extractLsb' 18 2 != 3#2 && !(w 2).getLsbD 16 &&
    decide (fieldOf (w 2) 15 12 ≤ 4) && (w 2).extractLsb' 0 8 == 0#8 && (w 3).extractLsb' 32 32 == 0#32 &&
    decide (1 ≤ fieldOf (w 3) 31 16 ∧ fieldOf (w 3) 31 16 ≤ 64 ∧ 1 ≤ fieldOf (w 3) 15 0 ∧ fieldOf (w 3) 15 0 ≤ 4096) && zeroFrom h 4

/-- A path's field checks (R339, R340): a port bit that names a port of a die that is not live is an absent port (R26). -/
def pathOk (s : State) (fixw : Bool) (a b : BitVec 64) : Bool :=
  a.extractLsb' 48 16 == 0#16 && (fixw || a.extractLsb' 32 16 == 0#16) && a.extractLsb' 30 2 != 2#2 && a.extractLsb' 30 2 != 3#2 &&
    a.extractLsb' 26 4 != 0#4 && b == 0 && (List.range 18).all (fun p => !a.getLsbD p || dieLive s (portDie p))

/-- An operation's field checks (R339, R340). -/
def opOk (g : Graph) (a b c d : BitVec 64) : Bool :=
  let o := readOp a b
  let n := g.ops.length
  decide (1 ≤ o.kind.toNat ∧ o.kind.toNat ≤ 5) && b.extractLsb' 5 27 == 0#27 && c == 0 && d == 0 && (o.kind == 5#3 || o.ev == 0#5) &&
    (match g.paths[o.path]? with
     | none => false
     | some p => decide (o.piece < p.pieces) && (if o.sends || o.receives then decide (o.port < 18) && p.ports.getLsbD o.port else o.port == 0)) &&
    decide (o.base < g.nb) && (if o.kind = 4#3 then decide (o.base2 < g.nb) else o.base2 == 0) && o.succs.all (fun i => decide (i < n))

/-- The number of operations that name operation i as a successor. -/
def predCount (ops : List GOp) (i : Nat) : Nat := (ops.flatMap GOp.succs).count i

/-- The operations reached from a list of them by the successor links, in at most some steps. -/
def reachFrom (ops : List GOp) : Nat → List Nat → List Nat
  | 0, seen => seen
  | fuel + 1, seen =>
    let more := (seen.flatMap (fun i => ((ops[i]?).map GOp.succs).getD [])).filter (fun i => !seen.contains i)
    if more = [] then seen else reachFrom ops fuel (seen ++ more.dedup)

/-- The operations that a chain of successors leads to from operation i. -/
def after (ops : List GOp) (i : Nat) : List Nat := reachFrom ops ops.length (((ops[i]?).map GOp.succs).getD []).dedup

/-- The number of ports of a path. -/
def GPath.portCount (p : GPath) : Nat := ((List.range 18).filter (fun i => p.ports.getLsbD i)).length

/-- The shape that a path's KIND requires of its operations (R342). -/
def shapeOk (g : Graph) (k : Nat) (p : GPath) : Bool :=
  let ops := g.ops.filter (fun o => o.path == k)
  let ends := ops.filter (fun o => o.sends || o.receives)
  if p.ring then
    p.portCount == 2 && (pairsOf ends).all (fun x => (x.1.port == x.2.port) == (x.1.sends == x.2.sends))
  else
    decide (1 ≤ p.portCount) && (pairsOf ends).all (fun x => !(x.1.port == x.2.port && x.1.piece == x.2.piece) || x.1.sends == x.2.sends)

/-- The checks of R340 on a graph whose fields are in range. -/
def graphOk (g : Graph) (adapt : Bool) : Bool :=
  let rs := g.ops.zipIdx.filter (fun x => x.1.receives)
  g.ops.zipIdx.all (fun x => x.1.dep == predCount g.ops x.2) && g.ops.zipIdx.all (fun x => !(after g.ops x.2).contains x.2) &&
    (pairsOf rs).all (fun x =>
      !(x.1.1.port == x.2.1.port && x.1.1.path == x.2.1.path && x.1.1.piece == x.2.1.piece && x.1.1.tag == x.2.1.tag) &&
      (!(x.1.1.path == x.2.1.path && x.1.1.piece == x.2.1.piece && x.1.1.base == x.2.1.base) ||
        (after g.ops x.1.2).contains x.2.2 || (after g.ops x.2.2).contains x.1.2)) &&
    !(g.fixw && (adapt || g.paths.all (fun p => p.weight == 0))) && g.paths.zipIdx.all (fun x => shapeOk g x.2 x.1) &&
    g.sig == dsrHash (BitVec.ofNat 32 g.count) (g.etype.zeroExtend 32) (g.op.zeroExtend 32) (BitVec.ofNat 32 (g.count / 2 ^ 32))

/-- A graph from its dwords: none when it is malformed (R339, R340). -/
def readGraph (s : State) (adapt : Bool) (h ps os : List (BitVec 64)) : Option Graph :=
  let w (k : Nat) : BitVec 64 := h.getD k 0
  let np := fieldOf (w 2) 11 8 + 1
  let no := fieldOf (w 3) 15 0
  let fixw := (w 2).getLsbD 17
  let p (k i : Nat) : BitVec 64 := ps.getD (2 * k + i) 0
  let o (k i : Nat) : BitVec 64 := os.getD (4 * k + i) 0
  let g : Graph :=
    { count := fieldOf (w 1) 39 0, sig := (w 2).extractLsb' 32 32, etype := (w 2).extractLsb' 20 4, op := (w 2).extractLsb' 18 2, fixw := fixw,
      logc := fieldOf (w 2) 15 12, nb := fieldOf (w 3) 31 16, paths := (List.range np).map (fun k => readPath (p k 0)),
      ops := (List.range no).map (fun k => readOp (o k 0) (o k 1)) }
  if graphHeadOk h && (List.range np).all (fun k => pathOk s fixw (p k 0) (p k 1)) && (List.range no).all (fun k => opOk g (o k 0) (o k 1) (o k 2) (o k 3)) &&
      graphOk g adapt then some g
  else none

/-! ## The split (R343, R344) -/

/-- The bytes of an element, of a chunk, of the message, and the number of chunks. -/
def Graph.elemBytes (g : Graph) : Nat := tagWidth g.etype / 8
def Graph.chunk (g : Graph) : Nat := 2 ^ (g.logc + 12)
def Graph.total (g : Graph) : Nat := g.count * g.elemBytes
def Graph.chunks (g : Graph) : Nat := (g.total + g.chunk - 1) / g.chunk

/-- This member's weight for a path: the least AVAIL over its ports, 0 when one is down (R343). -/
def memberWeight (s : State) (p : GPath) : Nat :=
  ((List.finRange 18).filter (fun i => p.ports.getLsbD i.val)).foldl (fun n i =>
    let q := s.ports.get i
    Nat.min n (if q.up then q.avail.toNat else 0)) 1600

/-- The split of the message among paths of given weights; none when every weight is 0 (R344). -/
def splitPaths (g : Graph) (ws : List Nat) : Option (List GPath) :=
  let total := ws.sum
  if total = 0 then none
  else
    let nc := g.chunks
    let ns := ws.map (fun w => nc * w / total)
    let fs := ws.map (fun w => nc * w % total)
    let order := (List.range ws.length).mergeSort (fun a b => decide (fs.getD b 0 < fs.getD a 0 ∨ (fs.getD b 0 = fs.getD a 0 ∧ a ≤ b)))
    let more := order.take (nc - ns.sum)
    let n (k : Nat) : Nat := ns.getD k 0 + (if more.contains k then 1 else 0)
    some (g.paths.zipIdx.map (fun x => { x.1 with n := n x.2, start := ((List.range x.2).map n).sum }))

/-- The chunks of an operation's piece (R344). -/
def Graph.pieceOf (g : Graph) (o : GOp) : List Nat :=
  match g.paths[o.path]? with
  | none => []
  | some p =>
    let lo := p.start + o.piece * p.n / p.pieces
    let hi := p.start + (o.piece + 1) * p.n / p.pieces
    (List.range (hi - lo)).map (lo + ·)

/-- The bytes of a chunk: the last holds what remains. -/
def Graph.chunkLen (g : Graph) (k : Nat) : Nat := Nat.min g.chunk (g.total - k * g.chunk)

/-! ## Contexts -/

/-- A context of a die. -/
def ctxAt (s : State) (d : DieId) (i : Fin 64) : Option Ctx := (s.dies.get d).ctxs.get i

/-- A context of a die replaced. -/
def setCtx (s : State) (d : DieId) (i : Fin 64) (c : Option Ctx) : State :=
  let die := s.dies.get d
  s.setDie d { die with ctxs := die.ctxs.set i.val c }

/-- The replay in progress on a context replaced. -/
def setReplay (s : State) (d : DieId) (i : Fin 64) (r : Replay) : State :=
  match ctxAt s d i with
  | none => s
  | some c => setCtx s d i (some { c with replays := r :: c.replays.drop 1 })

/-- The load of a context that a command of a place has asked for (R343). -/
def loadOf (s : State) (d : DieId) (p : Place) (id : Nat) : Option (Fin 64 × Ctx) :=
  (s.dies.get d).loads.find? (fun x => match x.2.phase with
    | .loading q k => q == p && k == id
    | .answered q k _ => q == p && k == id
    | .loaded => false)

/-! ## The members of a level (R54) -/

/-- The code of the domain of a level of a launch. -/
def levelDomain (lr : LaunchRec) (level : BitVec 3) : Nat := fieldOf (lr.levels.get level.toFin) 3 0

/-- Whether a launch has a group or a context on a die. -/
def launchOn (s : State) (lid : BitVec 64) (d : DieId) : Bool :=
  dieLive s d && ((placesOf s lid).any (fun p => dieOfPlace p == d) ||
    (s.dies.get d).ctxs.toList.any (fun x => match x with | some c => c.owner == lid | none => false) || (s.dies.get d).loads.any (fun x => x.2.owner == lid))

/-- Whether two places lie in one unit of a domain: a core, a cluster, a die, or the package. -/
def sameUnit (domain : Nat) (a b : Place) : Bool :=
  if domain ≤ 1 then a == b else if domain = 2 then coreOf a == coreOf b else if domain = 3 then clusterOfPlace a == clusterOfPlace b
  else if domain = 4 then dieOfPlace a == dieOfPlace b else true

/-- The contexts of a die by number: the loaded ones or, with `fresh`, what is being loaded in their place. -/
def ctxsOf (s : State) (d : DieId) (fresh : Bool) : List (Fin 64 × Ctx) :=
  let new := if fresh then (s.dies.get d).loads else []
  new ++ (List.finRange 64).filterMap (fun k => if new.any (fun x => x.1 == k) then none else (ctxAt s d k).map (fun c => (k, c)))

/-- The other members in the package of the level that a context is loaded for: on each other die of the domain where its launch is present, the context of
its number, and on its own die the contexts that other groups of the domain's unit load for the same level with the same signature; none for one that has
no such context yet (R54; log 66). -/
def members (s : State) (d : DieId) (i : Fin 64) (c : Ctx) (fresh : Bool) : List (Option Ctx) :=
  let same (x : Ctx) : Bool := x.owner == c.owner && x.level == c.level
  let far := if c.domain < 5 then [] else (List.finRange 4).filter (fun x => x != d && launchOn s c.owner x)
  far.map (fun x => ((ctxsOf s x fresh).find? (fun y => y.1 == i && same y.2)).map (·.2)) ++
    ((ctxsOf s d fresh).filter (fun y => y.1 != i && same y.2 && y.2.graph.sig == c.graph.sig && y.2.loader != c.loader && sameUnit c.domain y.2.loader c.loader)).map
      (fun y => some y.2)

/-! ## COLLD (R303, R343) -/

def execColld (r : BitVec 4) (a b : BitVec 6) (s : State) := command .collective [.ctl] (.colld r a b) [a, b] (capX [a, b]) id s
def execColgo (r : BitVec 4) (a b : BitVec 6) (s : State) := command .collective [.ctl] (.colgo r a b) [a, b] (capX [a, b]) id s
def execColwait (r : BitVec 4) (a : BitVec 6) (s : State) := command .collective [.ctl] (.colwait r a) [a] (capX [a]) id s

/-- The counters of the ports that go to the host (R373): UP, UTIL and BWM, then the counts, then AVAIL, port by port. -/
def portCounters (s : State) : List (BitVec 64) := s.ports.toList.flatMap (fun q => (List.range 6).map q.dword)

/-- The graph of a COLLD is read and checked, and the switches and members, or the host, are asked; what the context held before stays until the load is
granted (R302; log 70). -/
def askColld (v : QEnv) (d : DieId) (i : Fin 64) (adapt : Bool) (level : BitVec 3) : QAct :=
  if (v.x 0).toNat % 64 ≠ 0 then .trap (.plain Cause.colDesc)
  else
    match readStruct v v.s (v.x 0) 1 with
    | .no a => a
    | .ok s h =>
      if !graphHeadOk h then .trapIn s (.plain Cause.colDesc)
      else
        let np := fieldOf (h.getD 2 0) 11 8 + 1
        let no := fieldOf (h.getD 3 0) 15 0
        match readStruct v s (v.x 0 + 64) ((16 * np + 32 * no + 63) / 64) with
        | .no a => a
        | .ok s ds =>
          match readGraph s adapt h (ds.take (2 * np)) (ds.drop (2 * np)) with
          | none => .trapIn s (.plain Cause.colDesc)
          | some g =>
            let before : List (List Nat) := match ctxAt s d i with | some c => c.weights | none => []
            let c : Ctx :=
              { owner := v.g.lr.id, level := level, domain := levelDomain v.g.lr level, loader := v.p, weights := before ++ [g.paths.map (memberWeight s)]
                begun := 0, adapt := adapt, graph := g, phase := .loading v.p v.e.id, lost := false, replays := [] }
            let die := s.dies.get d
            let s := s.setDie d { die with loads := die.loads ++ [(i, c)] }
            if msplitBit s 2 then
              let pa : BitVec 64 := match resolve1 s v.p v.g { va := v.x 0, n := 64, align := 1 } 0 false false with
                | .ok _ (.mem pa) _ => BitVec.ofNat 64 pa
                | _ => 0
              let (s, q) := sendNew s 0x06 (pa :: portCounters s)
              .wait { s with dawn := { s.dawn with colReqs := s.dawn.colReqs ++ [(q, v.p)] } }
            else .wait s

/-- A load is granted: the context holds the new graph, and chunks of the one before no longer hold its credits (R343, R346). -/
def grantLoad (s : State) (d : DieId) (i : Fin 64) (c : Ctx) (p : Place) (id : Nat) : State :=
  let begun := match ctxAt s d i with | some x => x.begun | none => 0
  let die := s.dies.get d
  s.setDie d { die with
    ctxs := die.ctxs.set i.val (some { c with phase := .loaded, begun := begun })
    loads := die.loads.filter (fun x => match x.2.phase with | .answered q k _ => !(q == p && k == id) | _ => true)
    outs := die.outs.map (fun x => if x.ctx = i then { x with live := false } else x) }

/-- COLLD at the head: it checks the context and the graph and asks for its reservations and weights; it starts when they have been granted. -/
def startColld (v : QEnv) : QAct :=
  let x := v.x 1
  let d := dieOfPlace v.p
  let i : Fin 64 := ⟨fieldOf x 5 0 % 64, Nat.mod_lt _ (by decide)⟩
  let level : BitVec 3 := x.extractLsb' 8 3
  let taken : Bool := match ctxAt v.s d i with | some c => c.owner != v.g.lr.id || c.replays != [] | none => false
  if x &&& ~~~0x1073F#64 ≠ 0 then .trap (.plain Cause.opRange)
  else if v.g.lr.nlev < level then .trap (.plain Cause.levelRange)
  else if taken || (v.s.dies.get d).loads.any (fun y => y.1 == i && y.2.owner != v.g.lr.id) then .trap (.plain Cause.colBusy)
  else
    match loadOf v.s d v.p v.e.id with
    | none => askColld v d i (x.getLsbD 16) level
    | some (k, c) =>
      match c.phase with
      | .answered _ _ cause => if cause = 0 then .start (grantLoad v.s d k c v.p v.e.id) Work.none else .trap (.plain cause)
      | _ => .wait v.s

/-- The load on its die that the group of a place waits for. -/
def loadingCtx (s : State) (p : Place) : Option (Fin 64 × Ctx × Nat) :=
  (s.dies.get (dieOfPlace p)).loads.findSome? fun x =>
    match x.2.phase with
    | .loading q id => if q = p then some (x.1, x.2, id) else none
    | _ => none

/-- The path weights of the exchange that a context has open: as declared under FIXW, as the host returned them, or the least of the members' in the
package and, of a level that reaches beyond it, of those that the others return (R343); none while a member in the package has not come to that exchange. -/
def pathWeights (s : State) (d : DieId) (i : Fin 64) (c : Ctx) (host : Bool) (ws : List Nat) : Option (List Nat) :=
  let g := c.graph
  if g.fixw then some (g.paths.map (·.weight))
  else if host then some (g.paths.zipIdx.map (fun x => ws.getD x.2 0))
  else
    let n := c.weights.length
    let ms := (members s d i c true).map (fun x => match x with | some y => y.weights | none => [])
    if ms.any (fun l => decide (l.length < n)) then none
    else
      let all := (c.weights :: ms).map (fun l => l.getD (n - 1) [])
      some (g.paths.zipIdx.map (fun x => all.foldl (fun w l => Nat.min w (l.getD x.2 1600)) (if c.domain = 6 then ws.getD x.2 0 else 1600)))

/-- The answers of a load: a refusal frees the slots taken and is COL_RESV, a split without weight is COL_DESC (R343, R344). -/
def answerLoad (s : State) (p : Place) (host granted : Bool) (ws : List Nat) : State :=
  match loadingCtx s p with
  | none => s
  | some (i, c, id) =>
    let d := dieOfPlace p
    let die := s.dies.get d
    let put (c : Ctx) : State :=
      s.setDie d { die with loads := die.loads.map (fun x => match x.2.phase with | .loading q k => if q = p ∧ k = id then (x.1, c) else x | _ => x) }
    if !granted then put { c with phase := .answered p id Cause.colResv }
    else
      match pathWeights s d i c host ws with
      | none => s
      | some ws =>
        match splitPaths c.graph ws with
        | none => put { c with phase := .answered p id Cause.colDesc }
        | some ps => put { c with graph := { c.graph with paths := ps }, phase := .answered p id 0 }

/-! ## A replay (R345 to R348) -/

/-- The physical address of an offset of a base; none for a base in the scratchpad. -/
def Replay.addr (r : Replay) (b off : Nat) : Option Nat :=
  match (r.pages.getD b none) with
  | none => none
  | some ps =>
    let va := (r.bases.getD b 0).toNat
    let k := (va + off) / 65536 - va / 65536
    (ps[k]?).map (fun pa => pa + (va + off) % 65536)

/-- The bytes of a chunk at a base, those of poisoned lines zero, and whether any was. -/
def chunkBytesAt (s : State) (r : Replay) (b off n : Nat) : List Byte × List Nat :=
  let as := (List.range n).filterMap (fun i => r.addr b (off + i))
  (as.map (fun a => if poisoned s a then 0#8 else homeByte s a), as.filter (poisoned s))

/-- The requests of a replay for the lines of a run of a base (R75, R78). -/
def Replay.touch (r : Replay) (s : State) (b off n : Nat) (write : Bool) : State :=
  (List.range n).foldl (fun s i =>
    match r.addr b (off + i) with
    | some a => if i = 0 ∨ a % 128 = 0 then l2Touch s a (some (r.asid, (r.bases.getD b 0).toNat + off + i)) false write else s
    | none => s) s

/-- Bytes given by their physical addresses are performed, each line of them at once. -/
def writeCells (s : State) (cells : List (Nat × Byte)) : State :=
  ((cells.map (fun c => c.1 / 128)).dedup).foldl (fun s l =>
    homeWriteLine s l ((cells.filter (fun c => c.1 / 128 = l)).map (fun c => (c.1 % 128, c.2)))) s

/-- Bytes are written at a base, line by line. -/
def writeChunk (s : State) (r : Replay) (b off : Nat) (bs : List Byte) : State :=
  writeCells (r.touch s b off bs.length true) (bs.zipIdx.filterMap (fun x => (r.addr b (off + x.2)).map (fun a => (a, x.1))))

/-- The state of operation i of a replay replaced. -/
def Replay.setOp (r : Replay) (i : Nat) (f : OpRun → OpRun) : Replay := { r with ops := r.ops.modify i f }

/-- Operation i finishes: the counters of its successors fall (R345). -/
def Replay.finishOp (r : Replay) (g : Graph) (i : Nat) : Replay :=
  let r := r.setOp i (fun o => { o with finished := true })
  ((g.ops[i]?.map GOp.succs).getD []).foldl (fun r k => r.setOp k (fun o => { o with cnt := o.cnt - 1 })) r

/-- The lowest-index operation that has not finished (R432). -/
def Replay.step (r : Replay) : Nat := r.ops.findIdx (fun o => !o.finished)

/-- A replay fails with a cause at a step. -/
def Replay.fail (r : Replay) (cause : BitVec 10) (step : Nat) : Replay := match r.failed with | some _ => r | none => { r with failed := some (cause, step) }

/-- The ECC policy of the launch of a context. -/
def ctxEcc (s : State) (c : Ctx) : BitVec 2 := eccOf s c.owner

/-- The credits of a port of a path of a context that are held (R346): each chunk that has left takes one until its slot-free notice, whatever became of its
replay. -/
def creditsHeld (s : State) (d : DieId) (i : Fin 64) (c : Ctx) (port path : Nat) : Nat :=
  ((c.graph.paths[path]?.map (·.cred)).getD 0) -
    ((s.dies.get d).outs.filter (fun x => x.live && x.ctx == i && x.port == port && x.path == path)).length

/-- The physical addresses of a run of a base. -/
def Replay.addrs (r : Replay) (b off n : Nat) : List Nat := (List.range n).filterMap (fun i => r.addr b (off + i))

/-- Whether an access of a run of a base from a die waits for a link (R430), and whether a part of it lies on no live die (R26). -/
def runHeld (s : State) (d : DieId) (as : List Nat) : Bool := as.any (farHeld s d)
def runGone (s : State) (as : List Nat) : Bool := as.any (fun a => region s a == .none)

/-- Zero-filled reads of a replay are recorded (R415). -/
def recordReplayFill (s : State) (p : Place) (bad : List Nat) : State :=
  match s.group p with
  | none => s
  | some g => ((bad.map (fun a => a / 128)).dedup).foldl (fun s l => recordZeroFill s s p g (.mem (l * 128))) s

/-- A send's chunks leave while it holds credits (R346, R347); a poisoned chunk fails the replay under policy 0 and goes as zeros under policy 1, and one whose
die is lost fails it (R432). -/
def sendChunks (d : DieId) (ctx : Fin 64) (c : Ctx) (i : Nat) (o : GOp) : Nat → State → Replay → State × Replay
  | 0, s, r => (s, r)
  | fuel + 1, s, r =>
    let run := r.ops.getD i { cnt := 0, started := false, finished := false, sent := 0, acked := 0, got := [], folds := 0 }
    match (c.graph.pieceOf o)[run.sent]? with
    | none => (s, r)
    | some k =>
      let as := r.addrs o.base (k * c.graph.chunk) (c.graph.chunkLen k)
      if creditsHeld s d ctx c o.port o.path = 0 || runHeld s d as then (s, r)
      else if runGone s as then (s, r.fail Cause.mcDie r.step)
      else
        let s := r.touch s o.base (k * c.graph.chunk) (c.graph.chunkLen k) false
        let (bs, bad) := chunkBytesAt s r o.base (k * c.graph.chunk) (c.graph.chunkLen k)
        if bad ≠ [] ∧ ctxEcc s c ≠ 1#2 then (s, r.fail Cause.mcEcc r.step)
        else
          let s := if bad = [] then s else recordReplayFill s r.place bad
          let q : Fin 18 := ⟨o.port % 18, Nat.mod_lt _ (by decide)⟩
          let port := s.ports.get q
          let out : OutChunk := { ctx := ctx, op := i, port := o.port, path := o.path, place := r.place, entry := r.entry, live := true }
          let die := s.dies.get d
          let s := { s.setDie d { die with outs := die.outs ++ [out] } with
            fabric := s.fabric ++ [{ port := o.port, path := o.path, piece := o.piece, tag := o.tag, chunk := k, sig := c.graph.sig, bytes := bs }]
            ports := s.ports.set q.val { port with txb := port.txb + BitVec.ofNat 64 bs.length } }
          let r0 : Replay := { r with zeroed := r.zeroed || !bad.isEmpty }
          sendChunks d ctx c i o fuel s (r0.setOp i (fun x => { x with sent := x.sent + 1 }))

/-- The bytes that a COPYL moves for a chunk, as their source stands. -/
def chunkCopy (s : State) (g : Graph) (o : GOp) (r : Replay) (k : Nat) : List CopyByte :=
  (List.range (g.chunkLen k)).filterMap fun j =>
    match r.addr o.base (k * g.chunk + j), r.addr o.base2 (k * g.chunk + j) with
    | some x, some d => some { dst := .mem d, src := some (.mem x), old := if poisoned s x then 0#8 else homeByte s x, bad := poisoned s x }
    | _, _ => none

/-- A chunk of a COPYL is copied: its bytes as their source stands, and those that its destination receives. -/
def copyChunk (c : Ctx) (o : GOp) (k : Nat) (src : List CopyByte) (bs : List Byte) (s : State) (r : Replay) : State × Replay :=
  if r.failed.isSome then (s, r)
  else if runGone s (r.addrs o.base (k * c.graph.chunk) (c.graph.chunkLen k) ++ r.addrs o.base2 (k * c.graph.chunk) (c.graph.chunkLen k)) then
    (s, r.fail Cause.mcDie r.step)
  else
    let s := r.touch s o.base (k * c.graph.chunk) (c.graph.chunkLen k) false
    let bad := (src.filter (·.bad)).filterMap (fun b => match b.src with | some (.mem a) => some a | _ => none)
    if bad ≠ [] ∧ ctxEcc s c ≠ 1#2 then (s, r.fail Cause.mcEcc r.step)
    else
      let s := if bad = [] then s else recordReplayFill s r.place bad
      (writeChunk s r o.base2 (k * c.graph.chunk) bs, { r with zeroed := r.zeroed || !bad.isEmpty })

/-- COPYL: the piece is copied within the member as a CPY copies bits, overlapped bytes among them (R291, R345). -/
def copyPiece (c : Ctx) (o : GOp) (s : State) (r : Replay) : State × Replay :=
  let chunks := (c.graph.pieceOf o).map (fun k => (k, chunkCopy s c.graph o r k))
  let all := (chunks.flatMap (·.2)).toArray
  let lap := all.any (fun b => match b.src with | some l => all.any (fun y => y.dst == l) | none => false)
  chunks.foldl (fun acc x => copyChunk c o x.1 x.2 (copiedBytes s.fresh lap all x.2) acc.1 acc.2) ({ s with fresh := s.fresh + 1 }, r)

/-- An operation whose counter is 0 starts; one with nothing left to do finishes (R345). -/
def startOp (d : DieId) (ctx : Fin 64) (c : Ctx) (i : Nat) (o : GOp) (s : State) (r : Replay) : State × Replay :=
  let r := r.setOp i (fun x => { x with started := true })
  let piece := c.graph.pieceOf o
  match o.kind.toNat with
  | 1 => if piece = [] then (s, r.finishOp c.graph i) else sendChunks d ctx c i o piece.length s r
  | 4 =>
    let (s, r) := copyPiece c o s r
    (s, if r.failed.isSome then r else r.finishOp c.graph i)
  | 5 => match s.group r.place with
    | none => (s, r.finishOp c.graph i)
    | some g => (s.setGroup r.place (postEvent g o.ev []), r.finishOp c.graph i)
  | _ => (s, if piece = [] then r.finishOp c.graph i else r)

/-- Whether a copy within the member waits for a link between dies (R430). -/
def copyHeld (s : State) (d : DieId) (c : Ctx) (o : GOp) (r : Replay) : Bool :=
  o.kind == 4#3 && !s.dawn.retraining.isEmpty && (c.graph.pieceOf o).any (fun k =>
    runHeld s d (r.addrs o.base (k * c.graph.chunk) (c.graph.chunkLen k) ++ r.addrs o.base2 (k * c.graph.chunk) (c.graph.chunkLen k)))

/-- Every operation that can start does. -/
def runOps (d : DieId) (ctx : Fin 64) (c : Ctx) : Nat → State → Replay → State × Replay
  | 0, s, r => (s, r)
  | fuel + 1, s, r =>
    if r.failed.isSome || !r.split then (s, r)
    else
      match (c.graph.ops.zip r.ops).zipIdx.find? (fun x => x.1.2.cnt == 0 && !x.1.2.started && !copyHeld s d c x.1.1 r) with
      | none => (s, r)
      | some ((o, _), i) =>
        let (s, r) := startOp d ctx c i o s r
        runOps d ctx c fuel s r

/-- The status word of a base table (R304). -/
def statusWord (r : Replay) (done : Bool) : BitVec 64 :=
  match r.failed with
  | some (cause, step) => 2#2 ++ 0#20 ++ cause ++ BitVec.ofNat 32 step
  | none => if done then 1#2 ++ 0#62 else 0

/-- The status word is written; none while its bank is locked or its page has no frame (R68, R71). -/
def writeStatus (s : State) (r : Replay) (done : Bool) : Option State :=
  match s.group r.place with
  | none => some s
  | some g =>
    let locked : Bool := match r.table with | .spad off => bankLocked s r.place (some (.collective, r.entry)) off 8 | .mem _ => false
    if locked then none
    else
      (touchAll s r.place [(r.table, false)]).map (fun s =>
        locWrite (engineTouch s r.asid false true [(r.table, r.tva)]) r.place g r.table (leBytes 8 (statusWord r done).toNat))

/-- Whether a port of a path is down. -/
def portDown (s : State) (g : Graph) : Bool := (List.finRange 18).any (fun q => !(s.ports.get q).up && g.paths.any (fun p => p.ports.getLsbD q.val))

/-- The replay that comes first in its context begins: it fails at once after a lost reservation, and without ADAPT while a port of a path is down (R432);
under ADAPT = 1 it reads its weights for the exchange (R347, R353). -/
def beginFirst (s : State) (c : Ctx) (r : Replay) : Ctx × Replay :=
  if r.began then (c, r)
  else
    let r := { r with began := true }
    let r := if c.lost || (!c.adapt && portDown s c.graph) then r.fail Cause.colPort r.step else r
    if r.failed.isSome || r.split then (c, r) else ({ c with weights := c.weights ++ [c.graph.paths.map (memberWeight s)] }, { r with asked := true })

/-- The causes with which a member that detects a failure stops the others (R432). -/
def abortCause (x : BitVec 10) : Bool := x == Cause.colPort || x == Cause.mcAdder || x == Cause.mcEcc || x == Cause.mcDie

/-- A member whose replay has failed by what it has itself detected sends an abort on every path of its graph (R432). -/
def sendAborts (s : State) (d : DieId) (i : Fin 64) (c : Ctx) (r : Replay) : State × Replay :=
  match r.failed with
  | none => (s, r)
  | some (cause, _) =>
    if r.aborted || !abortCause cause then (s, r)
    else
      ({ s with aborts := s.aborts ++ c.graph.paths.zipIdx.map (fun p => { die := d, ctx := i, path := p.2, ports := p.1.ports, cause := cause }) },
        { r with aborted := true })

/-- The parts of a context that wait in cellar queues are dropped: a part that was not folded leaves its elements as they were (R432). -/
def dropParts (s : State) (d : DieId) (i : Fin 64) : State :=
  (List.finRange 4).foldl (fun s k =>
    let die := s.dies.get k
    s.setDie k { die with cellar := die.cellar.map (fun q => q.filter (fun x => !(x.die == d && x.ctx == i))) }) s

/-- A replay goes on: what can start does; when every operation has finished, or it has failed, its status word is written, its command has its status,
and the next replay of the member begins (R304, R305, R345, R432). -/
def runReplays (d : DieId) (i : Fin 64) : Nat → State → State
  | 0, s => s
  | fuel + 1, s =>
    match ctxAt s d i with
    | none => s
    | some c =>
      match c.replays with
      | [] => s
      | r :: rest =>
        let (c, r) := beginFirst s c r
        let (s, r) := runOps d i c (c.graph.ops.length + 1) s r
        let (s, r) := sendAborts s d i c r
        let kept := setCtx s d i (some { c with replays := r :: rest })
        if r.failed.isSome || r.ops.all (·.finished) then
          match writeStatus s r true with
          | none => kept
          | some s =>
            let st : BitVec 8 := if r.failed.isSome then 2 else if r.zeroed then 1 else 0
            let s := match s.group r.place with
              | none => s
              | some g => s.setGroup r.place (g.mapEntry .collective r.entry (fun e => { e with work := e.work.map (fun w => { w with status := st }) }))
            let s := dropParts s d i
            runReplays d i fuel (setCtx s d i (some { c with replays := rest }))
        else kept

/-- The replays of a context go on. -/
def advanceCtx (s : State) (d : DieId) (i : Fin 64) : State := runReplays d i (((ctxAt s d i).map (fun c => c.replays.length)).getD 0 + 1) s

/-! ## COLGO and COLWAIT (R304, R306) -/

/-- The context that an operand names, loaded by the group's launch on a live die. -/
def namedCtx (v : QEnv) (x : BitVec 64) (k : DieId → Fin 64 → Ctx → QAct) : QAct :=
  if x &&& ~~~0x33F#64 ≠ 0 then .trap (.plain Cause.opRange)
  else
    let d : DieId := fin4 (fieldOf x 9 8)
    let i : Fin 64 := ⟨fieldOf x 5 0 % 64, Nat.mod_lt _ (by decide)⟩
    if dieLive v.s d = false then .trap (.plain Cause.colCtx)
    else
      match ctxAt v.s d i with
      | none => .trap (.plain Cause.colCtx)
      | some c => if c.owner ≠ v.g.lr.id then .trap (.plain Cause.colCtx) else k d i c

/-- The accesses to the pages of a base. -/
def baseAccs (g : Graph) (b : BitVec 64) : List ElemAcc :=
  (List.range ((b.toNat + g.total - 1) / 65536 - b.toNat / 65536 + 1)).map (fun k =>
    { va := BitVec.ofNat 64 (b.toNat / 65536 * 65536 + 65536 * k), n := 1, align := 1 })

/-- What resolving the bases of a replay gives. -/
inductive BasesRead where
  | ok (s : State) (pages : List (Option (List Nat)))
  | no (a : QAct)

/-- Each base that an operation reads or writes is resolved page by page, over the whole message (R345; log 77); one in the scratchpad window has no pages, and
that of a RECVRED may lie anywhere, since the replay answers for it. -/
def resolveBases (v : QEnv) (g : Graph) : List (Nat × BitVec 64) → State → List (Option (List Nat)) → BasesRead
  | [], s, acc => .ok s acc
  | (n, b) :: rest, s, acc =>
    let reads := g.ops.any (fun o => (o.sends || o.kind == 4#3 || o.kind == 3#3) && o.base == n)
    let writes := g.ops.any (fun o => (o.receives && o.base == n) || (o.kind == 4#3 && o.base2 == n))
    if (baseAccs g b).any (fun a => inWindow a.va) || !(reads || writes) then resolveBases v g rest s (acc ++ [none])
    else
      let any := g.ops.any (fun o => o.kind == 3#3 && o.base == n)
      let one (s : State) (kind : BitVec 2) : Resolved :=
        if any then resolveAnywhere { v with s := s } s (baseAccs g b) kind else resolveAll { v with s := s } s (baseAccs g b) kind
      let pa (ls : List (Loc × Bool)) : List Nat := ls.map (fun l => match l.1 with | .mem a => a | .spad _ => 0)
      match (if reads then one s 0 else .ok s []) with
      | .no a => .no a
      | .ok s ls =>
        match (if writes then one s 1 else .ok s ls) with
        | .no a => .no a
        | .ok s ls => resolveBases v g rest s (acc ++ [some (pa ls)])

/-- The first operation that cannot run: one with a base in the scratchpad window, or a RECVRED with a base outside HBM (R345). -/
def badBase (s : State) (g : Graph) (pages : List (Option (List Nat))) : Option Nat :=
  let missing (b : Nat) : Bool := (pages.getD b none).isNone
  g.ops.zipIdx.findSome? fun x =>
    let o := x.1
    let bad := (o.kind != 5#3 && missing o.base) || (o.kind == 4#3 && missing o.base2) ||
      (o.kind == 3#3 && ((pages.getD o.base none).getD []).any (fun a => !(region s a).isHbm))
    if bad then some x.2 else none

/-- A replay as it begins (R345). -/
def newReplay (v : QEnv) (g : Graph) (adapt : Bool) (table : Loc) (bases : List (BitVec 64)) (pages : List (Option (List Nat))) : Replay :=
  { place := v.p, entry := v.e.id, asid := v.g.lr.asid, table := table, tva := v.x 1, bases := bases, pages := pages, began := false, asked := false
    aborted := false, split := !adapt
    ops := g.ops.map (fun o => { cnt := o.dep, started := false, finished := false, sent := 0, acked := 0, got := [], folds := 0 }), failed := none, zeroed := false }

/-- COLGO at the head (R304, R345, R432): its push bars its writes until the stream's earlier loads are performed (R95, R349). -/
def startColgo (v : QEnv) : QAct :=
  namedCtx v (v.x 0) (fun d i c =>
    let tab := v.x 1
    if tab.toNat % 64 ≠ 0 then .trap (.plain Cause.colDesc)
    else if (v.g.stream v.e.stream).loadsDone < v.e.afterLd || linkHeld v.s (dieOfPlace v.p) d then .wait v.s
    else
      let accs := (List.range (2 + c.graph.nb)).map (fun k => ({ va := tab + BitVec.ofNat 64 (8 * k), n := 8, align := 8 } : ElemAcc))
      match resolveAll v v.s accs 0 with
      | .no a => a
      | .ok s ls =>
        match resolveAll { v with s := s } s (accs.take 1) 1 with
        | .no a => a
        | .ok s wl =>
          if accsBlocked v s ls accs then .wait s
          else
            touched s v.p ls (fun s =>
              let s := engineTouch s v.g.lr.asid false false (aims ls accs)
              let bad := badLines s v.p v.g (ls.map (fun x => (x.1, 8)))
              if bad ≠ [] ∧ v.g.lr.ecc ≠ 1#2 then .trapIn s (.plain Cause.mcEcc)
              else
                let s := recordFills v.s s v.p v.g bad
                let ds : List (BitVec 64) := ls.map (fun x => BitVec.ofNat 64 (leNat (engineRead s v.p v.g x.1 8).1))
                if (ds.getD 0 0).extractLsb' 42 20 ≠ 0#20 ∨ (ds.getD 1 0).extractLsb' 16 48 ≠ 0#48 ∨ fieldOf (ds.getD 1 0) 15 0 ≠ c.graph.nb then
                  .trapIn s (.plain Cause.colDesc)
                else
                  let bases := ds.drop 2
                  match resolveBases { v with s := s } c.graph (bases.zipIdx.map (fun x => (x.2, x.1))) s [] with
                  | .no a => a
                  | .ok s pages =>
                    placed v s (aims wl accs) (fun s =>
                      let r := newReplay v c.graph c.adapt ((wl.head?.map (·.1)).getD (.mem 0)) bases pages
                      let r := match badBase s c.graph pages with | some k => r.fail Cause.colDesc k | none => r
                      match writeStatus s { r with failed := none } false with
                      | none => .wait s
                      | some s =>
                        .start (setCtx s d i (some { c with replays := c.replays ++ [r], begun := c.begun + 1 })) { Work.none with ctx := some (d, i) })))

/-- The replays of a context begin once its command has started. -/
def beginReplay (s : State) (x : DieId × Fin 64) : State := advanceCtx s x.1 x.2

/-- How many replays of a context are over. -/
def Ctx.ended (c : Ctx) : Nat := c.begun - c.replays.length

/-- Whether as many replays of a context as a number are over at every member of the level (R306): at those of the package, and where the level reaches beyond
it as drawn (log 66). -/
def waitOver (s : State) (x : DieId × Fin 64 × Nat) : Bool :=
  match ctxAt s x.1 x.2.1 with
  | none => true
  | some c =>
    decide (x.2.2 ≤ c.ended) && (members s x.1 x.2.1 c false).all (fun y => match y with | some y => decide (x.2.2 ≤ y.ended) | none => false) &&
      (c.domain != 6 || Config.freeBool s.fresh)

/-- COLWAIT at the head starts, and completes when the latest replay of its context is over at every member (R306, R327; log 66). -/
def startColwait (v : QEnv) : QAct := namedCtx v (v.x 0) (fun d i c => .start v.s { Work.none with await := some (d, i, c.begun) })

/-! ## The completion of a command (R41) -/

/-- The work of entry k of a queue. -/
def workAt (s : State) (p : Place) (q : QueueId) (k : Nat) : Option Work := ((s.group p).bind (fun g => (g.queue q)[k]?)).bind (fun e => e.work)

/-- A COLWAIT whose replays are over waits no more. -/
def endWait (s : State) (p : Place) (q : QueueId) (k : Nat) : State :=
  match s.group p, (workAt s p q k).bind (·.await) with
  | some g, some x =>
    let s1 : State := { s with fresh := s.fresh + 1 }
    let l := (g.queue q).modify k (fun e => { e with work := e.work.map (fun w => { w with await := none }) })
    if waitOver s x then s1.setGroup p (g.setQueue q l) else s1
  | _, _ => s

/-- ENGINE_COMPLETION (R41, R45): entry k of a queue completes, and completion signals that are due are delivered; a replay that waits to write its status
word does so first (R304), and a COLWAIT has waited for the members (R306). -/
def execEngineCompletion (p : Place) (q : QueueId) (k : Nat) (s : State) : Host.Outcome State Fault Refusal :=
  let s := match (workAt s p q k).bind (·.ctx) with | some x => advanceCtx s x.1 x.2 | none => s
  let s := endWait s p q k
  .next (deliverSignals (completeEntry s p q k) p q)

/-! ## Events of a collective -/

/-- Whether a member of an exchange sends another signature (R347). -/
def otherSig (s : State) (d : DieId) (i : Fin 64) (c : Ctx) (sigs : List (BitVec 32)) : Bool :=
  (c.domain == 6 && sigs.any (· != c.graph.sig)) || (members s d i c false).any (fun x => match x with | some y => y.graph.sig != c.graph.sig | none => false)

/-- COLLD_READY (R343, R345, R347): the answers of a load, or of the exchange with which a replay under ADAPT = 1 begins: the least weights and the
signatures of the members that no context of the package shows. -/
def execColldReady (p : Place) (granted : Bool) (told : List Nat × List (BitVec 32)) (s : State) : Host.Outcome State Fault Refusal :=
  let ws := told.1
  let sigs := told.2
  if (loadingCtx s p).isSome then (if s.dawn.colReqs.any (fun x => x.2 == p) then .next s else .next (answerLoad s p false granted ws))
  else
    let found := (List.finRange 4).findSome? fun d => (List.finRange 64).findSome? fun i =>
      match ctxAt s d i with
      | some c => match c.replays with
        | r :: _ => if r.place = p ∧ r.asked = true ∧ r.split = false then some (d, i, c, r) else none
        | [] => none
      | none => none
    match found with
    | none => .next s
    | some (d, i, c, r) =>
      match pathWeights s d i c false ws with
      | none => .next s
      | some ws =>
        if otherSig s d i c sigs then .next (advanceCtx (setReplay s d i (r.fail Cause.colSig r.step)) d i)
        else
          match splitPaths c.graph ws with
          | none => .next (advanceCtx (setReplay s d i (r.fail Cause.colDesc r.step)) d i)
          | some ps =>
            let s := setCtx s d i (some { c with graph := { c.graph with paths := ps } })
            .next (advanceCtx (setReplay s d i { r with split := true }) d i)

/-- COL_ACK (R343, R373): the host answers a COL_REQ. -/
def execColAck (seq : BitVec 32) (granted : Bool) (ws : List Nat) (s : State) : Host.Outcome State Fault Refusal :=
  match s.dawn.colReqs.find? (fun x => x.1 == seq) with
  | none => .next s
  | some x =>
    let s := { s with dawn := { s.dawn with colReqs := s.dawn.colReqs.filter (fun y => y.1 ≠ seq) } }
    .next (answerLoad s x.2 true granted ws)

/-- Whether no chunk of a path has arrived in a replay: its next is the first, which carries the signature (R347). -/
def firstOnPath (g : Graph) (r : Replay) (path : Nat) : Bool := (g.ops.zip r.ops).all (fun x => x.1.path != path || !x.1.receives || x.2.got.isEmpty)

/-- The elements of a chunk at a base: the physical address of each byte, and the bytes. -/
def partElems (g : Graph) (r : Replay) (base k : Nat) (bs : List Byte) : List (List Nat × List Byte) :=
  let e := g.elemBytes
  (List.range (bs.length / e)).map fun j =>
    ((List.range e).filterMap (fun b => r.addr base (k * g.chunk + j * e + b)), (bs.drop (j * e)).take e)

/-- The block of 2 KiB that a part or an element begins in (R20). -/
def blockOf (as : List Nat) : Nat := as.headD 0 / 2048

/-- The parts of a RECVRED chunk: whole elements, cut at the 2 KiB blocks of R20 (R348). -/
def chunkParts (g : Graph) (r : Replay) (d : DieId) (i : Fin 64) (op base k : Nat) (bs : List Byte) : List Part :=
  (partElems g r base k bs).foldl (fun ps x =>
    let new : Part := { addrs := x.1, bytes := x.2, die := d, ctx := i, op := op }
    match ps.getLast? with
    | some q => if blockOf q.addrs = blockOf x.1 then ps.dropLast ++ [{ q with addrs := q.addrs ++ x.1, bytes := q.bytes ++ x.2 }] else ps ++ [new]
    | none => [new]) []

/-- The cellar queue of a physical address. -/
def cellarOf (pa : Nat) : DieId × Fin 3 := (dieOf pa, ⟨stackOf pa % 3, Nat.mod_lt _ (by decide)⟩)

/-- Parts enter the cellar queues of live dies, of 32 places each; none when one lacks room (R348). -/
def queueParts (s : State) (ps : List Part) : Option State :=
  ps.foldl (fun acc x =>
    match acc with
    | none => none
    | some s =>
      let (d, k) := cellarOf (x.addrs.headD 0)
      let die := s.dies.get d
      let q := die.cellar.get k
      if 32 ≤ q.length then none else some (s.setDie d { die with cellar := die.cellar.set k.val (q ++ [x]) })) (some s)

/-- Operation i finishes once every chunk of its piece has come and every part has been folded (R345). -/
def Replay.settleReceive (r : Replay) (g : Graph) (i : Nat) : Replay :=
  match g.ops[i]?, r.ops[i]? with
  | some o, some x => if !x.finished && x.folds == 0 && x.got.length == (g.pieceOf o).length then r.finishOp g i else r
  | _, _ => r

/-- COL_CHUNK_ARRIVE (R345 to R348). -/
def execColChunkArrive (die : DieId) (ctx : Fin 64) (op chunk : Nat) (sig : BitVec 32) (bytes : List (BitVec 8)) (s : State) : Host.Outcome State Fault Refusal :=
  match ctxAt s die ctx with
  | none => .next s
  | some c =>
    match c.replays, c.graph.ops[op]? with
    | r :: _, some o =>
      match r.ops[op]? with
      | none => .next s
      | some x =>
        if !o.receives || !x.started || x.finished || r.failed.isSome || x.got.contains chunk || !(c.graph.pieceOf o).contains chunk ||
            bytes.length != c.graph.chunkLen chunk || runHeld s die (r.addrs o.base (chunk * c.graph.chunk) bytes.length) then .next s
        else
          let q : Fin 18 := ⟨o.port % 18, Nat.mod_lt _ (by decide)⟩
          let count (s : State) : State :=
            let port := s.ports.get q
            { s with ports := s.ports.set q.val { port with rxb := port.rxb + BitVec.ofNat 64 bytes.length } }
          if firstOnPath c.graph r o.path ∧ sig ≠ c.graph.sig then .next (advanceCtx (setReplay (count s) die ctx (r.fail Cause.colSig op)) die ctx)
          else if runGone s (r.addrs o.base (chunk * c.graph.chunk) bytes.length) then
            .next (advanceCtx (setReplay (count s) die ctx (r.fail Cause.mcDie r.step)) die ctx)
          else if o.kind = 2#3 then
            let s := writeChunk (count s) r o.base (chunk * c.graph.chunk) bytes
            let r := (r.setOp op (fun x => { x with got := x.got ++ [chunk] })).settleReceive c.graph op
            .next (advanceCtx (setReplay s die ctx r) die ctx)
          else
            let ps := chunkParts c.graph r die ctx op o.base chunk bytes
            match queueParts (count s) ps with
            | none => .next s
            | some s =>
              let r := (r.setOp op (fun x => { x with got := x.got ++ [chunk], folds := x.folds + ps.length })).settleReceive c.graph op
              .next (advanceCtx (setReplay s die ctx r) die ctx)
    | _, _ => .next s

/-- node of R131 on the bytes of one element. -/
def foldElem (g : Graph) (old new : List Byte) : List Byte :=
  leBytes g.elemBytes (scatMerge g.etype g.op (leNat old) (leNat new))

/-- The bytes of a part folded into what stands there. -/
def foldPart (g : Graph) (old new : List Byte) : List Byte :=
  let e := g.elemBytes
  (List.range (new.length / e)).flatMap (fun j => foldElem g ((old.drop (j * e)).take e) ((new.drop (j * e)).take e))

/-- The folds of an operation fall by one. -/
def foldDone (s : State) (x : Part) (filled : Bool) : State :=
  match ctxAt s x.die x.ctx with
  | none => s
  | some c =>
    match c.replays with
    | [] => s
    | r :: _ =>
      let r0 : Replay := { r with zeroed := r.zeroed || filled }
      let r := (r0.setOp x.op (fun o => { o with folds := o.folds - 1 })).settleReceive c.graph x.op
      advanceCtx (setReplay s x.die x.ctx r) x.die x.ctx

/-- CELLAR_FOLD (R348, R432): the home L2 drops its copies of the part's lines; an adder that faults fails the replay and leaves each element old or folded. -/
def execCellarFold (die : DieId) (k : Fin 3) (ok : Bool) (s : State) : Host.Outcome State Fault Refusal :=
  let d := s.dies.get die
  match (if dieLive s die then d.cellar.get k else []) with
  | [] => .next s
  | x :: rest =>
    let s := s.setDie die { d with cellar := d.cellar.set k.val rest }
    match ctxAt s x.die x.ctx with
    | none => .next s
    | some c =>
      match c.replays with
      | [] => .next s
      | r :: _ =>
        let n := x.bytes.length
        let first := x.addrs.headD 0
        let s := ((x.addrs.map (· / 128)).dedup).foldl (fun s l => l2Clean s (128 * l) true) s
        let bad := x.addrs.filter (poisoned s)
        let old := x.addrs.map (fun a => if poisoned s a then 0#8 else homeByte s a)
        let new := foldPart c.graph old x.bytes
        if ok = false then
          let e := c.graph.elemBytes
          let mix := (List.range (n / e)).flatMap (fun j => ((if Config.freeBool (s.fresh + j) then new else old).drop (j * e)).take e)
          let s := if bad = [] then writeCells { s with fresh := s.fresh + n } (x.addrs.zip mix) else s
          let rec0 : ErrRec := { src := 10, kind := 2, die := BitVec.ofNat 4 die.val, core := 0, sub := 0, count := 0, cause := Cause.mcAdder, addr := BitVec.ofNat 64 (first / 128 * 128),
                                 lid := c.owner, cycle := d.cycle, synd := Config.freeBits s.fresh 64 }
          .next (advanceCtx (setReplay (logErr { s with fresh := s.fresh + 1 } rec0) x.die x.ctx (r.fail Cause.mcAdder r.step)) x.die x.ctx)
        else if bad ≠ [] ∧ ctxEcc s c ≠ 1#2 then .next (advanceCtx (setReplay s x.die x.ctx (r.fail Cause.mcEcc r.step)) x.die x.ctx)
        else
          let s := if bad = [] then s else recordReplayFill s r.place bad
          .next (foldDone (writeCells s (x.addrs.zip new)) x (!bad.isEmpty))

/-- A notice of a chunk of a replay that goes on: its operation finishes with its last chunk's. -/
def Replay.notice (r : Replay) (g : Graph) (x : OutChunk) : Replay :=
  if r.place ≠ x.place ∨ r.entry ≠ x.entry ∨ x.live = false ∨ r.failed.isSome = true then r
  else
    let r := r.setOp x.op (fun o => { o with acked := o.acked + 1 })
    match g.ops[x.op]?, r.ops[x.op]? with
    | some o, some n => if n.acked = (g.pieceOf o).length then r.finishOp g x.op else r
    | _, _ => r

/-- The sends of the replay in progress on a context that wait for a credit or for a link go on with those that have returned: it is the next cycle (R353). -/
def resend (s : State) (d : DieId) (i : Fin 64) : State :=
  match ctxAt s d i with
  | none => s
  | some c =>
    match c.replays with
    | [] => s
    | r :: _ =>
      if !r.split || r.failed.isSome then s
      else
        let (s, r) := (c.graph.ops.zip r.ops).zipIdx.foldl (fun (acc : State × Replay) y =>
          if y.1.1.sends && y.1.2.started && !y.1.2.finished && acc.2.failed.isNone then sendChunks d i c y.2 y.1.1 (c.graph.pieceOf y.1.1).length acc.1 acc.2
          else acc) (s, r)
        advanceCtx (setReplay s d i r) d i

/-- A cycle of a die passes for the contexts it holds. -/
def resendAll (s : State) (d : DieId) : State := (List.finRange 64).foldl (fun s i => resend s d i) s

/-- SLOT_FREE_NOTICE (R338, R346, R353): the notice of the oldest chunk of an operation of a context that has left, whether or not the context is loaded still;
the credit returns, and chunks that wait for one leave in the next cycle. -/
def execSlotFreeNotice (die : DieId) (ctx : Fin 64) (op : Nat) (s : State) : Host.Outcome State Fault Refusal :=
  let d := s.dies.get die
  match d.outs.find? (fun x => x.ctx == ctx && x.op == op) with
  | none => .next s
  | some x =>
    let q : Fin 18 := ⟨x.port % 18, Nat.mod_lt _ (by decide)⟩
    let port := s.ports.get q
    let s := { s.setDie die { d with outs := d.outs.eraseP (fun x => x.ctx == ctx && x.op == op) } with
      ports := s.ports.set q.val { port with notices := port.notices + 1 } }
    match ctxAt s die ctx with
    | none => .next s
    | some c =>
      match c.replays with
      | [] => .next s
      | r :: _ => .next (advanceCtx (setReplay s die ctx (r.notice c.graph x)) die ctx)

/-- The replay in progress on a context fails. -/
def failReplay (s : State) (d : DieId) (i : Fin 64) (cause : BitVec 10) : State :=
  match ctxAt s d i with
  | none => s
  | some c =>
    match c.replays with
    | [] => s
    | r :: _ => advanceCtx (setReplay s d i (r.fail cause r.step)) d i

/-- COL_ABORT (R432): the abort of another member reaches this one. -/
def execColAbort (die : DieId) (ctx : Fin 64) (cause : BitVec 10) (s : State) : Host.Outcome State Fault Refusal :=
  match ctxAt s die ctx with
  | none => .next s
  | some c =>
    match c.replays with
    | [] => .next s
    | r :: _ => .next (advanceCtx (setReplay s die ctx { r.fail cause r.step with aborted := true }) die ctx)

/-- RESERVATION_LOST (R432): replays fail until the context is loaded again. -/
def execReservationLost (die : DieId) (ctx : Fin 64) (s : State) : Host.Outcome State Fault Refusal :=
  match ctxAt s die ctx with
  | none => .next s
  | some c => .next (failReplay (setCtx s die ctx (some { c with lost := true })) die ctx Cause.colPort)

/-! ## Ports (R338, R431) -/

/-- PORT_WINDOW_END (R338): the carrying die has reached the end of a window that the port has not counted. -/
def execPortWindowEnd (port : Fin 18) (util : BitVec 11) (s : State) : Host.Outcome State Fault Refusal :=
  let q := s.ports.get port
  let u := Nat.min 1024 util.toNat
  let w := (s.dies.get (portDie port.val)).cycle.toNat / 2 ^ 20
  if w = q.window then .next s
  else
    let q' : Port := { q with util := BitVec.ofNat 11 u, avail := BitVec.ofNat 11 (q.bwm.toNat * (1024 - u) / 1024), window := w }
    .next { s with ports := s.ports.set port.val q' }

/-- A record of a port (R409). -/
def portRecord (s : State) (port : Fin 18) (kind : BitVec 4) (count : BitVec 8) (cause : BitVec 10) : State :=
  let d := portDie port.val
  logErr { s with fresh := s.fresh + 1 }
    { src := 9, kind := kind, die := BitVec.ofNat 4 d.val, core := 0, sub := BitVec.ofNat 5 port.val, count := count, cause := cause, addr := 0, lid := 0,
      cycle := (s.dies.get d).cycle, synd := Config.freeBits s.fresh 64 }

/-- A port goes down: UP and BWM fall to 0, a KIND 6 record is written, and every replay with a path through it fails (R431, R432). -/
def takeDown (s : State) (port : Fin 18) : State :=
  let q := s.ports.get port
  if q.up = false then s
  else
    let s := { s with ports := s.ports.set port.val { q with up := false, bwm := 0 } }
    let s := portRecord s port 6 (siteCount s 9 (portDie port.val) port.val) 0
    (List.finRange 4).foldl (fun s d => (List.finRange 64).foldl (fun s i =>
      match ctxAt s d i with
      | some c => if c.graph.paths.any (fun p => p.ports.getLsbD port.val && (!c.adapt || p.n != 0)) then failReplay s d i Cause.colPort else s
      | none => s) s) s

/-- FABRIC_PORT_DOWN (R431). -/
def execFabricPortDown (port : Fin 18) (s : State) : Host.Outcome State Fault Refusal := .next (takeDown s port)

/-- FABRIC_FLIT_CRC_FAIL (R408, R431): the flit is replayed and counted; a lasting port is taken down. -/
def execFabricFlitCrcFail (port : Fin 18) (s : State) : Host.Outcome State Fault Refusal :=
  if (s.ports.get port).up = false then .next s
  else
    let (s, n, lasting) := countSite s 9 (portDie port.val) port.val (2 ^ 20) 256
    let s := portRecord s port 0 n 0
    .next (if lasting then takeDown (portRecord s port 4 n 0) port else s)

/-- FABRIC_PORT_RETRAIN (R431): the management core retrains a port of a live die. -/
def execFabricPortRetrain (port : Fin 18) (rate : BitVec 11) (s : State) : Host.Outcome State Fault Refusal :=
  let q := s.ports.get port
  if dieLive s (portDie port.val) = false ∨ rate = 0 ∨ 1600 < rate.toNat then .next s
  else .next { s with ports := s.ports.set port.val { q with up := true, bwm := rate } }

end Sys2Proof.Machine
end

