-- ==== Sys2Proof/Machine/Continuation.lean ====
section
/-! DEFINITION. Sys2Proof/Machine/Continuation.lean: SUSPEND, RESUME and DISCARD (R312 to R316). -/

namespace Sys2Proof.Machine

open Sys2Proof

/-! ## The object an instruction names (R312) -/

/-- What reaching an object's range answers. -/
inductive ObjAt where
  | ok (s : State) (pages : List Nat)
  | wait (s : State)
  | trap (s : State) (x : Trap)

/-- The remaining 4 KiB pages of an object, each as a write reaches it: a fault is offered to the page-fault service first (R396), and one
that stays is CO_PLACE (R312). -/
def placeFrom (e : Env) (va : BitVec 64) : List Nat → State → List Nat → ObjAt
  | [], s, acc => .ok s acc.reverse
  | i :: rest, s, acc =>
    let a := va + BitVec.ofNat 64 (4096 * i)
    if inWindow a then .trap s (.plain Cause.coPlace)
    else
      match translateAs s e.p e.g e.st a 1 true with
      | .wait s => .wait s
      | .bad s cause lvl => faultStream s e.p e.g e.st a 1 cause lvl .wait (fun s _ => .trap s (.plain Cause.coPlace))
      | .ok s pa _ => if (region s pa).isHbm then placeFrom e va rest s (pa :: acc) else .trap s (.plain Cause.coPlace)

/-- The pages of the object at an address. -/
def placeObj (e : Env) (va : BitVec 64) : ObjAt :=
  if va.toNat % 4096 ≠ 0 then .trap e.s (.plain Cause.coPlace) else placeFrom e va (List.range 53) e.s []

/-- The requests for the header of an object at an address (R75, R78). -/
def headTouch (s : State) (e : Env) (va : BitVec 64) (m : List Nat) (write : Bool) : State :=
  l2Run s (objAddr m 0) 256 (some (e.g.lr.asid, va.toNat)) false write

/-! ## SUSPEND (R313) -/

/-- Whether a group holds a link (R158). -/
def holdsLink (s : State) (lid : BitVec 64) (gi : BitVec 16) : Bool := s.chains.any (fun c => c.links.any (fun l => l.holders.contains (lid, gi)))

/-- The state dword of a header with another STATE. -/
def withState (d : BitVec 64) (st : BitVec 2) : BitVec 64 := st ++ d.extractLsb' 0 62

/-- Steps 1 and 2: STATE becomes 3; the other streams stop and the matrix, vector and collective queues start nothing more. -/
def beginSuspend (s : State) (e : Env) (va : BitVec 64) (mask : BitVec 4) (m : List Nat) : State :=
  let s := objWrite8 (headTouch s e va m true) m 0x10 (withState (objDword s m 0x10) 3)
  match s.group e.p with
  | none => s
  | some g =>
    let g := (StreamId.all.filter (· ≠ e.st)).foldl cancelStream g
    let g := { g with evwait := g.evwait.filter (fun w => (g.stream w.1).atSlice) }
    let g := ([.matrix, .vector, .collective] : List QueueId).foldl cancelQueue g
    let sl := s.slot e.p
    s.setSlot e.p { sl with group := some { g with stopping := .suspend va mask m 0, halt := .none }, gen := sl.gen + 1, state := .fencing }

/-- SUSPEND: its checks, then the start of the suspension, which SUSPEND_SEAL ends. -/
def suspend (a b : BitVec 6) (e : Env) : Act State :=
  e.t.reads [a, b] (
    let v := e.t.getX b
    if v.extractLsb' 4 60 ≠ 0#60 then .trap (.plain Cause.opRange)
    else
      match placeObj e (e.t.getX a) with
      | .trap s x => .trapIn s x
      | .wait s => .wait s
      | .ok s m =>
        if e.g.lr.gang then .trapIn s (.plain Cause.coGang)
        else if holdsLink s e.g.lr.id e.g.gindex then .trapIn s (.plain Cause.coLink)
        else .wait (beginSuspend s e (e.t.getX a) (v.extractLsb' 0 4) m))

def execSuspend (r : BitVec 4) (a b : BitVec 6) (s : State) := plain [.ctl] r 0 (suspend a b) s

/-- Whether a queue has been drained: nothing in it is unstarted, or its first unstarted entry's takes cannot be met (step 5). -/
def drained (g : Group) (q : QueueId) : Bool :=
  match (g.queue q).find? (fun e => !e.started) with
  | none => true
  | some e => !e.took && !canTake g e.stream e.instr.ring

/-- The frames of a group's scratchpad pages are written back (R69). -/
def flushFrames (s : State) (p : Place) (g : Group) : State :=
  ((s.cores.get (coreOf p)).frames.filter (fun f => f.lid == g.lr.id && f.gindex == g.gindex && f.hdl == g.trapped.isSome)).foldl
    (fun s f => writeBackFrame s (coreOf p) f) s

/-- Steps 6 to 8 for a group whose registers, PC pair and queues are as they are saved. -/
def sealObject (s : State) (p : Place) (g : Group) (va : BitVec 64) (mask : BitVec 4) (m : List Nat) : State :=
  let s := flushFrames s p g
  let rights := g.lr.rights &&& mask
  let h : ObjHead :=
    { magic := magicCont, st := 3, rights := rights, rver := 0, asid := g.lr.asid, origin := va, lid := g.lr.id, cls := g.cls, gindex := g.gindex,
      debt := 0, record := none }
  let s := writeObject s m (some (g.lr.asid, va.toNat)) h (settleGroup s p g)
  let s := objWrite8 s m 0x10 (headState 0 rights 0)
  let s := match findLaunch s g.lr.id with
    | some l => setLaunch s { l with sealed := m.getD 0 0 :: l.sealed.filter (· ≠ m.getD 0 0) }
    | none => s
  let g := { g with pages := Vector.replicate 64 { back := 0, alloc := false } }
  endGroup (s.setGroup p g) p

/-- SUSPEND_SEAL (R313): once the group is quiet and its copy and scatter queues are drained, SUSPEND retires, the object is written and sealed,
and the group ends. -/
def execSuspendSeal (p : Place) (s : State) : Host.Outcome State Fault Refusal :=
  match s.group p with
  | none => .next s
  | some g =>
    match g.stopping with
    | .suspend va mask m _ =>
      let t := g.stream .ctl
      let r := t.took.getD 0
      if groupQuiet s p g && drained g .loader && drained g .storer && drained g .scatter && g.scat.isEmpty && canPlace g .ctl r then
        let g := g.setStream .ctl (advance s p g t).retireCounts
        .next (sealObject s p (cancelAll (placeTok g .ctl r (g.stream .ctl).fenced)) va mask m)
      else .next s
    | _ => .next s

/-! ## RESUME and DISCARD (R314, R315) -/

/-- The checks of a header and its sections that RESUME and DISCARD share, over the right asked for; none when all pass. -/
def headerCheck (s : State) (m : List Nat) (asid : BitVec 16) (rights : BitVec 4 → Bool) (rver : BitVec 32) : Option (BitVec 10) :=
  let d0 := objDword s m 0
  let st := objDword s m 0x10
  let state : BitVec 2 := st.extractLsb' 62 2
  if d0.extractLsb' 0 32 ≠ magicCont ∨ d0.extractLsb' 32 16 ≠ 1#16 ∨ objDword s m 8 ≠ BitVec.ofNat 64 objLen ∨ sectionsOk s m = false ∨
      headReserved s m false = false ∨ sectionReserved s m = false ∨ state = 3#2 then some Cause.coDesc
  else if (objDword s m 0x18).extractLsb' 0 16 ≠ asid then some Cause.coAsid
  else if rights (st.extractLsb' 32 4) = false then some Cause.coRights
  else if state = 1#2 then some Cause.coResumed
  else if state = 2#2 then some Cause.coDiscarded
  else if st.extractLsb' 0 32 ≠ rver then some Cause.coVersion
  else none

/-- The update of a header that passed: its STATE, and RVER one higher. -/
def closeHeader (s : State) (m : List Nat) (state : BitVec 2) : State :=
  let d := objDword s m 0x10
  let s := objWrite8 s m 0x10 (state ++ d.extractLsb' 32 30 ++ (d.extractLsb' 0 32 + 1#32))
  let lid := objDword s m 0x28
  match findLaunch s lid with
  | some l => setLaunch s { l with sealed := l.sealed.filter (· ≠ m.getD 0 0) }
  | none => s

/-- Frames leave the pool of a die for the pages of a copy. -/
def takeFrames : Nat → State → DieId → Option (List Nat × State)
  | 0, s, _ => some ([], s)
  | n + 1, s, d =>
    match takePool s d with
    | none => none
    | some (fr, s) => (takeFrames n s d).map (fun x => (fr.toNat :: x.1, x.2))

/-- Whether the header of an object lies in a poisoned line (R414). -/
def headPoisoned (s : State) (m : List Nat) : Bool := poisoned s (objAddr m 0) || poisoned s (objAddr m 128)

/-- A resume that has passed its compare waits to be bound, while its launch can be given a group again (R314, R394); its number is its place among resumes
and task-queue entries (R321). -/
def queueResume (s : State) (m : List Nat) (insp copy : Bool) (frames : List Nat) (d : DieId) (no : Nat) (seen : Option (DieId × BitVec 16 × Nat)) : State :=
  let lid := objDword s m 0x28
  let drop (s : State) : State := frames.foldl (fun s f => returnPool s (BitVec.ofNat 36 f)) s
  match findLaunch s lid with
  | none => drop s
  | some l =>
    if l.ending.isSome then drop s
    else
      let s := setLaunch s { l with resumed := l.resumed + 1 }
      let w : Waiting := .resume lid m ((objDword s m 0x30).extractLsb' 16 3) insp frames d copy none no seen
      { s with dawn := { s.dawn with waiting := s.dawn.waiting ++ [w] } }

/-- RESUME: a release at .pkg, then its checks and update in one step at the header's slice. -/
def resume (a b : BitVec 6) (e : Env) : Act State :=
  e.t.reads [a, b] (
    let v := e.t.getX b
    let va := e.t.getX a
    let insp := v.getLsbD 32
    if v.extractLsb' 33 31 ≠ 0#31 then .trap (.plain Cause.opRange)
    else
      match placeObj e va with
      | .trap s x => .trapIn s x
      | .wait s => .wait s
      | .ok s m =>
        if !releaseDone s e.p e.t 4 then .wait s
        else if headPoisoned s m then .trapIn s (.plain Cause.mcEcc)
        else
          let s := headTouch s e va m true
          let copy := decide (va ≠ objDword s m 0x20)
          let need := if copy then ((readPages s m).toList.filter (fun x => x.alloc)).length else 0
          let d := dieOfPlace e.p
          match takeFrames need s d with
          | none => .trapIn s (.plain Cause.spPool)
          | some (frames, s1) =>
            let right (r : BitVec 4) : Bool := r.getLsbD 0 && (!copy || r.getLsbD 1) && (!insp || r.getLsbD 3)
            match headerCheck s m e.g.lr.asid right (v.extractLsb' 0 32) with
            | some c => .trapIn s (.plain c)
            | none =>
              let s := queueResume (closeHeader s1 m 1) m insp copy frames d s1.dawn.accepted (some (d, e.g.lr.asid, va.toNat))
              .done { s with dawn := { s.dawn with accepted := s.dawn.accepted + 1 } })

def execResume (r : BitVec 4) (a b : BitVec 6) (s : State) := plain [.ctl] r 0 (resume a b) s

/-- DISCARD: the checks of RESUME in their order, with the discard right; the pages of an original return to their pools. -/
def discard (a b : BitVec 6) (e : Env) : Act State :=
  e.t.reads [a, b] (
    let v := e.t.getX b
    let va := e.t.getX a
    if v.extractLsb' 32 32 ≠ 0#32 then .trap (.plain Cause.opRange)
    else
      match placeObj e va with
      | .trap s x => .trapIn s x
      | .wait s => .wait s
      | .ok s m =>
        if headPoisoned s m then .trapIn s (.plain Cause.mcEcc)
        else
          let s := headTouch s e va m true
          match headerCheck s m e.g.lr.asid (fun r => r.getLsbD 2) (v.extractLsb' 0 32) with
          | some c => .trapIn s (.plain c)
          | none =>
            let pages := if va = objDword s m 0x20 then (readPages s m).toList else []
            let lid := objDword s m 0x28
            .done (launchEnd (returnPages (closeHeader s m 2) pages) lid))

def execDiscard (r : BitVec 4) (a b : BitVec 6) (s : State) := plain [.ctl] r 0 (discard a b) s

end Sys2Proof.Machine
end

