-- ==== Sys2Proof/Machine/EngineStart.lean ====
section
/-! DEFINITION. Sys2Proof/Machine/EngineStart.lean: the start of the command at the head of a queue (R41, R42, R45, R95, R244, R264 to R266), and the
performance of the writes of streams and of started commands (R86, R95, R96, R101, R291, R292). -/

namespace Sys2Proof.Machine

open Sys2Proof

/-! ## The head of a queue -/

/-- Whether a queue holds commands of an instruction's kind (R38): another saved in it is no command of the queue (log 19). -/
def belongs (q : QueueId) (i : Instr) : Bool :=
  match i with
  | .mma .. | .mmas .. | .mmaw .. | .chbld .. | .chclose .. | .chstat .. | .chfree ..
  | .chsplice .. | .chrd .. | .lnorm .. | .lset .. | .mself .. | .tld .. | .tst .. => q == .matrix
  | .rmode .. | .rmodeSeed .. => q == .matrix || q == .vector
  | .cpy .. | .cpyw .. | .stgnx .. => q == .loader || q == .storer
  | .saq .. | .sahist .. | .safl _ | .salat .. => q == .scatter
  | .colld .. | .colgo .. | .colwait .. => q == .collective
  | _ => q == .vector && (let u := regUse i; !(u.vr.isEmpty && u.vw.isEmpty && u.pr.isEmpty && u.pw.isEmpty))

/-- The head of a queue: its first command that has not started (R41). -/
def queueHead (l : List QEntry) : Option QEntry := l.find? (fun e => !e.started)

/-- Whether a queue's head may act: while its group runs, also while a debugger holds it halted (R404), during a suspension only a copy or scatter command,
and in the cycle in which the group's cut began (R313, R327, R386, R389). -/
def mayStart (sl : Slot) (g : Group) (q : QueueId) : Bool :=
  sl.cutNow ||
  match g.stopping with
  | .no => sl.state == .running || sl.state == .halted
  | .trap _ => sl.dbg.att
  | .suspend .. => q == .loader || q == .storer || q == .scatter
  | _ => false

/-- Whether every store of the placing stream before the push has been performed (R95). -/
def pushReleased (s : State) (p : Place) (t : Stream) (before : Nat) : Bool :=
  t.stores.all (fun r => decide (before ≤ r.id)) &&
  !((s.clusters.get (clusterOfPlace p)).buf.any (fun b => t.own.any (fun o => o.1 == b.id && decide (o.2.2 < before))))

/-- Whether an instruction accesses memory through the streams' store buffer (R260). -/
def viaBuffer : Instr → Bool
  | .vld .. | .vst .. | .vlds .. | .vgat .. => true
  | _ => false

/-- The buffered writes that a command comes after: those that the placing stream had acquired before the push, and those its tokens carry (R94, R97). -/
def QEntry.ordered (e : QEntry) : List Nat := e.behind ++ e.tookSets.1 ++ e.tookSets.2

/-- Whether what a command comes after has reached its home points, where an engine finds it (R96); an access through the buffer finds it there. -/
def reachesHome (s : State) (p : Place) (e : QEntry) : Bool :=
  viaBuffer e.instr || !(s.clusters.get (clusterOfPlace p)).buf.any (fun b => e.ordered.contains b.id)

/-- The stream whose FEMODE a queue's head follows: VEC for the vector queue (R244), the placing stream for the scatter queue (R65). -/
def femodeStream (q : QueueId) (e : QEntry) : StreamId := if q = .vector then .vec else e.stream

/-- The meaning of a command at its head, by its instruction. -/
def startCommand (v : QEnv) : QAct :=
  match v.e.instr with
  | .tld _ _ t _ _ _ => startTld v t
  | .tst _ _ t _ _ _ => startTst v t
  | .mma _ _ _ t slot _ chain btag => startMma v t slot chain btag
  | .mmaw _ _ _ t slot chain btag => startMma v t slot chain btag
  | .mmas _ _ _ _ slot _ chain btag atag => startMmas v slot chain btag atag
  | .chbld .. => startChbld v
  | .chclose _ _ d _ _ keep dst chain out smode qt _ => startChclose v d keep dst chain out smode qt
  | .chstat _ d _ => startChstat v d
  | .chfree .. => startChfree v
  | .chsplice .. => startChsplice v
  | .chrd _ _ d _ sp plane part => startChrd v d sp plane part
  | .lnorm _ _ _ _ k => startLnorm v k
  | .lset _ _ _ _ x => startLset v x
  | .rmode .. | .rmodeSeed .. => .start v.s Work.none
  | .mself _ t _ => startMself v t
  | .cpy _ _ d x br ch dk sk _ _ => startCpy v d x br ch dk sk 0
  | .cpyw _ _ d x br ch dk sk _ _ _ _ => startCpy v d x br ch dk sk 1
  | .stgnx .. => startStgnx v
  | .saq _ _ x i _ p op fmt => startSaq v x i p op fmt
  | .sahist _ _ i _ p limit => startSahist v i p limit
  | .safl _ => startSafl v
  | .salat .. => startSalat v
  | .colld .. => startColld v
  | .colgo .. => startColgo v
  | .colwait .. => startColwait v
  | _ => startVector v

/-- The head of a queue, its takes made: a command returned by its engine with a cause raises it; then the releases, the full bits, the hazards and the
units are waited for, and the registers read must be whole (R65, R95, R244, R264, R266, R416). -/
def headAct (v : QEnv) : QAct :=
  let u := regUse v.e.instr
  let full := v.q == .vector || v.q == .scatter
  let l := v.g.queue v.q
  match v.e.refused with
  | some c => .trap (.plain c)
  | none =>
    if !belongs v.q v.e.instr then .trap (.plain Cause.streamRole)
    else if !pushReleased v.s v.p (v.g.stream v.e.stream) v.e.afterSt || !reachesHome v.s v.p v.e then .wait v.s
    else if full && !readsFull v.g u then
      (if (v.g.stream (femodeStream v.q v.e)).femode = 1#1 then .trap (.plain Cause.feEmpty) else .wait v.s)
    else if v.q == .vector && !writesFull v.g u then .wait v.s
    else if (v.q == .vector || v.q == .matrix) && hazard v.s l v.e then .wait v.s
    else if v.q == .matrix && (tileHazard v.s l v.e || (usesTileUnit v.e.instr && !unitsFree v.s v.p v.e)) then .wait v.s
    else if readsDamaged v.g u then .trap (.plain Cause.mcEcc)
    else startCommand v

/-- A head raises a cause: its command stays unstarted, the tokens it took return (R45, R383), and it does nothing more until its group runs again (R406). -/
def raiseHead (s : State) (p : Place) (q : QueueId) (e : QEntry) (t : Trap) : State :=
  match s.group p with
  | none => s
  | some g =>
    let g := (if e.took then returnTok g e.stream e.instr.ring e.tookSets else g).mapEntry q e.id (fun e =>
      { e with took := false, tookSets := ([], []), faults := [], raised := true, started := false, work := none })
    let s := if q = .collective then dropLoads (s.setGroup p g) p else s.setGroup p g
    raise s p { stream := e.stream, queue := some q, async := false, fpc := e.fpc } t

/-- A head with its takes made, and the state in which it acts: none while they cannot be made or a request of its is open (R45, R397), nor once it has
raised a cause, until its group runs again (R389, R406). -/
def actingHead (s : State) (p : Place) (q : QueueId) : Option QEnv :=
  match s.group p with
  | none => none
  | some g =>
    match queueHead (g.queue q) with
    | none => none
    | some e =>
      if e.raised || !mayStart (s.slot p) g q || e.awaits || (!e.took && !canTake g e.stream e.instr.ring) then none
      else
        let sets := if e.took then e.tookSets else takenSets g e.stream e.instr.ring
        let e' := { e with took := true, tookSets := sets, faults := e.faults.filter (fun f => f.ans != some 0) }
        let g := (if e.took then g else takeTok g e.stream e.instr.ring).mapEntry q e.id (fun _ => e')
        some { s := s.setGroup p g, p := p, q := q, g := g, e := e' }

/-- Whether the head of a queue is ready to start (R42). -/
def headReady (s : State) (p : Place) (q : QueueId) : Bool :=
  match actingHead s p q with
  | none => false
  | some v => match headAct v with
    | .start .. => !v.e.awaits && !(s.slot p).cutNow
    | _ => false

/-- The slots of the core of a place that its engine serves before that place's: those after the slot served last (R42). -/
def slotsBefore (s : State) (p : Place) (q : QueueId) : List Place :=
  let last := (s.cores.get (coreOf p)).served.get q.toFin
  let at_ (k : Nat) : Place := ⟨p.val / 4 * 4 + (last.val + 1 + k) % 4, by omega⟩
  ((List.range 4).map at_).takeWhile (fun x => x != p)

/-- Whether an engine serves a slot next: round-robin, past slots whose heads are not ready (R42). -/
def served (s : State) (p : Place) (q : QueueId) : Bool := !(slotsBefore s p q).any (fun x => headReady s x q)

/-- An engine has served a slot. -/
def serve (s : State) (p : Place) (q : QueueId) : State :=
  let c := s.cores.get (coreOf p)
  s.setCore (coreOf p) { c with served := c.served.set q.toFin.val ⟨p.val % 4, Nat.mod_lt _ (by decide)⟩ }

/-- VEC's cumulative set with what an access through the buffer comes after: its data orders VEC's later releases too (R93, R94, R97). -/
def joinOrdered (g : Group) (e : QEntry) : Group :=
  if viaBuffer e.instr then
    let t := g.stream .vec
    g.setStream .vec { t with cum := (t.cum ++ e.ordered).dedup, acq := (t.acq ++ e.ordered).dedup }
  else g

/-- A command has started; the replay of a COLGO begins. -/
def began (s : State) (p : Place) (q : QueueId) (e : QEntry) (w : Work) : State :=
  match s.group p with
  | none => s
  | some g =>
    let s := (serve s p q).setGroup p
      ((joinOrdered g e).mapEntry q e.id (fun e => { e with took := true, started := true, work := some w, faults := [], refused := none }))
    match e.instr, w.ctx with
    | .colgo _ _ _, some x => beginReplay s x
    | _, _ => s

/-- ENGINE_HEAD_START (R41, R42, R45): the first unstarted command of a queue takes its tokens, and starts when it can and its slot's turn has come; while
a request of its is open, it only walks again (R397, R398). In the cycle of its group's cut a head may still raise, and does nothing else (R386, R389). -/
def execEngineHeadStart (p : Place) (q : QueueId) (s : State) : Host.Outcome State Fault Refusal :=
  let cut := (s.slot p).cutNow
  match actingHead s p q with
  | none => .next s
  | some v =>
    match headAct v with
    | .wait s' => .next (if cut then s else s')
    | .trap t => .next (if v.e.awaits then v.s else raiseHead v.s p q v.e t)
    | .trapIn s' t => .next (if v.e.awaits then s' else raiseHead s' p q v.e t)
    | .start s' w => .next (if cut then s else if v.e.awaits then v.s else if served s p q then began s' p q v.e w else v.s)

/-! ## The performance of a write (R86) -/

/-- A write of a command: a line, or a tile register of a copy (R291). -/
inductive Item where
  | line (w : LineWrite)
  | tile (i : BitVec 2) (r : TReg)

/-- The bytes that a line delivers (R292). -/
def LineWrite.size (w : LineWrite) : Nat := (w.lines.map (fun l => l.bytes.length)).sum + w.scales.length

/-- Write k of the copies of a command, and the copies without it: lines and the tile in any order, the flag word after every payload byte and every
barrier portion (R292). -/
def takeItem : Nat → List CopyRun → Option (Item × List CopyRun)
  | _, [] => none
  | k, c :: rest =>
    match c.lines[k]? with
    | some w => some (.line w, { c with lines := c.lines.eraseIdx k, owed := c.owed + w.size } :: rest)
    | none =>
      let k := k - c.lines.length
      let onFlag (k : Nat) : Option (Item × List CopyRun) :=
        match c.flagw with
        | some w =>
          if k = 0 then
            (if c.lines.isEmpty && c.tile.isNone && (c.barrier.isNone || c.owed == 0) then some (.line w, { c with flagw := none } :: rest) else none)
          else (takeItem (k - 1) rest).map (fun x => (x.1, c :: x.2))
        | none => (takeItem k rest).map (fun x => (x.1, c :: x.2))
      match c.tile with
      | some (i, r) => if k = 0 then some (.tile i r, { c with tile := none, owed := c.owed + 8192 } :: rest) else onFlag (k - 1)
      | none => onFlag k

/-- Write k of a command, and its work without it. -/
def takeWrite (w : Work) (k : Nat) : Option (Item × Work) :=
  match w.lines[k]? with
  | some x => some (.line x, { w with lines := w.lines.eraseIdx k })
  | none => (takeItem (k - w.lines.length) w.copies).map (fun x => (x.1, { w with copies := x.2 }))

/-- The bytes of a line of the window are written: as one run where they fill it, so that its poison is cleared (R413). -/
def spadPut (s : State) (p : Place) (g : Group) (off : Nat) (bs : List (Nat × Byte)) : State :=
  if (List.range 128).all (fun i => bs.any (fun b => b.1 == i)) then
    spadWrite s p g off ((List.range 128).map (fun i => ((bs.find? (fun b => b.1 == i)).map (·.2)).getD 0))
  else bs.foldl (fun s b => spadWrite s p g (off + b.1) [b.2]) s

/-- The bytes of one line are performed, and it is poisoned where their source was (R101, R416). -/
def performBytes (s : State) (p : Place) (g : Group) (ef : Bool) (l : LineBytes) : State :=
  match l.loc with
  | .spad off =>
    let s := spadPut s p g off l.bytes
    if l.poison then spadPoison s p g off else s
  | .mem pa =>
    if region s pa = .none then s
    else
      let s := homeWriteLine (l2Touch s pa (some (g.lr.asid, l.va)) ef true) (pa / 128) l.bytes
      if l.poison then putPoison s pa else s

/-- A scale byte as the bytes of its line. -/
def ScaleByte.line (x : ScaleByte) : LineBytes := { loc := x.loc.line.1, va := x.va, bytes := [(x.loc.line.2, x.byte)], poison := x.poison }

/-- A write of a command is performed whole: its line, those that a block of it reaches into, and their scale bytes (R101, R103). -/
def performLine (s : State) (p : Place) (g : Group) (w : LineWrite) : State :=
  (w.lines ++ w.scales.map ScaleByte.line).foldl (fun s l => performBytes s p g w.ef l) s

/-- The locations that a write touches. -/
def LineWrite.places (w : LineWrite) : List Loc := w.lines.map (·.loc) ++ w.scales.map (·.loc)

/-- Whether another command of the core has locked a bank that a write lies in (R71). -/
def lineLocked (s : State) (p : Place) (q : QueueId) (id : Nat) (w : LineWrite) : Bool :=
  w.places.any (fun l => match l with | .spad off => bankLocked s p (some (q, id)) off 1 | .mem _ => false)

/-- Whether a write of a command waits for a link that is being retrained (R430). -/
def lineHeld (s : State) (p : Place) (w : LineWrite) : Bool :=
  w.places.any (fun l => match l with | .mem pa => farHeld s (dieOfPlace p) pa | .spad _ => false)

/-- Write k of a started command is performed; none before the loads of the placing stream before the push (R95). -/
def performItem (s : State) (p : Place) (q : QueueId) (id k : Nat) : State :=
  match s.group p with
  | none => s
  | some g =>
    match (g.queue q).find? (fun e => e.id == id) with
    | none => s
    | some e =>
      match e.work with
      | none => s
      | some w =>
        if !e.started || e.done || (g.stream e.stream).loadsDone < e.afterLd then s
        else
          match takeWrite w k with
          | none => s
          | some (x, w') =>
            let g' := g.mapEntry q id (fun e => { e with work := some w' })
            match x with
            | .tile i r => s.setGroup p (g'.writeT i { r with full := (g.t.get i.toFin).full })
            | .line lw =>
              if lineLocked s p q id lw || lineHeld s p lw then s
              else
                match touchAll (s.setGroup p g') p (lw.places.map (fun l => (l, false))) with
                | none => s
                | some s =>
                  match s.group p with
                  | none => s
                  | some g => performLine s p g lw

/-- STORE_PERFORM (R86): part k of the store at the head of a stream's queue, or write k of a started command. -/
def execStorePerform (p : Place) (ag : Agent) (k : Nat) (s : State) : Host.Outcome State Fault Refusal :=
  match ag with
  | .stream st => .next (performStore s p st k)
  | .engine q id => .next (performItem s p q id k)

end Sys2Proof.Machine
end

