-- ==== Sys2Proof/Machine/Time.lean ====
section
/-! DEFINITION. Sys2Proof/Machine/Time.lean: cycles (R6, R29, R30, R172, R329, R330, R401, R402) and the turns that stand for what no row of
the opcode table names. -/

namespace Sys2Proof.Machine

open Sys2Proof

/-- The limit the watchdog acts on (R399). -/
def Stream.limit (t : Stream) : Nat := Nat.max t.wdlim.toNat 0x10000

/-- The commands of a queue whose cycles count toward the watchdog: its head (R402), and a COLWAIT that has started and waits (R306). -/
def watchedEntries (l : List QEntry) : List QEntry :=
  (queueHead l).toList ++ l.filter (fun e => e.started && !e.done && (match e.work with | some w => w.await.isSome | none => false))

/-- Whether the end of a slice, a watchdog or a queue head's watchdog of a slot is due: no cycle passes before it has been served. -/
def slotDue (sl : Slot) : Bool :=
  ((sl.state == .running || sl.state == .held) && sl.group.isSome && sl.left == 0) ||
  sl.state == .running && (match sl.group with
    | none => false
    | some g =>
      StreamId.all.any (fun st => let t := g.stream st; !t.ended && decide (t.limit ≤ t.wdcnt)) ||
      QueueId.all.any (fun q => (watchedEntries (g.queue q)).any (fun e => decide ((g.stream e.stream).limit ≤ e.headCnt))))

/-- The cycles that can pass in a slot before something falls due. -/
def slotRoom (sl : Slot) : Nat :=
  if sl.state == .running then
    match sl.group with
    | none => 2 ^ 64
    | some g =>
      let a := StreamId.all.foldl (fun n st => let t := g.stream st; if t.ended then n else Nat.min n (t.limit - t.wdcnt)) sl.left.toNat
      QueueId.all.foldl (fun n q => (watchedEntries (g.queue q)).foldl (fun n e => Nat.min n ((g.stream e.stream).limit - e.headCnt)) n) a
  else if sl.state == .held then sl.left.toNat
  else 2 ^ 64

/-- The scalar registers that an instruction reads at issue, for the instructions that LDR accepts (R172). -/
def scalarReads : Instr → List (BitVec 6)
  | .add _ _ a b | .sub _ _ a b | .and _ _ a b | .or _ _ a b | .xor _ _ a b | .shl _ _ a b | .shr _ _ a b | .sra _ _ a b | .mul _ _ a b
  | .mulh _ _ a b | .mulhu _ _ a b | .div _ _ a b | .divu _ _ a b | .rem _ _ a b | .remu _ _ a b | .min _ _ a b | .max _ _ a b | .minu _ _ a b
  | .maxu _ _ a b | .lea _ _ a b _ | .bfi _ _ _ a b _ _ | .sel _ _ _ a b _ | .cmp _ _ a b _ | .stB _ a b _ | .stH _ a b _ | .stW _ a b _
  | .stD _ a b _ | .stf _ a b | .waita _ _ a b | .bara _ _ a b | .barex _ a b | .barw _ _ a b | .rgtake _ _ a b | .rgfill _ a b | .rgrel _ a b
  | .l2pin _ _ _ a b _ => [a, b]
  | .lihi _ _ d _ => [d]
  | .clz _ _ a | .ctz _ _ a | .popc _ _ a | .brev _ _ a | .addi _ _ a _ | .andi _ _ a _ | .ori _ _ a _ | .xori _ _ a _ | .shli _ _ a _ | .shri _ _ a _
  | .srai _ _ a _ | .bfx _ _ _ a _ _ _ | .cmpi _ _ _ a _ | .pset _ _ a _ | .prepr _ _ a | .loop _ _ a _ | .sysw _ a _ | .locq _ _ a | .ldB _ _ a _
  | .ldBu _ _ a _ | .ldH _ _ a _ | .ldHu _ _ a _ | .ldW _ _ a _ | .ldWu _ _ a _ | .ldD _ _ a _ | .lds _ _ a | .pref _ a _ _ | .evpostG _ _ a
  | .rgtkt _ _ a | .clwb _ a | .clinv _ a | .l2unpin _ a | .shld _ _ a | .shset _ _ a _ | .stgnx _ a => [a]
  | .cpy _ _ _ _ br _ _ _ od os => [br, od, os]
  | .cpyw _ _ _ _ br _ _ _ od os fa fv => [br, od, os, fa, fv]
  | _ => []

/-- Whether LDR's next instruction is held because it reads a register that an earlier load of LDR left empty (DECSTALL, R172): the instruction at PC, or, where
that one has issued and waits, the one that follows it. -/
def ldrHeld (s : State) (p : Place) (g : Group) : Bool :=
  let t := if (g.stream .ldr).waiting.isSome then advance s p g (g.stream .ldr) else g.stream .ldr
  if t.ended || t.byLoad == 0#64 || t.femode == 1#1 then false
  else
    match peekWord s p g t t.pc, peekWord s p g t (t.pc + 4) with
    | some w0, w1 =>
      (match decodeWords w0 (w1.getD 0) with
       | .ok i => (scalarReads i).any (fun r => t.byLoad.getLsbD r.toNat && !t.full.getLsbD r.toNat)
       | .error _ => false)
    | none, _ => false

/-- Cycles pass for a bound group in STATE 2: the watchdog counts rise (R401, R402), and the waits of R172, those for a ready head among them (R42). -/
def groupTick (s : State) (p : Place) (g : Group) (n : Nat) : Group :=
  let held := ldrHeld s p g
  let g := StreamId.all.foldl (fun g st =>
    let t := g.stream st
    if t.ended then g else g.setStream st { t with wdcnt := t.wdcnt + n }) g
  let waits := QueueId.all.any (fun q => (queueHead (g.queue q)).isSome && !headReady s p q)
  let g := QueueId.all.foldl (fun g q =>
    let ids := (watchedEntries (g.queue q)).map (·.id)
    g.setQueue q ((g.queue q).map (fun e => if ids.contains e.id then { e with headCnt := e.headCnt + n } else e))) g
  { g with
    headwait := if waits then g.headwait + BitVec.ofNat 64 n else g.headwait
    decstall := if held then g.decstall + BitVec.ofNat 64 n else g.decstall }

/-- A cycle is over: what waits for a register that became full in it can issue (R167, R440). -/
def wakeGroup (g : Group) : Group := StreamId.all.foldl (fun g st => g.setStream st { g.stream st with woken := 0 }) g

/-- Cycles pass for a slot: LEFT falls while the group is bound and not halted; the fencing of a pre-emption adds to DEBT (R329); SLE rises (R330). -/
def slotTick (s : State) (p : Place) (n energy : Nat) : State :=
  let sl := s.slot p
  match sl.group with
  | none => s
  | some g =>
    let sl := { sl with sle := sl.sle + BitVec.ofNat 64 energy, group := some (wakeGroup g) }
    match sl.state with
    | .running => s.setSlot p { sl with left := sl.left - BitVec.ofNat 32 (Nat.min n sl.left.toNat), group := some (wakeGroup (groupTick s p g n)) }
    | .fencing =>
      let pre := (match g.stopping with | .preempt => true | _ => false) && !groupQuiet s p g
      s.setSlot p { sl with
        left := sl.left - BitVec.ofNat 32 (Nat.min n sl.left.toNat)
        debt := if pre then BitVec.ofNat 32 (Nat.min (sl.debt.toNat + n) (2 ^ 32 - 1)) else sl.debt }
    | .held => s.setSlot p { sl with left := sl.left - BitVec.ofNat 32 (Nat.min n sl.left.toNat) }
    | _ => s.setSlot p sl

/-- What the work of each of some slots takes of an energy, in their order, none of it twice (R330). -/
def ownEnergy (draw : Nat) : Nat → List (Fin 4) → List (Fin 4 × Nat)
  | _, [] => []
  | e, k :: rest => let x := Nat.min e (Config.slotEnergy draw k.val); (k, x) :: ownEnergy draw (e - x) rest

/-- What an energy of a core adds to the SLE of a slot among the occupied ones: its own work's, and an equal share of what no slot's work accounts for, a
remainder of it one unit each from the lowest slot on (R330; log 13). -/
def slotShare (draw e : Nat) (occupied : List (Fin 4)) (k : Fin 4) : Nat :=
  let own := ownEnergy draw e occupied
  let left := e - (own.map (·.2)).sum
  let n := occupied.length
  match own.find? (fun x => x.1 == k) with
  | none => 0
  | some x => x.2 + left / n + (if occupied.idxOf k < left % n then 1 else 0)

/-- Cycles pass for a core: its local count, and its energy, which never falls, shared out to the occupied slots (R29, R330; log 13). -/
def coreTick (s : State) (c : CoreId) (n : Nat) : State :=
  let core := s.cores.get c
  let e := Nat.min (Config.coreEnergy s.fresh) (2 ^ 64 - 1 - core.energy.toNat)
  let occupied := (List.finRange 4).filter (fun k => (s.slot ⟨c.val * 4 + k.val, by omega⟩).group.isSome)
  let share : Fin 4 → Nat := slotShare s.fresh e occupied
  let s := { s.setCore c { core with cycle := core.cycle + BitVec.ofNat 64 n, energy := core.energy + BitVec.ofNat 64 e } with fresh := s.fresh + 1 }
  (List.finRange 4).foldl (fun s k => slotTick s ⟨c.val * 4 + k.val, by omega⟩ n (share k)) s

/-- The places of a die. -/
def placesOfDie (d : DieId) : List Place := (List.finRange 128).map (fun k => ⟨d.val * 128 + k.val, by omega⟩)

/-- Whether a chunk of a replay in progress waits for a credit at a port (HELD, R338, R346). -/
def portHeld (s : State) (q : Fin 18) : Bool :=
  (List.finRange 4).any (fun d => (List.finRange 64).any (fun i => match ctxAt s d i with
    | none => false
    | some c =>
      match c.replays with
      | [] => false
      | r :: _ =>
        r.failed.isNone && (c.graph.ops.zip r.ops).any (fun o =>
          o.1.sends && o.1.port == q.val && o.2.started && !o.2.finished && decide (o.2.sent < (c.graph.pieceOf o.1).length) &&
          creditsHeld s d i c o.1.port o.1.path == 0)))

/-- Cycles pass at the ports of a die. -/
def portTick (s : State) (d : DieId) (n : Nat) : State :=
  { s with ports := Vector.ofFn (fun q =>
      let x := s.ports.get q
      if portDie q.val = d ∧ portHeld s q = true then { x with held := x.held + BitVec.ofNat 64 n } else x) }

/-- Whether a port that a die carries has a window's end to count (R338). -/
def windowDue (s : State) (d : DieId) : Bool :=
  (List.finRange 18).any (fun q => portDie q.val == d && (s.ports.get q).window != (s.dies.get d).cycle.toNat / 2 ^ 20)

/-- Up to n cycles of a die pass, as many as can before something falls due, the end of a window of its ports among them; none of a die that is not
live (R6). Chunks that waited for a credit leave (R353). -/
def tick (s : State) (d : DieId) (n : Nat) : State :=
  if dieLive s d = false ∨ windowDue s d = true ∨ (placesOfDie d).any (fun p => slotDue (s.slot p)) then s
  else
    let die := s.dies.get d
    let n := (placesOfDie d).foldl (fun n p => Nat.min n (slotRoom (s.slot p))) (Nat.min n (2 ^ 20 - die.cycle.toNat % 2 ^ 20))
    let s := s.setDie d { die with cycle := die.cycle + BitVec.ofNat 64 n, slowRun := if die.slow then die.slowRun + n else die.slowRun }
    let s := portTick { s with now := s.now + n } d n
    resendAll ((List.finRange 32).foldl (fun s c => coreTick s ⟨d.val * 32 + c.val, by omega⟩ n) s) d

/-- A lasting way is disabled for every set of its slice: its lines leave the L2 (R408). -/
def disableWay (s : State) (d : DieId) (x : Fin 16 × Fin 16) : State :=
  let die := s.dies.get d
  if die.badWays.contains x then s
  else setL2 s d { die with badWays := x :: die.badWays, l2 := die.l2.filter (fun l => !(sliceOf (128 * l.line) == x.1 && l.way == x.2)) }

/-- An error at an L2 way is counted; a lasting way is recorded and disabled (R408, R409). -/
def countWay (s : State) (d : DieId) (x : Fin 16 × Fin 16) : State × BitVec 8 :=
  let (s, n, lasting) := countSite s 2 d (x.1.val * 16 + x.2.val) (2 ^ 24) 8
  if lasting then
    let r : ErrRec :=
      { src := 2, kind := 4, die := BitVec.ofNat 4 d.val, core := 0, sub := BitVec.ofNat 5 x.1.val, count := n, cause := 0, addr := 0, lid := 0,
        cycle := (s.dies.get d).cycle, synd := Config.freeBits s.fresh 64 }
    (logErr (disableWay { s with fresh := s.fresh + 1 } d x) r, n)
  else (s, n)

/-- A line is poisoned where an error is found in it: what the L2 holds clean is whole in HBM (R411). -/
def spoilLine (s : State) (pa : Nat) : State :=
  if poisoned s pa then s
  else
    let d := dieOf pa
    let die := s.dies.get d
    putPoison (s.setDie d { die with l2 := die.l2.map (fun l => if l.line = pa / 128 ∧ l.dirty = false then { l with bad := true } else l) }) pa

/-- An uncorrectable error is found in a line: it is poisoned, counted at a way of an L2, and recorded (R408, R409, R411). -/
def findPoison (s : State) (pa : Nat) : State :=
  if (region s pa).isHbm || (region s pa).isAttic then
    let (src, sub) := lineSource s pa
    let d := dieOf pa
    let key := lineKey s pa
    let way := l2Way s pa
    let s := spoilLine s pa
    let (s, n) := match way with
      | some x => countWay s d x
      | none => (s, siteCount s src d key)
    logErr { s with fresh := s.fresh + 1 }
      { src := src, kind := 2, die := BitVec.ofNat 4 d.val, core := 0, sub := sub, count := n, cause := Cause.mcEcc,
        addr := BitVec.ofNat 64 (pa / 128 * 128), lid := 0, cycle := (s.dies.get d).cycle, synd := Config.freeBits s.fresh 64 }
  else s

/-- The same in the scratchpad SRAM of a core. -/
def findSpadPoison (s : State) (c : CoreId) (off : Nat) : State :=
  let a := c.val * 2 ^ 22 + off % 2 ^ 22
  let d := dieOfCore c
  logErr { s with spadPoison := (a / 128) :: s.spadPoison.filter (· ≠ a / 128), fresh := s.fresh + 1 }
    { src := 4, kind := 2, die := BitVec.ofNat 4 d.val, core := BitVec.ofNat 7 c.val, sub := 0, count := siteCount s 4 d (c.val * 64 + off % 4096 / 128),
      cause := Cause.mcEcc, addr := 0, lid := 0, cycle := (s.dies.get d).cycle, synd := Config.freeBits s.fresh 64 }

/-- An uncorrectable error is found in a register unit of a group, and recorded (R409, R416). -/
def damageReg (s : State) (p : Place) (u : RegUnit) : State :=
  match s.group p with
  | none => s
  | some g =>
    if g.damaged.contains u then s
    else
      let d := dieOfPlace p
      logErr { s.setGroup p { g with damaged := u :: g.damaged } with fresh := s.fresh + 1 }
        { src := 5, kind := 2, die := BitVec.ofNat 4 d.val, core := BitVec.ofNat 7 (coreOf p).val, sub := 0, count := 0, cause := Cause.mcEcc, addr := 0,
          lid := g.lr.id, cycle := (s.dies.get d).cycle, synd := Config.freeBits s.fresh 64 }

/-- The word at an address is kept for a stream to execute (R203). -/
def keepWord (s : State) (p : Place) (g : Group) (st : StreamId) (va : BitVec 64) : State :=
  let t := g.stream st
  match peekWord s p g { t with pre := [] } va with
  | none => s
  | some w => s.setGroup p (g.setStream st { t with pre := t.pre ++ [(va.toNat, w, t.preNo)], preNo := t.preNo + 1 })

/-- A stream fetches a word ahead (R199): what cannot be read is not reported. Such a fetch is an access like another: it asks for its page's frame, waits for
a locked bank and for a link, and asks the L2 for the line (R68, R71, R75, R430). -/
def prefetchWord (s : State) (p : Place) (st : StreamId) (va : BitVec 64) : State :=
  match s.group p with
  | none => s
  | some g =>
    if inWindow va then
      let off := va.toNat - windowBase
      if bankLocked s p none off 4 || windowDead s p g off then s
      else
        match ensureFrame s p g (pageOf off) with
        | .wait s => s
        | .ready s => keepWord s p g st va
    else
      match wordLoc s p g va with
      | some (.mem pa) =>
        if farHeld s (dieOfPlace p) pa then s else keepWord (l2Touch s pa (some (g.lr.asid, va.toNat)) false false) p g st va
      | _ => s

/-- A cached translation is dropped (R84; log 7). -/
def dropTlb (s : State) (c : CoreId) (k : Nat) : State :=
  let core := s.cores.get c
  s.setCore c { core with tlb := core.tlb.eraseIdx k }

/-- Whether a constructor is an event of the opcode table: a row without words (95_what_each_step_holds). -/
def isEvent (i : Instr) : Bool := !i.encodable && (match i with | .illegalEncoding _ => false | _ => true)

/-! ## The happenings of one cycle (R50, R109, R159, R167, R228, R240, R287, R316, R337, R353, R389, R407, R438) -/

/-- The instruction that a stream is about to issue, as far as it can be looked at. -/
def nextOf (s : State) (p : Place) (st : StreamId) : Option Instr :=
  match s.group p with
  | none => none
  | some g =>
    let t := g.stream st
    (peekWord s p g t t.pc).bind (fun w0 =>
      match decodeWords w0 ((peekWord s p g t (t.pc + 4)).getD 0) with
      | .ok i => some i
      | .error _ => none)

/-- The command at the head of a queue. -/
def headOf (s : State) (p : Place) (q : QueueId) : Option Instr := ((s.group p).bind (fun g => queueHead (g.queue q))).map (·.instr)

/-- Command k of a queue. -/
def commandAt (s : State) (p : Place) (q : QueueId) (k : Nat) : Option Instr := ((s.group p).bind (fun g => (g.queue q)[k]?)).map (·.instr)

/-- The array of a matrix command in flight: the lower of those it uses. -/
def arrayOf (s : State) (p : Place) (k : Nat) : Nat :=
  match (((s.group p).bind (fun g => (g.queue .matrix)[k]?)).bind (·.work)).bind (·.step) with
  | some w => if w.arrays.getLsbD 0 then 0 else 1
  | none => 0

/-- The rank of a unit of a core: streams in ring order from CTL, then queues in their order (R109, R240). -/
def streamRank (st : StreamId) : Nat := st.toFin.val
def queueRank (q : QueueId) : Nat := 5 + q.toFin.val

/-- What a contribution of link i to its parent ranks by: the core and the array it comes from, before a local step there (R159). -/
def childUnit (s : State) (c : BitVec 12) (i : Nat) : Nat × Nat :=
  match (findChain s c).bind (fun c => c.links[i]?) with
  | some l => (l.die.val * 32 + l.core.val, 2 * l.array.val)
  | none => (0, 0)

/-- Who a happening is of: the global core number, then the unit; at a link the array, a forward before a local step (R109, R159, R240). -/
def turnUnit (s : State) : Turn → Nat × Nat
  | .issue p st => (p.val / 4, streamRank st)
  | .happen (.engineHeadStart p q) => (p.val / 4, queueRank q)
  | .happen (.engineCompletion p q _) => (p.val / 4, queueRank q)
  | .happen (.storePerform p (.stream st) _) => (p.val / 4, streamRank st)
  | .happen (.storePerform p (.engine q _) _) => (p.val / 4, queueRank q)
  | .happen (.copyBarrierPortion p q _) => (p.val / 4, queueRank q)
  | .happen (.scatterUpdate p) => (p.val / 4, queueRank .scatter)
  | .happen (.loadDataReturn p st _) => (p.val / 4, streamRank st)
  | .happen (.matrixStepComplete p k _) => (p.val / 4, 2 * arrayOf s p k + 1)
  | .happen (.checksumRerunEnd p k _) => (p.val / 4, 2 * arrayOf s p k + 1)
  | .happen (.linkForwardReceive c i) => childUnit s c i
  | .happen (.linkNoticeReceive c i) => childUnit s c i
  | _ => (0, 0)

/-- The location that a write performed by a turn goes to, as far as it is one (R86). -/
def writeLoc (s : State) : Turn → Option Loc
  | .happen (.storePerform p (.stream st) k) => ((s.group p).bind (fun g => ((g.stream st).stores.head?).bind (fun r => r.parts[k]?))).map (·.loc)
  | .happen (.storePerform p (.engine q id) k) =>
    match (((s.group p).bind (fun g => (g.queue q).find? (fun e => e.id == id))).bind (·.work)).bind (fun w => takeWrite w k) with
    | some (.line w, _) => some w.loc
    | _ => none
  | .happen (.clusterBufferDrain cl k) => ((s.clusters.get cl).buf[k]?).map (fun e => .mem (128 * e.line))
  | .happen (.scatterUpdate p) => ((s.group p).bind (fun g => g.scat.head?)).map (·.loc)
  | _ => none

/-- When the request of a turn was made: a queued store when it issued, anything else now (R109; log 69). -/
def requestAge (s : State) : Turn → Nat
  | .happen (.storePerform p (.stream st) _) => match (s.group p).bind (fun g => (g.stream st).stores.head?) with | some r => r.age | none => s.now
  | _ => s.now

/-- What a turn of a cycle does, as its order needs it. -/
structure Happening where
  turn  : Turn
  /-- The instruction it issues, the command it starts or completes, or the event it is. -/
  instr : Option Instr
  place : Option Place
  core  : Nat
  unit  : Nat
  age   : Nat
  loc   : Option Loc

/-- The instruction of a turn. -/
def turnInstr (s : State) : Turn → Option Instr
  | .issue p st => nextOf s p st
  | .happen (.engineHeadStart p q) => headOf s p q
  | .happen (.engineCompletion p q k) => commandAt s p q k
  | .happen i => some i
  | _ => none

/-- The place of a turn, where it is one of a group or of a slot. -/
def turnPlace : Turn → Option Place
  | .issue p _ | .happen (.engineHeadStart p _) | .happen (.engineCompletion p _ _) | .happen (.loadDataReturn p _ _)
  | .happen (.sliceEnd p) | .happen (.debugHaltRequest p) | .happen (.watchdogStream p _) | .happen (.watchdogQueueHead p _) => some p
  | .happen (.bindRecordWrite c k _) => if h : k.val < 4 then some ⟨c.val * 4 + k.val, by omega⟩ else none
  | _ => none

def happening (s : State) (t : Turn) : Happening :=
  { turn := t, instr := turnInstr s t, place := turnPlace t, core := (turnUnit s t).1, unit := (turnUnit s t).2, age := requestAge s t, loc := writeLoc s t }

namespace Happening

/-- A stream issues. -/
def issues (h : Happening) : Bool := match h.turn with | .issue _ _ => true | _ => false
/-- A queue's head may start. -/
def starts (h : Happening) : Bool := match h.turn with | .happen (.engineHeadStart _ _) => true | _ => false
/-- A command completes. -/
def completes (h : Happening) : Bool := match h.turn with | .happen (.engineCompletion _ _ _) => true | _ => false
/-- A stream issues an instruction of a kind. -/
def issuesA (h : Happening) (f : Instr → Bool) : Bool := h.issues && h.instr.any f
/-- A command of a kind may start. -/
def startsA (h : Happening) (f : Instr → Bool) : Bool := h.starts && h.instr.any f
/-- An event of a kind happens. -/
def eventA (h : Happening) (f : Instr → Bool) : Bool := !h.issues && !h.starts && !h.completes && h.instr.any f
/-- Two happenings of one group. -/
def with_ (a b : Happening) : Bool := a.place.isSome && a.place == b.place

/-- The instructions that a slice performs as a write of their object. -/
def objectWrite : Instr → Bool
  | .stf .. | .bara .. | .barex .. | .rgtkt .. | .rgfill .. | .rgtake .. | .rgrel .. | .jobnx .. => true
  | _ => false

/-- It writes. -/
def writes (h : Happening) : Bool :=
  h.issuesA objectWrite ||
  h.eventA (fun i => match i with
    | .storePerform .. | .clusterBufferDrain .. | .copyBarrierPortion .. | .scatterUpdate .. | .cellarFold .. | .colChunkArrive .. => true
    | _ => false)

/-- It reads memory: the data of a load, an instruction that waits on a word or reads a record, the head of a queue but for a SALAT, whose object a slice
serves in the order of R240, and for the collective commands, which may start what a chunk arrives for (R353). -/
def readsMem (h : Happening) : Bool :=
  h.issuesA (fun i => match i with | .lds .. | .waita .. | .shld .. | .tqadd .. => true | _ => false) ||
  h.eventA (fun i => match i with | .loadDataReturn .. => true | _ => false) ||
  (h.starts && !h.startsA (fun i => match i with | .salat .. | .colld .. | .colgo .. | .colwait .. => true | _ => false))

/-- A tile command may start, and lock banks (R71). -/
def locks (h : Happening) : Bool :=
  h.startsA (fun i => match i with | .tld .. | .tst .. | .mma .. | .mmas .. | .mmaw .. | .mself .. | .chclose .. => true | _ => false)

/-- It reaches a scratchpad bank, as far as one can tell. -/
def reachesBank (h : Happening) : Bool :=
  match h.loc with
  | some (.spad _) => true
  | some (.mem _) => false
  | none => h.issues || h.starts || h.eventA (fun i => match i with | .loadDataReturn .. => true | _ => false)

/-- A contribution, or a node read, arrives at a link (R159). -/
def contributes (h : Happening) : Bool :=
  h.eventA (fun i => match i with
    | .matrixStepComplete .. | .checksumRerunEnd .. | .linkForwardReceive .. | .linkNoticeReceive .. | .nodeReadReceive .. => true
    | _ => false)

/-- A matrix step may start. -/
def startsStep (h : Happening) : Bool := h.startsA (fun i => match i with | .mma .. | .mmas .. | .mmaw .. => true | _ => false)

/-- A tile command locks its banks before another access of the core reaches one (R109). -/
def lockFirst (a b : Happening) : Bool := a.locks && !b.locks && a.core == b.core && b.reachesBank

/-- Two writes of one line: the older request first (R109). -/
def olderFirst (a b : Happening) : Bool :=
  a.writes && b.writes && decide (a.age < b.age) &&
  (match a.loc, b.loc with | some x, some y => x.line.1 == y.line.1 | _, _ => true)

/-- A write before a read of its home point (R109), unless the read locks the bank first. -/
def writeFirst (a b : Happening) : Bool := a.writes && b.readsMem && !lockFirst b a

/-- A watchpoint is registered before the writes of the cycle are tested, and freed after them (R240). -/
def watchOrder (a b : Happening) : Bool :=
  (a.issuesA (fun i => match i with | .wpset .. => true | _ => false) && b.writes) ||
  (a.writes && b.issuesA (fun i => match i with | .wpclr .. => true | _ => false))

/-- At one chain: a build, a free or a reset before a step starts or a contribution arrives; a read of the link before both and before an LNORM; a contribution
before an LNORM or an LSET; a fault of an entry before what reaches it or selects it (R159, R280, R287, R438). -/
def linkOrder (a b : Happening) : Bool :=
  (a.startsA (fun i => match i with | .chbld .. | .chfree .. => true | _ => false) && (b.contributes || b.startsStep)) ||
  (a.startsA (fun i => match i with | .chrd .. | .chstat .. => true | _ => false) &&
    (b.contributes || b.startsA (fun i => match i with | .lnorm .. | .lset .. => true | _ => false))) ||
  (a.contributes && b.startsA (fun i => match i with | .lnorm .. | .lset .. => true | _ => false)) ||
  (((match a.turn with | .entryFault .. => true | _ => false) || a.eventA (fun i => match i with | .linkFreeze .. => true | _ => false)) &&
    (b.contributes || b.startsStep || b.startsA (fun i => match i with | .chsplice .. => true | _ => false)))

/-- Completions deliver their writes, elements and posts, and a close its reset, before a stream of the group issues and a contribution arrives; but a matrix
command that waits for a tile starts in the cycle after the TLD's completion (R109, R159, R167, R287). -/
def completionFirst (a b : Happening) : Bool :=
  (a.completes && ((b.issues && a.with_ b) || b.contributes)) ||
  (a.startsA (fun i => match i with | .mma .. | .mmas .. | .mmaw .. | .mself .. | .tst .. => true | _ => false) && b.completes && a.with_ b &&
    b.instr.any (fun i => match i with | .tld .. => true | _ => false))

/-- A shape register is written before it is read in the cycle (R167, R287). -/
def shapeFirst (a b : Happening) : Bool :=
  a.issuesA (fun i => match i with | .shset .. | .shld .. => true | _ => false) && a.with_ b &&
  b.issuesA (fun i => match i with | .shget .. => true | _ => QueueId.all.any (fun q => belongs q i))

/-- Posts are counted before a wait is served (R50); a TRET comes after what else its group does (R407). -/
def streamOrder (a b : Happening) : Bool :=
  let waits (h : Happening) := h.issuesA (fun i => match i with | .evwait .. => true | _ => false)
  let returns (h : Happening) := h.issuesA (fun i => match i with | .tret .. => true | _ => false)
  let tests (h : Happening) := h.issuesA (fun i => match i with | .barw .. => true | _ => false)
  (a.issues && !waits a && !returns a && !tests a && waits b &&
    (a.with_ b || a.issuesA (fun i => match i with | .evpostG .. => true | _ => false))) ||
  (returns b && !returns a && a.with_ b)

/-- The object of a ring instruction: the address that its register translates to. -/
def ringAt (s : State) (h : Happening) : Option (Nat × BitVec 64) :=
  match h.turn, h.instr with
  | .issue p st, some i =>
    (match i with
     | .rgfill _ a b => some (a, b)
     | .rgrel _ a b => some (a, b)
     | .rgtake _ _ a b => some (a, b)
     | .rgtkt _ _ a => some (a, a)
     | _ => none).bind (fun x =>
      (s.group p).bind (fun g =>
        match findLeaf s (coreOf p) g.lr.asid ((g.stream st).getX x.1) with
        | .leaf e _ lg => some (leafAddr e lg ((g.stream st).getX x.1), (g.stream st).getX x.2)
        | .bad _ _ => none))
  | _, _ => none

/-- At one ring: the fill of ticket HEAD before a take, a release before a ticket is asked for (R240). -/
def ringFirst (s : State) (a b : Happening) : Bool :=
  match ringAt s a, ringAt s b with
  | some x, some y =>
    x.1 == y.1 &&
    ((a.issuesA (fun i => match i with | .rgfill .. => true | _ => false) && b.issuesA (fun i => match i with | .rgtake .. => true | _ => false) &&
        x.2 == homeDword s (x.1 + 0x20)) ||
     (a.issuesA (fun i => match i with | .rgrel .. => true | _ => false) && b.issuesA (fun i => match i with | .rgtkt .. => true | _ => false)))
  | _, _ => false

/-- The scheduling rows: the seal of a SUSPEND before a RESUME (R316); a bind record's write before a slice end, and after a SUSPEND or an ENDG of its slot
(R337). -/
def scheduleOrder (a b : Happening) : Bool :=
  (a.eventA (fun i => match i with | .suspendSeal .. => true | _ => false) &&
    b.issuesA (fun i => match i with | .resume .. | .discard .. => true | _ => false)) ||
  (a.eventA (fun i => match i with | .bindRecordWrite .. => true | _ => false) && b.eventA (fun i => match i with | .sliceEnd .. => true | _ => false)) ||
  (a.issuesA (fun i => match i with | .suspend .. | .endg .. => true | _ => false) && a.with_ b &&
    b.eventA (fun i => match i with | .bindRecordWrite .. => true | _ => false))

/-- The collective rows: what may start an operation before a chunk arrives (R353), an abort before a member's progress (R438). -/
def collectiveOrder (a b : Happening) : Bool :=
  let arrives := b.eventA (fun i => match i with | .colChunkArrive .. => true | _ => false)
  let collective (h : Happening) : Bool := (h.starts || h.completes) && h.instr.any (fun i => match i with | .colld .. | .colgo .. | .colwait .. => true | _ => false)
  ((collective a || a.eventA (fun i => match i with | .colldReady .. | .slotFreeNotice .. | .cellarFold .. | .colAck .. => true | _ => false)) && arrives) ||
  (a.eventA (fun i => match i with | .colAbort .. => true | _ => false) &&
    (arrives || b.completes || b.eventA (fun i => match i with | .slotFreeNotice .. | .cellarFold .. => true | _ => false)))

/-- What looks at the outcome of a cycle: a halt request and a watchdog after the group's own progress and causes (R407), a write of a control register from
outside after the streams, a sag trip after a write of CLR (R438). -/
def outcomeLast (a b : Happening) : Bool :=
  let outside (h : Happening) := h.eventA (fun i => match i with | .registerWrite .. | .wr .. | .sagLockClear .. => true | _ => false)
  (b.eventA (fun i => match i with | .debugHaltRequest .. | .watchdogStream .. | .watchdogQueueHead .. => true | _ => false) && a.with_ b &&
    (a.starts || a.completes || (a.issues && !a.issuesA (fun i => match i with | .tret .. => true | _ => false)))) ||
  ((a.issues || a.starts) && outside b) ||
  ((a.issues || outside a) && b.eventA (fun i => match i with | .sagTrip .. => true | _ => false))

/-- A loss comes before everything else of its cycle (R438); the barriers are tested once their updates are in, and a BARW reads the phase after that (R228);
cycles pass last. -/
def boundary (a b : Happening) : Bool :=
  let lost (h : Happening) := h.eventA (fun i => match i with | .dieLost .. => true | _ => false)
  let settles (h : Happening) : Bool := match h.turn with | .settle => true | _ => false
  let tests (h : Happening) := h.issuesA (fun i => match i with | .barw .. => true | _ => false)
  let passes (h : Happening) : Bool := match h.turn with | .tick _ _ => true | _ => false
  (lost a && !lost b) || (settles a && tests b) || (settles b && (a.writes || a.contributes || a.completes || (a.issues && !tests a && !a.issuesA (fun i => match i with | .tret .. => true | _ => false)))) ||
  (passes b && !passes a)

/-- Whether one happening of a cycle must come before another. -/
def before (s : State) (a b : Happening) : Bool :=
  lockFirst a b || olderFirst a b || writeFirst a b || watchOrder a b || linkOrder a b || completionFirst a b || shapeFirst a b || streamOrder a b ||
  ringFirst s a b || scheduleOrder a b || collectiveOrder a b || outcomeLast a b || boundary a b

/-- Whether one stands before another where no row decides: by core, then by unit (R109, R240). -/
def ranks (a b : Happening) : Bool := decide (a.core * 16 + a.unit ≤ b.core * 16 + b.unit)

end Happening

/-- The position of the first of a list's elements of least rank. -/
def leastAt (le : Happening → Happening → Bool) : List Happening → Nat
  | [] => 0
  | x :: rest => if rest.all (fun y => le x y) then 0 else leastAt le rest + 1

/-- The happenings of a cycle in their order: at each point the one of least rank among those that none of the rest must come before. -/
def orderCycle (s : State) : Nat → List Happening → List Turn
  | 0, l => l.map (·.turn)
  | n + 1, l =>
    let free := l.filter (fun b => l.all (fun a => !Happening.before s a b))
    let c := if free.isEmpty then l.filter (fun b => l.all (fun a => !Happening.lockFirst a b)) else free
    match (c.drop (leastAt Happening.ranks c)).head? with
    | none => l.map (·.turn)
    | some x => x.turn :: orderCycle s n (l.eraseIdx (l.findIdx (fun y => y.turn == x.turn)))

/-- Whether a turn opens or closes a cycle. -/
def Turn.bounds : Turn → Bool
  | .cycle _ | .settle | .cycleEnd => true
  | _ => false

/-- The next n turns fall in one cycle: they are taken in the order of the rules' tables, those of equal rank as they arrived. -/
def openCycle (s : State) (n : Nat) : State :=
  let l : List Turn := (s.turns.take n).filter (fun t => !t.bounds) ++ [.settle]
  { s with inCycle := true, turns := orderCycle s l.length (l.map (happening s)) ++ .cycleEnd :: s.turns.drop n }

/-- Whether something of a slot lasts for one cycle. -/
def Slot.momentary (sl : Slot) : Bool := sl.cutNow || (match sl.group with | some g => StreamId.all.any (fun st => (g.stream st).woken != 0#64) | none => false)

/-- A cycle is over: a cut that began in it takes no more causes of that cycle (R389), and what waits for a register that became full can issue (R440). -/
def closeCycle (s : State) : State :=
  let s : State := { s with inCycle := false, now := s.now + 1 }
  (List.finRange 512).foldl (fun s p =>
    let sl := s.slot p
    if sl.momentary then s.setSlot p { sl with cutNow := false, group := sl.group.map wakeGroup } else s) s

/-- The rebuilt chain directory is in place (R429). -/
def directoryReady (s : State) : State := { s with dawn := { s.dawn with rebuilding := false } }

/-- A response of a lost die arrives at a live one: it is discarded as stale (R428). -/
def lateResponse (s : State) (k : Nat) : State :=
  match s.dawn.late[k]? with
  | none => s
  | some (d, gone) =>
    let s : State := { s with dawn := { s.dawn with late := s.dawn.late.eraseIdx k } }
    if dieLive s d then staleDiscard s d gone else s

/-- The next turn. -/
def takeTurn (s : State) : Ready :=
  match s.turns with
  | [] => nextInstr s
  | t :: rest =>
    let s := { s with turns := rest }
    match t with
    | .issue p st => nextInstr { s with curPlace := p, curStream := st }
    | .happen i => if isEvent i then .run i s else .bad
    | .tick d n => .idle (tick s d n)
    | .poison pa => .idle (findPoison s pa)
    | .poisonSpad c off => .idle (findSpadPoison s c off)
    | .damage p u => .idle (damageReg s p u)
    | .prefetch p st va => .idle (prefetchWord s p st va)
    | .dropTlb c k => .idle (dropTlb s c k)
    | .cycle n => .idle (openCycle s n)
    | .settle => .idle (settleBarriers s)
    | .cycleEnd => .idle (closeCycle s)
    | .entryFault c m slot => .idle (faultEntry s c m slot)
    | .directoryReady => .idle (directoryReady s)
    | .lateResponse k => .idle (lateResponse s k)

/-! ## An instruction placed for a step -/

/-- The stream that runs an instruction with a given major opcode (R38). -/
def streamForMajor (m : BitVec 7) : StreamId :=
  let n := m.toNat
  if n = 0x14 ∨ n = 0x15 ∨ (0x30 ≤ n ∧ n ≤ 0x4F) then .vec
  else if (0x50 ≤ n ∧ n ≤ 0x51) ∨ (0x53 ≤ n ∧ n ≤ 0x5D) then .mxe
  else if 0x60 ≤ n ∧ n ≤ 0x62 then .ldr
  else .ctl

/-- Bytes put at home points whatever stood there: no poison, the key in force. -/
def placeBytes (s : State) (pa : Nat) (bs : List Byte) : State :=
  { s with
    mem := splice s.mem pa bs
    epochs := setEpoch s.epochs (pa / 128) (epochNow s pa)
    poison := s.poison.filter (fun l => l ≠ pa / 128) }

/-- The launch record of a placed group. -/
def placedLaunch : LaunchRec :=
  { id := 1, rights := 0, ecc := 0, ovf := 0, rmode := 0, gang := false, cls := 0, asid := 0, g := 1, entries := Vector.replicate 5 0x1000,
    jobcard := 0, cpsched := 0, handler := 0, budget := 0, refill := 0, nlev := 0, user := 0, levels := Vector.replicate 8 0 }

/-- The state with an instruction placed for the next step (log 11): die C0 live, address space 0 mapping the first 4 GiB onto the same
physical addresses, a running group in slot 0 of core 0, and the instruction at the PC of the stream that accepts it. -/
def placeInstr (s : State) (nbits w : Nat) : State :=
  let st := streamForMajor (majorOf (BitVec.ofNat 32 w))
  let s := { s with dawn := { s.dawn with live := s.dawn.live ||| 1, rel := s.dawn.rel ||| 1 } }
  let s := s.setDie 0 { s.dies.get 0 with atabBase := 1, atabEn := true }
  let s := s.setCore 0 { s.cores.get 0 with tlb := [] }
  let s := placeBytes s 0x100000 (leBytes 8 0x200001)
  let s := placeBytes s 0x200000 (leBytes 8 0x300001)
  let s := placeBytes s 0x300000 (leBytes 8 0x7F)
  let s := placeBytes s 0x1000 (tableBytes nbits w)
  let sl := s.slot 0
  let g := match sl.group with | some g => g | none => newGroup placedLaunch 0 0 0
  let t := g.stream st
  let t := { t with pc := 0x1000, npc := 0x1004, npcOpen := true, ended := false, took := none, tookSets := ([], []), waiting := none, faults := [], answer := none, pre := [], stores := [] }
  let s := s.setSlot 0 { sl with
    state := .running, cutNow := false, dbg := { sl.dbg with stepping := false }
    group := some ({ g with lr := { g.lr with asid := 0 }, stopping := .no, trapped := none }.setStream st t) }
  { s with turns := [], curPlace := 0, curStream := st }

end Sys2Proof.Machine
end

