-- ==== Sys2Proof/Machine/Launch.lean ====
section
/-! DEFINITION. Sys2Proof/Machine/Launch.lean: launch records checked and accepted (R53 to R56, R317 to R319), and the entries of the task queues
(R235). -/

namespace Sys2Proof.Machine

open Sys2Proof

/-! ## Launch records (R53, R54, R56) -/

/-- The 32 dwords of a launch record. -/
def launchWords (s : State) (pa : Nat) : List (BitVec 64) := (List.range 32).map (fun i => homeDword s (pa + 8 * i))

/-- The number of live cores (R26). -/
def liveCores (s : State) : Nat := 32 * ((List.finRange 4).filter (fun d => dieLive s d)).length

/-- The natural scope of a domain (R54). -/
def naturalScope (domain : Nat) : Nat := Nat.min 5 (domain - 1)

/-- Whether a level table keeps to R54. -/
def levelsOk (ls : List (BitVec 64)) (nlev : Nat) : Bool :=
  let dom (i : Nat) : Nat := fieldOf (ls.getD i 0) 3 0
  let scope (i : Nat) : Nat := fieldOf (ls.getD i 0) 7 4
  (List.range 8).all (fun i =>
    if nlev < i then ls.getD i 0 == 0
    else
      (ls.getD i 0).extractLsb' 8 56 == 0#56 && decide (dom i ≤ 6 ∧ scope i ≤ 5 ∧ naturalScope (dom i) ≤ scope i) &&
      (i == 0 || decide (dom (i - 1) < dom i ∨ (dom (i - 1) = 6 ∧ dom i = 6))))

/-- Whether the reserved fields of a launch record are zero (R53). -/
def launchReserved (ds : List (BitVec 64)) : Bool :=
  let d (i : Nat) : BitVec 64 := ds.getD i 0
  (d 0).extractLsb' 48 16 == 0#16 && (d 2).extractLsb' 36 28 == 0#28 && (d 2).extractLsb' 30 2 == 0#2 && (d 2).extractLsb' 20 4 == 0#4 &&
  (d 3).extractLsb' 17 47 == 0#47 && (d 14).extractLsb' 3 61 == 0#61 && (ds.drop 24).all (· == 0)

/-- Whether a launch record is accepted (R56; RMODE, R123). -/
def launchOk (s : State) (ds : List (BitVec 64)) : Bool :=
  let d (i : Nat) : BitVec 64 := ds.getD i 0
  let entries := (ds.drop 4).take 5
  let g := fieldOf (d 3) 16 0
  (d 0).extractLsb' 0 32 == 0x53394C52#32 && (d 0).extractLsb' 32 16 == 1#16 && launchReserved ds && decide (1 ≤ g ∧ g ≤ 65536) &&
  entries.any (· != 0) && entries.all (fun e => e.extractLsb' 0 2 == 0#2) && levelsOk ((ds.drop 16).take 8) (fieldOf (d 14) 2 0) &&
  (!(d 2).getLsbD 19 || decide (g ≤ 512 ∧ g ≤ 4 * liveCores s)) && !(d 2).getLsbD 29 && d 1 != 0 && decide (fieldOf (d 2) 26 24 < 6)

/-- The fields of a launch record (R53). -/
def parseLaunch (ds : List (BitVec 64)) : LaunchRec :=
  let d (i : Nat) : BitVec 64 := ds.getD i 0
  let f := d 2
  { id := d 1, rights := f.extractLsb' 32 4, ecc := f.extractLsb' 28 2, ovf := f.extractLsb' 27 1, rmode := f.extractLsb' 24 3, gang := f.getLsbD 19,
    cls := f.extractLsb' 16 3, asid := f.extractLsb' 0 16, g := fieldOf (d 3) 16 0, entries := Vector.ofFn (fun i => d (4 + i.val)),
    jobcard := d 9, cpsched := d 10, handler := d 11, budget := d 12, refill := d 13, nlev := (d 14).extractLsb' 0 3, user := d 15,
    levels := Vector.ofFn (fun i => (d (16 + i.val)).extractLsb' 0 8) }

/-! ## Acceptance (R318, R319) -/

/-- A completion entry is due; once it is written, a scheduling event reports it to the host when SCHED is 1 (R335, R372). -/
def report (s : State) (lid dw1 : BitVec 64) : State := pushCpl s { lid := lid, dw1 := dw1, evt := true }

/-- A launch is accepted: it is live, and its groups wait to be bound. -/
def acceptLaunch (s : State) (lr : LaunchRec) (recPa : Nat) (recVa : BitVec 64) (index : BitVec 32) : State :=
  let l : Launch :=
    { lrec := lr, recPa := recPa, recVa := recVa, cls := lr.cls, spent := 0, budget := lr.budget.toNat, bound := 0, issued := 0, resumed := 0, ended := 0, sealed := [],
      index := index, ending := none }
  let s := { s with dawn := { s.dawn with launches := s.dawn.launches ++ [l], waiting := s.dawn.waiting ++ [.fresh lr.id 0] } }
  report s lr.id (cplDw1 1 lr.cls 0 index)

/-- A launch record is taken or refused: the cause for a record that breaks R56, and for one whose identifier is live. -/
def offerLaunch (s : State) (ds : List (BitVec 64)) (bad : Option (BitVec 10)) (live : BitVec 10) (recPa : Nat) (recVa : BitVec 64) (index : BitVec 32) : State :=
  let lr := parseLaunch ds
  let refuse (c : BitVec 10) : State := pushCpl s { lid := lr.id, dw1 := cplDw1 2 lr.cls c index }
  match bad with
  | some c => refuse c
  | none =>
    if launchOk s ds = false then refuse Cause.launchBad
    else if (findLaunch s lr.id).isSome then refuse live
    else acceptLaunch s lr recPa recVa index

/-! ## The launch queue (R317, R318) -/

/-- MAGIC of the launch queue header (R317). -/
def magicQueue : BitVec 32 := 0x4555514C

/-- Whether the header of the launch queue is one: its MAGIC, VERSION and LOGN, in an unpoisoned line. -/
def queueOk (s : State) : Bool :=
  (lqDword s 0).extractLsb' 0 32 == magicQueue && (lqDword s 0).extractLsb' 32 16 == 1#16 && decide (1 ≤ fieldOf (lqDword s 0x10) 4 0 ∧ fieldOf (lqDword s 0x10) 4 0 ≤ 16) &&
  !poisoned s s.dawn.lqaddr.toNat

/-- Whether there is a record to consume: from STAGE 3 on, with room for its completion entry and no entry waiting (R318, R364). -/
def mayConsume (s : State) : Bool :=
  s.dawn.stage == 3#4 && queueOk s && lqDword s 0x18 != lqDword s 0x20 && s.dawn.cpls.isEmpty && cplRoom s

/-- LAUNCH_CONSUME (R318): CONS rises, and the record is accepted or refused; one in a poisoned line is refused with MC_ECC (R414). -/
def execLaunchConsume (s : State) : Host.Outcome State Fault Refusal :=
  if mayConsume s then
    let cons := lqDword s 0x20
    let pa := fieldOf (lqDword s 8) 51 0 + 256 * (cons.toNat % lqSize s)
    let ds := launchWords s pa
    let bad := if poisoned s pa || poisoned s (pa + 128) then some Cause.mcEcc else none
    let s := l2Touch (l2Run s pa 256 none false false) (s.dawn.lqaddr.toNat + 0x20) none false true
    let s := homeWrite8 s (s.dawn.lqaddr.toNat + 0x20) (cons + 1)
    let va := Config.freeBits s.fresh 64
    .next (offerLaunch { s with fresh := s.fresh + 1 } ds bad Cause.launchLive pa va (cons.extractLsb' 0 32))
  else .next s

/-! ## Entries of the task queues (R235) -/

/-- The die whose tables the management core walks when no core is concerned: the lowest live one. -/
def coreDie (s : State) : DieId := ((List.finRange 4).find? (fun d => dieLive s d)).getD 0

/-- An access of the management core by virtual address, through the tables of a die: a SYS page is open to it, and A, and D for a write, are set
(R82 to R84). It gives the physical address. -/
def coreAccess (s : State) (d : DieId) (asid : BitVec 16) (va : BitVec 64) (kind : BitVec 2) : State × Option Nat :=
  if inWindow va then (s, none)
  else
    let s := walkTouch s d asid va
    match walk s d asid va with
    | .bad _ _ => (s, none)
    | .leaf e pte lg =>
      if permits e kind true then
        (setAD s pte e (e ||| 0x20#64 ||| (if kind = 1#2 then 0x40#64 else 0#64)), some (leafAddr e lg va))
      else (s, none)

/-- A record that the management core reads by virtual address, of the size it is aligned to: it lies in memory. -/
def coreReach (s : State) (asid : BitVec 16) (va : BitVec 64) (align : Nat) : State × Option Nat :=
  if va.toNat % align ≠ 0 then (s, none)
  else
    match coreAccess s (coreDie s) asid va 0 with
    | (s, some pa) =>
      if (region s pa).isHbm || (region s pa).isAttic then (l2Run s pa align (some (asid, va.toNat)) false false, some pa) else (s, none)
    | (s, none) => (s, none)

/-- The pages of an object that the management core reaches by virtual address, all in HBM, as accesses of a kind find them. -/
def coreObject (s : State) (d : DieId) (asid : BitVec 16) (va : BitVec 64) (kind : BitVec 2) : State × Option (List Nat) :=
  if va.toNat % 4096 ≠ 0 then (s, none)
  else
    (List.range 53).foldl (fun acc i =>
      match acc with
      | (s, none) => (s, none)
      | (s, some l) =>
        match coreAccess s d asid (va + BitVec.ofNat 64 (4096 * i)) kind with
        | (s, some pa) => (s, if (region s pa).isHbm then some (l ++ [pa]) else none)
        | (s, none) => (s, none)) (s, some [])

/-- A job-card entry that is refused: the identifier of the record concerned, where it can be read, and the cause (R235, R319). -/
def refuseChild (s : State) (t : Task) (lid : BitVec 64) (c : BitVec 10) : State :=
  pushCpl s { lid := lid, dw1 := cplDw1 2 (taskClass t.dws |> BitVec.ofFin) c 0xFFFFFFFF }

/-- A job-card entry: the child launch of the record at the card's LAUNCH, with the card and the entry's G put into it; it is refused when its maker's
launch has been ended (R394; log 20). -/
def startChild (s : State) (t : Task) (ended : Bool) : State :=
  let index : BitVec 32 := 0xFFFFFFFF
  match coreReach s t.asid t.dws[1] 64 with
  | (s, none) => refuseChild s t 0 Cause.launchBad
  | (s, some card) =>
    let recVa := homeDword s (card + 0x30)
    if poisoned s card then refuseChild s t 0 Cause.mcEcc
    else
      match coreReach s t.asid recVa 256 with
      | (s, none) => refuseChild s t 0 Cause.launchBad
      | (s, some pa) =>
        let ds := launchWords s pa
        if ended then refuseChild s t (parseLaunch ds).id Cause.launchBad else
        let g := t.dws[2].toNat % 65536 + 1
        let ds := (ds.set 3 ((ds.getD 3 0 &&& ~~~(0x1FFFF#64)) ||| BitVec.ofNat 64 g)).set 9 t.dws[1]
        let bad := if poisoned s pa || poisoned s (pa + 128) then some Cause.mcEcc else none
        offerLaunch s ds bad Cause.jobLive pa recVa index

/-- A continuation entry: the object is resumed under the compare of R314, against the version the entry carries, with the tables and the pool of the
lowest live die, in the place among resumes that its acceptance gave it (R321); one that fails is dropped. -/
def resumeTask (s : State) (t : Task) : State :=
  let d := coreDie s
  match coreObject s d t.asid t.dws[1] 1 with
  | (s, none) => s
  | (s, some m) =>
    if headPoisoned s m then s
    else
      let copy := decide (t.dws[1] ≠ objDword s m 0x20)
      let need := if copy then ((readPages s m).toList.filter (fun x => x.alloc)).length else 0
      match takeFrames need s d with
      | none => s
      | some (frames, s1) =>
        match headerCheck s m t.asid (fun r => r.getLsbD 0 && (!copy || r.getLsbD 1)) (t.dws[2].extractLsb' 0 32) with
        | some _ => s
        | none => queueResume (closeHeader s1 m 1) m false copy frames d t.no none

/-- A task record leaves its queue, and a placement that waits for its place enters (R236). -/
def leaveQueue (s : State) (c : Fin 8) (rest : List Task) : State := admitTask { s with dawn := { s.dawn with tasks := s.dawn.tasks.set c.val rest } } c

/-- The entry at the head of a task queue is taken. -/
def takeTask (s : State) (c : Fin 8) : State :=
  match s.dawn.tasks.get c with
  | [] => s
  | t :: rest =>
    let s := leaveQueue s c rest
    if t.dws[0].extractLsb' 60 4 = 1#4 then startChild s t false else resumeTask s t

/-- The task records of a launch that is ended are refused (R394): a job-card entry by a completion entry, a continuation entry by nothing, for none is
written of it (R318, R319). -/
def refuseTasks (s : State) (lid : BitVec 64) : State :=
  (List.finRange 8).foldl (fun s c =>
    let q := s.dawn.tasks.get c
    let own (t : Task) : Bool := t.lid == lid && taskClass t.dws == c
    let gone := q.filter (fun t => t.lid == lid) ++ s.dawn.held.filter own
    let s := { s with dawn := { s.dawn with
      held := s.dawn.held.filter (fun t => !own t), tasks := s.dawn.tasks.set c.val (q.filter (fun t => t.lid != lid)) } }
    let s := gone.foldl (fun s t => if t.dws[0].extractLsb' 60 4 = 1#4 then startChild s t true else s) s
    gone.foldl (fun s _ => admitTask s c) s) s

end Sys2Proof.Machine
end

