-- ==== Sys2Proof/Machine/Traps.lean ====
section
/-! DEFINITION. Sys2Proof/Machine/Traps.lean: save frames (R327, R328, R416), the delivery of a trap (R390, R391, R393 to R395), the return from a handler
(R392), the end of a launch by a trap (R394), and the watchdog (R399 to R402). -/

namespace Sys2Proof.Machine

open Sys2Proof

/-! ## Save frames (R327 steps 5 and 6, R328) -/

/-- An 8-byte unit of a register read as zero. -/
def zeroUnit {w : Nat} (x : BitVec w) (i : Nat) : BitVec w := x &&& ~~~(BitVec.ofNat w (2 ^ 64 - 1) <<< (64 * i))

/-- A register with an uncorrectable error as the cut saves it: the damaged unit zero, tag Raw, full (R416); units from 256 of a vector register and from
1,024 of a tile register lie in the sideband, which Raw leaves zero (R114). -/
def repairUnit (g : Group) (u : RegUnit) : Group :=
  match u with
  | .v r i =>
    let x := g.v.get r.toFin
    let x : VReg := if i < 256 then { x with data := zeroUnit x.data i } else x
    { g with v := g.v.set r.toNat { x with tag := 0, side := 0, full := true } r.isLt }
  | .t r i =>
    let x := g.t.get r.toFin
    let x : TReg := if i < 1024 then { x with data := zeroUnit x.data i } else x
    { g with t := g.t.set r.toNat { x with tag := 0, side := 0, full := true } r.isLt }
  | .p r i => { g with p := g.p.set r.toNat (zeroUnit (g.p.get r.toFin) i) r.isLt }

/-- The registers of a group as they are saved. -/
def repaired (g : Group) : Group := g.damaged.foldl repairUnit g

/-- The pages of a group are unpinned: their frames keep their contents (R69). -/
def unpin (s : State) (c : CoreId) (lid : BitVec 64) (gi : BitVec 16) (hdl : Bool) : State :=
  let core := s.cores.get c
  s.setCore c { core with frames := core.frames.map (fun f => if f.lid = lid ∧ f.gindex = gi ∧ f.hdl = hdl then { f with pinned := false } else f) }

/-- The save frame of the group at a place is written, and its STATE becomes 0. -/
def writeFrame (s : State) (p : Place) (g : Group) (frame : Nat) (record : Option (Vector (BitVec 64) 16)) : State :=
  let h : ObjHead :=
    { magic := magicSave, st := 3, rights := 0, rver := 0, asid := g.lr.asid, origin := BitVec.ofNat 64 frame, lid := g.lr.id, cls := g.cls,
      gindex := g.gindex, debt := (s.slot p).debt, record := record }
  let m := objPages frame
  objWrite8 (unpin (writeObject s m none h (repaired (settleGroup s p g))) (coreOf p) g.lr.id g.gindex g.trapped.isSome) m 0x10 (headState 0 0 0)

/-- The record in a frame changed (R75, R393). -/
def patchRecord (s : State) (frame : Nat) (f : BitVec 64 → BitVec 64) : State := objWrite8 (l2Touch s (objAddr (objPages frame) 0x80) none false true) (objPages frame) 0x80 (f (objDword s (objPages frame) 0x80))

/-- CAUSE2 of a record's first dword. -/
def withCause2 (c : BitVec 10) (d : BitVec 64) : BitVec 64 := (d &&& ~~~(0x3FF#64 <<< 32)) ||| (c.zeroExtend 64 <<< 32)

/-- MORE of a record's first dword one higher. -/
def withMore (d : BitVec 64) : BitVec 64 :=
  let n : BitVec 8 := d.extractLsb' 48 8
  if n = 255#8 then d else d + (1#64 <<< 48)

/-! ## The end of a launch by a trap (R394) -/

/-- A group of a launch that is being ended stops as R386 lays down; one whose save has begun is ended when the save would complete. -/
def stopForEnd (cause : BitVec 10) (s : State) (p : Place) : State :=
  let sl := s.slot p
  match sl.group with
  | none => s
  | some g =>
    if sl.state = .saving then s
    else
      match g.stopping with
      | .trap _ | .tret => s
      | _ =>
        let cut : Cut :=
          { hdl := g.trapped.isSome, async := false, isq := false, queue := 7, more := 0, cause2 := 0, stream := .ctl, cause := cause, info0 := 0, lvl := 0,
            kind := 0, fpc := 0, cycle := 0, who := 0 }
        s.setSlot p { sl with
          group := some { cancelAll g with stopping := .trap cut, halt := .none }, gen := sl.gen + 1, state := .fencing
          dbg := { sl.dbg with halted := false, stepping := false } }

/-- Waiting work of a launch is dropped: frames return to their pools, and groups that were saved are ended (R394). -/
def dropWaiting (s : State) (w : Waiting) : State :=
  match w with
  | .fresh _ _ => s
  | .saved lid gi frame c _ none => dropSaved s lid gi frame c
  | .saved lid gi frame c _ (some x) =>
    dropSaved (returnPages (dropFrames s c lid gi true) (readPages s (objPages frame)).toList) lid x.gindex x.frame x.core
  | .resume lid _ _ _ frames _ _ h _ _ =>
    let s := frames.foldl (fun s f => returnPool s (BitVec.ofNat 36 f)) s
    match h with
    | some x => dropSaved s lid x.gindex x.frame x.core
    | none => s

/-- A launch is ended with a cause (R394): its groups are stopped, its waiting work is dropped and its task records are refused, and records that would bind a group
of it are void; the completion entry follows when no group of it is left. -/
def endLaunch (s : State) (lid : BitVec 64) (cause : BitVec 10) : State :=
  match findLaunch s lid with
  | none => s
  | some l =>
    if l.ending.isSome then s
    else
      let s := refuseTasks (setLaunch s { l with ending := some cause }) lid
      let ws := s.dawn.waiting.filter (fun w => w.lidOf == lid)
      let fs := s.dawn.forwarded.filter (fun f => f.lid == lid)
      let s := { s with dawn := { s.dawn with
          waiting := s.dawn.waiting.filter (fun w => w.lidOf != lid)
          forwarded := s.dawn.forwarded.filter (fun f => f.lid != lid) } }
      let void (r : BindRec) : BindRec := if r.valid && r.lid == lid then r.clearV else r
      let s := (List.finRange 512).foldl (fun s p =>
        let sl := s.slot p
        if sl.pending && sl.brec.lid == lid then s.setSlot p { sl with brec := void sl.brec, pending := false } else s) s
      let s := (List.finRange 128).foldl (fun s c =>
        let core := s.cores.get c
        if core.standby.lid = lid then s.setCore c { core with standby := void core.standby } else s) s
      let s := (placesOf s lid).foldl (stopForEnd cause) s
      let s := ws.foldl dropWaiting s
      let s := fs.foldl (fun s f => dropSaved s lid f.grp.gindex f.grp.frame f.grp.core) s
      launchEnd s lid

/-! ## The paths of R390 -/

/-- A trap record is copied into the error log, as two records of 64 bytes, or sent (R394; log 20). -/
def logTrap (s : State) (r : List (BitVec 64)) : State := logDwords (logDwords s (r.take 8)) (r.drop 8)

/-- The record in a frame. -/
def frameRecord (s : State) (frame : Nat) : List (BitVec 64) := (List.range 16).map (fun i => objDword s (objPages frame) (0x80 + 8 * i))

/-- The paths after the handler's, for a group whose frame has been written: the host's (R395), else the management core's (R394). -/
def nextPath (s : State) (lid : BitVec 64) (x : Trapped) : State :=
  if msplitBit s 4 then
    let (s, q) := sendNew s 0x09 [BitVec.ofNat 64 x.frame]
    { s with dawn := { s.dawn with forwarded := s.dawn.forwarded ++ [{ seq := q, grp := x, lid := lid }] } }
  else
    let s := logTrap s (frameRecord s x.frame)
    dropSaved (endLaunch s lid x.cause) lid x.gindex x.frame x.core

/-- Pages 32 to 35 of a window, which hold the image of the trapped group (R391). -/
def imagePage (i : Nat) : Bool := decide (32 ≤ i ∧ i < 36)

/-- Delivery to the handler (R391 steps 2 to 4): the object is checked and the frames are taken; a failure goes on to the next path with HDL_FAIL (R393). -/
def toHandler (s : State) (lr : LaunchRec) (cls : BitVec 3) (x : Trapped) : State :=
  let fail (s : State) : State := nextPath (patchRecord s x.frame (withCause2 Cause.hdlFail)) lr.id x
  let d := dieOfCore x.core
  match coreObject s d lr.asid lr.handler 0 with
  | (s, none) => fail s
  | (s, some m) =>
    let rver : BitVec 32 := (objDword s m 0x10).extractLsb' 0 32
    if headPoisoned s m || (headerCheck s m lr.asid (fun r => r.getLsbD 0 && r.getLsbD 1) rver).isSome then fail s
    else
      let need := ((readPages s m).toList.zipIdx.filter (fun e => e.1.alloc && !imagePage e.2)).length
      match takeFrames (need + 4) s d with
      | none => fail s
      | some (frames, s) =>
        { s with dawn := { s.dawn with waiting := s.dawn.waiting ++ [.resume lr.id m cls false frames d true (some x) s.dawn.accepted none], accepted := s.dawn.accepted + 1 } }

/-- A handler group is over: its pages are freed and its slot (R392 step 2, R393), and the host hears of its end under SCHED = 1 (R335). -/
def endHandler (s : State) (p : Place) (g : Group) : State := groupEvt (vacate s p g) g.lr.id g.cls

/-- A handler group raised a cause of its own: the trapped group's trap takes the next path (R393). -/
def handlerFailed (s : State) (p : Place) (g : Group) (x : Trapped) (cause : BitVec 10) : State :=
  nextPath (patchRecord (endHandler s p g) x.frame (fun d => withMore (withCause2 cause d))) g.lr.id x

/-- A complete cut is delivered (R390), no debugger being attached. -/
def deliverTrap (s : State) (p : Place) (g : Group) (c : Cut) : State :=
  let sl := s.slot p
  let frame := sl.latched.savePa
  let record := trapRecord g c
  match g.trapped with
  | some x => handlerFailed s p g x c.cause
  | none =>
    let x : Trapped := { frame := frame, core := coreOf p, dw0 := (sl.latched.setClass g.cls).dw0, gindex := g.gindex, cause := c.cause }
    if g.lr.handler ≠ 0 ∧ frame ≠ 0 then toHandler (freeSlot (writeFrame s p g frame (some record)) p) g.lr g.cls x
    else if frame ≠ 0 ∧ msplitBit s 4 = true then nextPath (freeSlot (writeFrame s p g frame (some record)) p) g.lr.id x
    else endLaunch (logTrap s record.toList) g.lr.id c.cause

/-- Whether the launch of a group is being ended (R394). -/
def isEnding (s : State) (g : Group) : Bool := match findLaunch s g.lr.id with | some l => l.ending.isSome | none => true

/-- A halt that HREQ or the end of a step has asked for, once the streams' accesses are complete (R404). -/
def haltAsked (s : State) (p : Place) (g : Group) : State :=
  match g.halt with
  | .asked reason => if streamsQuiet s p g then haltGroup { s with fresh := s.fresh + 1 } p reason (haltRecord s p g reason) else s
  | .none => s

/-- CUT_COMPLETE (R386, R390, R404): a halt that was asked for takes place; with a debugger attached the group halts once its streams' accesses are complete; a group of a launch that is being ended
ends; a handler whose TRET has retired gives the trapped group back (R392 step 3). -/
def execCutComplete (p : Place) (s : State) : Host.Outcome State Fault Refusal :=
  match s.group p with
  | none => .next s
  | some g =>
    match g.stopping with
    | .trap c =>
      if isEnding s g then (if groupQuiet s p g && g.scat.isEmpty then .next (endGroup s p) else .next s)
      else if (s.slot p).dbg.att then
        (if streamsQuiet s p g then
           let s := haltGroup s p c.cause (trapRecord g c)
           .next (if (s.slot p).displacesNow || (s.slot p).preempting then preempt s p else s)
         else .next s)
      else if groupQuiet s p g && g.scat.isEmpty then .next (let s := deliverTrap s p g c
        match s.group p with
        | some h => if h.lr.id = g.lr.id ∧ isEnding s h = true then endGroup s p else s
        | none => s)
      else .next s
    | .tret =>
      match g.trapped with
      | none => .next s
      | some x =>
        if groupQuiet s p g && g.scat.isEmpty then
          let s := endHandler s p g
          if isEnding s g then .next (dropSaved s g.lr.id x.gindex x.frame x.core)
          else .next { s with dawn := { s.dawn with waiting := s.dawn.waiting ++ [.saved g.lr.id x.gindex x.frame x.core x.dw0 none] } }
        else .next s
    | .no => .next (haltAsked s p g)
    | _ => .next s

/-! ## TRET (R392) -/

/-- The image in the window is written to the frame, poison with it, with V of the record cleared. -/
def writeImage (s : State) (p : Place) (g : Group) (frame : Nat) : State :=
  (List.range (objLen / 128)).foldl (fun s i =>
    let off := 0x200000 + 128 * i
    let s := l2Touch s (frame + 128 * i) none false true
    let s' := homeWrite s (frame + 128 * i) ((List.range 128).map (fun k =>
      let b := spadByte s p g (off + k)
      if 128 * i + k = 0x87 then b &&& 0x7F#8 else b))
    if spadPoisoned s p g off then putPoison s' (frame + 128 * i) else s') s

/-- The checks of R392. -/
def imageOk (s : State) (m : List Nat) : Bool :=
  (objDword s m 0).extractLsb' 0 32 == magicSave && objDword s m 8 == BitVec.ofNat 64 objLen && (objDword s m 0x10).extractLsb' 62 2 == 0#2 &&
  sectionsOk s m && headReserved s m true && sectionReserved s m

/-- Whether a backing frame of the image's pages lies on no live die (R23). -/
def imageDead (s : State) (p : Place) (g : Group) : Option Nat := ((List.range 4).map (fun i => 0x200000 + 65536 * i)).find? (windowDead s p g)

/-- TRET: PRIV outside a handler group; it waits for the group's scratchpad stores and, as a release at .pkg, for its own writes, for the frames and the banks
of the image's pages (R68, R71, R102) and for what else the group does in the cycle of a trap (R407), then checks the image. -/
def tret (e : Env) : Act State :=
  match e.g.trapped with
  | none => .trap (.plain Cause.priv)
  | some x =>
    let spad (r : StoreReq) : Bool := r.parts.any (fun q => (match q.loc with | .spad _ => true | .mem _ => false) ||
      (match q.scale with | some y => (match y.loc with | .spad _ => true | .mem _ => false) | none => false))
    let stopped : Bool := match e.g.stopping with | .trap _ => true | _ => false
    if stopped || StreamId.all.any (fun st => (e.g.stream st).stores.any spad) || !releaseDone e.s e.p e.t 4 || bankLocked e.s e.p none 0x200000 objLen then .wait e.s
    else
      match imageDead e.s e.p e.g with
      | some off => .trap (Trap.at Cause.paNodie (BitVec.ofNat 64 (windowBase + off)) 0)
      | none =>
        match readyPages e.s e.p e.g ((List.range 4).map (fun i => .spad (0x200000 + 65536 * i))) with
        | .wait s => .wait s
        | .ready s0 =>
          let s := writeImage s0 e.p e.g x.frame
          if imageOk s (objPages x.frame) then .done s else .trapIn s0 (.plain Cause.coDesc)

/-- After TRET the handler group stops. -/
def stopHandler (e : Env) (s : State) : State :=
  let sl := s.slot e.p
  match sl.group with
  | none => s
  | some g => s.setSlot e.p { sl with group := some { cancelAll g with stopping := .tret }, gen := sl.gen + 1, state := .fencing }

def execTret (r : BitVec 4) (s : State) := plainThen anyStream r 0 tret stopHandler s

/-! ## The watchdog (R399 to R402) -/

/-- Whether a watchdog of a slot acts: while its group runs, and in the cycle in which its cut began (R401, R407). -/
def watched (sl : Slot) : Bool := sl.state == .running || sl.cutNow

/-- WATCHDOG_STREAM (R401): at the stream's instruction, unless that has raised a cause of this cut. -/
def execWatchdogStream (p : Place) (st : StreamId) (s : State) : Host.Outcome State Fault Refusal :=
  match s.group p with
  | none => .next s
  | some g =>
    let t := g.stream st
    if watched (s.slot p) = true ∧ t.ended = false ∧ t.raised = false ∧ t.limit ≤ t.wdcnt then
      .next (raise s p { stream := st, queue := none, async := false, fpc := t.pc }
        { cause := Cause.watchdog, info0 := BitVec.ofNat 64 t.limit, lvl := 0, kind := 0 })
    else .next s

/-- WATCHDOG_QUEUE_HEAD (R402): INFO0 stays 0, for R401 alone sets it (R388); the head keeps its command unstarted, and its tokens return (R45). A COLWAIT that
has started and waits too long is unstarted again (R306). -/
def execWatchdogQueueHead (p : Place) (q : QueueId) (s : State) : Host.Outcome State Fault Refusal :=
  match s.group p with
  | none => .next s
  | some g =>
    match (watchedEntries (g.queue q)).find? (fun e => !e.raised && decide ((g.stream e.stream).limit ≤ e.headCnt)) with
    | none => .next s
    | some e =>
      if watched (s.slot p) then
        .next (raiseHead (s.setGroup p (g.mapEntry q e.id (fun e => { e with headCnt := 0 }))) p q e
          (.plain Cause.watchdog))
      else .next s

end Sys2Proof.Machine
end

