-- ==== Sys2Proof/Machine/Pick.lean ====
section
/-! DEFINITION. Sys2Proof/Machine/Pick.lean: the choice of what runs next (R321, R331, R332, R55). -/

namespace Sys2Proof.Machine

open Sys2Proof

/-! ## Waiting work -/

/-- The pages of a save frame, as a count of 4 KiB. -/
def framePages : Nat := 53

/-- Whether a record names a group that waits. -/
def BindRec.names (r : BindRec) : Waiting → Bool
  | .fresh _ _ => false
  | .saved lid _ frame _ _ _ => r.valid && r.kind == 3#3 && r.lid == lid && r.objPa == frame
  | .resume lid m _ _ _ _ _ _ _ _ => r.valid && r.kind == 2#3 && r.lid == lid && r.objPa == m.getD 0 0

/-- Whether the record of a slot will bind a waiting group. -/
def inSlot (s : State) (w : Waiting) : Bool :=
  s.slots.toList.any (fun sl => ((sl.pending || sl.dusk) && sl.brec.names w) || (sl.state == .binding && sl.latched.names w))

/-- The core whose standby record names a waiting group (R331). -/
def standbyFor (s : State) (w : Waiting) : Option CoreId := (List.finRange 128).find? (fun c => (s.cores.get c).standby.names w)

/-- Whether a launch is a gang (R55). -/
def isGangLaunch (s : State) (lid : BitVec 64) : Bool := match findLaunch s lid with | some l => l.lrec.gang | none => false

/-- The class of waiting work. -/
def waitingClass (s : State) : Waiting → BitVec 3
  | .fresh lid _ => match findLaunch s lid with | some l => l.cls | none => 7
  | .saved _ _ _ _ dw0 _ => dw0.extractLsb' 54 3
  | .resume _ _ c _ _ _ _ _ _ _ => c

/-- Resumes in the order in which they, or the task-queue entries they come from, were accepted (R321). -/
def inOrder (ws : List Waiting) : List Waiting :=
  let no : Waiting → Nat := fun w => match w with | .resume _ _ _ _ _ _ _ _ n _ => n | _ => 0
  ws.mergeSort (fun a b => decide (no a ≤ no b))

/-- What can be picked. -/
inductive Pick where
  | group (w : Waiting)
  | task (c : Fin 8)
  | standby (c : CoreId)
  deriving DecidableEq, Repr

/-- The cores whose standby holds a group of a launch that has not been bound before. -/
def standbyFresh (s : State) : List CoreId :=
  (List.finRange 128).filter (fun k => let r := (s.cores.get k).standby; r.valid && r.kind == 1#3)

/-- The pick of a waiting group: a dusk group waits in its core's standby. -/
def pickFor (s : State) (w : Waiting) : Pick := match standbyFor s w with | some c => .standby c | none => .group w

/-- Waiting work of a class in the order of R321: pre-empted groups, oldest first; resumes and the head of the task queue, in the order they were
accepted; accepted launches. A dusk group in a core's standby is waiting work of class 7 of its kind. -/
def picksOf (s : State) (c : Fin 8) : List Pick :=
  let ws := s.dawn.waiting.filter (fun w => decide ((waitingClass s w).toNat = c.val) && !inSlot s w)
  let saved := ws.filter (fun w => match w with | .saved .. => true | _ => false)
  let fresh := ws.filter (fun w => match w with | .fresh .. => true | _ => false)
  let before (n : Nat) : Waiting → Bool := fun w => match w with | .resume _ _ _ _ _ _ _ _ no _ => decide (no < n) | _ => false
  let after (n : Nat) : Waiting → Bool := fun w => match w with | .resume _ _ _ _ _ _ _ _ no _ => decide (n ≤ no) | _ => false
  let stand : List Pick := if c = 7 then (standbyFresh s).map .standby else []
  let mid : List Pick := match (s.dawn.tasks.get c).head? with
    | none => (inOrder (ws.filter (after 0))).map (pickFor s)
    | some t => (inOrder (ws.filter (before t.no))).map (pickFor s) ++ [.task c] ++ (inOrder (ws.filter (after t.no))).map (pickFor s)
  saved.map (pickFor s) ++ mid ++ stand ++ fresh.map .group

/-! ## Places -/

/-- A slot of a live core that a record can take now. -/
def placeFree (s : State) (p : Place) : Bool := (s.slot p).state == .free && !(s.slot p).pending && dieLive s (dieOfPlace p)

/-- Whether an occupant can be displaced: bound, not being stopped, with a save frame and no record waiting. -/
def Slot.displaceable (sl : Slot) : Bool :=
  (sl.state == .running || sl.state == .held || sl.state == .halted) && !sl.pending && !sl.dusk && sl.latched.savePa != 0 &&
  (match sl.group with | some g => (match g.stopping with | .no => true | _ => false) | none => false)

/-- A pre-emptible occupant for work of a class (R321): a gang is displaced as a whole (R55). -/
def victimOk (s : State) (cls : BitVec 3) (p : Place) : Bool :=
  (s.slot p).displaceable && dieLive s (dieOfPlace p) &&
  (match s.group p with
   | some g => decide (cls ≤ g.cls) && (!g.lr.gang || (placesOf s g.lr.id).all (fun q => (s.slot q).displaceable))
   | none => false)

/-- The class and the cycles left by which occupants are compared. -/
def victimKey (s : State) (p : Place) : Nat × Nat :=
  ((match s.group p with | some g => g.cls.toNat | none => 0), (s.slot p).left.toNat)

/-- The better of two occupants to displace: the higher class, then the fewer cycles left, then the lower place. -/
def betterVictim (s : State) (old : Option Place) (p : Place) : Option Place :=
  match old with
  | none => some p
  | some q =>
    let a := victimKey s q
    let b := victimKey s p
    if a.1 < b.1 ∨ (a.1 = b.1 ∧ b.2 < a.2) then some p else old

/-- Whether a place lies on the core that work is bound to. -/
def onCore (only : Option CoreId) (p : Place) : Bool := match only with | some c => coreOf p == c | none => true

/-- The place for work of a class, and whether an occupant is displaced: the lowest free slot, else the occupant R321 names. -/
def findPlace (s : State) (cls : BitVec 3) (only : Option CoreId) (taken : List Place) : Option (Place × Bool) :=
  let all := (List.finRange 512).filter (fun p => onCore only p && !taken.contains p)
  match all.find? (placeFree s) with
  | some p => some (p, false)
  | none => ((all.filter (victimOk s cls)).foldl (betterVictim s) none).map (fun p => (p, true))

/-- Places for several groups in one round; none unless each gets one. -/
def findPlaces (s : State) (cls : BitVec 3) : List (Option CoreId) → List Place → Option (List (Place × Bool))
  | [], _ => some []
  | c :: rest, taken =>
    match findPlace s cls c taken with
    | none => none
    | some x => (findPlaces s cls rest (x.1 :: taken)).map (fun l => x :: l)

/-! ## Plans -/

/-- What one pick does. -/
inductive Plan where
  /-- The head of a task queue is taken. -/
  | task (c : Fin 8)
  /-- The standby of a core takes a free slot of it, or waits in a slot for the slice end of an occupant of its class. -/
  | standbyOut (c : CoreId) (p : Place)
  /-- Records are written at places, displacing the occupants marked. -/
  | bind (ws : List Waiting) (ps : List (Place × Bool)) (hold : Bool)
  /-- A dusk group goes into the standby of a core (R331). -/
  | standbyIn (w : Waiting) (c : CoreId)
  deriving DecidableEq, Repr

/-- The core that a pre-empted group is bound to (R321). -/
def Waiting.core : Waiting → Option CoreId
  | .saved _ _ _ c _ _ => some c
  | _ => none

/-- A core whose standby is not in use and whose occupants can all be made pre-emptible. -/
def standbyOpen (s : State) (c : CoreId) : Bool :=
  dieLive s (dieOfCore c) && !(s.cores.get c).standby.valid &&
  (List.finRange 512).all (fun p => coreOf p != c || !(s.slot p).dusk && ((s.slot p).state == .free || (s.slot p).latched.savePa != 0 || !(s.slot p).pending))

/-- Whether groups of a gang are bound or on their way in or out. -/
def gangAbout (s : State) (lid : BitVec 64) : Bool := !(placesOf s lid).isEmpty

/-- Whether some group of a gang is being pre-empted. -/
def gangLeaving (s : State) (lid : BitVec 64) : Bool :=
  (placesOf s lid).any (fun p =>
    let sl := s.slot p
    sl.state == .saving || sl.displacesNow || (match sl.group with | some g => (match g.stopping with | .preempt => true | _ => false) | none => false))

/-- The plan for a group: a gang is bound and rebound together, always under HOLD (R55, R332); a member that alone was away, for its trap, comes back
alone. -/
def planGroup (s : State) (w : Waiting) : Option Plan :=
  let lid := w.lidOf
  let cls := waitingClass s w
  let alone : Option Plan :=
    match findPlace s cls w.core [] with
    | some x => some (.bind [w] [x] false)
    | none =>
      if cls = 7#3 then
        ((List.finRange 128).find? (fun c => (match w.core with | some k => k == c | none => true) && standbyOpen s c)).map (.standbyIn w)
      else none
  if isGangLaunch s lid then
    match w with
    | .fresh _ gi =>
      let (g, issued) := match findLaunch s lid with | some l => (l.lrec.g, l.issued) | none => (0, 0)
      if gi < issued then (findPlace s cls none []).map (fun x => .bind [w] [x] true)
      else (findPlaces s cls (List.replicate g none) []).map (fun ps => .bind ((List.range g).map (.fresh lid)) ps true)
    | .saved .. =>
      if gangAbout s lid then (if gangLeaving s lid then none else (findPlace s cls w.core []).map (fun x => .bind [w] [x] true))
      else
        let ws := s.dawn.waiting.filter (fun x => x.lidOf == lid && (match x with | .saved .. => true | _ => false))
        (findPlaces s cls (ws.map Waiting.core) []).map (fun ps => .bind ws ps true)
    | .resume .. => (findPlace s cls none []).map (fun x => .bind [w] [x] true)
  else alone

/-- The plan for what was picked; none when it has no place now. A dusk group in a standby is placed on its core as other work of its class is: in a free slot, else
with PRE = 0 behind an occupant of class 7 (R321). -/
def planOf (s : State) : Pick → Option Plan
  | .group w => planGroup s w
  | .task c => (findPlace s (BitVec.ofFin c) none []).map (fun _ => .task c)
  | .standby c =>
    if (List.finRange 512).any (fun p => coreOf p == c && (s.slot p).dusk) then none
    else (findPlace s 7 (some c) []).map (fun x => .standbyOut c x.1)

/-! ## Save frames -/

/-- The save frames that a record names. -/
def BindRec.frames (r : BindRec) : List Nat :=
  (if r.valid && r.savePa != 0 then [r.savePa] else []) ++ (if r.valid && r.kind == 3#3 then [r.objPa] else [])

/-- The save frames in use: those that records name, and those that hold groups. -/
def framesInUse (s : State) : List Nat :=
  s.slots.toList.flatMap (fun sl =>
    sl.brec.frames ++ (if sl.state = .free then [] else sl.latched.frames) ++
    (match sl.group with | some g => (match g.trapped with | some x => [x.frame] | none => []) | none => [])) ++
  s.cores.toList.flatMap (fun c => c.standby.frames) ++
  s.dawn.waiting.flatMap (fun w => match w with
    | .fresh _ _ => []
    | .saved _ _ f _ _ h => f :: (match h with | some x => [x.frame] | none => [])
    | .resume _ _ _ _ _ _ _ h _ _ => match h with | some x => [x.frame] | none => []) ++
  s.dawn.forwarded.map (fun f => f.grp.frame)

/-- Whether two frames overlap. -/
def framesMeet (a b : Nat) : Bool := decide (a < b + framePages * 4096 ∧ b < a + framePages * 4096)

/-- Whether a frame can be given to a record: it lies in the HBM range of a live die, and meets no frame in use but the one the group comes from (R328). -/
def frameOk (s : State) (own : Option Nat) (pa : Nat) : Bool :=
  (region s pa).isHbm && (region s (pa + framePages * 4096 - 1)).isHbm && (framesInUse s).all (fun f => own == some f || !framesMeet f pa)

/-- Whether the SAVE chosen for a place is one the management core writes: no zero on a core whose standby is valid (R331). -/
def saveOk (s : State) (p : Place) (w : Waiting) (pa : Nat) : Bool :=
  if pa = 0 then !(s.cores.get (coreOf p)).standby.valid
  else frameOk s (match w with | .saved _ _ f _ _ _ => some f | _ => none) pa

/-! ## Writing the records -/

/-- A record is written: its upper dwords, then the dword that acts (R322). -/
def putRecord (s : State) (p : Place) (r : BindRec) : State := writeRecord (s.setSlot p { s.slot p with brec := { r with dw0 := (s.slot p).brec.dw0 } }) p r.dw0

/-- The record that binds a waiting group. -/
def recordFor (s : State) (w : Waiting) (pre hold : Bool) (save : Nat) (slice : BitVec 32) : BindRec :=
  let cls := waitingClass s w
  let mk (kind : BitVec 3) (halt : Bool) (gi : BitVec 16) (obj : Nat) : BindRec :=
    { dw0 := bindDw0 kind pre hold halt cls slice gi, lid := w.lidOf, obj := BitVec.ofNat 64 obj, save := BitVec.ofNat 64 save }
  match w with
  | .fresh lid gi => mk 1 false (BitVec.ofNat 16 gi) (match findLaunch s lid with | some l => l.recPa | none => 0)
  | .saved _ gi frame _ dw0 _ => mk 3 (dw0.getLsbD 57) gi frame
  | .resume _ m _ insp _ _ _ h _ _ => mk 2 insp (match h with | some x => x.gindex | none => BitVec.ofNat 16 (objNat s m 0x30 2)) (m.getD 0 0)

/-- A launch's group has been given a record: the next one waits in its place, unless the group waited again, its record having been lost (R429). -/
def advanceFresh (s : State) (w : Waiting) : State :=
  match w with
  | .fresh lid gi =>
    match findLaunch s lid with
    | none => s
    | some l =>
      if gi < l.issued then { s with dawn := { s.dawn with waiting := s.dawn.waiting.erase w } }
      else
        let s := setLaunch s { l with issued := gi + 1 }
        let step (x : Waiting) : Option Waiting := if x = w then (if gi + 1 < l.lrec.g then some (.fresh lid (gi + 1)) else none) else some x
        { s with dawn := { s.dawn with waiting := s.dawn.waiting.filterMap step } }
  | _ => s

/-- When a gang's group makes way, the rest of the gang is pre-empted by records with V = 0 (R333), but for places that get a record of their own. -/
def clearGang (s : State) (p : Place) (kept : List Place) : State :=
  match s.group p with
  | none => s
  | some g =>
    if g.lr.gang then
      ((placesOf s g.lr.id).filter (fun q => q != p && !kept.contains q)).foldl (fun s q => putRecord s q BindRec.reset) s
    else s

/-- One record of a plan is written: PRE is set when the work's class is numerically below the occupant's. -/
def writePlanned (kept : List Place) (hold : Bool) (slice : BitVec 32) (s : State) (x : Waiting × (Place × Bool) × Nat) : State :=
  let (w, (p, displace), save) := x
  let pre := displace && (match s.group p with | some g => decide (waitingClass s w < g.cls) | none => false)
  let s := if displace && pre then clearGang s p kept else s
  advanceFresh (putRecord s p (recordFor s w pre hold save slice)) w

/-- An occupant of a core whose SAVE is 0 gets one (R331). -/
def giveSave (s : State) (p : Place) (pa : Nat) : State :=
  let sl := s.slot p
  if sl.state ≠ .free ∧ sl.latched.savePa = 0 then putRecord s p { sl.latched with save := BitVec.ofNat 64 pa } else s

/-- A plan is carried out with the frames and the slice that the management core chose; none when it may not choose them so. -/
def carryOut (s : State) (save : BitVec 40) (slice : BitVec 32) : Plan → Option State
  | .task c => some (takeTask s c)
  | .standbyOut c p =>
    let core := s.cores.get c
    some (putRecord (s.setCore c { core with standby := core.standby.clearV }) p core.standby)
  | .bind ws ps hold =>
    let xs := (ws.zip ps).zipIdx.map (fun x => (x.1.1, x.1.2, if save = 0 then 0 else (save.toNat + framePages * x.2) * 4096))
    if xs.all (fun x => saveOk s x.2.1.1 x.1 x.2.2) then some (xs.foldl (writePlanned (ps.map Prod.fst) hold slice) s) else none
  | .standbyIn w c =>
    let frame (k : Nat) : Nat := (save.toNat + framePages * k) * 4096
    let own : Option Nat := match w with | .saved _ _ f _ _ _ => some f | _ => none
    if save ≠ 0 ∧ frameOk s own (frame 0) = true ∧ (List.range 4).all (fun k => frameOk s none (frame (k + 1))) = true then
      let r := recordFor s w false false (frame 0) slice
      let core := s.cores.get c
      let s := s.setCore c { core with standby := { r with dw0 := core.standby.dw0 } }
      let s := writeStandby s c r.dw0
      let s := (List.finRange 4).foldl (fun s k => giveSave s ⟨c.val * 4 + k.val, by omega⟩ (frame (k.val + 1))) s
      some (advanceFresh s w)
    else none

/-- The first of the waiting work, in the order of R321, that has a place. -/
def nextPlan (s : State) : Option Plan := ((List.finRange 8).flatMap (picksOf s)).findSome? (planOf s)

/-- SCHEDULE_PICK (R321): in hardware mode, the next work gets its record; in host-assisted mode the management core takes only task-queue entries, and the host
returns the records (R335). -/
def execSchedulePick (save : BitVec 40) (slice : BitVec 32) (s : State) : Host.Outcome State Fault Refusal :=
  if s.dawn.stage ≠ 3#4 then .next s
  else if msplitBit s 0 then
    match (List.finRange 8).find? (fun c => !(s.dawn.tasks.get c).isEmpty) with
    | some c => .next (takeTask s c)
    | none => .next s
  else
    match nextPlan s with
    | none => .next s
    | some pl => .next ((carryOut s save slice pl).getD s)

end Sys2Proof.Machine
end

