-- ==== Sys2Proof/Machine/Bind.lean ====
section
/-! DEFINITION. Sys2Proof/Machine/Bind.lean: bind records written, binds, switches, saves and slices (R322 to R333, R434). -/

namespace Sys2Proof.Machine

open Sys2Proof

/-! ## BIND_RECORD_WRITE (R322, R323, R331) -/

/-- The first dword of slot k's record of a core is written, or with k = 4 that of the core's standby record. -/
def execBindRecordWrite (core : CoreId) (k : Fin 5) (v : BitVec 64) (s : State) : Host.Outcome State Fault Refusal :=
  if dieLive s (dieOfCore core) = false then .next s
  else if h : k.val < 4 then .next (writeRecord s ⟨core.val * 4 + k.val, by omega⟩ v)
  else .next (writeStandby s core v)

/-! ## BIND (R326) -/

/-- A group takes its slot: the first slice starts, under HOLD or HALT as its record says (R326), HALT first where it says both (log 76); an HREQ written while it
was being bound asks for its halt (R403), and a record that waits acts at once (R337). -/
def seat (s : State) (p : Place) (g : Group) (debt : BitVec 32) (reason : BitVec 10) (record : Option (Vector (BitVec 64) 16)) : State :=
  let sl := s.slot p
  let halt := sl.latched.halt
  let st : SlotState := if halt then .halted else if sl.latched.hold then .held else .running
  let d := sl.dbg
  let dbg : Debug :=
    if halt then { d with att := true, halted := true, stepping := false, reason := reason, record := (match record with | some r => r | none => d.record) }
    else { d with halted := false, stepping := false }
  let g := if d.hreq && !halt then askStop g Cause.dbgHalt else g
  let s := startSlice (s.setSlot p { sl with group := some g, state := st, debt := debt, dbg := { dbg with hreq := false } }) p
  if (s.slot p).displacesNow then preempt s p else s

/-- A bind that cannot be carried out is abandoned: the slot stays free (R326, R394). -/
def abandon (s : State) (p : Place) (err : Bool) : State :=
  let sl := s.slot p
  freeSlot (s.setSlot p { sl with err := sl.err || err }) p

/-- The launch of a record, while groups of it can be bound (R394). -/
def bindableLaunch (s : State) (lid : BitVec 64) : Option Launch :=
  match findLaunch s lid with
  | some l => if l.ending.isSome then none else some l
  | none => none

/-- A new group (R35): from the checked record of its launch, or from a record elsewhere that the host names. -/
def bindNew (s : State) (p : Place) (l : Launch) : State :=
  let r := (s.slot p).latched
  let own := decide (r.objPa = l.recPa)
  let lr := if own then l.lrec else parseLaunch (launchWords s r.objPa)
  let va := if own then l.recVa else Config.freeBits s.fresh 64
  let s := setLaunch { s with fresh := s.fresh + 1 } { l with bound := l.bound + 1 }
  let s := if l.issued ≤ r.gindex.toNat then advanceFresh s (.fresh l.lrec.id r.gindex.toNat) else s
  seat s p (newGroup lr va r.gindex r.cls) 0 Cause.brkHit none

/-- Whether some line of an object is poisoned. -/
def objPoisoned (s : State) (m : List Nat) : Bool := (List.range (objLen / 128)).any (fun i => poisoned s (objAddr m (128 * i)))

/-- The first poisoned line of an object. -/
def badLine (s : State) (m : List Nat) : Nat :=
  (((List.range (objLen / 128)).map (fun i => objAddr m (128 * i))).find? (poisoned s)).getD (m.getD 0 0) / 128 * 128

/-- The record of a restore that failed, with the line it met (R409, R434). -/
def logRestore (s : State) (pa : Nat) (lid : BitVec 64) : State :=
  let d := dieOf pa
  logErr { s with fresh := s.fresh + 1 }
    { src := 14, kind := 2, die := BitVec.ofNat 4 d.val, core := 0, sub := 0, count := 0, cause := Cause.mcEcc, addr := BitVec.ofNat 64 pa, lid := lid,
      cycle := (s.dies.get d).cycle, synd := Config.freeBits s.fresh 64 }

/-- A run of memory is copied line by line, poison with it (R413). -/
def copyRun (s : State) (src dst n : Nat) : State :=
  (List.range (n / 128)).foldl (fun s i =>
    let s := l2Touch (l2Touch s (src + 128 * i) none false false) (dst + 128 * i) none false true
    let s' := homeWrite s (dst + 128 * i) (homeBytes s (src + 128 * i) 128)
    if poisoned s (src + 128 * i) then putPoison s' (dst + 128 * i) else s') s

/-- The pages of a copy: each allocated page goes to one of the frames taken for it, in ascending order; the image of a trapped group takes the last four,
as pages 32 to 35 (R314, R391). -/
def copyPages : Nat → List (PageEntry × Nat) → List Nat → Bool → State → List PageEntry → State × List PageEntry
  | _, [], _, _, s, acc => (s, acc.reverse)
  | image, (e, i) :: rest, frames, handler, s, acc =>
    if handler && imagePage i then copyPages image rest frames handler s ({ back := BitVec.ofNat 36 (image + (i - 32)), alloc := true } :: acc)
    else if e.alloc then
      let f := frames.headD 0
      copyPages image rest (frames.drop 1) handler (copyRun s (e.back.toNat * 65536) (f * 65536) 65536) ({ back := BitVec.ofNat 36 f, alloc := true } :: acc)
    else copyPages image rest frames handler s (e :: acc)

/-- A resume that waits, named by the record at a place. -/
def waitingResume (s : State) (r : BindRec) : Option Waiting := s.dawn.waiting.find? (fun w => { r with dw0 := r.dw0 ||| (1#64 <<< 63) }.names w)

/-- Waiting work that has been bound is gone from the list. -/
def dropFirst (s : State) (w : Waiting) : State := { s with dawn := { s.dawn with waiting := s.dawn.waiting.erase w } }

/-- A continuation that cannot be read: it becomes resumable again, its frames return, and the slot stays free; a handler object so found sends the trap on
its next path (R434, R393). -/
def failResume (s : State) (p : Place) (l : Launch) (m : List Nat) (frames : List Nat) (handler : Option Trapped) : State :=
  let s := frames.foldl (fun s f => returnPool s (BitVec.ofNat 36 f)) s
  let s := logRestore s (badLine s m) l.lrec.id
  match handler with
  | some x => nextPath (patchRecord (freeSlot s p) x.frame (withCause2 Cause.hdlFail)) l.lrec.id x
  | none =>
    let s := objWrite8 s m 0x10 (withState (objDword s m 0x10) 0)
    let s := setLaunch s { l with resumed := l.resumed - 1, sealed := m.getD 0 0 :: l.sealed }
    launchEnd (freeSlot s p) l.lrec.id

/-- A continuation (R314, R391): its pages are restored, or copied to the frames taken for them; the image of a trapped group lies in pages 32 to 35. -/
def bindResume (s : State) (p : Place) (l : Launch) : State :=
  let r := (s.slot p).latched
  let w := waitingResume s r
  let (m, frames, copy, handler) : List Nat × List Nat × Bool × Option Trapped := match w with
    | some (.resume _ m _ _ frames _ copy h _ _) => (m, frames, copy, h)
    | _ => (objPages r.objPa, [], false, none)
  let s := match w with | some w => dropFirst s w | none => s
  let s := objTouch s m none false
  if objPoisoned s m then failResume s p l m frames handler
  else
    let gi : BitVec 16 := match handler with | some x => x.gindex | none => (objDword s m 0x30).extractLsb' 0 16
    let g := readGroup s m l.lrec gi r.cls
    let (s, g) : State × Group :=
      if copy then
        let handles := handler.isSome
        let n := if handles then frames.length - 4 else frames.length
        let fs := frames.take n
        let image := frames.drop n
        let (s, pages) := copyPages 0 g.pages.toList.zipIdx fs handles s []
        let pages := if handles then pages.zipIdx.map (fun e => if imagePage e.2 then { back := BitVec.ofNat 36 (image.getD (e.2 - 32) 0), alloc := true } else e.1) else pages
        let s := match handler with
          | some x => (List.range 4).foldl (fun s k => copyRun s (x.frame + 65536 * k) (image.getD k 0 * 65536) (Nat.min 65536 (objLen - 65536 * k))) s
          | none => s
        (s, { g with pages := Vector.ofFn (fun i => pages.getD i.val { back := 0, alloc := false }) })
      else (s, g)
    seat s p { g with trapped := handler } 0 Cause.brkHit none

/-- The frames that a group rebound on a core finds there are pinned again; those it left on other cores are written back and freed (R69). -/
def repin (s : State) (c : CoreId) (lid : BitVec 64) (gi : BitVec 16) (hdl : Bool) : State :=
  (List.finRange 128).foldl (fun s k =>
    let core := s.cores.get k
    let own (f : Frame) : Bool := f.lid == lid && f.gindex == gi && f.hdl == hdl
    if k = c then s.setCore k { core with frames := core.frames.map (fun f => if own f then { f with pinned := true } else f) }
    else
      let s := (core.frames.filter own).foldl (fun s f => writeBackFrame s k f) s
      s.setCore k { s.cores.get k with frames := core.frames.filter (fun f => !own f) }) s

/-- A save frame (R326, R328): one whose MAGIC or STATE is wrong is not bound, nor is one that holds a register tag R111 reserves (log 79); one with an
uncorrectable error ends the launch (R434). -/
def bindSaved (s : State) (p : Place) (l : Launch) : State :=
  let r := (s.slot p).latched
  let m := objPages r.objPa
  let s := objTouch s m none false
  let w := s.dawn.waiting.find? (fun w => match w with | .saved lid _ f _ _ _ => lid == r.lid && f == r.objPa | _ => false)
  if objPoisoned s m then
    let s := logRestore s (badLine s m) l.lrec.id
    endLaunch (freeSlot s p) l.lrec.id Cause.mcEcc
  else if (objDword s m 0).extractLsb' 0 32 ≠ magicSave ∨ (objDword s m 0x10).extractLsb' 62 2 ≠ 0#2 ∨ savedTagsOk s m = false then abandon s p true
  else
    let handler : Option Trapped := match w with | some (.saved _ _ _ _ _ h) => h | _ => none
    let s := match w with | some w => dropFirst s w | none => s
    let gi : BitVec 16 := (objDword s m 0x30).extractLsb' 0 16
    let g := { readGroup s m l.lrec gi r.cls with trapped := handler }
    let rec0 := frameRecord s r.objPa
    let held := (rec0.getD 0 0).getLsbD 63
    let reason : BitVec 10 := if held then (rec0.getD 0 0).extractLsb' 0 10 else Cause.brkHit
    let record : Option (Vector (BitVec 64) 16) := if held then some (Vector.ofFn (fun i => rec0.getD i.val 0)) else none
    seat (repin s (coreOf p) l.lrec.id gi handler.isSome) p g ((objDword s m 0x38).extractLsb' 0 32) reason record

/-- BIND (R326): the group's state is loaded and its first slice starts. -/
def execBind (p : Place) (s : State) : Host.Outcome State Fault Refusal :=
  let sl := s.slot p
  if sl.state ≠ .binding ∨ dieLive s (dieOfPlace p) = false then .next s
  else
    match bindableLaunch s sl.latched.lid with
    | none => .next (abandon s p (decide (sl.latched.kind = 3#3)))
    | some l =>
      if sl.latched.kind = 1#3 then .next (bindNew s p l)
      else if sl.latched.kind = 2#3 then .next (bindResume s p l)
      else .next (bindSaved s p l)

/-! ## SWITCH_COMPLETE and SAVE_COMPLETE (R327) -/

/-- SWITCH_COMPLETE (R327 step 4): the save begins; a gang group's waits for its permit (R333). -/
def execSwitchComplete (p : Place) (s : State) : Host.Outcome State Fault Refusal :=
  let sl := s.slot p
  if switched s p && sl.state == .fencing && (!sl.isGang || sl.permit) then .next (s.setSlot p { sl with state := .saving }) else .next s

/-- The first dword of the record that rebinds a saved group. -/
def rebindDw0 (sl : Slot) (g : Group) (halt : Bool) : BitVec 64 := bindDw0 3 false false halt g.cls (sl.latched.dw0.extractLsb' 20 32) g.gindex

/-- A slot whose group has been saved. -/
def emptied (sl : Slot) : Slot :=
  { sl with group := none, state := .free, left := 0, debt := 0, permit := false, preempting := false, cutNow := false, dbg := { sl.dbg with att := false, halted := false, stepping := false } }

/-- The slot goes on once its group has been saved (R327 step 6): a record that waits binds. In a dusk turn the occupant saved makes way for the standby, and
its record becomes KIND 3; the standby saved becomes KIND 3 and the slot's own record binds again (R331). -/
def afterSave (s : State) (p : Place) (frame : Nat) (dw0 lid : BitVec 64) : State :=
  let s := forgetReleases (dropLoads s p) p
  let sl := s.slot p
  let core := s.cores.get (coreOf p)
  let back : BindRec := { dw0 := dw0, lid := lid, obj := BitVec.ofNat 64 frame, save := sl.latched.save }
  let next (s : State) : State := if (s.slot p).brec.valid then startBind s p else s.setSlot p { s.slot p with pending := false }
  if sl.dusk && sl.latched == core.standby then
    let s := s.setCore (coreOf p) { core with standby := back }
    next (s.setSlot p { emptied sl with dusk := false })
  else if sl.dusk && core.standby.valid then
    bindStandby (s.setSlot p { emptied sl with brec := if sl.pending then sl.brec else back }) p
  else if sl.dusk then next (s.setSlot p { emptied sl with dusk := false, brec := if sl.pending then sl.brec else back })
  else if sl.pending then next (s.setSlot p (emptied sl))
  else s.setSlot p { emptied sl with brec := sl.brec.clearV }

/-- SAVE_COMPLETE (R327 steps 5 and 6): with every pending scatter update performed, the frame is written and the group waits to be rebound; a group of
a launch that is being ended, ends (R394). One that a debugger held halted is saved with the record of its halt (R337). -/
def execSaveComplete (p : Place) (s : State) : Host.Outcome State Fault Refusal :=
  let sl := s.slot p
  match sl.group with
  | none => .next s
  | some g =>
    if sl.state ≠ .saving ∨ g.scat.isEmpty = false then .next s
    else if isEnding s g then .next (endGroup s p)
    else
      let frame := sl.latched.savePa
      let halt := match g.halt with | .asked _ => true | .none => false
      let s := writeFrame s p g frame (if halt then some sl.dbg.record else none)
      let dw0 := rebindDw0 sl g halt
      let w : Waiting := .saved g.lr.id g.gindex frame (coreOf p) dw0 g.trapped
      let s := { s with dawn := { s.dawn with waiting := s.dawn.waiting ++ [w] } }
      .next (afterSave s p frame dw0 g.lr.id)

/-! ## SLICE_END (R329 to R331) -/

/-- The class of a launch changed: in its records, its bound groups, its waiting work and its groups that are away for a trap (R330). -/
def reclass (s : State) (lid : BitVec 64) (c : BitVec 3) : State :=
  let rewrite (r : BindRec) : BindRec := if r.lid = lid then r.setClass c else r
  let dword (d : BitVec 64) : BitVec 64 := (d &&& ~~~(7#64 <<< 54)) ||| (c.zeroExtend 64 <<< 54)
  let away (x : Trapped) : Trapped := { x with dw0 := dword x.dw0 }
  let s := (List.finRange 512).foldl (fun s p =>
    let sl := s.slot p
    if sl.brec.lid = lid ∨ sl.latched.lid = lid then
      s.setSlot p { sl with
        brec := rewrite sl.brec, latched := rewrite sl.latched
        group := sl.group.map (fun g => if g.lr.id = lid then { g with cls := c, trapped := g.trapped.map away } else g) }
    else s) s
  let s := (List.finRange 128).foldl (fun s k =>
    let core := s.cores.get k
    if core.standby.lid = lid then s.setCore k { core with standby := core.standby.setClass c } else s) s
  let again (w : Waiting) : Waiting := match w with
    | .saved l gi f k dw0 h => if l = lid then .saved l gi f k (dword dw0) (h.map away) else w
    | .resume l m _ insp fr d cp h no sn => if l = lid then .resume l m c insp fr d cp (h.map away) no sn else w
    | .fresh _ _ => w
  let fwd (f : Forwarded) : Forwarded := if f.lid = lid then { f with grp := away f.grp } else f
  { s with dawn := { s.dawn with waiting := s.dawn.waiting.map again, forwarded := s.dawn.forwarded.map fwd } }

/-- A slice's energy is charged to the launch; a spent budget lowers its class (R330). -/
def chargeSlice (s : State) (lid : BitVec 64) (energy : Nat) : State :=
  match findLaunch s lid with
  | none => s
  | some l =>
    let spent := l.spent + energy
    if l.budget ≠ 0 ∧ l.budget ≤ spent then
      let c : BitVec 3 := if l.cls = 7#3 then 7 else l.cls + 1
      let s := setLaunch s { l with cls := c, spent := 0, budget := l.lrec.refill.toNat }
      report (reclass s lid c) lid (cplDw1 4 c 0 l.index)
    else setLaunch s { l with spent := spent }

/-- The address of a slot's bind record (R322). -/
def bindRecordPa (p : Place) : Nat := (dieOfPlace p).val * 2 ^ 48 + 0xE00000020000 + 0x100 * ((coreOf p).val % 32) + 0x20 * (p.val % 4)

/-- Whether a core's standby waits for a dusk turn: it is valid, and no dusk group is bound on the core (R331). -/
def duskWaits (s : State) (c : CoreId) : Bool :=
  (s.cores.get c).standby.valid &&
  (List.finRange 512).all (fun p => coreOf p != c || (match s.group p with | some g => g.cls != 7#3 | none => true))

/-- The places of a core. -/
def placesOfCore (c : CoreId) : List Place := (List.finRange 4).map (fun k => ⟨c.val * 4 + k.val, by omega⟩)

/-- Whether a slice end at a place is a dusk turn, its count having reached 63: of an occupant that is pre-emptible and of no gang, or of a gang's when every
pre-emptible occupant of the core is a gang's. -/
def duskTurn (s : State) (p : Place) : Bool :=
  let sl := s.slot p
  sl.latched.savePa != 0 && !sl.pending &&
  (!sl.isGang || (placesOfCore (coreOf p)).all (fun q => !((s.slot q).group.isSome && (s.slot q).latched.savePa != 0) || (s.slot q).isGang))

/-- A dusk turn: the occupant, or the whole of its gang, is pre-empted for the standby. -/
def startDusk (s : State) (p : Place) : State :=
  let core := s.cores.get (coreOf p)
  let s := s.setCore (coreOf p) { core with duskCnt := 0 }
  let s := if (s.slot p).isGang then putRecord (clearGang s p []) p BindRec.reset else s
  let s := s.setSlot p { s.slot p with dusk := true }
  preempt s p

/-- SLICE_END (R329): the energy is charged, the host is told in host-assisted mode, and a switch that is due starts; else the next slice does. -/
def execSliceEnd (p : Place) (s : State) : Host.Outcome State Fault Refusal :=
  let sl := s.slot p
  match sl.group with
  | none => .next s
  | some g =>
    if (sl.state ≠ .running ∧ sl.state ≠ .held) ∨ sl.left ≠ 0 then .next s
    else
      let s := chargeSlice s g.lr.id (sl.sle - sl.sleMark).toNat
      let s := schedEvt s [BitVec.ofNat 64 (bindRecordPa p), sl.sle, sl.debt.zeroExtend 64]
      let c := coreOf p
      let core := s.cores.get c
      let cnt := core.duskCnt
      let waits := duskWaits s c && g.cls != 7#3
      let s := if waits && decide (cnt < 63) then s.setCore c { core with duskCnt := cnt + 1 } else s
      let sl := s.slot p
      if sl.pending && sl.latched.savePa != 0 && !sl.isGang then .next (preempt s p)
      else if sl.dusk then .next (if sl.latched.savePa ≠ 0 then preempt s p else startSlice s p)
      else if waits && decide (63 ≤ cnt) && duskTurn s p then .next (startDusk s p)
      else .next (startSlice s p)

/-! ## Gangs (R332, R333) -/

/-- Whether every group of a launch that is still to run is bound, and shows STATE 6 or has been released before (R332). -/
def gangSeated (s : State) (lid : BitVec 64) : Bool :=
  (match findLaunch s lid with | some l => l.issued == l.lrec.g | none => false) && !s.dawn.waiting.any (fun w => w.lidOf == lid) &&
  !s.slots.toList.any (fun sl => sl.pending && sl.brec.valid && sl.brec.lid == lid) && (placesOf s lid).all (fun p => (s.slot p).state != .binding)

/-- GANG_RELEASE: the management core writes OP 1 of a die's gang register, once every group of the launch has been bound (R332). -/
def execGangRelease (die : DieId) (s : State) : Host.Outcome State Fault Refusal :=
  if dieLive s die ∧ gangSeated s (s.dies.get die).gangId = true then .next (clearHold s die) else .next s

/-- Whether every group of a launch has completed its switch, on every die (R333). -/
def gangSwitched (s : State) (lid : BitVec 64) : Bool := (placesOf s lid).all (fun p => switched s p || (s.slot p).state == .saving)

/-- GANG_SAVE_PERMIT: the management core writes OP 2 of a die's gang register, once every group of the launch has completed its switch (R333). -/
def execGangSavePermit (die : DieId) (s : State) : Host.Outcome State Fault Refusal :=
  if dieLive s die ∧ gangSwitched s (s.dies.get die).gangId = true then .next (permitSaves s die) else .next s

end Sys2Proof.Machine
end

