-- ==== Sys2Proof/Machine/Service.lean ====
section
/-! DEFINITION. Sys2Proof/Machine/Service.lean: what the management core does to a running package: invalidations (R334), the page-fault service
(R336, R396 to R398), debug blocks (R403 to R405), the rekey (R369) and the sag lock (R437). -/

namespace Sys2Proof.Machine

open Sys2Proof

/-! ## TLB_INVALIDATE and TLB_INVALIDATE_DONE (R334) -/

/-- The virtual pages of 64 KiB that the invalidation registers of a die name. -/
def invPage (die : Die) (page : Nat) : Bool := die.invAll || decide (die.invVa.toNat ≤ page ∧ page < die.invVa.toNat + die.invPages.toNat)

/-- Whether a cached translation maps a page that is invalidated. -/
def invEntry (die : Die) (t : TlbEntry) : Bool :=
  t.asid == die.invAsid &&
  (die.invAll || decide (t.va < (die.invVa.toNat + die.invPages.toNat) * 65536 ∧ die.invVa.toNat * 65536 < t.va + 2 ^ t.logSize))

/-- Whether a write of a started command lies on a page of memory that is invalidated: its own line, or the lines that hold the rest of its blocks, or one of its
scale bytes. -/
def lineInv (die : Die) (w : LineWrite) : Bool :=
  let mem (l : Loc) : Bool := match l with | .mem _ => true | .spad _ => false
  (mem w.loc && invPage die (w.va / 65536)) || w.more.any (fun x => mem x.loc && invPage die (x.va / 65536)) ||
  w.scales.any (fun x => mem x.loc && invPage die (x.va / 65536))

/-- Whether a replay still to end, for which a core of a die has translated, reads, writes or reports on a page that is invalidated. -/
def replayInv (d : DieId) (die : Die) (r : Replay) : Bool :=
  r.asid == die.invAsid && dieOfPlace r.place == d &&
  ((match r.table with | .mem _ => invPage die (r.tva.toNat / 65536) | .spad _ => false) ||
   (r.bases.zip r.pages).any (fun x => match x.2 with
     | some ps => (List.range ps.length).any (fun k => invPage die (x.1.toNat / 65536 + k))
     | none => false))

/-- Whether an object at an address has a page that is invalidated. -/
def objInv (die : Die) (va : Nat) : Bool := (List.range 5).any (fun k => decide (va / 65536 + k ≤ (va + objLen - 1) / 65536) && invPage die (va / 65536 + k))

/-- Whether a stream has an access outstanding on a page that is invalidated. -/
def streamUses (die : Die) (t : Stream) : Bool :=
  let mem (l : Loc) : Bool := match l with | .mem _ => true | .spad _ => false
  t.loads.any (fun r => r.parts.any (fun x => mem x.loc && invPage die (x.va / 65536))) ||
  t.stores.any (fun r => r.parts.any (fun x => mem x.loc && invPage die (x.va / 65536)))

/-- Whether a group has an access outstanding on a page that is invalidated. -/
def groupUses (die : Die) (g : Group) : Bool :=
  g.lr.asid == die.invAsid &&
  (g.streams.toList.any (streamUses die) ||
   g.queues.toList.any (fun q => q.any (fun e => e.started && !e.done && (match e.work with
     | some w => w.lines.any (lineInv die) || w.copies.any (fun c =>
         c.lines.any (lineInv die) || (match c.flagw with | some l => lineInv die l | none => false) || (c.barrier.isSome && !c.fin && invPage die (c.barVa / 65536)))
     | none => false))) ||
   g.scat.any (fun u => match u.loc with | .mem _ => invPage die (u.va / 65536) | .spad _ => false) ||
   (match g.stopping with | .suspend va _ _ _ => objInv die va.toNat | _ => false))

/-- Whether a resume that waits to be bound, whose object a core of a die has translated, has a page of it that is invalidated. -/
def resumeInv (d : DieId) (die : Die) : Waiting → Bool
  | .resume _ _ _ _ _ _ _ _ _ (some (d', asid, va)) => d' == d && asid == die.invAsid && objInv die va
  | _ => false

/-- Whether an access that may use a translation of a die for what its registers `die` name has yet to be performed. -/
def usesPending (s : State) (d : DieId) (die : Die) : Bool :=
  (placesOfDie d).any (fun p => match s.group p with | some g => groupUses die g | none => false) ||
  (List.finRange 32).any (fun c => c.val / 8 == d.val &&
    (s.clusters.get c).buf.any (fun b => b.asid == die.invAsid && invPage die (b.va / 65536))) ||
  s.dies.toList.any (fun x => x.ctxs.toList.any (fun c => match c with | some c => c.replays.any (replayInv d die) | none => false)) ||
  s.dawn.waiting.any (resumeInv d die)

/-- Whether an access that may use a removed translation of a die has yet to be performed. -/
def invPending (s : State) (d : DieId) : Bool := usesPending s d (s.dies.get d)

/-- The cached translations that a test names are removed from the cores of a die. -/
def purgeTlb (s : State) (d : DieId) (out : TlbEntry → Bool) : State :=
  (List.finRange 32).foldl (fun s k =>
    let core := s.cores.get (coreAt d k)
    s.setCore (coreAt d k) { core with tlb := core.tlb.filter (fun t => !out t) }) s

/-- TLB_INVALIDATE: BUSY is set. -/
def execTlbInvalidate (die : DieId) (s : State) : Host.Outcome State Fault Refusal := if dieLive s die then .next (startInval s die) else .next s

/-- TLB_INVALIDATE_DONE: the translations are removed, retained lines of the pages are unpinned, and BUSY clears, once every access that used one is
performed. -/
def execTlbInvalidateDone (die : DieId) (s : State) : Host.Outcome State Fault Refusal :=
  let x := s.dies.get die
  if x.invBusy = false ∨ invPending s die = true then .next s
  else
    let s := purgeTlb s die (invEntry x)
    let s := unpinLines s die x.invAsid (invPage x)
    .next (s.setDie die { s.dies.get die with invBusy := false })

/-! ## Answers to faults (R396 to R398) -/

/-- An answered fault at a stream: it walks again, or takes the cause. -/
def answerStream (f : PageFault) (ans : BitVec 10) (t : Stream) : Stream :=
  if t.faults.any (sameFault f) then
    let mine := (t.faults.find? (sameFault f)).map (fun x => { x with ans := some ans })
    { t with faults := t.faults.filter (fun x => !sameFault x f), answer := if ans = 0 then none else mine }
  else t

/-- An answered fault at a queue entry. -/
def answerEntry (f : PageFault) (ans : BitVec 10) (e : QEntry) : QEntry :=
  { e with faults := e.faults.map (fun x => if sameFault x f then { x with ans := some ans } else x) }

/-- An answered fault in a group. -/
def answerGroup (f : PageFault) (ans : BitVec 10) (g : Group) : Group :=
  { g with streams := g.streams.map (answerStream f ans), queues := g.queues.map (fun q => q.map (answerEntry f ans)) }

/-- The faults that the groups of a die wait for. -/
def waitedFaults (s : State) (d : DieId) : List PageFault :=
  (placesOfDie d).flatMap (fun p => match s.group p with
    | some g => (g.streams.toList.flatMap (fun t => t.faults) ++ g.queues.toList.flatMap (fun q => q.flatMap (fun e => e.faults))).filter (fun f => f.ans.isNone)
    | none => [])

/-- Request k of a die is answered: every access that waits on it walks again or takes the cause; a fault that found no request slot takes the one freed. -/
def answerRequest (s : State) (d : DieId) (k : Nat) (ans : BitVec 10) : State :=
  let die := s.dies.get d
  match die.svc[k]? with
  | none => s
  | some r =>
    let s := s.setDie d { die with svc := die.svc.eraseIdx k }
    let s := (placesOfDie d).foldl (fun s p => match s.group p with | some g => s.setGroup p (answerGroup r.fault ans g) | none => s) s
    (waitedFaults s d).foldl (fun s f => openRequest s d f) s

/-- The 64 KiB page of a fault as the invalidation registers of a die would name it. -/
def pageOnly (die : Die) (f : PageFault) : Die := { die with invAll := false, invPages := 1, invAsid := f.asid, invVa := BitVec.ofNat 41 f.page }

/-- Whether an access that may use a translation of a fault's page has yet to be performed on a live die (R334). -/
def pageBusy (s : State) (f : PageFault) : Bool := (List.finRange 4).any (fun d => dieLive s d && usesPending s d (pageOnly (s.dies.get d) f))

/-- The page of a fault is invalidated on every live die (R334). -/
def dropPage (s : State) (f : PageFault) : State :=
  (List.finRange 4).foldl (fun s d =>
    if dieLive s d then
      unpinLines (purgeTlb s d (fun t => t.asid == f.asid && decide (t.va < (f.page + 1) * 65536 ∧ f.page * 65536 < t.va + 2 ^ t.logSize))) d f.asid (· == f.page)
    else s) s

/-- The host answers request k of a die with retry: every access that waits walks again once the page's invalidation is complete (R398). -/
def retryRequest (s : State) (d : DieId) (k : Nat) : State :=
  let die := s.dies.get d
  match die.svc[k]? with
  | none => s
  | some r =>
    if pageBusy s r.fault then s.setDie d { die with svc := die.svc.set k { r with retry := true } }
    else answerRequest (dropPage s r.fault) d k 0

/-- FAULT_ANSWER (R396, R398): the management core answers a request that no declaration serves with the fault's own cause; the host's answers are PF_ACK, and
a retry of the host's takes effect once the invalidation it waits for is complete. -/
def execFaultAnswer (die : DieId) (k : Nat) (ans : BitVec 10) (s : State) : Host.Outcome State Fault Refusal :=
  match (s.dies.get die).svc[k]? with
  | none => .next s
  | some r =>
    if r.retry then .next (if ans = 0 then retryRequest s die k else s)
    else if r.sent || (servingRange s r.fault).isSome || ans != r.fault.cause then .next s else .next (answerRequest s die k ans)

/-! ## DEMAND_FILL (R336) -/

/-- Where the level-0 entry lies that a walk reaches with V = 0. -/
def emptyLeaf (s : State) (va : Nat) : List Nat → Nat → Option Nat
  | [], _ => none
  | n :: rest, base =>
    let pa := base + 8 * vaIndex va n
    if (!(region s pa).isHbm && !(region s pa).isAttic) || poisoned s pa then none
    else
      let e := homeDword s pa
      if e.getLsbD 0 = false then (if n = 0 then some pa else none)
      else if e.extractLsb' 52 12 ≠ 0#12 ∨ e.extractLsb' 8 3 ≠ 0#3 ∨ e.getLsbD 4 = true ∨ n = 0 then none
      else emptyLeaf s va rest (fieldOf e 51 12 * 4096)

/-- The level-0 entry that a demand fill writes, when the walk of a fault still reaches one with V = 0. -/
def fillEntry (s : State) (d : DieId) (f : PageFault) : Option Nat :=
  let die := s.dies.get d
  let ent := die.atabBase.toNat * 2 ^ 20 + 16 * f.asid.toNat
  let e := homeDword s ent
  if die.atabEn = false ∨ poisoned s ent = true ∨ e.getLsbD 0 = false then none
  else emptyLeaf s (f.page * 65536) [4, 3, 2, 1, 0] (fieldOf e 51 12 * 4096)

/-- Steps 1 to 4 of R336: a frame of the pool is zeroed and mapped, and the page invalidated on every live die. -/
def fillPage (s : State) (f : PageFault) (r : PfRange) (pte : Nat) : State :=
  let pa := (r.pool + r.given) * 65536
  let s := (List.range 512).foldl (fun s i => l2Touch s (pa + 128 * i) none false true) s
  let s := homeWriteRun 513 s pa (List.replicate 65536 0#8)
  let s := homeWrite8 s pte (BitVec.ofNat 64 pa ||| 0x11#64 ||| (r.perms &&& 0x80E#64))
  let s := { s with dawn := { s.dawn with
      ranges := s.dawn.ranges.map (fun x => if x.asid = r.asid ∧ x.first = r.first then { x with given := x.given + 1 } else x) } }
  dropPage s f

/-- DEMAND_FILL (R336): a request that a declaration serves is filled and answered with retry; one whose page has been mapped since is only answered. -/
def execDemandFill (die : DieId) (k : Nat) (s : State) : Host.Outcome State Fault Refusal :=
  match (s.dies.get die).svc[k]? with
  | none => .next s
  | some r =>
    if r.sent then .next s
    else
      match servingRange s r.fault with
      | none => .next s
      | some rg =>
        match fillEntry s die r.fault with
        | none => .next (answerRequest s die k 0)
        | some pte => .next (answerRequest (fillPage s r.fault rg pte) die k 0)

/-! ## Debug blocks (R403 to R405) -/

/-- DEBUG_RUN: RUN of the debug block of a slot. -/
def execDebugRun (p : Place) (s : State) : Host.Outcome State Fault Refusal := .next (debugResume s p)

/-- DEBUG_HALT_REQUEST: HREQ of the debug block of a slot. -/
def execDebugHaltRequest (p : Place) (s : State) : Host.Outcome State Fault Refusal := .next (askHalt s p)

/-! ## Rekey (R369) and sag lock (R437) -/

/-- REKEY: BUSY is written for a live die. -/
def execRekey (die : DieId) (s : State) : Host.Outcome State Fault Refusal :=
  if s.dawn.rekeyBusy || !dieLive s die then .next s else .next (startRekey s die)

/-- REKEY_DONE: the new key is in force, and BUSY clears. -/
def execRekeyDone (s : State) : Host.Outcome State Fault Refusal :=
  if s.dawn.rekeyBusy then
    let d := s.dawn.rekeyOf
    .next { s with dawn := { s.dawn with rekeyBusy := false, epoch := s.dawn.epoch.set d.val (s.dawn.epoch.get d + 1) } }
  else .next s

/-- SAG_LOCK_CLEAR: CLR of a die's sag register. -/
def execSagLockClear (die : DieId) (s : State) : Host.Outcome State Fault Refusal := if dieLive s die then .next (clearSagLock s die) else .next s

end Sys2Proof.Machine
end

