-- ==== Sys2Proof/Machine/Shake.lean ====
section
/-! DEFINITION. Sys2Proof/Machine/Shake.lean: SHAKE256 with 64 bytes of output (R364, R365, R367): the function of FIPS 202, which the spec names and does not
restate (log 12). -/

namespace Sys2Proof.Machine

open Sys2Proof

/-- The 25 lanes of Keccak; lane x of row y is at x + 5y. -/
abbrev Lanes := Vector (BitVec 64) 25

/-- Lane x of row y, both modulo 5. -/
def laneAt (a : Lanes) (x y : Nat) : BitVec 64 := a.toList.getD (x % 5 + 5 * (y % 5)) 0

/-- Lanes from their columns and rows. -/
def lanesOf (f : Nat → Nat → BitVec 64) : Lanes := Vector.ofFn (fun i => f (i.val % 5) (i.val / 5))

/-- The rotations of step rho, by column and row. -/
def rhoTurns : List Nat :=
  [0, 1, 62, 28, 27, 36, 44, 6, 55, 20, 3, 10, 43, 25, 39, 41, 45, 15, 21, 8, 18, 2, 61, 56, 14]

/-- The constants of step iota, by round. -/
def iotaWords : List (BitVec 64) :=
  [0x1, 0x8082, 0x800000000000808A, 0x8000000080008000, 0x808B, 0x80000001, 0x8000000080008081, 0x8000000000008009] ++
  [0x8A, 0x88, 0x80008009, 0x8000000A, 0x8000808B, 0x800000000000008B, 0x8000000000008089, 0x8000000000008003] ++
  [0x8000000000008002, 0x8000000000000080, 0x800A, 0x800000008000000A, 0x8000000080008081, 0x8000000000008080, 0x80000001, 0x8000000080008008]

/-- The parity of a column. -/
def parity (a : Lanes) (x : Nat) : BitVec 64 := laneAt a x 0 ^^^ laneAt a x 1 ^^^ laneAt a x 2 ^^^ laneAt a x 3 ^^^ laneAt a x 4

/-- Step theta. -/
def theta (a : Lanes) : Lanes := lanesOf (fun x y => laneAt a x y ^^^ parity a (x + 4) ^^^ (parity a (x + 1)).rotateLeft 1)

/-- Steps rho and pi. -/
def rhoPi (a : Lanes) : Lanes := lanesOf (fun x y => (laneAt a (x + 3 * y) x).rotateLeft (rhoTurns.getD ((x + 3 * y) % 5 + 5 * x) 0))

/-- Step chi. -/
def chi (a : Lanes) : Lanes := lanesOf (fun x y => laneAt a x y ^^^ (~~~(laneAt a (x + 1) y) &&& laneAt a (x + 2) y))

/-- One round, with its constant. -/
def keccakRound (a : Lanes) (rc : BitVec 64) : Lanes := let b := chi (rhoPi (theta a)); b.set 0 (b.get 0 ^^^ rc)

/-- Keccak-f[1600]. -/
def keccak (a : Lanes) : Lanes := iotaWords.foldl keccakRound a

/-- The bytes absorbed at a time. -/
def shakeRate : Nat := 136

/-- A message with the suffix of SHAKE and the padding, whole blocks long. -/
def shakePad (bs : List Byte) : List Byte :=
  let zeros := shakeRate - 1 - bs.length % shakeRate
  if zeros = 0 then bs ++ [0x9F] else bs ++ [0x1F] ++ List.replicate (zeros - 1) 0 ++ [0x80]

/-- Blocks are absorbed in order. -/
def absorb : Nat → Lanes → List Byte → Lanes
  | 0, a, _ => a
  | n + 1, a, bs =>
    let lane (i : Nat) : BitVec 64 := if i < 17 then BitVec.ofNat 64 (leNat ((bs.drop (8 * i)).take 8)) else 0
    absorb n (keccak (lanesOf (fun x y => laneAt a x y ^^^ lane (x + 5 * y)))) (bs.drop shakeRate)

/-- SHAKE256 of a byte string: 64 bytes, the first in the low bits. -/
def shake256 (bs : List Byte) : BitVec 512 :=
  let m := shakePad bs
  let a := absorb (m.length / shakeRate) (Vector.replicate 25 0) m
  laneAt a 2 1 ++ laneAt a 1 1 ++ laneAt a 0 1 ++ laneAt a 4 0 ++ laneAt a 3 0 ++ laneAt a 2 0 ++ laneAt a 1 0 ++ laneAt a 0 0

end Sys2Proof.Machine
end

