-- ==== Sys2Proof/Machine/Boot.lean ====
section
/-! DEFINITION. Sys2Proof/Machine/Boot.lean: power-on, the verified boot, the release of dies and the writes of control registers, the
last of which ends boot (R216, R363 to R365, R368, R428, R435). -/

namespace Sys2Proof.Machine

open Sys2Proof

/-! ## Measurements (R365) -/

/-- Measurement block i, from 1. -/
def setMeas (s : State) (i : Nat) (v : BitVec 512) : State :=
  if h : 1 ≤ i ∧ i ≤ 7 then { s with dawn := { s.dawn with meas := s.dawn.meas.set (i - 1) v } } else s

/-- The bytes of the boot ROM (R362; log 12). -/
def romBytes : List Byte := (List.range 0x40000).map Config.romByte

/-- The bytes of the staging area, which holds the firmware image (R362). -/
def stagedBytes (s : State) : List Byte := readBytes s.mem (dawnAddr 0x1000000) 0x1000000

/-- What the staging area holds, as it is listed: offsets and bytes. -/
def stagedCells (s : State) : List (Nat × Byte) :=
  (s.mem.filter (fun c => decide (dawnAddr 0x1000000 ≤ c.1 ∧ c.1 < dawnAddr 0x2000000))).map (fun c => (c.1 - dawnAddr 0x1000000, c.2))

/-- The initial value of the L dword of an array (R420). -/
def fuseHealth (c : CoreId) (m : Fin 2) : Health :=
  { Health.reset with ret := Config.fuseRet c m, spu := Config.fuseSpu c m, scg := Config.fuseScg c m, ldead := Config.fuseDead c m }

/-- The L fields of the released dies, then MSPLIT, as measurement block 7 covers them (R365). -/
def lFields (s : State) : List (BitVec 64) :=
  ((List.finRange 4).filter (fun d => s.dawn.rel.getLsbD d.val)).flatMap (fun d =>
    8#64 :: (List.finRange 32).flatMap (fun c => [(fuseHealth (coreAt d c) 0).dword, (fuseHealth (coreAt d c) 1).dword])) ++ [s.dawn.msplit.zeroExtend 64]

/-- Measurement block 7 is written. -/
def measureFields (s : State) : State := setMeas s 7 (shake256 (dwordBytes (lFields s)))

/-! ## POWER_ON and BOOT_GO -/

/-- POWER_ON (R364 step 1): the boot ROM sets LIVE from the harvest fuses and is measured; the error log is set up (R410). It happens once. -/
def execPowerOn (live : BitVec 4) (s : State) : Host.Outcome State Fault Refusal :=
  if s.dawn.powered then .next s
  else
    let s := { s with dawn := { s.dawn with live := live, powered := true } }
    .next (homeWrite8 (setMeas s 1 (shake256 romBytes)) (dawnAddr 0x20000000) (0#16 ++ 1#16 ++ 0x474F4C45#32))

/-- Whether the ROM accepts BOOT_GO and writes of the staging area (R362, R364). -/
def atRom (s : State) : Bool := s.dawn.powered && (s.dawn.stage == 0#4 || (s.dawn.stage == 15#4 && s.dawn.cause == Cause.mcFw))

/-- BOOT_GO (R364 step 2): the image is measured, and run when its signature verifies. -/
def execBootGo (_seq : BitVec 32) (s : State) : Host.Outcome State Fault Refusal :=
  if atRom s then
    let good := Config.imageSigned (stagedCells s)
    let s := setMeas s 2 (shake256 (stagedBytes s))
    .next { s with dawn := { s.dawn with stage := if good then 1 else 15, cause := if good then 0 else Cause.mcFw } }
  else .next s

/-! ## The release of a die (R364 step 3, R435) -/

/-- A die comes out of reset: its own state, its cores, slots, clusters and ports at their reset values, L fields from the fuses (R7, R26, R420). -/
def resetDie (s : State) (d : DieId) : State :=
  let s := s.setDie d { Die.reset with incs := (s.dies.get d).incs }
  let s := (List.finRange 32).foldl (fun s k =>
    let c := coreAt d k
    s.setCore c { Core.reset with arrays := Vector.ofFn (fun m => fuseHealth c m) }) s
  let s := (placesOfDie d).foldl (fun s p => s.setSlot p Slot.reset) s
  let s := (List.finRange 8).foldl (fun s k => s.setCluster ⟨d.val * 8 + k.val, by omega⟩ Cluster.reset) s
  { s with
    ports := Vector.ofFn (fun q => if portDie q.val = d then Port.reset else s.ports.get q)
    sites := s.sites.filter (fun x => x.die ≠ d) }

/-- Every die learns the incarnation of a die being released (R428). -/
def spreadInc (s : State) (d : DieId) : State :=
  let i := s.dawn.inc.get d
  { s with dies := s.dies.map (fun x => { x with incs := x.incs.set d.val i }) }

/-- Whether a die's release may start: the firmware runs, no other release is under way, and dies not yet tried come in ascending order (R364). -/
def mayRelease (s : State) (d : DieId) : Bool :=
  let n := s.dawn.stage.toNat
  let firmware := n == 1 || n == 2 || n == 3
  firmware && s.dawn.live.getLsbD d.val && !s.dawn.rel.getLsbD d.val && s.dawn.releasing.isEmpty &&
  (n == 3 || (!s.dawn.tried.contains d && (List.finRange 4).all (fun e => !(decide (e.val < d.val) && s.dawn.live.getLsbD e.val) || s.dawn.tried.contains e)))

/-- Whether the firmware has tried every die whose LIVE bit is set. -/
def allTried (s : State) : Bool := s.dawn.stage == 2#4 && (List.finRange 4).all (fun d => !s.dawn.live.getLsbD d.val || s.dawn.tried.contains d)

/-- Boot halts at STAGE 15 when every die has been tried and none was released (R435). -/
def finishBoot (s : State) : State :=
  if allTried s = true ∧ s.dawn.rel = 0#4 then { s with dawn := { s.dawn with stage := 15, cause := Cause.mcMeas } } else s

/-- The firmware's write of LQADDR, once every die has been tried and one is released, is followed by STAGE 3 (R364 step 4). -/
def enterRunning (s : State) : State :=
  if allTried s = true ∧ s.dawn.rel ≠ 0#4 then measureFields { s with dawn := { s.dawn with stage := 3 } } else s

/-- The address of LQADDR (R363). -/
def lqaddrPa : Nat := dawnAddr 0x10000008

/-- REGISTER_WRITE: the management core writes a dword of a control register. -/
def execRegisterWrite (pa : BitVec 52) (v : BitVec 64) (s : State) : Host.Outcome State Fault Refusal :=
  let s := registerStore s pa.toNat v
  .next (if pa.toNat = lqaddrPa then enterRunning s else s)

/-- A release has failed (R435). -/
def failRelease (s : State) (d : DieId) : State :=
  let s := { s with dawn := { s.dawn with releasing := s.dawn.releasing.filter (· ≠ d), tried := d :: s.dawn.tried.filter (· ≠ d) } }
  finishBoot (logErr { s with fresh := s.fresh + 1 }
    { src := 13, kind := 2, die := BitVec.ofNat 4 d.val, core := 0, sub := 0, count := 0, cause := Cause.mcMeas, addr := 0, lid := 0,
      cycle := (s.dies.get d).cycle, synd := Config.freeBits s.fresh 64 })

/-- DIE_RELEASE (R364 step 3): the die's configuration is measured, its incarnation rises, its key is drawn and it leaves reset; a configuration whose digest is
not the firmware's fails the release. -/
def execDieRelease (die : DieId) (s : State) : Host.Outcome State Fault Refusal :=
  if mayRelease s die then
    let s := { s with dawn := { s.dawn with stage := if s.dawn.stage = 1#4 then 2 else s.dawn.stage } }
    let s := setMeas s (3 + die.val) (shake256 (Config.configImage die))
    let s := { s with dawn := { s.dawn with inc := s.dawn.inc.set die.val (s.dawn.inc.get die + 1) } }
    if Config.configDigestGood die (stagedCells s) = false then .next (failRelease s die)
    else
      let s := { s with dawn := { s.dawn with epoch := s.dawn.epoch.set die.val (s.dawn.epoch.get die + 1), releasing := [die] } }
      .next (spreadInc (resetDie s die) die)
  else .next s

/-- DIE_ANSWER (R364 step 3): the stacks, attic and L2 of a die being released answer, and its REL bit is set. -/
def execDieAnswer (die : DieId) (s : State) : Host.Outcome State Fault Refusal :=
  if s.dawn.releasing.contains die then
    let s := { s with dawn := { s.dawn with
        releasing := s.dawn.releasing.filter (· ≠ die), tried := die :: s.dawn.tried.filter (· ≠ die), rel := s.dawn.rel ||| BitVec.ofNat 4 (2 ^ die.val) } }
    if s.dawn.stage = 3#4 then .next (measureFields s) else .next (finishBoot s)
  else .next s

/-- DIE_RELEASE_TIMEOUT (R435): a die being released has not answered in time. -/
def execDieReleaseTimeout (die : DieId) (s : State) : Host.Outcome State Fault Refusal :=
  if s.dawn.releasing.contains die then .next (failRelease s die) else .next s

end Sys2Proof.Machine
end

