-- ==== Sys2Proof/Machine/Port.lean ====
section
/-! DEFINITION. Sys2Proof/Machine/Port.lean: the Drepel port: frames, what WR and RD do (R370 to R372, R436) and the host's messages (R373). -/

namespace Sys2Proof.Machine

open Sys2Proof

/-! ## Frames (R370, R371, R436) -/

/-- A counter of 32 bits that saturates. -/
def sat32 (n : BitVec 32) : BitVec 32 := if n = BitVec.allOnes 32 then n else n + 1

/-- A frame whose CRC fails is dropped and counted. -/
def dropCrc (s : State) : State := { s with dawn := { s.dawn with crcf := sat32 s.dawn.crcf } }
/-- A malformed or reserved frame or message is dropped and counted. -/
def dropBad (s : State) : State := { s with dawn := { s.dawn with badf := sat32 s.dawn.badf } }

/-- TYPE of a frame. -/
def frameType (h : BitVec 128) : Nat := (h.extractLsb' 124 4).toNat
/-- LEN of a frame. -/
def frameLen (h : BitVec 128) : Nat := (h.extractLsb' 112 12).toNat
/-- TAG of a frame. -/
def frameTag (h : BitVec 128) : BitVec 8 := h.extractLsb' 104 8
/-- ADDR of a frame. -/
def frameAddr (h : BitVec 128) : Nat := (h.extractLsb' 0 52).toNat
/-- Whether a frame is malformed: a reserved TYPE, a LEN above 512, a non-zero reserved field (R371). -/
def frameBad (h : BitVec 128) : Bool := frameType h == 0 || decide (6 ≤ frameType h) || decide (512 < frameLen h) || h.extractLsb' 52 44 != 0#44

/-- Whether the host may write the dword at an address (R362, R372). -/
def hostWritable (s : State) (pa : Nat) : Bool :=
  match region s pa with
  | .hbm _ => true
  | .dawn off => atRom s && decide (0x1000000 ≤ off ∧ off < 0x2000000)
  | _ => false

/-- Whether the host may read the dword at an address (R362, R372). -/
def hostReadable (s : State) (pa : Nat) : Bool :=
  match region s pa with
  | .hbm _ => true
  | .dawn _ => true
  | _ => false

/-- A dword as the host reads it. -/
def hostRead (s : State) (pa : Nat) : BitVec 64 := match region s pa with | .dawn off => dawnRead s off | _ => homeDword s pa

/-- A WR frame (R371, R372): the payload is performed as dword writes in order, when every dword may be written; else it is not performed. Completion
entries that a raised CCONS makes room for are written (R318). -/
def hostWr (s : State) (a : Nat) (pay : List (BitVec 64)) : State :=
  if a % 8 = 0 ∧ (List.range pay.length).all (fun i => hostWritable s (a + 8 * i)) = true then
    let s := pay.zipIdx.foldl (fun s x => homeWrite8 (l2Touch s (a + 8 * x.2) none false true) (a + 8 * x.2) x.1) s
    flushCpl s.dawn.cpls.length s
  else s

/-- An RD frame (R371, R372, R414): a CPL with the data, or with STATUS 1 when the read is refused or meets poison. One of LEN 0 still names an address. -/
def hostRd (s : State) (tag : BitVec 8) (a n : Nat) : State :=
  let ok := decide (a % 8 = 0) && hostReadable s a && (List.range n).all (fun i => hostReadable s (a + 8 * i) && !poisoned s (a + 8 * i))
  let data := if ok then (List.range n).map (fun i => hostRead s (a + 8 * i)) else []
  let s := if ok then (List.range n).foldl (fun s i => l2Touch s (a + 8 * i) none false false) s else s
  { s with dawn := { s.dawn with out := s.dawn.out ++ [sentFrame 3 tag (if ok then 0 else 1) data] } }

/-! ## Messages (R373) -/

/-- Whether an address is that of a bind record or a standby record of a live die (R322). -/
def isBindRecord (s : State) (pa : Nat) : Bool :=
  match region s pa with
  | .dcr _ off => decide (0x20000 ≤ off ∧ off < 0x22000 ∧ off % 0x20 = 0 ∧ off % 0x100 < 0xA0)
  | _ => false

/-- SCHED_BIND: in host-assisted mode the management core writes the record that the host returns (R335). -/
def execSchedBind (_seq : BitVec 32) (pa : BitVec 64) (r : Vector (BitVec 64) 4) (s : State) : Host.Outcome State Fault Refusal :=
  let a := pa.toNat
  if isBindRecord s a && msplitBit s 0 then
    let s := registerStore s (a + 8) r[1]
    let s := registerStore s (a + 16) r[2]
    let s := registerStore s (a + 24) r[3]
    .next (registerStore s a r[0])
  else .next s

/-- The cause codes that the device raises as traps: those assigned and neither for a status nor for a halt alone (R375 to R382). -/
def trapCause (c : BitVec 10) : Bool :=
  let n := fieldOf c 6 0
  let upTo (k : Nat) : Bool := decide (1 ≤ n ∧ n ≤ k)
  match fieldOf c 9 7 with
  | 0 => upTo 6
  | 1 => upTo 10
  | 2 => upTo 15
  | 3 => upTo 16
  | 4 => upTo 18
  | 5 => upTo 21 && !([8, 13, 14, 20].contains n)
  | 6 => upTo 6
  | _ => upTo 8 && !([6, 7].contains n)

/-- PF_ACK (R396, R398): the host answers a request that was sent to it; an answer that is neither 0 nor a cause of traps is malformed (R375). -/
def execPfAck (seq : BitVec 32) (ans : BitVec 10) (s : State) : Host.Outcome State Fault Refusal :=
  match (List.finRange 4).find? (fun d => (s.dies.get d).svc.any (fun r => r.sent && r.seq == seq)) with
  | none => .next s
  | some d =>
    if ans ≠ 0 ∧ trapCause ans = false then .next (dropBad s)
    else
      let k := (s.dies.get d).svc.findIdx (fun r => r.sent && r.seq == seq)
      .next (if ans = 0 then retryRequest s d k else answerRequest s d k ans)

/-- TRAP_ACK (R395): 1 rebinds the trapped group from its frame, 0 ends it; other replies are dropped as malformed. -/
def execTrapAck (seq : BitVec 32) (ans : BitVec 64) (s : State) : Host.Outcome State Fault Refusal :=
  match s.dawn.forwarded.find? (fun f => f.seq == seq) with
  | none => .next s
  | some f =>
    let s' := { s with dawn := { s.dawn with forwarded := s.dawn.forwarded.filter (fun x => x.seq ≠ seq) } }
    let x := f.grp
    if ans = 1 then .next { s' with dawn := { s'.dawn with waiting := s'.dawn.waiting ++ [.saved f.lid x.gindex x.frame x.core x.dw0 none] } }
    else if ans = 0 then .next (dropSaved s' f.lid x.gindex x.frame x.core)
    else .next (dropBad s)

/-! ## PF_DECL (R336) -/

/-- A declaration as its message states it. -/
def declRange (b : Vector (BitVec 64) 6) : PfRange :=
  { asid := b[0].extractLsb' 0 16, first := fieldOf b[1] 56 16, last := fieldOf b[2] 56 16, pool := fieldOf b[3] 51 16, nframe := fieldOf b[4] 19 0,
    perms := b[5], given := 0 }

/-- The reserved fields of a declaration. -/
def declReserved (b : Vector (BitVec 64) 6) : Bool :=
  b[0].extractLsb' 16 48 == 0#48 && b[1].extractLsb' 57 7 == 0#7 && b[1].extractLsb' 0 16 == 0#16 && b[2].extractLsb' 57 7 == 0#7 && b[2].extractLsb' 0 16 == 0#16 &&
  b[3].extractLsb' 52 12 == 0#12 && b[3].extractLsb' 0 16 == 0#16 && b[4].extractLsb' 20 44 == 0#44 &&
  b[5].extractLsb' 12 52 == 0#52 && b[5].extractLsb' 4 7 == 0#7 && b[5].extractLsb' 0 1 == 0#1

/-- Whether a declaration is accepted. -/
def declOk (s : State) (b : Vector (BitVec 64) 6) : Bool :=
  let r := declRange b
  let lo := r.pool * 65536
  let hi := (r.pool + r.nframe) * 65536 - 1
  declReserved b && decide (r.first ≤ r.last) && (region s lo).isHbm && (region s hi).isHbm && decide (lo / 2 ^ 48 = hi / 2 ^ 48) &&
  s.dawn.ranges.all (fun x => x.asid != r.asid || decide (x.last < r.first ∨ r.last < x.first)) && decide (s.dawn.ranges.length < 64)

/-- PF_DECL: a declaration or a withdrawal, answered with a PF_DACK. -/
def execPfDecl (seq : BitVec 32) (body : Vector (BitVec 64) 6) (s : State) : Host.Outcome State Fault Refusal :=
  let r := declRange body
  let same (x : PfRange) : Bool := x.asid == r.asid && x.first == r.first
  let reply (s : State) (v : BitVec 64) : State := sendMsg s 0x0C seq [v]
  if r.nframe = 0 then
    if s.dawn.ranges.any same then .next (reply { s with dawn := { s.dawn with ranges := s.dawn.ranges.filter (fun x => !same x) } } 0)
    else .next (reply s (Cause.opRange.zeroExtend 64))
  else if declOk s body then .next (reply { s with dawn := { s.dawn with ranges := s.dawn.ranges ++ [r] } } 0)
  else .next (reply s (Cause.opRange.zeroExtend 64))

end Sys2Proof.Machine
end

