-- ==== Sys2Proof/Machine/Spdm.lean ====
section
/-! DEFINITION. Sys2Proof/Machine/Spdm.lean: the SPDM responder (R366, R367). The layouts of the messages and their codes are those of DMTF SPDM 1.3, which the
spec names and does not restate (log 12). -/

namespace Sys2Proof.Machine

open Sys2Proof

/-! ## Messages -/

/-- Bytes packed into dwords, the last filled with zeros. -/
def packDwords : Nat → List Byte → List (BitVec 64)
  | 0, _ => []
  | fuel + 1, bs => if bs = [] then [] else BitVec.ofNat 64 (leNat (bs.take 8)) :: packDwords fuel (bs.drop 8)

/-- An SPDM message leaves in a frame of TYPE 5. -/
def sendSpdm (s : State) (bs : List Byte) : State :=
  { s with dawn := { s.dawn with out := s.dawn.out ++ [sentFrame 5 0 0 (packDwords bs.length bs)] } }

/-- ERROR with a code and its data. -/
def spdmError (code data : Byte) : List Byte := [0x13, 0x7F, code, data]
/-- InvalidRequest. -/
def spdmInvalid : List Byte := spdmError 0x01 0
/-- UnexpectedRequest. -/
def spdmUnexpected : List Byte := spdmError 0x04 0

/-- DataTransferSize (R366). -/
def spdmSize : Nat := 4096

/-- A response of any length is answered: one above DataTransferSize is kept for CHUNK_GET, and LargeResponse carries its handle (R367). -/
def respond (s : State) (bs : List Byte) : State × List Byte :=
  if bs.length ≤ spdmSize then (s, bs)
  else
    let h := s.dawn.handle + 1
    ({ s with dawn := { s.dawn with large := bs, handle := h } }, spdmError 0x0F 0 ++ [h])

/-- A response is made and sent. -/
def answer (x : State × List Byte) : State := let y := respond x.1 x.2; sendSpdm y.1 y.2

/-! ## Responses: the state after the request, and the response -/

/-- VERSION: 1.3 only; what was negotiated before is forgotten. -/
def versionResponse (s : State) : State × List Byte :=
  ({ s with dawn := { s.dawn with negotiated := false, large := [], chunks := [] } }, [0x10, 0x04, 0, 0, 0, 1, 0, 0x13])

/-- CAPABILITIES: CERT_CAP, CHAL_CAP, MEAS_CAP = 2, CHUNK_CAP; the spec gives no cryptographic time-out. -/
def capabilitiesResponse (s : State) : State × List Byte :=
  ({ s with fresh := s.fresh + 1 },
   [0x13, 0x61, 0, 0, 0, Config.freeBits s.fresh 8, 0, 0] ++ leBytes 4 0x20016 ++ leBytes 4 spdmSize ++ leBytes 4 65536)

/-- ALGORITHMS: the extended algorithms that the request offers; neither offered is InvalidRequest. -/
def algorithmsResponse (s : State) (asym hash : Bool) : State × List Byte :=
  if !asym && !hash then (s, spdmInvalid)
  else
    let ext (on : Bool) (alg : Nat) : List Byte := if on then [Config.vendorRegistry, 0] ++ leBytes 2 alg else []
    let body := ext asym 1 ++ ext hash 2
    ({ s with dawn := { s.dawn with negotiated := true } },
     [0x13, 0x63, 0, 0] ++ leBytes 2 (36 + body.length) ++ [1, 0] ++ List.replicate 12 0#8 ++ List.replicate 11 0#8 ++ [0] ++
     [if asym then 1 else 0, if hash then 1 else 0, 0, 0] ++ body)

/-- The bytes of a digest. -/
def digestBytes (bs : List Byte) : List Byte := bvBytes 64 (shake256 bs)

/-- DIGESTS: the one chain of slot 0. -/
def digestsResponse (s : State) : State × List Byte :=
  if s.dawn.negotiated then (s, [0x13, 0x01, 1, 1] ++ digestBytes Config.certChain) else (s, spdmUnexpected)

/-- CERTIFICATE: a portion of the chain of slot 0. -/
def certificateResponse (s : State) (slot : BitVec 4) (off len : BitVec 16) : State × List Byte :=
  if s.dawn.negotiated = false then (s, spdmUnexpected)
  else if slot ≠ 0#4 ∨ Config.certChain.length ≤ off.toNat then (s, spdmInvalid)
  else
    let rest := Config.certChain.drop off.toNat
    let part := rest.take (Nat.min len.toNat (spdmSize - 8))
    (s, [0x13, 0x02, 0, 0] ++ leBytes 2 part.length ++ leBytes 2 (rest.length - part.length) ++ part)

/-- A DMTF measurement block (R365): its index, then the kind of value, its size and the digest. -/
def measBlock (i : Nat) (v : BitVec 512) : List Byte :=
  let kind : Byte := if i = 1 then 0 else if i = 2 then 1 else 2
  [BitVec.ofNat 8 i, 1] ++ leBytes 2 67 ++ [kind] ++ leBytes 2 64 ++ bvBytes 64 v

/-- Whether measurement block i exists: one of a die does while the die's LIVE bit is set (R365). -/
def measExists (s : State) (i : Nat) : Bool := if 3 ≤ i ∧ i ≤ 6 then s.dawn.live.getLsbD (i - 3) else true

/-- The measurement blocks that exist, with their current values (R365). -/
def measBlocks (s : State) : List (Nat × BitVec 512) :=
  (s.dawn.meas.toList.zipIdx.map (fun x => (x.2 + 1, x.1))).filter (fun b => measExists s b.1)

/-- The measurement summary that a CHALLENGE asks for: none, that of the trusted computing base (log 12), or that of every block; no other type. -/
def measSummary (s : State) (kind : BitVec 8) : Option (List Byte) :=
  let sumOf (bs : List (Nat × BitVec 512)) : List Byte := digestBytes (bs.flatMap (fun b => measBlock b.1 b.2))
  if kind = 0 then some []
  else if kind = 1 then some (sumOf ((measBlocks s).filter (fun b => Config.tcbBlock b.1)))
  else if kind = 0xFF then some (sumOf (measBlocks s))
  else none

/-- CHALLENGE_AUTH: signed over the request's nonce and what precedes the signature; the requester's context comes back (R366). -/
def challengeResponse (s : State) (slot kind : BitVec 8) (nonce : BitVec 256) (ctx : BitVec 64) : State × List Byte :=
  if s.dawn.negotiated = false then (s, spdmUnexpected)
  else if slot ≠ 0#8 then (s, spdmInvalid)
  else
    match measSummary s kind with
    | none => (s, spdmInvalid)
    | some sum =>
      let body := [0x13, 0x03, 0, 1] ++ digestBytes Config.certChain ++ bvBytes 32 (Config.spdmRandom s.fresh) ++ sum ++ leBytes 2 0 ++ bvBytes 8 ctx
      ({ s with fresh := s.fresh + 1 }, body ++ (Config.sign (bvBytes 32 nonce ++ body)).toList)

/-- MEASUREMENTS: their number, one block, or all of them; signed on request with the key of slot 0, the only one (R366). -/
def measurementsResponse (s : State) (op : BitVec 8) (sign : Bool) (slot : BitVec 4) (nonce : BitVec 256) (ctx : BitVec 64) : State × List Byte :=
  if s.dawn.negotiated = false then (s, spdmUnexpected)
  else if sign = true ∧ slot ≠ 0#4 then (s, spdmInvalid)
  else
    let all := measBlocks s
    let sel := if op = 0 then [] else if op = 0xFF then all else all.filter (fun b => b.1 == op.toNat)
    if op ≠ 0 ∧ op ≠ 0xFF ∧ sel = [] then (s, spdmInvalid)
    else
      let record := sel.flatMap (fun b => measBlock b.1 b.2)
      let body := [0x13, 0x60, if op = 0 then BitVec.ofNat 8 all.length else 0, 0, BitVec.ofNat 8 sel.length] ++ leBytes 3 record.length ++ record ++
        bvBytes 32 (Config.spdmRandom s.fresh) ++ leBytes 2 0 ++ bvBytes 8 ctx
      ({ s with fresh := s.fresh + 1 }, if sign then body ++ (Config.sign (bvBytes 32 nonce ++ body)).toList else body)

/-- Any other request. -/
def unsupportedResponse (s : State) (code : Byte) : State × List Byte := (s, spdmError 0x07 code)

/-! ## Chunks -/

/-- A little-endian number of a message. -/
def msgNat (bs : List Byte) (off n : Nat) : Nat := leNat ((bs.drop off).take n)

/-- Whether an extended algorithm of the vendor-defined registry stands among the entries of NEGOTIATE_ALGORITHMS (R367). -/
def offers (bs : List Byte) (off n alg : Nat) : Bool :=
  (List.range n).any (fun i => bs.getD (off + 4 * i) 0 == Config.vendorRegistry && msgNat bs (off + 4 * i + 2) 2 == alg)

/-- A request as a message of SPDM 1.3, other than the two of chunks: it is of version 1.3 but for GET_VERSION. -/
def wholeRequest (s : State) (bs : List Byte) : State × List Byte :=
  let p1 := bs.getD 2 0
  let p2 := bs.getD 3 0
  let nonce : BitVec 256 := BitVec.ofNat 256 (msgNat bs 4 32)
  let code := (bs.getD 1 0).toNat
  if code ≠ 0x84 ∧ bs.getD 0 0 ≠ 0x13 then (s, spdmError 0x41 0)
  else
    match code with
    | 0x84 => versionResponse s
    | 0xE1 => capabilitiesResponse s
    | 0xE3 =>
      let na := msgNat bs 28 1
      algorithmsResponse s (offers bs 32 na 1) (offers bs (32 + 4 * na) (msgNat bs 29 1) 2)
    | 0x81 => digestsResponse s
    | 0x82 => certificateResponse s (p1.extractLsb' 0 4) (BitVec.ofNat 16 (msgNat bs 4 2)) (BitVec.ofNat 16 (msgNat bs 6 2))
    | 0x83 => challengeResponse s p1 p2 nonce (BitVec.ofNat 64 (msgNat bs 36 8))
    | 0xE0 =>
      let sign := p1.getLsbD 0
      measurementsResponse s p2 sign ((bs.getD 36 0).extractLsb' 0 4) nonce (BitVec.ofNat 64 (msgNat bs (if sign then 37 else 4) 8))
    | n => unsupportedResponse s (BitVec.ofNat 8 n)

/-- CHUNK_SEND_ACK: the chunks of a request bear its handle and come in order from 0, and the last is acknowledged with the response to the whole; a request
above MaxSPDMmsgSize is RequestTooLarge. A chunk out of order ends the transfer with an early error. -/
def chunkSendResponse (s : State) (handle : BitVec 8) (seq : BitVec 16) (last : Bool) (bytes : List Byte) : State × List Byte :=
  let put (chunks : List Byte) (next : Nat) : State := { s with dawn := { s.dawn with chunks := chunks, chunkHandle := handle, chunkNext := next } }
  let ack (early : Byte) (r : List Byte) : List Byte := [0x13, 0x05, early, handle] ++ leBytes 2 seq.toNat ++ r
  let whole := (if seq = 0 then [] else s.dawn.chunks) ++ bytes
  if seq ≠ 0 ∧ (seq.toNat ≠ s.dawn.chunkNext ∨ handle ≠ s.dawn.chunkHandle) then (put [] 0, ack 1 spdmInvalid)
  else if 65536 < whole.length then (put [] 0, ack 1 (spdmError 0x0E 0))
  else if last then
    let x := wholeRequest (put [] 0) whole
    let y := respond x.1 x.2
    (y.1, ack 0 y.2)
  else (put whole (seq.toNat + 1), ack 0 [])

/-- CHUNK_RESPONSE: a part of the large response with a handle. -/
def chunkGetResponse (s : State) (handle : BitVec 8) (seq : BitVec 16) : State × List Byte :=
  let first := spdmSize - 16
  let other := spdmSize - 12
  let off := if seq = 0 then 0 else first + other * (seq.toNat - 1)
  let large := s.dawn.large
  if large = [] ∨ handle ≠ s.dawn.handle ∨ large.length ≤ off then (s, spdmInvalid)
  else
    let part := (large.drop off).take (if seq = 0 then first else other)
    let last := decide (off + part.length = large.length)
    let s := if last then { s with dawn := { s.dawn with large := [] } } else s
    (s, [0x13, 0x06, if last then 1 else 0, handle] ++ leBytes 2 seq.toNat ++ [0, 0] ++ leBytes 4 part.length ++
      (if seq = 0 then leBytes 4 large.length else []) ++ part)

/-- A request as it stands in a frame of TYPE 5 (R366): a part of a request, a part of a response, or a whole request. -/
def request (s : State) (bs : List Byte) : State × List Byte :=
  let code := bs.getD 1 0
  let seq : BitVec 16 := BitVec.ofNat 16 (msgNat bs 4 2)
  if bs.getD 0 0 = 0x13 ∧ code = 0x85 then
    chunkSendResponse s (bs.getD 3 0) seq ((bs.getD 2 0).getLsbD 0) ((bs.drop (if seq = 0 then 16 else 12)).take (msgNat bs 8 4))
  else if bs.getD 0 0 = 0x13 ∧ code = 0x86 then chunkGetResponse s (bs.getD 3 0) seq
  else wholeRequest s bs

/-! ## The requests -/

/-- The responder runs from power-on (R366). -/
def responding (s : State) : Bool := s.dawn.powered

/-- A request is answered. -/
def spdm (f : State → State × List Byte) (s : State) : Host.Outcome State Fault Refusal := if responding s then .next (answer (f s)) else .next s

/-- GET_VERSION. -/
def execGetVersion (s : State) : Host.Outcome State Fault Refusal := spdm versionResponse s
/-- GET_CAPABILITIES. -/
def execGetCapabilities (s : State) : Host.Outcome State Fault Refusal := spdm capabilitiesResponse s
/-- NEGOTIATE_ALGORITHMS. -/
def execNegotiateAlgorithms (asym hash : Bool) (s : State) : Host.Outcome State Fault Refusal := spdm (fun s => algorithmsResponse s asym hash) s
/-- GET_DIGESTS. -/
def execGetDigests (s : State) : Host.Outcome State Fault Refusal := spdm digestsResponse s
/-- GET_CERTIFICATE. -/
def execGetCertificate (slot : BitVec 4) (off len : BitVec 16) (s : State) : Host.Outcome State Fault Refusal := spdm (fun s => certificateResponse s slot off len) s
/-- CHALLENGE: a slot and a kind of summary, a nonce and the requester's context. -/
def execChallenge (ask : BitVec 8 × BitVec 8) (sent : BitVec 256 × BitVec 64) (s : State) : Host.Outcome State Fault Refusal :=
  spdm (fun s => challengeResponse s ask.1 ask.2 sent.1 sent.2) s
/-- GET_MEASUREMENTS: an operation, whether a signature is asked for and by which slot, a nonce and the requester's context. -/
def execGetMeasurements (op : BitVec 8) (sign : Bool × BitVec 4) (sent : BitVec 256 × BitVec 64) (s : State) : Host.Outcome State Fault Refusal :=
  spdm (fun s => measurementsResponse s op sign.1 sign.2 sent.1 sent.2) s
/-- CHUNK_SEND: a handle and a chunk's number, whether it is the last, and its bytes. -/
def execChunkSend (chunk : BitVec 8 × BitVec 16) (last : Bool) (bytes : List (BitVec 8)) (s : State) : Host.Outcome State Fault Refusal :=
  spdm (fun s => chunkSendResponse s chunk.1 chunk.2 last bytes) s
/-- CHUNK_GET. -/
def execChunkGet (handle : BitVec 8) (seq : BitVec 16) (s : State) : Host.Outcome State Fault Refusal := spdm (fun s => chunkGetResponse s handle seq) s
/-- Any other SPDM request: UnsupportedRequest. -/
def execUnsupportedRequest (code : BitVec 8) (s : State) : Host.Outcome State Fault Refusal := spdm (fun s => unsupportedResponse s code) s

end Sys2Proof.Machine
end

