-- ==== Sys2Proof/Machine/Frames.lean ====
section
/-! DEFINITION. Sys2Proof/Machine/Frames.lean: a frame of the Drepel port as it arrives: its checks, and what it comes to by its TYPE (R370 to R373, R436). -/

namespace Sys2Proof.Machine

open Sys2Proof

/-- A message arrives (R373): one of a reserved MTYPE, of a MTYPE that the host does not send, with a non-zero bit in [55:32] or with a body of another length
is dropped and counted (log 12). The body of COL_ACK has no layout in the spec: the COL_ACK event carries its contents (log 12). -/
def arriveMsg (s : State) (head : BitVec 64) (body : List (BitVec 64)) : Host.Outcome State Fault Refusal :=
  let seq : BitVec 32 := head.extractLsb' 0 32
  if head.extractLsb' 32 24 ≠ 0#24 then .next (dropBad s)
  else
    match fieldOf head 63 56, body with
    | 1, [] => execBootGo seq s
    | 3, [pa, d0, d1, d2, d3] => execSchedBind seq pa #v[d0, d1, d2, d3] s
    | 5, [a] => if a.extractLsb' 10 54 = 0#54 then execPfAck seq (a.extractLsb' 0 10) s else .next (dropBad s)
    | 7, _ => .next s
    | 10, [a] => execTrapAck seq a s
    | 11, [d0, d1, d2, d3, d4, d5] => execPfDecl seq #v[d0, d1, d2, d3, d4, d5] s
    | _, _ => .next (dropBad s)

/-- A frame arrives: one whose CRC fails, or that is malformed, is dropped and counted; WR, RD, MSG and SPDM frames are performed. CPL is no frame of the
host's, and the ADDR of MSG and SPDM is 0. -/
def arriveFrame (hdr : BitVec 128) (pay : List (BitVec 64)) (trailer : BitVec 64) (s : State) : Host.Outcome State Fault Refusal :=
  let good := trailerOf hdr pay
  if trailer.extractLsb' 0 32 ≠ good.extractLsb' 0 32 then .next (dropCrc s)
  else if frameBad hdr = true ∨ trailer ≠ good then .next (dropBad s)
  else
    let a := frameAddr hdr
    let n := frameLen hdr
    match frameType hdr, pay with
    | 1, _ => if pay.length = n then .next (hostWr s a pay) else .next (dropBad s)
    | 2, [] => .next (hostRd s (frameTag hdr) a n)
    | 4, head :: body => if pay.length = n ∧ a = 0 then arriveMsg s head body else .next (dropBad s)
    | 5, _ => if pay.length = n ∧ a = 0 then spdm (fun s => request s (dwordBytes pay)) s else .next (dropBad s)
    | _, _ => .next (dropBad s)

/-- WR: a frame arrives from the host; with the header of a WR frame its payload is written. -/
def execWr (hdr : BitVec 128) (pay : List (BitVec 64)) (trailer : BitVec 64) (s : State) : Host.Outcome State Fault Refusal := arriveFrame hdr pay trailer s

/-- RD: a frame arrives from the host; with the header of an RD frame the read is answered. -/
def execRd (hdr : BitVec 128) (pay : List (BitVec 64)) (trailer : BitVec 64) (s : State) : Host.Outcome State Fault Refusal := arriveFrame hdr pay trailer s

end Sys2Proof.Machine
end

