-- ==== Sys2Proof/Machine/Recovery.lean ====
section
/-! DEFINITION. Sys2Proof/Machine/Recovery.lean: supply sag (R30, R31, R437), corrected errors (R408, R409, R412), a lost die (R429) and die-to-die links
(R430). -/

namespace Sys2Proof.Machine

open Sys2Proof

/-! ## Supply sag -/

/-- SAG_TRIP (R30, R31, R409, R437): the clock is slowed, the trip is counted and recorded, and a lasting sag site locks it. -/
def execSagTrip (die : DieId) (s : State) : Host.Outcome State Fault Refusal :=
  if dieLive s die = false then .next s
  else
    let d := s.dies.get die
    let s := s.setDie die { d with trips := if d.trips = BitVec.allOnes 32 then d.trips else d.trips + 1, slow := true, slowRun := 0 }
    let (s, n, lasting) := countSite s 12 die 0 (2 ^ 24) 16
    let s := s.setDie die { s.dies.get die with tripw := n }
    let r : ErrRec :=
      { src := 12, kind := 0, die := BitVec.ofNat 4 die.val, core := 0, sub := 0, count := n, cause := 0, addr := 0, lid := 0, cycle := d.cycle,
        synd := Config.freeBits s.fresh 64 }
    let s := logErr { s with fresh := s.fresh + 1 } r
    if lasting then .next (logErr (s.setDie die { s.dies.get die with lock := true }) { r with kind := 4, cause := Cause.mcSag })
    else .next s

/-- SAG_RECOVER (R30): after 65,536 slowed cycles with no trip, and without a sag lock, the clock returns. -/
def execSagRecover (die : DieId) (s : State) : Host.Outcome State Fault Refusal :=
  let d := s.dies.get die
  if d.slow && !d.lock && decide (65536 ≤ d.slowRun) then .next (s.setDie die { d with slow := false, slowRun := 0 }) else .next s

/-! ## CORRECTED_ERROR (R408, R409, R412) -/

/-- The site of a corrected error: its key, window and limit; none for a source that keeps no site. -/
def correctedSite (s : State) (src : BitVec 4) (core : CoreId) (sub : BitVec 5) (addr : BitVec 64) : Option (Nat × Nat × Nat) :=
  match src.toNat with
  | 1 => some (lineKey s addr.toNat, 2 ^ 26, 16)
  | 2 => some (lineKey s addr.toNat, 2 ^ 24, 8)
  | 3 => some (lineKey s addr.toNat, 2 ^ 24, 16)
  | 4 => some (core.val * 64 + sub.toNat, 2 ^ 24, 16)
  | 6 => some (core.val * 32 + sub.toNat, 2 ^ 24, 4)
  | _ => none

/-- Whether a corrected error can be found where an event says: the source and the place agree. -/
def correctedAt (s : State) (src : BitVec 4) (die : DieId) (core : CoreId) (addr : BitVec 64) : Bool :=
  dieLive s die &&
  (match src.toNat with
   | 1 => decide (dieOf addr.toNat = die) && (region s addr.toNat).isHbm && (l2Way s addr.toNat).isNone
   | 2 => decide (dieOf addr.toNat = die) && (l2Way s addr.toNat).isSome
   | 3 => decide (dieOf addr.toNat = die) && (region s addr.toNat).isAttic
   | 4 | 5 | 6 => decide (dieOfCore core = die)
   | _ => false)

/-- The link that stands in an entry of an array: its chain and index. -/
def linkIn (s : State) (core : CoreId) (array : Fin 2) (slot : Nat) : Option (BitVec 12 × Nat) :=
  s.chains.findSome? (fun c => (c.links.findIdx? (fun l => l.entries.contains (core, array, slot))).map (fun i => (c.num, i)))

/-- A lasting link store entry is retired when next freed; one that is free is retired at once (R408, R425). -/
def lastingEntry (s : State) (core : CoreId) (array : Fin 2) (slot : Nat) : State :=
  match linkIn s core array slot with
  | some (num, i) =>
    let mark (l : Link) : Link := { l with lasting := l.lasting ||| BitVec.ofNat 2 (2 ^ array.val) }
    { s with chains := s.chains.map (fun c => if c.num = num then { c with links := c.links.modify i mark } else c) }
  | none => retireAt s core array slot

/-- The action of a site that has become lasting (R408). -/
def lastingAction (s : State) (src : BitVec 4) (die : DieId) (core : CoreId) (sub : BitVec 5) (addr : BitVec 64) : State :=
  match src.toNat with
  | 2 => (match l2Way s addr.toNat with | some x => disableWay s die x | none => s)
  | 6 => lastingEntry s core ⟨sub.toNat / 16 % 2, by omega⟩ (sub.toNat % 16)
  | _ => s

/-- SUB and ADDR of a record of a corrected error (R409). -/
def correctedPlace (s : State) (src : BitVec 4) (core : CoreId) (sub : BitVec 5) (addr : BitVec 64) : BitVec 5 × BitVec 64 :=
  match src.toNat with
  | 1 | 2 | 3 => ((lineSource s addr.toNat).2, BitVec.ofNat 64 (addr.toNat / 128 * 128))
  | 6 => (sub, match linkIn s core ⟨sub.toNat / 16 % 2, by omega⟩ (sub.toNat % 16) with
    | some (num, i) => BitVec.ofNat 64 (i * 4096 + num.toNat)
    | none => 0)
  | _ => (0, 0)

/-- CORRECTED_ERROR: the error is written back, recorded and counted; a site that becomes lasting by it is recorded and acted on. -/
def execCorrectedError (src : BitVec 4) (die : DieId) (core : CoreId) (sub : BitVec 5) (addr : BitVec 64) (synd : BitVec 64) (s : State) :
    Host.Outcome State Fault Refusal :=
  if correctedAt s src die core addr = false then .next s
  else
    let (rsub, raddr) := correctedPlace s src core sub addr
    let (s, n, lasting) := match correctedSite s src core sub addr with
      | some (key, window, limit) => countSite s src die key window limit
      | none => (s, 0, false)
    let r : ErrRec :=
      { src := src, kind := 0, die := BitVec.ofNat 4 die.val, core := if 4 ≤ src.toNat then BitVec.ofNat 7 core.val else 0, sub := rsub, count := n, cause := 0,
        addr := raddr, lid := 0, cycle := (s.dies.get die).cycle, synd := synd }
    let s := logErr s r
    if lasting then .next (logErr (lastingAction s src die core sub addr) { r with kind := 4 }) else .next s

/-! ## DIE_LOST (R429) -/

/-- Whether a location lies on a die. -/
def locOn (d : DieId) : Loc → Bool
  | .mem pa => decide (pa / 2 ^ 48 = d.val)
  | .spad _ => false

/-- The stores of a stream to a lost die fail: they are performed nowhere; a vector command whose last parts these were has been performed. -/
def dropStores (d : DieId) (g : Group) (st : StreamId) : Group :=
  let t := g.stream st
  let kept (x : StorePart) : StorePart := { x with scale := x.scale.filter (fun b => !locOn d b.loc) }
  let left := t.stores.map (fun r => { r with parts := (r.parts.filter (fun x => !locOn d x.loc)).map kept })
  let g := g.setStream st { t with stores := left.filter (fun r => !r.parts.isEmpty) }
  left.foldl (fun g r => if r.parts.isEmpty then (match r.entry with | some id => accessDone g id | none => g) else g) g

/-- The loads of a stream from a lost die fail: each takes MC_DIE at its stream and leaves its destination empty. -/
def failLoads (d : DieId) (s : State) (p : Place) (st : StreamId) : State :=
  match s.group p with
  | none => s
  | some g =>
    let t := g.stream st
    let gone := t.loads.filter (fun r => r.parts.any (fun x => locOn d x.loc))
    if gone = [] then s
    else
      let g := g.setStream st { t with loads := t.loads.filter (fun r => !r.parts.any (fun x => locOn d x.loc)), loadsDone := t.loadsDone + gone.length }
      let g := gone.foldl (fun g r => deliverNone g r.dest) g
      gone.foldl (fun s r => raise s p { stream := st, queue := none, async := true, fpc := r.fpc } (.plain Cause.mcDie)) (s.setGroup p g)

/-- What is left of a write when its bytes on a lost die have failed; none when its line lies there. -/
def LineWrite.without (d : DieId) (l : LineWrite) : Option LineWrite :=
  if locOn d l.loc then none
  else some { l with more := l.more.filter (fun x => !locOn d x.loc), scales := l.scales.filter (fun x => !locOn d x.loc) }

/-- The writes of started commands to a lost die fail, a copy's to its barrier among them: a command takes MC_DIE when it completes, and a copy pushes STATUS 2. -/
def failWork (d : DieId) (w : Work) : Work :=
  let bad (l : LineWrite) : Bool := l.places.any (locOn d)
  let gone (c : CopyRun) : Bool := c.barrier.any (fun pa => locOn d (.mem pa))
  let lost (c : CopyRun) : Bool := c.lines.any bad || c.flagw.any bad || gone c
  let copy (c : CopyRun) : CopyRun :=
    if lost c then
      { c with lines := c.lines.filterMap (LineWrite.without d), flagw := c.flagw.bind (LineWrite.without d), barrier := if gone c then none else c.barrier, status := 2 }
    else c
  if w.lines.any bad || w.copies.any lost then
    { w with lines := w.lines.filterMap (LineWrite.without d), copies := w.copies.map copy, cause := some Cause.mcDie, status := 2 }
  else w

/-- A scatter update that the stream of its command will have to hear of (R429): its stream, with its address. -/
def ScatUpd.cause (s : State) (p : Place) (u : ScatUpd) : State :=
  raise s p { stream := u.stream, queue := none, async := true, fpc := u.fpc } (.plain Cause.mcDie)

/-- The pending scatter updates of a group on a lost die fail: each takes MC_DIE at its stream. -/
def failUpdates (d : DieId) (s : State) (p : Place) : State :=
  match s.group p with
  | none => s
  | some g =>
    let gone := g.scat.filter (fun u => locOn d u.loc)
    gone.foldl (fun s u => u.cause s p) (s.setGroup p { g with scat := g.scat.filter (fun u => !locOn d u.loc) })

/-- The outstanding requests of the group at a place to a lost die fail (R429 step 2). -/
def failRequests (d : DieId) (s : State) (p : Place) : State :=
  let s := failUpdates d s p
  match s.group p with
  | none => s
  | some g =>
    let g := { g with queues := g.queues.map (fun q => q.map (fun e =>
      if e.started ∧ e.done = false then { e with work := e.work.map (failWork d) } else e)) }
    let g := StreamId.all.foldl (dropStores d) g
    StreamId.all.foldl (fun s st => failLoads d s p st) (s.setGroup p g)

/-- The launches that had something on a die (R429 step 3). -/
def launchesOn (s : State) (d : DieId) : List (BitVec 64) :=
  let die := s.dies.get d
  let bound := (placesOfDie d).filterMap (fun p => match s.group p with
    | some g => some g.lr.id
    | none => if (s.slot p).state = .binding then some (s.slot p).latched.lid else none)
  let linked := (s.chains.filter (fun c => c.links.any (fun l => l.die == d))).map (fun c => c.owner)
  let regs := (die.regs.toList.filter (fun r => r.v)).map (fun r => r.lid)
  let ctxs := die.ctxs.toList.filterMap (fun c => c.map (fun x => x.owner)) ++ die.loads.map (fun x => x.2.owner)
  (bound ++ linked ++ regs ++ die.watch.map (fun w => w.owner) ++ ctxs).dedup

/-- New groups whose records a lost die's slot table held wait again. -/
def rewait (s : State) (p : Place) : State :=
  let sl := s.slot p
  let again (s : State) (r : BindRec) : State :=
    if r.valid && r.kind == 1#3 && (bindableLaunch s r.lid).isSome then
      { s with dawn := { s.dawn with waiting := .fresh r.lid r.gindex.toNat :: s.dawn.waiting } }
    else s
  let s := if sl.pending then again s sl.brec else s
  s.setSlot p { sl with pending := false, brec := sl.brec.clearV, dusk := false }

/-- The same of a core's standby. -/
def rewaitStandby (s : State) (c : CoreId) : State :=
  let r := (s.cores.get c).standby
  let s := if r.valid && r.kind == 1#3 && (bindableLaunch s r.lid).isSome then
      { s with dawn := { s.dawn with waiting := .fresh r.lid r.gindex.toNat :: s.dawn.waiting } }
    else s
  s.setCore c { s.cores.get c with standby := r.clearV }

/-- A slot of a lost die: its group ends without a save. -/
def clearLost (s : State) (p : Place) : State :=
  let s := if (s.slot p).group.isSome then endGroup s p else s
  let sl := s.slot p
  s.setSlot p { sl with state := .free, group := none }

/-- Gangs that the live cores can no longer hold are ended (R55). -/
def endLargeGangs (s : State) : State :=
  s.dawn.launches.foldl (fun s l =>
    if l.lrec.gang && decide (l.bound < l.lrec.g ∧ 4 * liveCores s < l.lrec.g) then endLaunch s l.lrec.id Cause.launchBad else s) s

/-- The replays whose parts wait in a lost die's cellar queues fail (R432), and the queues are gone. -/
def failCellar (s : State) (d : DieId) : State :=
  let parts := (s.dies.get d).cellar.toList.flatten
  let s := parts.foldl (fun s x => failReplay s x.die x.ctx Cause.mcDie) s
  s.setDie d { s.dies.get d with cellar := Vector.replicate 3 [] }

/-- What a die that is lost has on its way to other dies, each as the die that will receive it and the lost one: the data of loads, forwards and notices, node values,
and the answers to cellar parts (R428). -/
def onItsWay (s : State) (d : DieId) : List (DieId × DieId) :=
  let loads := (List.finRange 512).flatMap (fun p => match s.group p with
    | some g => if dieOfPlace p = d then [] else
        (g.streams.toList.flatMap (fun t => t.loads.filter (fun r => r.parts.any (fun x => locOn d x.loc)))).map (fun _ => dieOfPlace p)
    | none => [])
  let ups := s.chains.flatMap (fun c => (c.links.filter (fun l => l.die == d && l.flight.isSome && !l.landed)).filterMap (fun l => (c.links[l.parent]?).map (·.die)))
  let downs := s.chains.flatMap (fun c => c.links.flatMap (fun l =>
    (l.asks.filter (fun x => x.2.isSome && (c.links[x.1]?).any (fun k => k.die == d))).map (fun _ => l.die)))
  let parts := (s.dies.get d).cellar.toList.flatten.map (fun x => x.die)
  ((loads ++ ups ++ downs ++ parts).filter (fun x => x != d)).map (fun x => (x, d))

/-- The chain directory of a lost die is rebuilt on the lowest-numbered die still live, which takes its time (R429 step 4). -/
def moveDirectory (s : State) (d : DieId) (held : Bool) : State :=
  if held then { s with dawn := { s.dawn with directory := (List.finRange 4).find? (fun k => decide (k ≠ d) && dieLive s k), rebuilding := true } } else s

/-- The die Cd is lost (R429): its REL bit clears, requests to it fail, the launches that had something on it are ended with MC_DIE, its links, its ports and its
slots go, and the rebuilding of the chain directory starts where it held that. What it had sent is still on its way, and is discarded when it arrives. -/
def loseDie (s : State) (d : DieId) : State :=
  let held : Bool := directoryDie s == some d
  let late := onItsWay s d
  let s := { s with dawn := { s.dawn with
      rel := s.dawn.rel &&& ~~~(BitVec.ofNat 4 (2 ^ d.val)), releasing := s.dawn.releasing.filter (· ≠ d), late := s.dawn.late ++ late
      retraining := s.dawn.retraining.filter (fun x => x.1 != d && x.2 != d) } }
  let s := (List.finRange 512).foldl (fun s p => if dieOfPlace p = d then s else failRequests d s p) s
  let s := (List.finRange 32).foldl (fun s k =>
    let c := s.clusters.get k
    s.setCluster k { c with buf := c.buf.filter (fun b => !locOn d (.mem (128 * b.line))) }) s
  let lids := launchesOn s d
  let s := (placesOfDie d).foldl rewait s
  let s := (List.finRange 32).foldl (fun s k => rewaitStandby s (coreAt d k)) s
  let s := lids.foldl (fun s l => endLaunch s l Cause.mcDie) s
  let s := (s.chains.filter (fun c => c.links.any (fun l => l.die == d))).foldl (fun s c => freeChain s c.num) s
  let s := (placesOfDie d).foldl clearLost s
  let s := lids.foldl launchEnd s
  let s := s.setDie d { s.dies.get d with svc := [] }
  let s := (List.finRange 18).foldl (fun s q => if portDie q.val = d then takeDown s q else s) s
  endLargeGangs (moveDirectory (failCellar s d) d held)

/-- DIE_LOST: the management core declares a released die lost. -/
def execDieLost (die : DieId) (s : State) : Host.Outcome State Fault Refusal := if dieLive s die then .next (loseDie s die) else .next s

/-! ## Die-to-die links (R408, R430) -/

/-- A link between two dies, lower die first. -/
def linkPair (a b : DieId) : DieId × DieId := if a.val ≤ b.val then (a, b) else (b, a)

/-- A record of a die-to-die link, found at its lower die. -/
def linkRecord (s : State) (x : DieId × DieId) (kind : BitVec 4) (count : BitVec 8) : State :=
  logErr { s with fresh := s.fresh + 1 }
    { src := 8, kind := kind, die := BitVec.ofNat 4 x.1.val, core := 0, sub := BitVec.ofNat 5 x.2.val, count := count, cause := 0, addr := 0, lid := 0,
      cycle := (s.dies.get x.1).cycle, synd := Config.freeBits s.fresh 64 }

/-- D2D_FLIT_CRC_FAIL (R430): the flit is replayed and counted; a lasting link is retrained. -/
def execD2dFlitCrcFail (a b : DieId) (s : State) : Host.Outcome State Fault Refusal :=
  let x := linkPair a b
  if a = b ∨ dieLive s a = false ∨ dieLive s b = false ∨ s.dawn.retraining.contains x = true then .next s
  else
    let (s, n, lasting) := countSite s 8 x.1 x.2.val (2 ^ 20) 64
    let s := linkRecord s x 0 n
    if lasting then
      let s := linkRecord s x 4 n
      .next { s with dawn := { s.dawn with retraining := x :: s.dawn.retraining } }
    else .next s

/-- D2D_RETRAIN_END (R430): the link is retrained, or the higher-numbered of its dies is lost (R429). -/
def execD2dRetrainEnd (a b : DieId) (ok : Bool) (s : State) : Host.Outcome State Fault Refusal :=
  let x := linkPair a b
  if s.dawn.retraining.contains x then
    let s := { s with dawn := { s.dawn with retraining := s.dawn.retraining.filter (· ≠ x) } }
    let s := linkRecord s x 6 (siteCount s 8 x.1 x.2.val)
    if ok || !dieLive s x.2 then .next s else .next (loseDie s x.2)
  else .next s

end Sys2Proof.Machine
end

