-- ==== Sys2Proof/Machine/Dispatch.lean ====
section
/-! DEFINITION. Sys2Proof/Machine/Dispatch.lean: one arm per constructor of Instr, each a direct call of its meaning. -/

namespace Sys2Proof.Machine

open Sys2Proof

def exec (i : Instr) (s : State) : Host.Outcome State Fault Refusal :=
  match i with
  | .add a0 a1 a2 a3 => Sys2Proof.Machine.execAdd a0 a1 a2 a3 s
  | .sub a0 a1 a2 a3 => Sys2Proof.Machine.execSub a0 a1 a2 a3 s
  | .and a0 a1 a2 a3 => Sys2Proof.Machine.execAnd a0 a1 a2 a3 s
  | .or a0 a1 a2 a3 => Sys2Proof.Machine.execOr a0 a1 a2 a3 s
  | .xor a0 a1 a2 a3 => Sys2Proof.Machine.execXor a0 a1 a2 a3 s
  | .shl a0 a1 a2 a3 => Sys2Proof.Machine.execShl a0 a1 a2 a3 s
  | .shr a0 a1 a2 a3 => Sys2Proof.Machine.execShr a0 a1 a2 a3 s
  | .sra a0 a1 a2 a3 => Sys2Proof.Machine.execSra a0 a1 a2 a3 s
  | .mul a0 a1 a2 a3 => Sys2Proof.Machine.execMul a0 a1 a2 a3 s
  | .mulh a0 a1 a2 a3 => Sys2Proof.Machine.execMulh a0 a1 a2 a3 s
  | .mulhu a0 a1 a2 a3 => Sys2Proof.Machine.execMulhu a0 a1 a2 a3 s
  | .div a0 a1 a2 a3 => Sys2Proof.Machine.execDiv a0 a1 a2 a3 s
  | .divu a0 a1 a2 a3 => Sys2Proof.Machine.execDivu a0 a1 a2 a3 s
  | .rem a0 a1 a2 a3 => Sys2Proof.Machine.execRem a0 a1 a2 a3 s
  | .remu a0 a1 a2 a3 => Sys2Proof.Machine.execRemu a0 a1 a2 a3 s
  | .min a0 a1 a2 a3 => Sys2Proof.Machine.execMin a0 a1 a2 a3 s
  | .max a0 a1 a2 a3 => Sys2Proof.Machine.execMax a0 a1 a2 a3 s
  | .minu a0 a1 a2 a3 => Sys2Proof.Machine.execMinu a0 a1 a2 a3 s
  | .maxu a0 a1 a2 a3 => Sys2Proof.Machine.execMaxu a0 a1 a2 a3 s
  | .clz a0 a1 a2 => Sys2Proof.Machine.execClz a0 a1 a2 s
  | .ctz a0 a1 a2 => Sys2Proof.Machine.execCtz a0 a1 a2 s
  | .popc a0 a1 a2 => Sys2Proof.Machine.execPopc a0 a1 a2 s
  | .brev a0 a1 a2 => Sys2Proof.Machine.execBrev a0 a1 a2 s
  | .addi a0 a1 a2 a3 => Sys2Proof.Machine.execAddi a0 a1 a2 a3 s
  | .andi a0 a1 a2 a3 => Sys2Proof.Machine.execAndi a0 a1 a2 a3 s
  | .ori a0 a1 a2 a3 => Sys2Proof.Machine.execOri a0 a1 a2 a3 s
  | .xori a0 a1 a2 a3 => Sys2Proof.Machine.execXori a0 a1 a2 a3 s
  | .shli a0 a1 a2 a3 => Sys2Proof.Machine.execShli a0 a1 a2 a3 s
  | .shri a0 a1 a2 a3 => Sys2Proof.Machine.execShri a0 a1 a2 a3 s
  | .srai a0 a1 a2 a3 => Sys2Proof.Machine.execSrai a0 a1 a2 a3 s
  | .lis a0 a1 a2 => Sys2Proof.Machine.execLis a0 a1 a2 s
  | .liw a0 a1 a2 a3 a4 => Sys2Proof.Machine.execLiw a0 a1 a2 a3 a4 s
  | .lihi a0 a1 a2 a3 => Sys2Proof.Machine.execLihi a0 a1 a2 a3 s
  | .lea a0 a1 a2 a3 a4 => Sys2Proof.Machine.execLea a0 a1 a2 a3 a4 s
  | .mvc a0 a1 a2 => Sys2Proof.Machine.execMvc a0 a1 a2 s
  | .mvb a0 a1 a2 => Sys2Proof.Machine.execMvb a0 a1 a2 s
  | .mvtV a0 a1 a2 => Sys2Proof.Machine.execMvtV a0 a1 a2 s
  | .mvtT a0 a1 a2 => Sys2Proof.Machine.execMvtT a0 a1 a2 s
  | .bfx a0 a1 a2 a3 a4 a5 a6 => Sys2Proof.Machine.execBfx a0 a1 a2 a3 a4 a5 a6 s
  | .bfi a0 a1 a2 a3 a4 a5 a6 => Sys2Proof.Machine.execBfi a0 a1 a2 a3 a4 a5 a6 s
  | .sel a0 a1 a2 a3 a4 a5 => Sys2Proof.Machine.execSel a0 a1 a2 a3 a4 a5 s
  | .cmp a0 a1 a2 a3 a4 => Sys2Proof.Machine.execCmp a0 a1 a2 a3 a4 s
  | .cmpi a0 a1 a2 a3 a4 => Sys2Proof.Machine.execCmpi a0 a1 a2 a3 a4 s
  | .cand a0 a1 a2 a3 => Sys2Proof.Machine.execCand a0 a1 a2 a3 s
  | .cor a0 a1 a2 a3 => Sys2Proof.Machine.execCor a0 a1 a2 a3 s
  | .cnot a0 a1 a2 => Sys2Proof.Machine.execCnot a0 a1 a2 s
  | .vany a0 a1 a2 a3 => Sys2Proof.Machine.execVany a0 a1 a2 a3 s
  | .vall a0 a1 a2 a3 => Sys2Proof.Machine.execVall a0 a1 a2 a3 s
  | .pand a0 a1 a2 a3 => Sys2Proof.Machine.execPand a0 a1 a2 a3 s
  | .por a0 a1 a2 a3 => Sys2Proof.Machine.execPor a0 a1 a2 a3 s
  | .pxor a0 a1 a2 a3 => Sys2Proof.Machine.execPxor a0 a1 a2 a3 s
  | .pnot a0 a1 a2 => Sys2Proof.Machine.execPnot a0 a1 a2 s
  | .pcnt a0 a1 a2 a3 => Sys2Proof.Machine.execPcnt a0 a1 a2 a3 s
  | .pset a0 a1 a2 a3 => Sys2Proof.Machine.execPset a0 a1 a2 a3 s
  | .prep a0 a1 a2 => Sys2Proof.Machine.execPrep a0 a1 a2 s
  | .prepr a0 a1 a2 => Sys2Proof.Machine.execPrepr a0 a1 a2 s
  | .xfer a0 a1 => Sys2Proof.Machine.execXfer a0 a1 s
  | .xferC a0 a1 a2 => Sys2Proof.Machine.execXferC a0 a1 a2 s
  | .xferNc a0 a1 a2 => Sys2Proof.Machine.execXferNc a0 a1 a2 s
  | .loop a0 a1 a2 a3 => Sys2Proof.Machine.execLoop a0 a1 a2 a3 s
  | .loopi a0 a1 a2 a3 a4 => Sys2Proof.Machine.execLoopi a0 a1 a2 a3 a4 s
  | .nop a0 => Sys2Proof.Machine.execNop a0 s
  | .endg a0 => Sys2Proof.Machine.execEndg a0 s
  | .yield a0 => Sys2Proof.Machine.execYield a0 s
  | .ifence a0 => Sys2Proof.Machine.execIfence a0 s
  | .suspend a0 a1 a2 => Sys2Proof.Machine.execSuspend a0 a1 a2 s
  | .suspendSeal a0 => Sys2Proof.Machine.execSuspendSeal a0 s
  | .resume a0 a1 a2 => Sys2Proof.Machine.execResume a0 a1 a2 s
  | .discard a0 a1 a2 => Sys2Proof.Machine.execDiscard a0 a1 a2 s
  | .trap a0 a1 => Sys2Proof.Machine.execTrap a0 a1 s
  | .sysr a0 a1 a2 => Sys2Proof.Machine.execSysr a0 a1 a2 s
  | .sysw a0 a1 a2 => Sys2Proof.Machine.execSysw a0 a1 a2 s
  | .perfr a0 a1 a2 => Sys2Proof.Machine.execPerfr a0 a1 a2 s
  | .tret a0 => Sys2Proof.Machine.execTret a0 s
  | .brk a0 a1 => Sys2Proof.Machine.execBrk a0 a1 s
  | .locq a0 a1 a2 => Sys2Proof.Machine.execLocq a0 a1 a2 s
  | .ldB a0 a1 a2 a3 => Sys2Proof.Machine.execLdB a0 a1 a2 a3 s
  | .ldBu a0 a1 a2 a3 => Sys2Proof.Machine.execLdBu a0 a1 a2 a3 s
  | .ldH a0 a1 a2 a3 => Sys2Proof.Machine.execLdH a0 a1 a2 a3 s
  | .ldHu a0 a1 a2 a3 => Sys2Proof.Machine.execLdHu a0 a1 a2 a3 s
  | .ldW a0 a1 a2 a3 => Sys2Proof.Machine.execLdW a0 a1 a2 a3 s
  | .ldWu a0 a1 a2 a3 => Sys2Proof.Machine.execLdWu a0 a1 a2 a3 s
  | .ldD a0 a1 a2 a3 => Sys2Proof.Machine.execLdD a0 a1 a2 a3 s
  | .stB a0 a1 a2 a3 => Sys2Proof.Machine.execStB a0 a1 a2 a3 s
  | .stH a0 a1 a2 a3 => Sys2Proof.Machine.execStH a0 a1 a2 a3 s
  | .stW a0 a1 a2 a3 => Sys2Proof.Machine.execStW a0 a1 a2 a3 s
  | .stD a0 a1 a2 a3 => Sys2Proof.Machine.execStD a0 a1 a2 a3 s
  | .lds a0 a1 a2 => Sys2Proof.Machine.execLds a0 a1 a2 s
  | .stf a0 a1 a2 => Sys2Proof.Machine.execStf a0 a1 a2 s
  | .waita a0 a1 a2 a3 => Sys2Proof.Machine.execWaita a0 a1 a2 a3 s
  | .qmark a0 => Sys2Proof.Machine.execQmark a0 s
  | .fence a0 a1 a2 => Sys2Proof.Machine.execFence a0 a1 a2 s
  | .epop a0 a1 a2 => Sys2Proof.Machine.execEpop a0 a1 a2 s
  | .pref a0 a1 a2 a3 => Sys2Proof.Machine.execPref a0 a1 a2 a3 s
  | .evpost a0 a1 => Sys2Proof.Machine.execEvpost a0 a1 s
  | .evpostG a0 a1 a2 => Sys2Proof.Machine.execEvpostG a0 a1 a2 s
  | .evwait a0 a1 => Sys2Proof.Machine.execEvwait a0 a1 s
  | .bara a0 a1 a2 a3 => Sys2Proof.Machine.execBara a0 a1 a2 a3 s
  | .barex a0 a1 a2 => Sys2Proof.Machine.execBarex a0 a1 a2 s
  | .barw a0 a1 a2 a3 => Sys2Proof.Machine.execBarw a0 a1 a2 a3 s
  | .l2unpin a0 a1 => Sys2Proof.Machine.execL2unpin a0 a1 s
  | .l2pin a0 a1 a2 a3 a4 a5 => Sys2Proof.Machine.execL2pin a0 a1 a2 a3 a4 a5 s
  | .rgtkt a0 a1 a2 => Sys2Proof.Machine.execRgtkt a0 a1 a2 s
  | .rgfill a0 a1 a2 => Sys2Proof.Machine.execRgfill a0 a1 a2 s
  | .rgtake a0 a1 a2 a3 => Sys2Proof.Machine.execRgtake a0 a1 a2 a3 s
  | .rgrel a0 a1 a2 => Sys2Proof.Machine.execRgrel a0 a1 a2 s
  | .jobnx a0 a1 a2 => Sys2Proof.Machine.execJobnx a0 a1 a2 s
  | .jobgo a0 a1 a2 => Sys2Proof.Machine.execJobgo a0 a1 a2 s
  | .tqadd a0 a1 => Sys2Proof.Machine.execTqadd a0 a1 s
  | .wpclr a0 a1 => Sys2Proof.Machine.execWpclr a0 a1 s
  | .wpset a0 a1 a2 a3 a4 => Sys2Proof.Machine.execWpset a0 a1 a2 a3 a4 s
  | .vadd a0 a1 a2 a3 a4 => Sys2Proof.Machine.execVadd a0 a1 a2 a3 a4 s
  | .vsub a0 a1 a2 a3 a4 => Sys2Proof.Machine.execVsub a0 a1 a2 a3 a4 s
  | .vmul a0 a1 a2 a3 a4 => Sys2Proof.Machine.execVmul a0 a1 a2 a3 a4 s
  | .vfma a0 a1 a2 a3 a4 => Sys2Proof.Machine.execVfma a0 a1 a2 a3 a4 s
  | .vfms a0 a1 a2 a3 a4 => Sys2Proof.Machine.execVfms a0 a1 a2 a3 a4 s
  | .vmin a0 a1 a2 a3 a4 => Sys2Proof.Machine.execVmin a0 a1 a2 a3 a4 s
  | .vmax a0 a1 a2 a3 a4 => Sys2Proof.Machine.execVmax a0 a1 a2 a3 a4 s
  | .vdiv a0 a1 a2 a3 a4 => Sys2Proof.Machine.execVdiv a0 a1 a2 a3 a4 s
  | .vand a0 a1 a2 a3 a4 => Sys2Proof.Machine.execVand a0 a1 a2 a3 a4 s
  | .vor a0 a1 a2 a3 a4 => Sys2Proof.Machine.execVor a0 a1 a2 a3 a4 s
  | .vxor a0 a1 a2 a3 a4 => Sys2Proof.Machine.execVxor a0 a1 a2 a3 a4 s
  | .vshl a0 a1 a2 a3 a4 => Sys2Proof.Machine.execVshl a0 a1 a2 a3 a4 s
  | .vshr a0 a1 a2 a3 a4 => Sys2Proof.Machine.execVshr a0 a1 a2 a3 a4 s
  | .vsra a0 a1 a2 a3 a4 => Sys2Proof.Machine.execVsra a0 a1 a2 a3 a4 s
  | .vsel a0 a1 a2 a3 a4 => Sys2Proof.Machine.execVsel a0 a1 a2 a3 a4 s
  | .vcmp a0 a1 a2 a3 a4 a5 => Sys2Proof.Machine.execVcmp a0 a1 a2 a3 a4 a5 s
  | .vmov a0 a1 a2 a3 => Sys2Proof.Machine.execVmov a0 a1 a2 a3 s
  | .vabs a0 a1 a2 a3 => Sys2Proof.Machine.execVabs a0 a1 a2 a3 s
  | .vneg a0 a1 a2 a3 => Sys2Proof.Machine.execVneg a0 a1 a2 a3 s
  | .vrcp a0 a1 a2 a3 => Sys2Proof.Machine.execVrcp a0 a1 a2 a3 s
  | .vrsq a0 a1 a2 a3 => Sys2Proof.Machine.execVrsq a0 a1 a2 a3 s
  | .vsqrt a0 a1 a2 a3 => Sys2Proof.Machine.execVsqrt a0 a1 a2 a3 s
  | .vexp2 a0 a1 a2 a3 => Sys2Proof.Machine.execVexp2 a0 a1 a2 a3 s
  | .vlog2 a0 a1 a2 a3 => Sys2Proof.Machine.execVlog2 a0 a1 a2 a3 s
  | .vred a0 a1 a2 a3 a4 => Sys2Proof.Machine.execVred a0 a1 a2 a3 a4 s
  | .vcvt a0 a1 a2 a3 a4 a5 a6 a7 a8 a9 => Sys2Proof.Machine.execVcvt a0 a1 a2 a3 a4 a5 a6 a7 a8 a9 s
  | .vbcast a0 a1 a2 a3 a4 => Sys2Proof.Machine.execVbcast a0 a1 a2 a3 a4 s
  | .vext a0 a1 a2 a3 a4 => Sys2Proof.Machine.execVext a0 a1 a2 a3 a4 s
  | .vperm a0 a1 a2 a3 a4 => Sys2Proof.Machine.execVperm a0 a1 a2 a3 a4 s
  | .vlane a0 a1 a2 a3 a4 => Sys2Proof.Machine.execVlane a0 a1 a2 a3 a4 s
  | .vld a0 a1 a2 a3 a4 => Sys2Proof.Machine.execVld a0 a1 a2 a3 a4 s
  | .vst a0 a1 a2 a3 => Sys2Proof.Machine.execVst a0 a1 a2 a3 s
  | .vlds a0 a1 a2 a3 a4 => Sys2Proof.Machine.execVlds a0 a1 a2 a3 a4 s
  | .vgat a0 a1 a2 a3 a4 => Sys2Proof.Machine.execVgat a0 a1 a2 a3 a4 s
  | .vtag a0 a1 a2 a3 => Sys2Proof.Machine.execVtag a0 a1 a2 a3 s
  | .vscl a0 a1 a2 a3 a4 => Sys2Proof.Machine.execVscl a0 a1 a2 a3 a4 s
  | .vpack a0 a1 a2 a3 a4 => Sys2Proof.Machine.execVpack a0 a1 a2 a3 a4 s
  | .vunpk a0 a1 a2 a3 a4 => Sys2Proof.Machine.execVunpk a0 a1 a2 a3 a4 s
  | .tld a0 a1 a2 a3 a4 a5 => Sys2Proof.Machine.execTld a0 a1 a2 a3 a4 a5 s
  | .tst a0 a1 a2 a3 a4 a5 => Sys2Proof.Machine.execTst a0 a1 a2 a3 a4 a5 s
  | .shld a0 a1 a2 => Sys2Proof.Machine.execShld a0 a1 a2 s
  | .shset a0 a1 a2 a3 => Sys2Proof.Machine.execShset a0 a1 a2 a3 s
  | .shget a0 a1 a2 a3 => Sys2Proof.Machine.execShget a0 a1 a2 a3 s
  | .mma a0 a1 a2 a3 a4 a5 a6 a7 => Sys2Proof.Machine.execMma a0 a1 a2 a3 a4 a5 a6 a7 s
  | .mmas a0 a1 a2 a3 a4 a5 a6 a7 a8 => Sys2Proof.Machine.execMmas a0 a1 a2 a3 a4 a5 a6 a7 a8 s
  | .mmaw a0 a1 a2 a3 a4 a5 a6 => Sys2Proof.Machine.execMmaw a0 a1 a2 a3 a4 a5 a6 s
  | .chbld a0 a1 => Sys2Proof.Machine.execChbld a0 a1 s
  | .chclose a0 a1 a2 a3 a4 a5 a6 a7 a8 a9 a10 a11 => Sys2Proof.Machine.execChclose a0 a1 a2 a3 a4 a5 a6 a7 a8 a9 a10 a11 s
  | .chstat a0 a1 a2 => Sys2Proof.Machine.execChstat a0 a1 a2 s
  | .chfree a0 a1 => Sys2Proof.Machine.execChfree a0 a1 s
  | .chsplice a0 a1 a2 => Sys2Proof.Machine.execChsplice a0 a1 a2 s
  | .chrd a0 a1 a2 a3 a4 a5 a6 => Sys2Proof.Machine.execChrd a0 a1 a2 a3 a4 a5 a6 s
  | .lnorm a0 a1 a2 a3 a4 => Sys2Proof.Machine.execLnorm a0 a1 a2 a3 a4 s
  | .lset a0 a1 a2 a3 a4 => Sys2Proof.Machine.execLset a0 a1 a2 a3 a4 s
  | .rmode a0 a1 a2 => Sys2Proof.Machine.execRmode a0 a1 a2 s
  | .rmodeSeed a0 a1 a2 a3 => Sys2Proof.Machine.execRmodeSeed a0 a1 a2 a3 s
  | .mself a0 a1 a2 => Sys2Proof.Machine.execMself a0 a1 a2 s
  | .cpy a0 a1 a2 a3 a4 a5 a6 a7 a8 a9 => Sys2Proof.Machine.execCpy a0 a1 a2 a3 a4 a5 a6 a7 a8 a9 s
  | .cpyw a0 a1 a2 a3 a4 a5 a6 a7 a8 a9 a10 a11 => Sys2Proof.Machine.execCpyw a0 a1 a2 a3 a4 a5 a6 a7 a8 a9 a10 a11 s
  | .cpstat a0 a1 a2 a3 => Sys2Proof.Machine.execCpstat a0 a1 a2 a3 s
  | .stgnx a0 a1 => Sys2Proof.Machine.execStgnx a0 a1 s
  | .saq a0 a1 a2 a3 a4 a5 a6 a7 => Sys2Proof.Machine.execSaq a0 a1 a2 a3 a4 a5 a6 a7 s
  | .sahist a0 a1 a2 a3 a4 a5 => Sys2Proof.Machine.execSahist a0 a1 a2 a3 a4 a5 s
  | .safl a0 => Sys2Proof.Machine.execSafl a0 s
  | .salat a0 a1 => Sys2Proof.Machine.execSalat a0 a1 s
  | .colld a0 a1 a2 => Sys2Proof.Machine.execColld a0 a1 a2 s
  | .colgo a0 a1 a2 => Sys2Proof.Machine.execColgo a0 a1 a2 s
  | .colwait a0 a1 => Sys2Proof.Machine.execColwait a0 a1 s
  | .clwb a0 a1 => Sys2Proof.Machine.execClwb a0 a1 s
  | .clinv a0 a1 => Sys2Proof.Machine.execClinv a0 a1 s
  | .illegalEncoding a0 => Sys2Proof.Machine.execIllegalEncoding a0 s
  | .loadDataReturn a0 a1 a2 => Sys2Proof.Machine.execLoadDataReturn a0 a1 a2 s
  | .storePerform a0 a1 a2 => Sys2Proof.Machine.execStorePerform a0 a1 a2 s
  | .clusterBufferDrain a0 a1 => Sys2Proof.Machine.execClusterBufferDrain a0 a1 s
  | .scratchpadFrameFill a0 a1 => Sys2Proof.Machine.execScratchpadFrameFill a0 a1 s
  | .engineHeadStart a0 a1 => Sys2Proof.Machine.execEngineHeadStart a0 a1 s
  | .engineCompletion a0 a1 a2 => Sys2Proof.Machine.execEngineCompletion a0 a1 a2 s
  | .matrixStepComplete a0 a1 a2 => Sys2Proof.Machine.execMatrixStepComplete a0 a1 a2 s
  | .checksumRerunEnd a0 a1 a2 => Sys2Proof.Machine.execChecksumRerunEnd a0 a1 a2 s
  | .arraySelfTestEnd a0 a1 a2 => Sys2Proof.Machine.execArraySelfTestEnd a0 a1 a2 s
  | .linkForwardReceive a0 a1 => Sys2Proof.Machine.execLinkForwardReceive a0 a1 s
  | .linkNoticeReceive a0 a1 => Sys2Proof.Machine.execLinkNoticeReceive a0 a1 s
  | .linkFreeze a0 a1 => Sys2Proof.Machine.execLinkFreeze a0 a1 s
  | .copyBarrierPortion a0 a1 a2 => Sys2Proof.Machine.execCopyBarrierPortion a0 a1 a2 s
  | .scatterUpdate a0 => Sys2Proof.Machine.execScatterUpdate a0 s
  | .colldReady a0 a1 a2 => Sys2Proof.Machine.execColldReady a0 a1 a2 s
  | .colChunkArrive a0 a1 a2 a3 a4 a5 => Sys2Proof.Machine.execColChunkArrive a0 a1 a2 a3 a4 a5 s
  | .cellarFold a0 a1 a2 => Sys2Proof.Machine.execCellarFold a0 a1 a2 s
  | .slotFreeNotice a0 a1 a2 => Sys2Proof.Machine.execSlotFreeNotice a0 a1 a2 s
  | .colAbort a0 a1 a2 => Sys2Proof.Machine.execColAbort a0 a1 a2 s
  | .portWindowEnd a0 a1 => Sys2Proof.Machine.execPortWindowEnd a0 a1 s
  | .launchConsume => Sys2Proof.Machine.execLaunchConsume s
  | .schedulePick a0 a1 => Sys2Proof.Machine.execSchedulePick a0 a1 s
  | .bindRecordWrite a0 a1 a2 => Sys2Proof.Machine.execBindRecordWrite a0 a1 a2 s
  | .bind a0 => Sys2Proof.Machine.execBind a0 s
  | .switchComplete a0 => Sys2Proof.Machine.execSwitchComplete a0 s
  | .saveComplete a0 => Sys2Proof.Machine.execSaveComplete a0 s
  | .sliceEnd a0 => Sys2Proof.Machine.execSliceEnd a0 s
  | .gangRelease a0 => Sys2Proof.Machine.execGangRelease a0 s
  | .gangSavePermit a0 => Sys2Proof.Machine.execGangSavePermit a0 s
  | .tlbInvalidate a0 => Sys2Proof.Machine.execTlbInvalidate a0 s
  | .tlbInvalidateDone a0 => Sys2Proof.Machine.execTlbInvalidateDone a0 s
  | .demandFill a0 a1 => Sys2Proof.Machine.execDemandFill a0 a1 s
  | .faultAnswer a0 a1 a2 => Sys2Proof.Machine.execFaultAnswer a0 a1 a2 s
  | .cutComplete a0 => Sys2Proof.Machine.execCutComplete a0 s
  | .watchdogStream a0 a1 => Sys2Proof.Machine.execWatchdogStream a0 a1 s
  | .watchdogQueueHead a0 a1 => Sys2Proof.Machine.execWatchdogQueueHead a0 a1 s
  | .debugRun a0 => Sys2Proof.Machine.execDebugRun a0 s
  | .debugHaltRequest a0 => Sys2Proof.Machine.execDebugHaltRequest a0 s
  | .rekey a0 => Sys2Proof.Machine.execRekey a0 s
  | .rekeyDone => Sys2Proof.Machine.execRekeyDone s
  | .sagLockClear a0 => Sys2Proof.Machine.execSagLockClear a0 s
  | .registerWrite a0 a1 => Sys2Proof.Machine.execRegisterWrite a0 a1 s
  | .sagTrip a0 => Sys2Proof.Machine.execSagTrip a0 s
  | .sagRecover a0 => Sys2Proof.Machine.execSagRecover a0 s
  | .correctedError a0 a1 a2 a3 a4 a5 => Sys2Proof.Machine.execCorrectedError a0 a1 a2 a3 a4 a5 s
  | .dieLost a0 => Sys2Proof.Machine.execDieLost a0 s
  | .d2dFlitCrcFail a0 a1 => Sys2Proof.Machine.execD2dFlitCrcFail a0 a1 s
  | .d2dRetrainEnd a0 a1 a2 => Sys2Proof.Machine.execD2dRetrainEnd a0 a1 a2 s
  | .fabricFlitCrcFail a0 => Sys2Proof.Machine.execFabricFlitCrcFail a0 s
  | .fabricPortDown a0 => Sys2Proof.Machine.execFabricPortDown a0 s
  | .powerOn a0 => Sys2Proof.Machine.execPowerOn a0 s
  | .bootGo a0 => Sys2Proof.Machine.execBootGo a0 s
  | .dieRelease a0 => Sys2Proof.Machine.execDieRelease a0 s
  | .dieAnswer a0 => Sys2Proof.Machine.execDieAnswer a0 s
  | .dieReleaseTimeout a0 => Sys2Proof.Machine.execDieReleaseTimeout a0 s
  | .wr a0 a1 a2 => Sys2Proof.Machine.execWr a0 a1 a2 s
  | .rd a0 a1 a2 => Sys2Proof.Machine.execRd a0 a1 a2 s
  | .schedBind a0 a1 a2 => Sys2Proof.Machine.execSchedBind a0 a1 a2 s
  | .pfAck a0 a1 => Sys2Proof.Machine.execPfAck a0 a1 s
  | .colAck a0 a1 a2 => Sys2Proof.Machine.execColAck a0 a1 a2 s
  | .trapAck a0 a1 => Sys2Proof.Machine.execTrapAck a0 a1 s
  | .pfDecl a0 a1 => Sys2Proof.Machine.execPfDecl a0 a1 s
  | .getVersion => Sys2Proof.Machine.execGetVersion s
  | .getCapabilities => Sys2Proof.Machine.execGetCapabilities s
  | .negotiateAlgorithms a0 a1 => Sys2Proof.Machine.execNegotiateAlgorithms a0 a1 s
  | .getDigests => Sys2Proof.Machine.execGetDigests s
  | .getCertificate a0 a1 a2 => Sys2Proof.Machine.execGetCertificate a0 a1 a2 s
  | .challenge a0 a1 => Sys2Proof.Machine.execChallenge a0 a1 s
  | .getMeasurements a0 a1 a2 => Sys2Proof.Machine.execGetMeasurements a0 a1 a2 s
  | .chunkSend a0 a1 a2 => Sys2Proof.Machine.execChunkSend a0 a1 a2 s
  | .chunkGet a0 a1 => Sys2Proof.Machine.execChunkGet a0 a1 s
  | .nodeReadReceive a0 a1 => Sys2Proof.Machine.execNodeReadReceive a0 a1 s
  | .fabricPortRetrain a0 a1 => Sys2Proof.Machine.execFabricPortRetrain a0 a1 s
  | .reservationLost a0 a1 => Sys2Proof.Machine.execReservationLost a0 a1 s
  | .unsupportedRequest a0 => Sys2Proof.Machine.execUnsupportedRequest a0 s

end Sys2Proof.Machine
end

