-- ==== Sys2Proof/Machine/Step.lean ====
section
/-! DEFINITION. Sys2Proof/Machine/Step.lean: one step of the package: the next turn is taken, and its instruction or event runs. -/

namespace Sys2Proof.Machine

open Sys2Proof

/-- One step (log 1). -/
def step (s : State) : Host.Outcome State Fault Refusal :=
  match takeTurn s with
  | .run i s => exec i s
  | .idle s => .next s
  | .bad => .fault .malformedTurn

/-- The state with the instruction of a row's bits stored where step fetches its next instruction (log 11). -/
def State.withFetchWord (s : State) (nbits w : Nat) : State := placeInstr s nbits w

end Sys2Proof.Machine
end

