-- ==== Sys2Proof/Safety.lean ====
section
/-! DEFINITION. Sys2Proof/Safety.lean: what counts as a safe outcome of a step, and the words in which the statements say when an instruction can run
and what its retirement leaves. -/

namespace Sys2Proof.Machine

open Sys2Proof

/-- An outcome is a next state that satisfies P: the machine neither faults nor refuses. -/
def Goes (o : Host.Outcome State Fault Refusal) (P : State → Prop) : Prop := ∃ t, o = .next t ∧ P t

/-- An outcome is a stop. -/
def Stops (o : Host.Outcome State Fault Refusal) : Prop := (∃ f, o = .fault f) ∨ ∃ r, o = .refused r

/-- The memory and the scratchpad SRAM are in canonical form. -/
def memOk (s : State) : Prop := Memory.wf s.mem ∧ Memory.wf s.sram

/-! ## When an instruction of a stream can run -/

/-- The stream whose instruction exec runs. -/
def State.here (s : State) (g : Group) : Stream := g.stream s.curStream

/-- The current stream of the group g may issue an instruction that the streams of a list accept and that carries the ring bits r: nothing keeps it
from issuing (R37, R65, R386, R397, R405), its takes can be made and its places have room (R44, R45). -/
structure CanRun (s : State) (g : Group) (roles : List StreamId) (r : BitVec 4) : Prop where
  bound : s.group s.curPlace = some g
  issue : canIssue (s.slot s.curPlace) g s.curStream = true
  role  : roles.contains s.curStream = true
  fresh : (s.here g).took = none
  take  : canTake g s.curStream r = true
  place : canPlace (takeTok g s.curStream r) s.curStream r = true

/-- The current stream of the group g may go on with an instruction that has waited with its tokens taken (R45, R384). -/
structure CanGoOn (s : State) (g : Group) (roles : List StreamId) (r : BitVec 4) : Prop where
  bound : s.group s.curPlace = some g
  issue : canIssue (s.slot s.curPlace) g s.curStream = true
  role  : roles.contains s.curStream = true
  taken : (s.here g).took.isSome = true
  place : canPlace g s.curStream r = true

/-- The group once the current stream's instruction has taken its tokens, with the sets that they carry (R45, R97). -/
def State.taken (s : State) (g : Group) (r : BitVec 4) : Group :=
  (takeTok g s.curStream r).setStream s.curStream { s.here g with took := some r, tookSets := takenSets g s.curStream r }

/-- The state in which the current stream's instruction, its tokens taken, has its effect. -/
def State.began (s : State) (g : Group) (r : BitVec 4) : State := s.setGroup s.curPlace (s.taken g r)

/-- What the current stream's instruction looks at once its tokens are taken. -/
def State.env (s : State) (g : Group) (r : BitVec 4) : Env :=
  { s := s.began g r, p := s.curPlace, st := s.curStream, g := s.taken g r, t := s.here (s.taken g r) }

/-- What it looks at when it has waited and tries again: its destination counts as it was before (R65). -/
def State.again (s : State) (g : Group) : Env :=
  let h := g.setStream s.curStream (s.here g).refill
  { s := s.setGroup s.curPlace h, p := s.curPlace, st := s.curStream, g := h, t := s.here h }

/-- What retirement makes of a state in which an instruction of a stream has had its effect and set the PC pair: the places, the event post and the counts
(R45, R46, R387), and the end of a step (R405). -/
def State.retireAt (s : State) (p : Place) (st : StreamId) (r ev : BitVec 4) (pcs : Group → Stream) : State :=
  match s.group p with
  | none => s
  | some g => stepHalt (retire (s.setGroup p (g.setStream st (pcs g))) p st r ev) p

/-- Retirement with the update of the PC pair of R185, or the loop-back of R206. -/
def State.finishAt (s : State) (p : Place) (st : StreamId) (r ev : BitVec 4) : State :=
  s.retireAt p st r ev (fun g => advance s p g (g.stream st))

/-- Retirement of an instruction that sets both halves of the PC pair itself (R185, R201). -/
def State.jumpAt (s : State) (p : Place) (st : StreamId) (r ev : BitVec 4) (pc npc : BitVec 64) : State :=
  s.retireAt p st r ev (fun g => { g.stream st with pc := pc, npc := npc, npcOpen := false })

/-- The state after an instruction of the current stream that changes the group by f and retires. -/
def State.afterGroup (s : State) (g : Group) (r ev : BitVec 4) (f : Group → Group) : State :=
  (s.setGroup s.curPlace (f (s.taken g r))).finishAt s.curPlace s.curStream r ev

/-- The state after an instruction of the current stream that changes that stream by f and retires. -/
def State.after (s : State) (g : Group) (r ev : BitVec 4) (f : Stream → Stream) : State :=
  s.afterGroup g r ev (fun g => g.setStream s.curStream (f (g.stream s.curStream)))

/-- A cause raised at the current stream's instruction, which does nothing else (R383). -/
def State.traps (s : State) (g : Group) (x : Trap) : State :=
  raise s s.curPlace { stream := s.curStream, queue := none, async := false, fpc := (s.here g).pc } x

/-- A cause raised at the current stream's instruction after a part of its entry that changed the machine to u, which stays (R11). -/
def State.trapsIn (s u : State) (g : Group) (x : Trap) : State :=
  raise u s.curPlace { stream := s.curStream, queue := none, async := false, fpc := (s.here g).pc } x

/-- The current stream's instruction waits in a state u with the group g, its PC kept and its destination empty (R65). -/
def State.waits (s u : State) (g : Group) (w : WaitFor) (d : BitVec 6) : State :=
  u.setGroup s.curPlace (g.setStream s.curStream ((g.stream s.curStream).waitIn w d (s.cores.get (coreOf s.curPlace)).cycle))

/-- The scalar registers that an instruction reads are full (R65). -/
def Stream.fulls (t : Stream) (rs : List (BitVec 6)) : Prop := rs.all t.isFull = true

/-- The state after a command of the current stream has entered a queue with the scalar operands and shape registers it captures, the group changed by
upd (R40, R167). -/
def State.queued (s : State) (g : Group) (q : QueueId) (i : Instr) (xs : List (BitVec 64)) (hs : List (BitVec 512)) (tid : BitVec 48)
    (upd : Group → Group) : State :=
  s.afterGroup g 0 0 (fun h => upd (accept h q s.curStream i { xs := xs, hs := hs, tid := tid }))

/-! ## When the command at the head of a queue can start -/

/-- The group once the command at the head of a queue has taken its tokens (R45). -/
def headGroup (g : Group) (q : QueueId) (e : QEntry) : Group :=
  (takeTok g e.stream e.instr.ring).mapEntry q e.id (fun _ => { e with took := true, tookSets := takenSets g e.stream e.instr.ring })

/-- What the command at the head of a queue looks at once it has taken its tokens. -/
def headEnv (s : State) (p : Place) (q : QueueId) (g : Group) (e : QEntry) : QEnv :=
  { s := s.setGroup p (headGroup g q e), p := p, q := q, g := headGroup g q e,
    e := { e with took := true, tookSets := takenSets g e.stream e.instr.ring } }

/-- A command at the head with its tokens taken finds nothing to wait for: it is of its queue's kind (R38), the stores before its push are performed and
what it comes after is at home (R95, R96), the registers that its engine waits for are full (R65, R266), none that it touches is still to be written by an
earlier command (R244, R266), its units are free (R264), and what it reads is whole (R416). -/
structure HeadClear (v : QEnv) : Prop where
  kind   : belongs v.q v.e.instr = true
  pushed : pushReleased v.s v.p (v.g.stream v.e.stream) v.e.afterSt = true ∧ reachesHome v.s v.p v.e = true
  reads  : v.q = .vector ∨ v.q = .scatter → readsFull v.g (regUse v.e.instr) = true
  writes : v.q = .vector → writesFull v.g (regUse v.e.instr) = true
  order  : v.q = .vector ∨ v.q = .matrix → hazard v.s (v.g.queue v.q) v.e = false
  units  : v.q = .matrix → tileHazard v.s (v.g.queue v.q) v.e = false ∧ unitsFree v.s v.p v.e = true
  whole  : readsDamaged v.g (regUse v.e.instr) = false

/-- The first unstarted command of a queue is new at the head, its takes can be made (R45), its slot is next to be served (R42), and with its tokens taken
it finds nothing to wait for. -/
structure HeadReady (s : State) (p : Place) (q : QueueId) (g : Group) (e : QEntry) : Prop where
  bound  : s.group p = some g
  head   : queueHead (g.queue q) = some e
  may    : mayStart (s.slot p) g q = true
  nocut  : (s.slot p).cutNow = false
  fresh  : e.took = false ∧ e.raised = false ∧ e.faults = [] ∧ e.refused = none
  take   : canTake g e.stream e.instr.ring = true
  turn   : served s p q = true
  clear  : HeadClear (headEnv s p q g e)

/-- The byte at an address of HBM does not depend on whether the L2 of its home die holds its line: the line was written under the key in force, or the L2
does not hold it (R368, R369). -/
def keySettled (s : State) (a : Nat) : Prop :=
  a / 2 ^ 48 < 4 → a % 2 ^ 48 < 0x3000000000 → inL2 s a = true → epochOf s (a / 128) = epochNow s a

/-- A vector register that receives f in the active elements of a tag's width and keeps an old register's elsewhere (R242, R243). -/
def ElementsAre (old reg : VReg) (t : BitVec 4) (pr : BitVec 1024) (f : Nat → Nat) : Prop :=
  reg.tag = t ∧ reg.full = true ∧ ∀ k, k < 16384 / tagWidth t →
    elemAt reg.data (tagWidth t) k = if active pr (tagWidth t) k then f k else elemAt old.data (tagWidth t) k

end Sys2Proof.Machine
end

