-- ==== Sys2Proof/Certificates/Slice0/Obligations.lean ====
section
/-! DEFINITION. Sys2Proof/Certificates/Slice0/Obligations.lean: the statements, each a proposition about the machine; OBLIGATIONS.json lists them. -/

open Sys2Proof Sys2Proof.Machine

/-- Decoding the bytes of any well-formed instruction gives it back. -/
def Obligations.EncodedInstructionDecodesToItself : Prop :=
  ∀ (i : Instr) (rest : List Byte), i.encodable = true → i.wf = true → decode (encodeBytes i ++ rest) = .ok (i, rest)

/-- Whatever the decoder accepts is an encodable, well-formed instruction, of the length its major fixes. (R161, R165) -/
def Obligations.DecodedInstructionIsWellFormed : Prop :=
  ∀ (b0 b1 b2 b3 : Byte) (bs rest : List Byte) (i : Instr), decode (b0 :: b1 :: b2 :: b3 :: bs) = .ok (i, rest) →
    i.encodable = true ∧ i.wf = true ∧ rest = (b0 :: b1 :: b2 :: b3 :: bs).drop (lengthOf (wordOfBytes b0 b1 b2 b3))

/-- Words written out from the encoding tables, at least one of every family of the opcode table, decode to the instructions they stand for. (R161, R162,
R165, R189) -/
def Obligations.WrittenOutWordsDecodeToTheirInstructions : Prop :=
  decodeTableWord 32 0x00208198 = some (.add 0 1 0x00 0x33) ∧
  decodeTableWord 64 0x0123456701846EF0 = some (.liw 0 0 8 0x6EF0 0x1234567) ∧
  decodeTableWord 64 0x001BD5B701A40000 = some (.lihi 0 0 8 0x1BD5B7) ∧
  decodeTableWord 32 0x94808207 = some (.ldW 9 1 1 7) ∧
  decodeTableWord 32 0x13A00000 = some (.nop 1) ∧
  decodeTableWord 32 0x06008203 = some (.vadd 0 1 1 0 3) ∧
  decodeTableWord 32 0x520387BB = some (.cmp 5 7 3 55 3) ∧ decodeTableWord 32 0x42818E18 = some (.pand 4 3 7 3) ∧
  decodeTableWord 32 0x131D6ACB = some (.prep 1 7 92875) ∧ decodeTableWord 32 0x4345A000 = some (.xferC 4 1 5) ∧
  decodeTableWord 32 0x8370E582 = some (.loop 8 1 14 1410) ∧ decodeTableWord 64 0xC0AD6B171390007F = some (.loopi 1 12 1 127 11365143) ∧
  decodeTableWord 32 0x23EF5690 = some (.sysr 2 30 2770) ∧ decodeTableWord 32 0x13C0001D = some (.trap 1 29) ∧
  decodeTableWord 32 0xA3A03884 = some (.suspend 10 28 16) ∧ decodeTableWord 32 0x1554BB91 = some (.stD 1 41 29 401) ∧
  decodeTableWord 32 0x25753C00 = some (.lds 2 42 30) ∧ decodeTableWord 32 0x25600134 = some (.fence 2 4 3) ∧
  decodeTableWord 32 0x4595BE9A = some (.bara 4 43 31 19) ∧ decodeTableWord 32 0x85B640A2 = some (.rgtake 8 44 32 20) ∧
  decodeTableWord 32 0x55C05A02 = some (.tqadd 5 45) ∧ decodeTableWord 64 0x1000000425E649E0 = some (.l2pin 2 1 12 36 60 4) ∧
  decodeTableWord 64 0x6000000145F89201 = some (.wpset 4 6 49 9 1) ∧ decodeTableWord 64 0xB88D8000884B5C06 = some (.vcvt 8 11 22 46 6 8 1 0 6 3) ∧
  decodeTableWord 32 0xA8E37472 = some (.vld 10 6 58 14 2) ∧ decodeTableWord 32 0x5A408AC1 = some (.shset 5 1 5 24) ∧
  decodeTableWord 64 0xA125D0002A6283A9 = some (.mma 2 10 5 1 53 1 293 13) ∧ decodeTableWord 64 0xC000009A018758 = some (.tld 9 0 3 3 43 3) ∧
  decodeTableWord 32 0x4AC02A00 = some (.chbld 4 21) ∧ decodeTableWord 64 0x9C2C86309AE21925 = some (.chclose 9 9 4 12 36 1 1 3116 8 1 2 12) ∧
  decodeTableWord 64 0xD58C00008C0407C1 = some (.cpy 8 13 8 3 56 1 0 1 24 48) ∧ decodeTableWord 64 0x7A8000001C695412 = some (.saq 1 7 18 42 2 2 2 10) ∧
  decodeTableWord 32 0x1CC04AC9 = some (.colgo 1 37 25) ∧
  decodeWords 0x00000000 0 = .error .zero ∧ decodeWords 0x0FE00000 0 = .error .perm ∧ decodeWords 0x0D000000 0 = .error .major ∧
  decodeWords 0x03A00007 0 = .error .func ∧ decodeWords 0x03A00008 0 = .error .rsvd

/-- A step runs the instruction that the bytes at the program counter decode to. (R160, R165, R185) -/
def Obligations.StepRunsTheDecodedInstruction : Prop :=
  ∀ (s s1 : State) (g g1 : Group) (w : BitVec 32), s.turns = [] → s.group s.curPlace = some g →
    canIssue (s.slot s.curPlace) (g.setStream s.curStream { s.here g with npcOpen := false }) s.curStream = true →
    fetch s s.curPlace g s.curStream (s.here g).pc = .word s1 w →
    (lengthOf w = 4 → s1.group s.curPlace = some g1 →
      let u := s1.setGroup s.curPlace (g1.setStream s.curStream { (g1.stream s.curStream).settle 4 with len := 4 })
      (∀ i, decodeWords w 0 = .ok i → step s = exec i u) ∧ (∀ x, decodeWords w 0 = .error x → step s = exec (.illegalEncoding x) u)) ∧
    (∀ (s2 : State) (w1 : BitVec 32), lengthOf w = 8 → fetch s1 s.curPlace g s.curStream ((s.here g).pc + 4) = .word s2 w1 →
      s2.group s.curPlace = some g1 →
      let u := s2.setGroup s.curPlace (g1.setStream s.curStream { (g1.stream s.curStream).settle 8 with len := 8 })
      (∀ i, decodeWords w w1 = .ok i → step s = exec i u) ∧ (∀ x, decodeWords w w1 = .error x → step s = exec (.illegalEncoding x) u))

/-- A step with a turn given runs that event, or issues that stream. This is the model's own order of turns (log 1). -/
def Obligations.StepTakesTheNextTurn : Prop :=
  ∀ (s : State) (rest : List Turn),
    (∀ i : Instr, i.encodable = false → (∀ x, i ≠ .illegalEncoding x) → s.turns = .happen i :: rest → step s = exec i { s with turns := rest }) ∧
    (∀ i : Instr, i.encodable = true → s.turns = .happen i :: rest → step s = .fault .malformedTurn) ∧
    (∀ p st, s.turns = .issue p st :: rest →
      (match nextInstr { s with turns := rest, curPlace := p, curStream := st } with
        | .run i t => step s = exec i t
        | .idle t => step s = .next t
        | .bad => step s = .fault .malformedTurn))

/-- Every step keeps memory and scratchpad SRAM in canonical form. -/
def Obligations.EveryStepKeepsTheMemoryCanonical : Prop :=
  ∀ s t : State, memOk s → step s = .next t → memOk t

/-- The memory of the reset state is in canonical form, and the reset state has no group and no live die. (R363, R364) -/
def Obligations.ResetMemoryIsCanonical : Prop :=
  memOk State.reset ∧ (∀ p, State.reset.group p = none ∧ (State.reset.slot p).state = .free) ∧ (∀ d, dieLive State.reset d = false) ∧
  State.reset.dawn.stage = 0 ∧ State.reset.dawn.msplit = 0 ∧ ∀ d, (State.reset.dies.get d).rways = 8

/-- Retirement advances the PC pair and moves SEQ, the tokens and the event count. (R44, R45, R46, R49, R185, R387) -/
def Obligations.RetirementMovesTheCounts : Prop :=
  ∀ (s : State) (g : Group) (r ev : BitVec 4) (len : Nat) (t : Stream),
    s.group s.curPlace = some g → s.here g = t → t.loops.toList.all (fun l => !l.act) = true → (s.slot s.curPlace).dbg.stepping = false →
    lengthAt s s.curPlace g t.land t.npc = some len →
    ∃ g', (s.finishAt s.curPlace s.curStream r ev).group s.curPlace = some g' ∧
      (s.here g').pc = t.npc ∧ (s.here g').npc = t.npc + BitVec.ofNat 64 len ∧
      (s.here g').seq = t.seq + 1 ∧ (s.here g').retired = t.retired + 1 ∧ (s.here g').wdcnt = 0 ∧ (s.here g').took = none ∧
      (∀ i, (s.here g').getX i = t.getX i) ∧ (s.here g').c = t.c ∧
      g'.tokens = (placeTok g s.curStream r []).tokens ∧
      (∀ e : BitVec 5, g'.ev.get e.toFin = if ev ≠ 0 ∧ e = ev.zeroExtend 5 ∧ g.ev.get e.toFin ≠ 0xFFFF then g.ev.get e.toFin + 1 else g.ev.get e.toFin) ∧
      (∀ st, st ≠ s.curStream → g'.stream st = g.stream st)

/-- The end of a loop body starts the next pass while the count is above 1, and ends the loop at 1. (R205, R206) -/
def Obligations.LoopBackRestartsTheBody : Prop :=
  ∀ (s : State) (p : Place) (g : Group) (t : Stream) (i : Fin 2) (n k : Nat),
    (t.loops.get i).act = true → (∀ j, j ≠ i → (t.loops.get j).act = false) → 0 < (t.loops.get i).len.toNat →
    t.pc.toNat ≤ (t.loops.get i).start.toNat + 4 * (t.loops.get i).len.toNat - 4 →
    (t.loops.get i).start.toNat + 4 * (t.loops.get i).len.toNat - 4 < t.pc.toNat + t.len →
    lengthAt s p g t.landAnew ((t.loops.get i).start.zeroExtend 64) = some n → lengthAt s p g t.land t.npc = some k →
    (1 < (t.loops.get i).count.toNat →
      (advance s p g t).pc = (t.loops.get i).start.zeroExtend 64 ∧ (advance s p g t).npc = (t.loops.get i).start.zeroExtend 64 + BitVec.ofNat 64 n ∧
      (advance s p g t).loops.get i = { t.loops.get i with count := (t.loops.get i).count - 1 }) ∧
    ((t.loops.get i).count.toNat = 1 →
      (advance s p g t).pc = t.npc ∧ (advance s p g t).npc = t.npc + BitVec.ofNat 64 k ∧
      (advance s p g t).loops.get i = { t.loops.get i with count := 0, act := false })

/-- The register-register scalar instructions complete and write the result R186 and R187 give. (R186, R187) -/
def Obligations.ScalarRegisterOperationsGiveTheirResults : Prop :=
  ∀ (s : State) (g : Group) (r : BitVec 4) (d a b : BitVec 6), CanRun s g anyStream r → (s.here g).fulls [a, b, d] →
    let A := (s.here g).getX a
    let B := (s.here g).getX b
    let gives := fun (v : BitVec 64) => (.next (s.after g r 0 (fun t => t.setX d v)) : Host.Outcome State Fault Refusal)
    exec (.add r d a b) s = gives (A + B) ∧ exec (.sub r d a b) s = gives (A - B) ∧ exec (.and r d a b) s = gives (A &&& B) ∧
    exec (.or r d a b) s = gives (A ||| B) ∧ exec (.xor r d a b) s = gives (A ^^^ B) ∧
    exec (.shl r d a b) s = gives (BitVec.ofNat 64 (A.toNat * 2 ^ (B.toNat % 64))) ∧
    exec (.shr r d a b) s = gives (BitVec.ofNat 64 (A.toNat / 2 ^ (B.toNat % 64))) ∧
    exec (.sra r d a b) s = gives (BitVec.ofInt 64 (A.toInt / 2 ^ (B.toNat % 64))) ∧
    exec (.mul r d a b) s = gives (A * B) ∧
    exec (.mulh r d a b) s = gives (BitVec.ofInt 64 (A.toInt * B.toInt / 2 ^ 64)) ∧
    exec (.mulhu r d a b) s = gives (BitVec.ofNat 64 (A.toNat * B.toNat / 2 ^ 64)) ∧
    exec (.div r d a b) s = gives (if B = 0 then BitVec.ofInt 64 (-1) else BitVec.ofInt 64 (A.toInt.tdiv B.toInt)) ∧
    exec (.divu r d a b) s = gives (if B = 0 then BitVec.ofInt 64 (-1) else BitVec.ofNat 64 (A.toNat / B.toNat)) ∧
    exec (.rem r d a b) s = gives (if B = 0 then A else BitVec.ofInt 64 (A.toInt.tmod B.toInt)) ∧
    exec (.remu r d a b) s = gives (if B = 0 then A else BitVec.ofNat 64 (A.toNat % B.toNat)) ∧
    exec (.min r d a b) s = gives (if A.toInt < B.toInt then A else B) ∧
    exec (.max r d a b) s = gives (if A.toInt > B.toInt then A else B) ∧
    exec (.minu r d a b) s = gives (if A.toNat < B.toNat then A else B) ∧
    exec (.maxu r d a b) s = gives (if A.toNat > B.toNat then A else B) ∧
    (∃ n, exec (.clz r d a) s = gives (BitVec.ofNat 64 n) ∧ n ≤ 64 ∧ (∀ i, i < n → A.getLsbD (63 - i) = false) ∧
      (n < 64 → A.getLsbD (63 - n) = true)) ∧
    (∃ n, exec (.ctz r d a) s = gives (BitVec.ofNat 64 n) ∧ n ≤ 64 ∧ (∀ i, i < n → A.getLsbD i = false) ∧ (n < 64 → A.getLsbD n = true)) ∧
    exec (.popc r d a) s = gives (BitVec.ofNat 64 ((List.range 64).countP (fun i => A.getLsbD i))) ∧
    (∃ v, exec (.brev r d a) s = gives v ∧ ∀ i, i < 64 → v.getLsbD i = A.getLsbD (63 - i))

/-- The immediate, constant, address, move, bit-field and select instructions complete with the results R188 to R191 give. (R188, R189, R190, R191) -/
def Obligations.ImmediatesConstantsAndMovesGiveTheirResults : Prop :=
  ∀ (s : State) (g : Group) (r ev : BitVec 4) (d a b : BitVec 6), CanRun s g anyStream r → (s.here g).fulls [a, b, d] →
    let A := (s.here g).getX a
    let B := (s.here g).getX b
    let D := (s.here g).getX d
    let gives := fun (v : BitVec 64) => (.next (s.after g r 0 (fun t => t.setX d v)) : Host.Outcome State Fault Refusal)
    let givesE := fun (v : BitVec 64) => (.next (s.after g r ev (fun t => t.setX d v)) : Host.Outcome State Fault Refusal)
    let bad : Host.Outcome State Fault Refusal := .next (s.traps g (.plain Cause.opRange))
    (∀ i : BitVec 9, exec (.addi r d a i) s = gives (A + i.signExtend 64) ∧ exec (.andi r d a i) s = gives (A &&& i.signExtend 64) ∧
      exec (.ori r d a i) s = gives (A ||| i.signExtend 64) ∧ exec (.xori r d a i) s = gives (A ^^^ i.signExtend 64)) ∧
    (∀ k : BitVec 6, exec (.shli r d a k) s = gives (BitVec.ofNat 64 (A.toNat * 2 ^ k.toNat)) ∧
      exec (.shri r d a k) s = gives (BitVec.ofNat 64 (A.toNat / 2 ^ k.toNat)) ∧ exec (.srai r d a k) s = gives (BitVec.ofInt 64 (A.toInt / 2 ^ k.toNat))) ∧
    (∀ i : BitVec 15, exec (.lis r d i) s = gives (i.signExtend 64)) ∧
    (∀ (ih : BitVec 15) (il : BitVec 28), exec (.liw r ev d ih il) s = givesE ((ih ++ il).signExtend 64)) ∧
    (∀ v : BitVec 21, exec (.lihi r ev d v) s = givesE (BitVec.ofNat 64 (v.toNat * 2 ^ 43 + D.toNat % 2 ^ 43))) ∧
    (∀ k : BitVec 2, exec (.lea r d a b k) s = gives (BitVec.ofNat 64 (A.toNat + B.toNat * 2 ^ k.toNat))) ∧
    (∀ c : BitVec 3, exec (.mvc r d c) s = gives (if (s.here g).getC c then 1 else 0)) ∧
    (∀ x : BitVec 3, exec (.mvb r d x) s = gives (BitVec.ofBool ((s.here g).isPrep x) ++ 0#6 ++ (s.here g).b.get x.toFin)) ∧
    (∀ x : BitVec 6, (g.v.get x.toFin).full = true → exec (.mvtV r d x) s = gives ((g.v.get x.toFin).tag.zeroExtend 64)) ∧
    (∀ x : BitVec 2, (g.t.get x.toFin).full = true → exec (.mvtT r d x) s = gives ((g.t.get x.toFin).tag.zeroExtend 64)) ∧
    (∀ pos len : BitVec 6, pos.toNat + (len.toNat + 1) ≤ 64 →
      exec (.bfx r ev d a pos len 0) s = givesE (BitVec.ofNat 64 (A.toNat / 2 ^ pos.toNat % 2 ^ (len.toNat + 1))) ∧
      exec (.bfx r ev d a pos len 1) s = givesE ((BitVec.ofNat (len.toNat + 1) (A.toNat / 2 ^ pos.toNat)).signExtend 64) ∧
      (∃ v : BitVec 64, exec (.bfi r ev d a b pos len) s = givesE v ∧ ∀ i, i < 64 → v.getLsbD i =
        if pos.toNat ≤ i ∧ i < pos.toNat + (len.toNat + 1) then B.getLsbD (i - pos.toNat) else A.getLsbD i)) ∧
    (∀ (pos len : BitVec 6) (sg : BitVec 1), 64 < pos.toNat + (len.toNat + 1) →
      exec (.bfx r ev d a pos len sg) s = bad ∧ exec (.bfi r ev d a b pos len) s = bad) ∧
    (∀ c : BitVec 3, exec (.sel r ev d a b c) s = givesE (if (s.here g).getC c then A else B))

/-- x0 reads 0 and takes no write; p0 reads all true and takes no write. (R163, R35, R64) -/
def Obligations.WritesOfZeroRegistersAreDiscarded : Prop :=
  (∀ (t : Stream) (v : BitVec 64), t.getX 0 = 0 ∧ t.setX 0 v = t ∧ t.isFull 0 = true ∧ t.markEmpty 0 = t) ∧
  (∀ (g : Group) (v : BitVec 1024), g.pred 0 = BitVec.allOnes 1024 ∧ g.setPred 0 v = g) ∧
  (∀ (t : Stream) (d i : BitVec 6) (v : BitVec 64), d ≠ 0 → (t.setX d v).getX i = (if i = d then v else t.getX i) ∧ (t.setX d v).hasFull d = true)

/-- ADD, ADDI, CMP, LD.d, ST.d, LDS, PREPR, LOOP and SYSW of an empty register wait with FEMODE 0 and raise FE_EMPTY with FEMODE 1; ADDI to an empty register
waits. (R65) -/
def Obligations.EmptyOperandWaitsOrTraps : Prop :=
  ∀ (s : State) (g : Group) (r : BitVec 4) (d a b : BitVec 6), CanRun s g anyStream r → (s.here g).hasFull a = false →
    let all := fun (o : Host.Outcome State Fault Refusal) =>
      exec (.add r d a b) s = o ∧ exec (.add r d b a) s = o ∧ (∀ i, exec (.addi r d a i) s = o) ∧ (∀ c k, exec (.cmp r c a b k) s = o) ∧
      (∀ i, exec (.ldD r d a i) s = o) ∧ (∀ i, exec (.stD r b a i) s = o ∧ exec (.stD r a b i) s = o) ∧ exec (.lds r d a) s = o ∧
      (∀ x, exec (.prepr r x a) s = o) ∧ (∀ l n, exec (.loop r l a n) s = o) ∧ (∀ n, exec (.sysw r a n) s = o)
    ((s.here g).femode = 0 → all (.next s)) ∧ ((s.here g).femode = 1 → all (.next (s.traps g (.plain Cause.feEmpty)))) ∧
    ((s.here g).isFull b = true → exec (.addi r a b 0) s = .next s)

/-- CMP, CMPI, CAND, COR, CNOT, VANY and VALL complete and write the condition R192 to R194 give. (R192, R193, R194) -/
def Obligations.ConditionInstructionsGiveTheirResults : Prop :=
  ∀ (s : State) (g : Group) (r : BitVec 4) (a b : BitVec 6) (c x y : BitVec 3), CanRun s g anyStream r → (s.here g).fulls [a, b] →
    let A := (s.here g).getX a
    let B := (s.here g).getX b
    let gives := fun (v : Bool) => (.next (s.after g r 0 (fun t => t.setC c v)) : Host.Outcome State Fault Refusal)
    let holds := fun (k : BitVec 3) (A B : BitVec 64) =>
      if k = 0 then decide (A = B) else if k = 1 then decide (A ≠ B) else if k = 2 then decide (A.toInt < B.toInt) else
      if k = 3 then decide (B.toInt ≤ A.toInt) else if k = 4 then decide (A.toNat < B.toNat) else if k = 5 then decide (B.toNat ≤ A.toNat) else
      if k = 6 then decide (A &&& B ≠ 0) else decide (A &&& B = 0)
    (∀ k, exec (.cmp r c a b k) s = gives (holds k A B)) ∧ (∀ k i, exec (.cmpi r k c a i) s = gives (holds k A (i.signExtend 64))) ∧
    exec (.cand r c x y) s = gives ((s.here g).getC x && (s.here g).getC y) ∧ exec (.cor r c x y) s = gives ((s.here g).getC x || (s.here g).getC y) ∧
    exec (.cnot r c x) s = gives (!(s.here g).getC x) ∧
    (predDamaged g x = false →
      exec (.vany r c x 0) s = gives (decide (∃ j : Fin 1024, (g.pred x).getLsbD j.val = true)) ∧
      exec (.vany r c x 1) s = gives (decide (∃ i : Fin 512, (g.pred x).getLsbD (2 * i.val) = true)) ∧
      exec (.vall r c x 0) s = gives (decide (∀ j : Fin 1024, (g.pred x).getLsbD j.val = true)) ∧
      exec (.vall r c x 1) s = gives (decide (∀ i : Fin 512, (g.pred x).getLsbD (2 * i.val) = true)))

/-- The frame of the register-register, immediate, constant, move and condition instructions. (R163, R167) -/
def Obligations.ScalarInstructionsChangeNothingElse : Prop :=
  ∀ (s u : State) (g g' : Group) (i : Instr) (dst : Option (BitVec 6)) (cdst : Option (BitVec 3)),
    ((∃ r d a b, dst = some d ∧ cdst = none ∧ (i = .add r d a b ∨ i = .sub r d a b ∨ i = .and r d a b ∨ i = .or r d a b ∨ i = .xor r d a b ∨ i = .shl r d a b ∨
        i = .shr r d a b ∨ i = .sra r d a b ∨ i = .mul r d a b ∨ i = .mulh r d a b ∨ i = .mulhu r d a b ∨ i = .div r d a b ∨ i = .divu r d a b ∨
        i = .rem r d a b ∨ i = .remu r d a b ∨ i = .min r d a b ∨ i = .max r d a b ∨ i = .minu r d a b ∨ i = .maxu r d a b ∨ (∃ k, i = .lea r d a b k))) ∨
     (∃ r d a, dst = some d ∧ cdst = none ∧ (i = .clz r d a ∨ i = .ctz r d a ∨ i = .popc r d a ∨ i = .brev r d a ∨ (∃ k, i = .addi r d a k ∨ i = .andi r d a k ∨
        i = .ori r d a k ∨ i = .xori r d a k) ∨ (∃ k, i = .shli r d a k ∨ i = .shri r d a k ∨ i = .srai r d a k) ∨ i = .mvtV r d a)) ∨
     (∃ r ev d, dst = some d ∧ cdst = none ∧ ((∃ k, i = .lis r d k) ∨ (∃ h l, i = .liw r ev d h l) ∨ (∃ v, i = .lihi r ev d v) ∨ (∃ a, i = .mvc r d a ∨ i = .mvb r d a) ∨
        (∃ a, i = .mvtT r d a) ∨ (∃ a p l k, i = .bfx r ev d a p l k) ∨ (∃ a b p l, i = .bfi r ev d a b p l) ∨ (∃ a b c, i = .sel r ev d a b c))) ∨
     (∃ r c, dst = none ∧ cdst = some c ∧ ((∃ a b k, i = .cmp r c a b k) ∨ (∃ a k n, i = .cmpi r k c a n) ∨ (∃ a b, i = .cand r c a b ∨ i = .cor r c a b) ∨
        (∃ a, i = .cnot r c a) ∨ (∃ a w, i = .vany r c a w ∨ i = .vall r c a w)))) →
    exec i s = .next u → s.group s.curPlace = some g → u.group s.curPlace = some g' →
    (∀ a, homeByte u a = homeByte s a) ∧ (∀ a, readByte u.sram a = readByte s.sram a) ∧ (∀ q, q ≠ s.curPlace → u.slot q = s.slot q) ∧
    u.cores = s.cores ∧ u.dies = s.dies ∧ u.clusters = s.clusters ∧ u.chains = s.chains ∧ u.dawn = s.dawn ∧ u.ports = s.ports ∧ u.poison = s.poison ∧
    (∀ st, st ≠ s.curStream → (g'.stream st).x = (g.stream st).x ∧ (g'.stream st).c = (g.stream st).c) ∧
    g'.v = g.v ∧ g'.t = g.t ∧ g'.p = g.p ∧ g'.h = g.h ∧ g'.mrs = g.mrs ∧ g'.vrs = g.vrs ∧ g'.pages = g.pages ∧ g'.syncf = g.syncf ∧ g'.chans = g.chans ∧
    (∀ j, dst ≠ some j → (s.here g').getX j = (s.here g).getX j) ∧ (∀ j, cdst ≠ some j → (s.here g').getC j = (s.here g).getC j) ∧
    (s.here g').b = (s.here g).b ∧ (s.here g').prepd = (s.here g).prepd ∧ (s.here g').femode = (s.here g).femode

/-- PREP and PREPR set and prepare a target register; PREPR of a bad address raises TGT_ALIGN. (R197, R198) -/
def Obligations.TargetPreparationCompletes : Prop :=
  ∀ (s : State) (g : Group) (r : BitVec 4) (b : BitVec 3) (a : BitVec 6), CanRun s g anyStream r →
    let A := (s.here g).getX a
    (∀ i : BitVec 18, exec (.prep r b i) s = .next (s.after g r 0 (fun t => t.setB b (BitVec.ofInt 57 ((s.here g).pc.toNat + 4 * i.toInt))))) ∧
    ((s.here g).isFull a = true → A.toNat % 4 = 0 → A.toNat < 2 ^ 57 → exec (.prepr r b a) s = .next (s.after g r 0 (fun t => t.setB b (A.extractLsb' 0 57)))) ∧
    ((s.here g).isFull a = true → (A.toNat % 4 ≠ 0 ∨ 2 ^ 57 ≤ A.toNat) → exec (.prepr r b a) s = .next (s.traps g (.plain Cause.tgtAlign))) ∧
    (∀ (t : Stream) (v : BitVec 57), (t.setB b v).isPrep b = true ∧ (t.setB b v).b.get b.toFin = v ∧
      ∀ j : BitVec 3, j ≠ b → (t.setB b v).isPrep j = t.isPrep j ∧ (t.setB b v).b.get j.toFin = t.b.get j.toFin)

/-- XFER, XFER.c and XFER.nc set PC to the delay slot and NPC to the target or past the slot. (R200, R201, R202, R207) -/
def Obligations.TransfersSetThePcPair : Prop :=
  ∀ (s s2 : State) (g g2 : Group) (r : BitVec 4) (b c : BitVec 3) (w : BitVec 32), CanRun s g anyStream r →
    let e := s.env g r
    let taken := (s2.setGroup s.curPlace (g2.setStream s.curStream (aimThrough (leaveLoops (g2.stream s.curStream) ((g2.stream s.curStream).b.get b.toFin).toNat) b))).jumpAt
      s.curPlace s.curStream r 0 (g2.stream s.curStream).npc (((g2.stream s.curStream).b.get b.toFin).zeroExtend 64)
    let falls := s2.jumpAt s.curPlace s.curStream r 0 (g2.stream s.curStream).npc ((g2.stream s.curStream).npc + BitVec.ofNat 64 (lengthOf w))
    ((s.here g).isPrep b = false → exec (.xfer r b) s = .next (s.traps g (.plain Cause.tgtUnprep)) ∧
      exec (.xferC r b c) s = .next (s.traps g (.plain Cause.tgtUnprep)) ∧ exec (.xferNc r b c) s = .next (s.traps g (.plain Cause.tgtUnprep))) ∧
    ((s.here g).isPrep b = true → fetch e.s e.p e.g e.st e.t.npc = .word s2 w → s2.group s.curPlace = some g2 →
      (slotForbidden w = true → exec (.xfer r b) s = .next (s.trapsIn s2 g (.plain Cause.xferSlot)) ∧
        exec (.xferC r b c) s = .next (s.trapsIn s2 g (.plain Cause.xferSlot)) ∧ exec (.xferNc r b c) s = .next (s.trapsIn s2 g (.plain Cause.xferSlot))) ∧
      (slotForbidden w = false → e.t.loops.toList.any (fun l => l.endsIn e.t.pc 4 || l.endsIn e.t.npc (lengthOf w)) = true →
        exec (.xfer r b) s = .next (s.trapsIn s2 g (.plain Cause.loopTail)) ∧ exec (.xferC r b c) s = .next (s.trapsIn s2 g (.plain Cause.loopTail)) ∧
        exec (.xferNc r b c) s = .next (s.trapsIn s2 g (.plain Cause.loopTail))) ∧
      (slotForbidden w = false → e.t.loops.toList.any (fun l => l.endsIn e.t.pc 4 || l.endsIn e.t.npc (lengthOf w)) = false →
        exec (.xfer r b) s = .next taken ∧ exec (.xferC r b c) s = .next (if (g2.stream s.curStream).getC c then taken else falls) ∧
        exec (.xferNc r b c) s = .next (if (g2.stream s.curStream).getC c then falls else taken)))

/-- LOOP and LOOPI open a pair, skip the body at a trip count of 0, and raise LOOP_LEN, LOOP_BUSY or LOOP_NEST, whichever of the conditions comes first in
that order (log 31). (R170, R205, R208) -/
def Obligations.LoopsOpenSkipOrTrap : Prop :=
  ∀ (s : State) (g : Group) (r ev : BitVec 4) (a : BitVec 6) (l : BitVec 1) (len : BitVec 12) (n : BitVec 28), CanRun s g anyStream r → (s.here g).isFull a = true →
    let t0 := s.here g
    let pc := t0.pc.toNat
    let L := len.toNat
    let other := t0.loops.get (1 - l).toFin
    let nests := fun (size : Nat) => other.act = false ∨ pc + size + 4 * L ≤ other.start.toNat + 4 * other.len.toNat
    let opened := fun (size : Nat) (k : BitVec 32) (t : Stream) => ({ t with
      loops := t.loops.set l.toNat { act := true, len := len, count := k, start := BitVec.ofNat 57 (pc + size) } l.isLt, late := l } : Stream)
    pc + 8 + 4 * L < 2 ^ 57 →
    (L = 0 → exec (.loop r l a len) s = .next (s.traps g (.plain Cause.loopLen)) ∧ exec (.loopi r ev l len n) s = .next (s.traps g (.plain Cause.loopLen))) ∧
    (0 < L → (t0.loops.get l.toFin).act = true → exec (.loop r l a len) s = .next (s.traps g (.plain Cause.loopBusy)) ∧
      exec (.loopi r ev l len n) s = .next (s.traps g (.plain Cause.loopBusy))) ∧
    (0 < L → (t0.loops.get l.toFin).act = false → ¬ nests 4 → exec (.loop r l a len) s = .next (s.traps g (.plain Cause.loopNest))) ∧
    (0 < L → (t0.loops.get l.toFin).act = false → ¬ nests 8 → exec (.loopi r ev l len n) s = .next (s.traps g (.plain Cause.loopNest))) ∧
    (0 < L → (t0.loops.get l.toFin).act = false → nests 4 → (t0.getX a).toNat % 2 ^ 32 ≠ 0 →
      exec (.loop r l a len) s = .next (s.after g r 0 (opened 4 (BitVec.ofNat 32 (t0.getX a).toNat)))) ∧
    (0 < L → (t0.loops.get l.toFin).act = false → nests 8 → n ≠ 0 → exec (.loopi r ev l len n) s = .next (s.after g r ev (opened 8 (n.zeroExtend 32)))) ∧
    (let h := (s.taken g r).setStream s.curStream (s.here (s.taken g r)).landAnew
     let u := s.setGroup s.curPlace h
     let skips := fun (j : Instr) (size : Nat) (ev : BitVec 4) => ∀ k, lengthAt u s.curPlace h (s.here h) (BitVec.ofNat 64 (pc + size + 4 * L)) = some k →
       exec j s = .next (u.jumpAt s.curPlace s.curStream r ev (BitVec.ofNat 64 (pc + size + 4 * L)) (BitVec.ofNat 64 (pc + size + 4 * L + k)))
     (0 < L → (t0.loops.get l.toFin).act = false → nests 4 → (t0.getX a).toNat % 2 ^ 32 = 0 → skips (.loop r l a len) 4 0) ∧
     (0 < L → (t0.loops.get l.toFin).act = false → nests 8 → n = 0 → skips (.loopi r ev l len n) 8 ev))

/-- NOP, YIELD, IFENCE, QMARK and ENDG complete with their effects. (R37, R91, R203, R209) -/
def Obligations.ControlInstructionsComplete : Prop :=
  ∀ (s : State) (g : Group) (r : BitVec 4), CanRun s g anyStream r →
    exec (.nop r) s = .next (s.after g r 0 id) ∧
    exec (.yield r) s = .next (((s.began g r).setSlot s.curPlace { (s.began g r).slot s.curPlace with left := 0 }).finishAt s.curPlace s.curStream r 0) ∧
    exec (.qmark r) s = .next (s.after g r 0 (fun t => { t with mark := t.mark + 1 })) ∧
    ((s.here g).loads = [] → (s.here g).stores = [] → ownPending s s.curPlace (s.here g) = false →
      exec (.ifence r) s = .next (s.after g r 0 (fun t => { t with prepd := 0, pre := [], mark := t.mark + 1 }))) ∧
    (mayEnd g s.curStream = true → (∃ st, st ≠ s.curStream ∧ (g.stream st).ended = false) → (s.slot s.curPlace).dbg.stepping = false →
      ∃ t g', exec (.endg r) s = .next t ∧ t.group s.curPlace = some g' ∧ (s.here g').ended = true ∧ (s.here g').seq = (s.here g).seq + 1 ∧
        (∀ st, st ≠ s.curStream → g'.stream st = g.stream st) ∧ ∀ a, homeByte t a = homeByte s a) ∧
    (mayEnd g s.curStream = true → (∀ st, st ≠ s.curStream → (g.stream st).ended = true) →
      ∃ t, exec (.endg r) s = .next t ∧ t.group s.curPlace = none)

/-- SYSR and SYSW read and write the system registers of R168, and an unassigned or read-only number raises SYS_NUM. (R168, R169, R170, R171, R212, R399) -/
def Obligations.SystemRegisterAccessesComplete : Prop :=
  ∀ (s : State) (g : Group) (r : BitVec 4) (d : BitVec 6), CanRun s g anyStream r → (s.here g).isFull d = true →
    let t0 := s.here g
    let core := s.cores.get (coreOf s.curPlace)
    let gives := fun (v : BitVec 64) => (.next (s.after g r 0 (fun t => t.setX d v)) : Host.Outcome State Fault Refusal)
    let ctl := fun (l : LoopPair) => (BitVec.ofBool l.act ++ 0#19 ++ l.len ++ l.count : BitVec 64)
    exec (.sysr r d 0x000) s = gives (t0.femode.zeroExtend 64) ∧
    exec (.sysr r d 0x001) s = gives (BitVec.ofNat 64 (s.curStream.toFin.val * 2 ^ 32 + s.curPlace.val % 4 * 2 ^ 30 + s.curPlace.val / 4 * 2 ^ 23 + g.gindex.toNat)) ∧
    exec (.sysr r d 0x002) s = gives g.lr.id ∧ exec (.sysr r d 0x003) s = gives core.cycle ∧ exec (.sysr r d 0x005) s = gives (g.evstat.zeroExtend 64) ∧
    exec (.sysr r d 0x010) s = gives (g.mrs.seed ++ 0#28 ++ g.mrs.ovf ++ g.mrs.mode) ∧ exec (.sysr r d 0x011) s = gives (g.mrs.dcnt.zeroExtend 64) ∧
    exec (.sysr r d 0x012) s = gives (g.vrs.seed ++ 0#28 ++ g.vrs.ovf ++ g.vrs.mode) ∧ exec (.sysr r d 0x013) s = gives (g.vrs.dcnt.zeroExtend 64) ∧
    exec (.sysr r d 0x020) s = gives (ctl (t0.loops.get 0)) ∧ exec (.sysr r d 0x021) s = gives ((t0.loops.get 0).start.zeroExtend 64) ∧
    exec (.sysr r d 0x022) s = gives (ctl (t0.loops.get 1)) ∧ exec (.sysr r d 0x023) s = gives ((t0.loops.get 1).start.zeroExtend 64) ∧
    exec (.sysr r d 0x040) s = gives (t0.wdlim.zeroExtend 64) ∧ exec (.sysr r d 0x041) s = gives (BitVec.ofNat 64 (t0.wdcnt % 2 ^ 48)) ∧
    exec (.sysr r d 0x042) s = gives (t0.seq.zeroExtend 64) ∧ exec (.sysr r d 0x080) s = gives (s.dawn.msplit.zeroExtend 64) ∧
    exec (.sysr r d 0x043) s = gives (match g.trapped with | some x => BitVec.ofNat 64 (2 ^ 63 + x.gindex.toNat) | none => 0) ∧
    exec (.sysw r d 0x000) s = .next (s.after g r 0 (fun t => { t with femode := (t0.getX d).extractLsb' 0 1 })) ∧
    exec (.sysw r d 0x040) s = .next (s.after g r 0 (fun t => { t with wdlim := (t0.getX d).extractLsb' 0 48 })) ∧
    exec (.sysw r d 0x005) s = .next (s.afterGroup g r 0 (fun g => { g with evstat := g.evstat &&& ~~~((t0.getX d).extractLsb' 0 32) })) ∧
    (∀ n : BitVec 12, n.toNat ∉ [0x000, 0x001, 0x002, 0x003, 0x005, 0x010, 0x011, 0x012, 0x013, 0x020, 0x021, 0x022, 0x023, 0x040, 0x041, 0x042, 0x043, 0x080] →
      exec (.sysr r d n) s = .next (s.traps g (.plain Cause.sysNum))) ∧
    (∀ n : BitVec 12, n.toNat ∉ [0x000, 0x005, 0x040] → exec (.sysw r d n) s = .next (s.traps g (.plain Cause.sysNum)))

/-- PERFR and LOCQ empty x(d) and send their value to it, read as they issue (log 72); an unassigned counter raises SYS_NUM. (R65, R74, R172, R212, R213) -/
def Obligations.CounterAndLocalityReadsComplete : Prop :=
  ∀ (s : State) (g : Group) (r : BitVec 4) (d a : BitVec 6), CanRun s g anyStream r → (s.here g).isFull d = true →
    let t0 := s.here g
    let core := s.cores.get (coreOf s.curPlace)
    let die := s.dies.get (dieOfPlace s.curPlace)
    let sends := fun (v : BitVec 64) => (.next (s.after g r 0 (fun t => t.arrive d v)) : Host.Outcome State Fault Refusal)
    exec (.perfr r d 0x000) s = sends core.cycle ∧ exec (.perfr r d 0x001) s = sends t0.retired ∧ exec (.perfr r d 0x002) s = sends core.steps ∧
    exec (.perfr r d 0x003) s = sends g.decstall ∧ exec (.perfr r d 0x004) s = sends g.headwait ∧ exec (.perfr r d 0x008) s = sends core.energy ∧
    exec (.perfr r d 0x009) s = sends (die.trips.zeroExtend 64) ∧
    (∀ k : Fin 8, exec (.perfr r d (BitVec.ofNat 12 (0x100 + 4 * k.val))) s = sends (die.regs.get k).hit ∧
      exec (.perfr r d (BitVec.ofNat 12 (0x101 + 4 * k.val))) s = sends (die.regs.get k).miss ∧
      exec (.perfr r d (BitVec.ofNat 12 (0x102 + 4 * k.val))) s = sends (die.regs.get k).ovf) ∧
    (∀ n : BitVec 12, n.toNat ∉ [0, 1, 2, 3, 4, 8, 9] → (n.toNat < 0x100 ∨ 0x120 ≤ n.toNat ∨ n.toNat % 4 = 3) →
      exec (.perfr r d n) s = .next (s.traps g (.plain Cause.sysNum))) ∧
    (t0.isFull a = true →
      let A := t0.getX a
      let here := (dieOfPlace s.curPlace).val
      let word := fun (cls die slice stack : Nat) => exec (.locq r d a) s = sends (BitVec.ofNat 64 (cls * 4096 + die * 256 + slice * 16 + stack))
      (inWindow A = true → word 2 here 0 15) ∧
      (inWindow A = false → (∃ c l, findLeaf (s.began g r) (coreOf s.curPlace) g.lr.asid A = .bad c l) → word 7 15 0 15) ∧
      (∀ x pte lg, inWindow A = false → findLeaf (s.began g r) (coreOf s.curPlace) g.lr.asid A = .leaf x pte lg →
        let pa := leafAddr x lg A
        (∀ die, Machine.region s pa = .hbm die → word (if die.val = here then 0 else 1) die.val (sliceOf pa).val (stackOf pa)) ∧
        (∀ die, Machine.region s pa = .attic die →
          word (if die.val ≠ here then 5 else if atticCore pa / 4 = s.curPlace.val / 16 % 8 then 3 else 4) die.val 0 15) ∧
        (∀ die off, Machine.region s pa = .dcr die off → word 6 die.val 0 15) ∧
        ((Machine.region s pa = .none ∨ ∃ off, Machine.region s pa = .dawn off) → word 7 15 0 15))) ∧
    (∀ (q : Place) (st : StreamId) (h : Group) (k : Nat) (x : BitVec 6) (v : BitVec 64), s.group q = some h →
      let gone : Stream := { h.stream st with arrivals := (h.stream st).arrivals.eraseIdx k }
      ((h.stream st).arrivals[k]? = some (x, v, none) → exec (.loadDataReturn q st (k + 1)) s = .next (s.setGroup q (h.setStream st (gone.setX x v)))) ∧
      (∀ c, (h.stream st).arrivals[k]? = some (x, v, some c) →
        (8 ≤ ((s.cores.get (coreOf q)).cycle - c).toNat → ∃ t h', exec (.loadDataReturn q st (k + 1)) s = .next t ∧ t.group q = some h' ∧
          (x ≠ 0 → (h'.stream st).getX x = v) ∧ (h'.stream st).hasFull x = true ∧ (h'.stream st).arrivals = (h.stream st).arrivals.eraseIdx k) ∧
        (((s.cores.get (coreOf q)).cycle - c).toNat < 8 → exec (.loadDataReturn q st (k + 1)) s = .next s)))

/-- The seven scalar loads complete: the destination is emptied and the access enters the load queue, or a die control register is read as the
load issues, its value on its way (log 72). (R65, R87, R215, R216) -/
def Obligations.ScalarLoadsEnterTheLoadQueue : Prop :=
  ∀ (s s2 : State) (g : Group) (r : BitVec 4) (d a : BitVec 6) (i : BitVec 9), CanRun s g anyStream r → (s.here g).fulls [a, d] →
    let e := s.env g r
    let t0 := s.here g
    let load := fun (j : Instr) (n : Nat) (signed : Bool) =>
      let va : BitVec 64 := t0.getX a + BitVec.ofInt 64 (i.toInt * n)
      (va.toNat % n ≠ 0 → exec j s = .next (s.traps g (Trap.at Cause.memAlign va 0))) ∧
      (va.toNat % n = 0 → t0.loads.length < 16 → ∀ tgt : Target, (∀ die off, tgt ≠ .dcr die off) → reach e va 0 false = .ok s2 tgt →
        exec j s = .next ((s2.setGroup s.curPlace (e.g.setStream s.curStream
          (((e.t.markEmpty d).leftByLoad d).pushLoad (s.cores.get (coreOf s.curPlace)).cycle va (.scalar d n signed)
            [{ loc := tgt.loc, va := va.toNat, n := n, pos := 0 }]))).finishAt s.curPlace s.curStream r 0)) ∧
      (va.toNat % n = 0 → ∀ die off, reach e va 0 false = .ok s2 (.dcr die off) →
        (n = 8 → exec j s = .next ((s2.setGroup s.curPlace (e.g.setStream s.curStream
          ((e.t.arriveLater d (dcrRead s2 die off) (s.cores.get (coreOf s.curPlace)).cycle).leftByLoad d))).finishAt s.curPlace s.curStream r 0)) ∧
        (n ≠ 8 → exec j s = .next (s.trapsIn s2 g (Trap.at Cause.dcrSize va 0))))
    load (.ldB r d a i) 1 true ∧ load (.ldBu r d a i) 1 false ∧ load (.ldH r d a i) 2 true ∧ load (.ldHu r d a i) 2 false ∧
    load (.ldW r d a i) 4 true ∧ load (.ldWu r d a i) 4 false ∧ load (.ldD r d a i) 8 true

/-- The load at the head of a queue is performed, eight cycles after it issued or later: x(d) receives the bytes of memory or of the scratchpad, extended,
and becomes full. Memory keeps its bytes, but for a line that was written under an older key and that the load brings into an L2 (log 4). (R65, R86, R87, R88,
R215) -/
def Obligations.LoadedDataReachesItsRegister : Prop :=
  ∀ (s s2 : State) (p : Place) (st : StreamId) (g : Group) (d : BitVec 6) (n : Nat) (loc : Loc) (signed : Bool) (req : LoadReq) (rest : List LoadReq),
    s.group p = some g → (g.stream st).loads = req :: rest → req.dest = .scalar d n signed → (∃ va, req.parts = [{ loc := loc, va := va, n := n, pos := 0 }]) →
    (n = 1 ∨ n = 2 ∨ n = 4 ∨ n = 8) → 8 ≤ ((s.cores.get (coreOf p)).cycle - req.issued).toNat → (∀ pa, loc = .mem pa → farHeld s (dieOfPlace p) pa = false) →
    markClear s p { g.stream st with loads := [] } req.mark = true → loc.locked s p n = false → readyPages s p g [loc] = .ready s2 →
    (∀ k, k < n → locPoisoned s2 p g (loc.plus k) = false) →
    let v := leNat ((List.range n).map (fun k => streamByte s2 p g (g.stream st) req.after (loc.plus k)))
    ∃ t g', exec (.loadDataReturn p st 0) s = .next t ∧ t.group p = some g' ∧
      (g'.stream st).getX d = (if d = 0 then 0 else if signed then (BitVec.ofNat (8 * n) v).signExtend 64 else BitVec.ofNat 64 v) ∧
      (g'.stream st).hasFull d = true ∧ (g'.stream st).loads = rest ∧ (∀ j, j ≠ d → (g'.stream st).getX j = (g.stream st).getX j) ∧
      t.sram = s.sram ∧ ∀ a, keySettled s a → homeByte t a = homeByte s a

/-- The four scalar stores complete: the access enters the store queue, allocating its scratchpad page, or acts on a die control register, where a stream's
store to the address-space register is ignored (log 33). (R67, R87, R215, R216) -/
def Obligations.ScalarStoresEnterTheStoreQueue : Prop :=
  ∀ (s s2 : State) (g : Group) (r : BitVec 4) (x a : BitVec 6) (i : BitVec 9), CanRun s g anyStream r → (s.here g).fulls [x, a] →
    let e := s.env g r
    let t0 := s.here g
    let store := fun (j : Instr) (n : Nat) =>
      let va : BitVec 64 := t0.getX a + BitVec.ofInt 64 (i.toInt * n)
      let part := fun (l : Loc) (ht : Bool) => ({ loc := l, va := va.toNat, op := .write (leBytes n (t0.getX x).toNat), scale := none, ht := ht } : StorePart)
      (va.toNat % n ≠ 0 → exec j s = .next (s.traps g (Trap.at Cause.memAlign va 1))) ∧
      (va.toNat % n = 0 → t0.stores.length < 16 → ∀ pa ht, reach e va 1 true = .ok s2 (.mem pa ht) →
        exec j s = .next ((s2.setGroup s.curPlace (e.g.setStream s.curStream (e.t.pushStore s2.now ht [part (.mem pa) ht] none))).finishAt s.curPlace s.curStream r 0)) ∧
      (va.toNat % n = 0 → t0.stores.length < 16 → inWindow va = true → windowDead e.s e.p e.g (va.toNat - windowBase) = false →
        let granted := allocPage e.s s.curPlace e.g (pageOf (va.toNat - windowBase))
        (∀ s3 g3, granted = some (s3, g3) → exec j s = .next ((s3.setGroup s.curPlace (g3.setStream s.curStream
          ((g3.stream s.curStream).pushStore s3.now false [part (.spad (va.toNat - windowBase)) false] none))).finishAt s.curPlace s.curStream r 0)) ∧
        (granted = none → exec j s = .next (s.trapsIn (s.began g r) g (Trap.at Cause.spPool va 1)))) ∧
      (va.toNat % n = 0 → n ≠ 8 → ∀ die off, reach e va 1 true = .ok s2 (.dcr die off) → exec j s = .next (s.trapsIn s2 g (Trap.at Cause.dcrSize va 1)))
    store (.stB r x a i) 1 ∧ store (.stH r x a i) 2 ∧ store (.stW r x a i) 4 ∧
    store (.stD r x a i) 8 ∧
    (let va : BitVec 64 := t0.getX a + BitVec.ofInt 64 (i.toInt * 8)
     va.toNat % 8 = 0 → ∀ die off g2, reach e va 1 true = .ok s2 (.dcr die off) → s2.group s.curPlace = some g2 →
      let u := retire (s2.setGroup s.curPlace (g2.setStream s.curStream (advance s2 s.curPlace g2 (g2.stream s.curStream)))) s.curPlace s.curStream r 0
      exec (.stD r x a i) s = .next (stepHalt (if off = 0x2000 then u else dcrWrite u die off (t0.getX x)) s.curPlace))

/-- LDS takes and empties a full sync word, STF writes and fills an empty one; each waits on the other state, x(d) of LDS empty meanwhile, and traps outside
the range. (R65, R105, R106, R109, R217) -/
def Obligations.FullEmptyWordAccessesComplete : Prop :=
  ∀ (s s2 : State) (g : Group) (r : BitVec 4) (d x a : BitVec 6), CanRun s g anyStream r → (s.here g).fulls [a, d, x] →
    let e := s.env g r
    let A := (s.here g).getX a
    let off := A.toNat - windowBase
    let dead := windowDead e.s e.p e.g off
    ((inWindow A = false ∨ 65536 ≤ off) → exec (.lds r d a) s = .next (s.traps g (Trap.at Cause.feRange A 0)) ∧
      exec (.stf r x a) s = .next (s.traps g (Trap.at Cause.feRange A 1))) ∧
    (inWindow A = true → off < 65536 → A.toNat % 8 ≠ 0 → exec (.lds r d a) s = .next (s.traps g (Trap.at Cause.memAlign A 0)) ∧
      exec (.stf r x a) s = .next (s.traps g (Trap.at Cause.memAlign A 1))) ∧
    (inWindow A = true → off < 65536 → A.toNat % 8 = 0 → dead = true → exec (.lds r d a) s = .next (s.traps g (Trap.at Cause.paNodie A 0)) ∧
      exec (.stf r x a) s = .next (s.traps g (Trap.at Cause.paNodie A 1))) ∧
    (inWindow A = true → off < 65536 → A.toNat % 8 = 0 → dead = false → (s.slot s.curPlace).cutNow = false → loadTurn e.s e.p e.t = true →
      bankLocked e.s e.p none off 8 = false →
      (g.syncf.getLsbD (off / 8) = false ∨ outrun e.g e.st (.word off) = true) →
      exec (.lds r d a) s = .next (s.waits (s.began g r) (e.g.setStream e.st (e.t.leftByLoad d)) (.word off) d)) ∧
    (inWindow A = true → off < 65536 → A.toNat % 8 = 0 → dead = false → (s.slot s.curPlace).cutNow = false → g.syncf.getLsbD (off / 8) = true →
      (g.pages.get (pageOf off)).alloc = true → exec (.stf r x a) s = .next (s.began g r)) ∧
    (inWindow A = true → off < 65536 → A.toNat % 8 = 0 → dead = false → bankLocked e.s e.p none off 8 = false → ensureFrame e.s e.p e.g (pageOf off) = .ready s2 →
      (g.syncf.getLsbD (off / 8) = true → outrun e.g e.st (.word off) = false → loadTurn e.s e.p e.t = true → (ldsRun a e).bad = [] →
        (readRun s2 e.p e.g e.t e.t.storesIn (.spad off) 8).bad = [] →
        let v := BitVec.ofNat 64 (leNat ((List.range 8).map (fun k => streamByte s2 e.p e.g e.t e.t.storesIn (.spad (off + k)))))
        ∃ t g', exec (.lds r d a) s = .next t ∧ t.group s.curPlace = some g' ∧
          (s.here g').arrivals = (s.here g).arrivals ++ [(d, v, some ((s.here g).issuedAt (s.cores.get (coreOf s.curPlace)).cycle))] ∧
          (d ≠ 0 → (s.here g').isFull d = false) ∧ (s.here g').seq = (s.here g).seq + 1 ∧
          (∀ k, g'.syncf.getLsbD k = if k = off / 8 then false else g.syncf.getLsbD k)) ∧
      (g.syncf.getLsbD (off / 8) = false → storeTurn e.s e.p e.t = true → releaseDone e.s e.p e.t 0 = true → (g.pages.get (pageOf off)).alloc = true →
        exec (.stf r x a) s = .next (((publish (spadWrite s2 e.p e.g off (leBytes 8 ((s.here g).getX x).toNat)) e.p e.st e.t 0 [(.spad off, 8)]).setGroup s.curPlace
          { e.g with syncf := e.g.syncf ||| (1#8192 <<< (off / 8)) }).finishAt s.curPlace s.curStream r 0)))

/-- WAITA, FENCE and EPOP wait for their condition, x(d) empty meanwhile, and then complete with their effects. (R65, R92, R94, R97, R98, R109, R218, R219, R220) -/
def Obligations.WaitsFencesAndPopsComplete : Prop :=
  ∀ (s s2 s3 : State) (g : Group) (r : BitVec 4) (d a b : BitVec 6), CanRun s g anyStream r → (s.here g).fulls [a, b, d] →
    let e := s.env g r
    let A := (s.here g).getX a
    let waits := fun (j : Instr) (u : State) => (s.slot s.curPlace).cutNow = false → exec j s = .next u
    (A.toNat % 8 ≠ 0 → exec (.waita r d a b) s = .next (s.traps g (Trap.at Cause.memAlign A 0))) ∧
    (∀ die off, A.toNat % 8 = 0 → reach e A 0 false = .ok s2 (.dcr die off) → exec (.waita r d a b) s = .next (s.trapsIn s2 g (Trap.at Cause.dcrSize A 0))) ∧
    (∀ tgt : Target, A.toNat % 8 = 0 → reach e A 0 false = .ok s2 tgt → (∀ die off, tgt ≠ .dcr die off) → loadTurn s2 e.p e.t = true →
      tgt.loc.locked s2 e.p 8 = false → readyPages s2 e.p e.g [tgt.loc] = .ready s3 → (waitaRun a e).bad = [] →
      (readRun s3 e.p e.g e.t e.t.storesIn tgt.loc 8).bad = [] →
      let v := BitVec.ofNat 64 (leNat ((List.range 8).map (fun k => streamByte s3 e.p e.g e.t e.t.storesIn (tgt.loc.plus k))))
      (v ≠ (s.here g).getX b → waits (.waita r d a b) (s.waits s3 (e.g.setStream e.st (e.t.leftByLoad d)) .other d)) ∧
      (v = (s.here g).getX b → ∃ t g', exec (.waita r d a b) s = .next t ∧ t.group s.curPlace = some g' ∧
        (s.here g').arrivals = (s.here g).arrivals ++ [(d, v, some ((s.here g).issuedAt (s.cores.get (coreOf s.curPlace)).cycle))] ∧
        (d ≠ 0 → (s.here g').isFull d = false) ∧ (s.here g').seq = (s.here g).seq + 1)) ∧
    (∀ (sc : BitVec 3) (k : BitVec 2),
      let acq := k.getLsbD 0
      let rel := k.getLsbD 1
      let t1 := if acq then e.t.acquire e.p e.st sc.toNat e.t.seen else e.t
      let t2 := if rel then ({ t1 with fenced := liveSet e.s e.p t1 } : Stream) else t1
      let done := (acq = true → (s.here g).loads = []) ∧ (rel = true → releaseDone e.s e.p t1 sc.toNat = true)
      (done → exec (.fence r sc k) s = .next (((if rel then publish e.s e.p e.st t1 sc.toNat [] else e.s).setGroup s.curPlace
        (e.g.setStream s.curStream { t2 with mark := e.t.mark + 1 })).finishAt s.curPlace s.curStream r 0)) ∧
      (¬ done → waits (.fence r sc k) (s.began g r))) ∧
    (∀ (n : BitVec 4) (h : n.toNat < 5),
      ((g.rq[n.toNat] = [] ∨ outrun e.g e.st (.result n.toNat) = true) → waits (.epop r d n) (s.waits (s.began g r) e.g (.result n.toNat) d)) ∧
      (∀ x rest, g.rq[n.toNat] = x :: rest → outrun e.g e.st (.result n.toNat) = false → exec (.epop r d n) s = .next (((s.began g r).setGroup s.curPlace
        ({ e.g with rq := e.g.rq.set n.toNat rest }.setStream s.curStream (e.t.arrive d x))).finishAt s.curPlace s.curStream r 0)))

/-- PREF, CLWB and CLINV complete: PREF never traps, whatever its address (log 67) and whatever the rights of its page (log 75); CLWB and CLINV of HBM enter
the store queue, and of the window, of the attic and of a die control register do nothing. (R221, R222) -/
def Obligations.CacheControlInstructionsComplete : Prop :=
  ∀ (s s2 : State) (g : Group) (r : BitVec 4) (a : BitVec 6), CanRun s g anyStream r → (s.here g).isFull a = true →
    let e := s.env g r
    let A := (s.here g).getX a
    let walked := if (tlbFind e.s (coreOf e.p) g.lr.asid A.toNat).isSome then e.s else walkTouch e.s (dieOfPlace e.p) g.lr.asid A
    let goes := fun (j : Instr) (u : State) => exec j s = .next (u.finishAt s.curPlace s.curStream r 0)
    (∀ w ef : BitVec 1,
      (inWindow A = true → goes (.pref r a w ef) (s.began g r)) ∧
      (inWindow A = false → (∃ c l, findLeaf walked (coreOf e.p) g.lr.asid A = .bad c l) → goes (.pref r a w ef) walked) ∧
      (∀ x pte lg, inWindow A = false → findLeaf walked (coreOf e.p) g.lr.asid A = .leaf x pte lg →
        let asks := permits x (w.zeroExtend 2) g.trapped.isSome && !farHeld walked (dieOfPlace e.p) (leafAddr x lg A)
        (asks = false → goes (.pref r a w ef) walked) ∧
        (asks = true → goes (.pref r a w ef)
          (l2Touch walked (leafAddr x lg A) (some (g.lr.asid, A.toNat)) (ef == 1#1) (w == 1#1))))) ∧
    (let part := fun (op : StoreOp) (pa : Nat) => ({ loc := .mem (pa / 128 * 128), va := A.toNat, op := op, scale := none } : StorePart)
     let queued := fun (op : StoreOp) (pa : Nat) => s2.setGroup s.curPlace (e.g.setStream s.curStream (e.t.pushStore s2.now false [part op pa] none))
     (∀ pa ht, (region s2 pa).isHbm = true → (s.here g).stores.length < 16 →
      (reach e A 0 false = .ok s2 (.mem pa ht) → goes (.clwb r a) (queued .clwb pa)) ∧
      (reach e A 1 false = .ok s2 (.mem pa ht) → goes (.clinv r a) (queued .clinv pa))) ∧
     (∀ tgt : Target, inWindow A = false → ((∃ pa ht, tgt = .mem pa ht ∧ (region s2 pa).isHbm = false) ∨ ∃ die off, tgt = .dcr die off) →
      (reach e A 0 false = .ok s2 tgt → goes (.clwb r a) s2) ∧ (reach e A 1 false = .ok s2 tgt → goes (.clinv r a) s2)) ∧
     (inWindow A = true → goes (.clwb r a) (s.began g r) ∧ goes (.clinv r a) (s.began g r)))

/-- EVPOST, EVPOST.g and EVWAIT post and consume event counts. (R49, R50, R51, R52, R225) -/
def Obligations.EventInstructionsComplete : Prop :=
  ∀ (s : State) (g : Group) (r : BitVec 4) (v : BitVec 5) (a : BitVec 6), CanRun s g anyStream r → (s.here g).isFull a = true →
    let e := s.env g r
    let A := (s.here g).getX a
    let posts := (e.s.setGroup s.curPlace (postEvent e.g v (liveSet e.s e.p e.t))).finishAt s.curPlace s.curStream r 0
    let waits := fun (j : Instr) (u : State) => (s.slot s.curPlace).cutNow = false → exec j s = .next u
    (releaseDone e.s e.p e.t 0 = true → exec (.evpost r v) s = .next posts ∧ (A = g.gindex.zeroExtend 64 → exec (.evpostG r v a) s = .next posts)) ∧
    (releaseDone e.s e.p e.t 0 = false → waits (.evpost r v) (s.began g r)) ∧
    (A ≠ g.gindex.zeroExtend 64 → g.lr.gang = false → exec (.evpostG r v a) s = .next (s.traps g (.plain Cause.evRemote))) ∧
    (A ≠ g.gindex.zeroExtend 64 → g.lr.gang = true → g.lr.g ≤ A.toNat → exec (.evpostG r v a) s = .next (s.traps g (.plain Cause.evNogrp))) ∧
    (∀ q h, A ≠ g.gindex.zeroExtend 64 → g.lr.gang = true → A.toNat < g.lr.g → releaseDone e.s e.p e.t 4 = true →
      boundAt e.s g.lr.id (A.extractLsb' 0 16) = some q → e.s.group q = some h → linkHeld e.s (dieOfPlace e.p) (dieOfPlace q) = false →
      exec (.evpostG r v a) s = .next ((e.s.setGroup q (postEvent h v [])).finishAt s.curPlace s.curStream r 0)) ∧
    (g.ev.get v.toFin ≠ 0 → g.evwait.all (fun w => w.2 ≠ v ∨ w.1 = s.curStream) = true →
      let n := (g.ev.get v.toFin).toNat
      let sets := g.evSets.get v.toFin
      let ev := e.g.ev.set v.toNat (g.ev.get v.toFin - 1) v.isLt
      let evSets := e.g.evSets.set v.toNat (dropSet n sets) v.isLt
      let t' := { e.t with cum := e.t.cum ++ headSet n sets, acq := e.t.acq ++ headSet n sets }
      ∃ l, exec (.evwait r v) s = .next (((s.began g r).setGroup s.curPlace ({ e.g with ev := ev, evwait := l, evSets := evSets }.setStream s.curStream
        t')).finishAt s.curPlace s.curStream r 0) ∧ (s.curStream, v) ∉ l) ∧
    (g.ev.get v.toFin = 0 → ∃ l, waits (.evwait r v) ((s.began g r).setGroup s.curPlace { e.g with evwait := l }) ∧ (s.curStream, v) ∈ l) ∧
    (∀ (h : Group) (n : BitVec 5) (l : List Nat), (postEvent h n l).ev.get n.toFin = (if h.ev.get n.toFin = 0xFFFF then 0xFFFF else h.ev.get n.toFin + 1) ∧
      (postEvent h n l).evstat.getLsbD n.toNat = (h.evstat.getLsbD n.toNat || decide (h.ev.get n.toFin = 0xFFFF)))

/-- BARA, BAREX and BARW operate on a barrier object at its slice; a BARA that finds every arrival of the phase made waits there in its order. An update
outside a cycle that the model works off is tested at once, one inside it with the other updates of that cycle, once each object. (R226, R227, R228, R229,
R444) -/
def Obligations.BarrierInstructionsComplete : Prop :=
  ∀ (s s2 : State) (g : Group) (r : BitVec 4) (d a b : BitVec 6) (pa : Nat) (bar : Barrier), CanRun s g anyStream r → (s.here g).fulls [a, b, d] →
    let e := s.env g r
    let X := (s.here g).getX b
    let tested := fun (c : Barrier) => if c.arrive = c.count ∧ c.pend = 0 then ({ c with phase := c.phase + 1, arrive := 0 } : Barrier) else c
    let traps := fun (j : Instr) (c : BitVec 10) => exec j s = .next (s.trapsIn s2 g (.plain c))
    let waits := fun (j : Instr) (u : State) => (s.slot s.curPlace).cutNow = false → exec j s = .next u
    let released := publish s2 e.p e.st e.t (levelScope g.lr bar.level) [(.mem pa, 24)]
    let put := fun (c : Barrier) => if released.inCycle then
        ({ writeBarrier released pa c with touched := if released.touched.contains pa then released.touched else released.touched ++ [pa] } : State)
      else writeBarrier released pa (tested c)
    (object e ((s.here g).getX a) 64 64 1 Cause.barPlace = .ok s2 pa →
      (readBarrier s2 pa = none → traps (.bara r d a b) Cause.barDesc ∧ traps (.barex r a b) Cause.barDesc) ∧
      (readBarrier s2 pa = some bar → g.lr.nlev < bar.level → traps (.bara r d a b) Cause.levelRange ∧ traps (.barex r a b) Cause.levelRange) ∧
      (readBarrier s2 pa = some bar → bar.level ≤ g.lr.nlev → releaseDone s2 e.p e.t (levelScope g.lr bar.level) = false →
        waits (.bara r d a b) (s.waits s2 e.g .other d) ∧ waits (.barex r a b) s2) ∧
      (readBarrier s2 pa = some bar → bar.level ≤ g.lr.nlev → releaseDone s2 e.p e.t (levelScope g.lr bar.level) = true →
        let first := firstArrival s2 pa = none ∨ firstArrival s2 pa = some (pa, s.curPlace, s.curStream)
        let written := put { bar with arrive := bar.arrive + 1, pend := bar.pend + X }
        let added := put { bar with pend := bar.pend + X }
        (bar.arrive ≠ bar.count → first → exec (.bara r d a b) s =
          .next ((({ written with barriers := written.barriers.filter (fun x => !(x.2 == (s.curPlace, s.curStream))) } : State).setGroup s.curPlace
            (e.g.setStream s.curStream { e.t.setX d (bar.phase.zeroExtend 64) with mark := e.t.mark + 1, fenced := liveSet written e.p e.t })).finishAt
              s.curPlace s.curStream r 0)) ∧
        (bar.arrive = bar.count ∨ ¬ first →
          waits (.bara r d a b) (s.waits (queueArrival s2 pa s.curPlace s.curStream) (e.g.setStream s.curStream { e.t with atSlice := true }) .other d)) ∧
        exec (.barex r a b) s =
          .next ((added.setGroup s.curPlace
            (e.g.setStream s.curStream { e.t with mark := e.t.mark + 1, fenced := liveSet added e.p e.t })).finishAt s.curPlace s.curStream r 0))) ∧
    (∀ u : State, u.touched = [pa] → readBarrier { u with touched := [] } pa = some bar →
      settleBarriers u = writeBarrier { u with touched := [] } pa (tested bar)) ∧
    (object e ((s.here g).getX a) 64 64 0 Cause.barPlace = .ok s2 pa → readBarrier s2 pa = some bar → bar.level ≤ g.lr.nlev →
      (bar.phase = X.extractLsb' 0 32 → waits (.barw r d a b) (s.waits s2 e.g .other d)) ∧
      (bar.phase ≠ X.extractLsb' 0 32 → exec (.barw r d a b) s =
        .next ((s2.setGroup s.curPlace (e.g.setStream s.curStream ((e.t.setX d (bar.phase.zeroExtend 64)).acquire e.p e.st (levelScope g.lr bar.level)
          (pairedWith s2 e.p e.st ((List.range 24).map (fun i => .mem (pa + i))))))).finishAt s.curPlace s.curStream r 0)))

/-- L2PIN takes a retention register and L2UNPIN gives it back. (R76, R77, R79, R223, R224) -/
def Obligations.RetentionInstructionsComplete : Prop :=
  ∀ (s s2 : State) (g : Group) (r ev : BitVec 4) (d a b : BitVec 6) (ways : BitVec 4), CanRun s g anyStream r → (s.here g).fulls [a, b, d] →
    let e := s.env g r
    let lo := (s.here g).getX a
    let hi := (s.here g).getX b
    ((hi < lo ∨ ways = 0 ∨ 8 < ways.toNat ∨ inWindow lo = true) → exec (.l2pin r ev d a b ways) s = .next (s.traps g (.plain Cause.opRange))) ∧
    (∀ pa ht, ¬ hi < lo → 1 ≤ ways.toNat → ways.toNat ≤ 8 → inWindow lo = false → translateAs e.s e.p e.g e.st lo 0 false = .ok s2 pa ht →
      (region s2 pa).isHbm = true →
      let die := s2.dies.get (dieOf pa)
      let overlaps := die.regs.toList.any (fun q => q.v && q.asid == g.lr.asid && decide (q.base ≤ hi.extractLsb' 16 41 ∧ lo.extractLsb' 16 41 ≤ q.last))
      ((∀ i, (die.regs.get i).v = true) → exec (.l2pin r ev d a b ways) s = .next (s.trapsIn s2 g (.plain Cause.l2Noreg))) ∧
      (∀ i : Fin 8, (die.regs.get i).v = false → (∀ j, j < i → (die.regs.get j).v = true) →
        (die.rways.toNat < ownedWays die + ways.toNat → exec (.l2pin r ev d a b ways) s = .next (s.trapsIn s2 g (.plain Cause.l2Noways))) ∧
        (ownedWays die + ways.toNat ≤ die.rways.toNat → overlaps = true → exec (.l2pin r ev d a b ways) s = .next (s.trapsIn s2 g (.plain Cause.l2Overlap))) ∧
        (ownedWays die + ways.toNat ≤ die.rways.toNat → overlaps = false → ∃ reg : RetReg,
          reg.v = true ∧ reg.base = lo.extractLsb' 16 41 ∧ reg.last = hi.extractLsb' 16 41 ∧ reg.ways = ways ∧ reg.asid = g.lr.asid ∧ reg.lid = g.lr.id ∧
          reg.hit = 0 ∧ reg.miss = 0 ∧ reg.ovf = 0 ∧
          exec (.l2pin r ev d a b ways) s = .next (((s2.setDie (dieOf pa) { die with regs := die.regs.set i.val reg }).setGroup s.curPlace
            (e.g.setStream s.curStream (e.t.setX d (BitVec.ofNat 64 ((dieOf pa).val * 16 + i.val))))).finishAt s.curPlace s.curStream r ev)))) ∧
    (∀ (dd : DieId) (i : Fin 8), lo = BitVec.ofNat 64 (dd.val * 16 + i.val) →
      (dieLive s dd = true → ((s.dies.get dd).regs.get i).v = true → ((s.dies.get dd).regs.get i).asid = g.lr.asid →
        exec (.l2unpin r a) s = .next ((releaseReg (s.began g r) dd i).finishAt s.curPlace s.curStream r 0)) ∧
      ((dieLive s dd = false ∨ ((s.dies.get dd).regs.get i).v = false ∨ ((s.dies.get dd).regs.get i).asid ≠ g.lr.asid) →
        exec (.l2unpin r a) s = .next (s.traps g (.plain Cause.l2Handle)))) ∧
    ((∀ (dd : DieId) (i : Fin 8), lo ≠ BitVec.ofNat 64 (dd.val * 16 + i.val)) → exec (.l2unpin r a) s = .next (s.traps g (.plain Cause.l2Handle)))

/-- RGTKT, RGFILL, RGTAKE and RGREL operate on a reorder ring at its slice, with a request for each line of its bitmap that they read or write. (R65, R75,
R104, R230, R231, R232, R310) -/
def Obligations.RingInstructionsComplete : Prop :=
  ∀ (s s2 : State) (g : Group) (r : BitVec 4) (d a b : BitVec 6) (pa : Nat) (k : Ring), CanRun s g anyStream r → (s.here g).fulls [a, b, d] →
    let e := s.env g r
    let A := (s.here g).getX a
    let B := ((s.here g).getX b).toNat
    object e A 64 64 1 Cause.rgDesc = .ok s2 pa → readRing s2 pa = some k →
    (List.range ((bitmapBytes k.n.log2 + 64 + 127 + pa % 128) / 128)).any (fun i => poisoned s2 (pa + 128 * i)) = false →
    let retires := fun (t : State) (h : Group) => (.next ((t.setGroup s.curPlace h).finishAt s.curPlace s.curStream r 0) : Host.Outcome State Fault Refusal)
    let got := filledRun s2 pa k k.head (Nat.min (if B = 0 ∨ k.n < B then k.n else B) (k.next - k.head))
    let took := ringTouch s2 e A pa ((List.range (Nat.min (got + 1) (k.next - k.head))).map (fun i => bitAddr pa k (k.head + i))) false
    let freed := homeWriteAll (ringTouch s2 e A pa ((releaseBytes s2 pa k B).map (·.1)) true) (releaseBytes s2 pa k B)
    (k.next - k.reld < k.n → exec (.rgtkt r d a) s = retires (homeWrite8 s2 (pa + 0x18) (BitVec.ofNat 64 (k.next + 1)))
      ((e.g.holdTicket A (BitVec.ofNat 64 k.next)).setStream s.curStream (e.t.arrive d (BitVec.ofNat 64 k.next)))) ∧
    (k.n ≤ k.next - k.reld → exec (.rgtkt r d a) s = retires s2 (e.g.setStream s.curStream (e.t.arrive d (BitVec.allOnes 64)))) ∧
    (releaseDone e.s e.p e.t 4 = true → k.head ≤ B → B < k.next → ringBit s2 pa k B = false → exec (.rgfill r a b) s =
      retires (setRingBit (ringTouch s2 e A pa [bitAddr pa k B] true) pa k B true) ({ e.g with tkts := e.g.tkts.filter (· ≠ (A, (s.here g).getX b)) }.setStream s.curStream { e.t with mark := e.t.mark + 1 })) ∧
    (releaseDone e.s e.p e.t 4 = true → (B < k.head ∨ k.next ≤ B ∨ ringBit s2 pa k B = true) → exec (.rgfill r a b) s = .next (s.trapsIn s2 g (.plain Cause.rgTicket))) ∧
    exec (.rgtake r d a b) s = retires (homeWrite8 took (pa + 0x20) (BitVec.ofNat 64 (k.head + got)))
      (e.g.setStream s.curStream ((e.t.arrive d (BitVec.ofNat 64 (k.head % 2 ^ 47 * 2 ^ 17 + got))).acquire e.p e.st 4
        (pairedWith (homeWrite8 took (pa + 0x20) (BitVec.ofNat 64 (k.head + got))) e.p e.st
          ((List.range (64 + bitmapBytes k.n.log2)).map (fun i => .mem (pa + i)))))) ∧
    (releaseDone e.s e.p e.t 4 = true → k.reld + B ≤ k.head → exec (.rgrel r a b) s = .next (freed.finishAt s.curPlace s.curStream r 0) ∧
      (memOk s2 → (∀ a', pa ≤ a' → a' < pa + 64 + bitmapBytes k.n.log2 → keySettled s2 a') → homeDword freed (pa + 0x28) = BitVec.ofNat 64 (k.reld + B) ∧
        ∀ t, ringBit freed pa k t = (ringBit s2 pa k t && !decide (∃ i, i < B ∧ t % k.n = (k.reld + i) % k.n)))) ∧
    (releaseDone e.s e.p e.t 4 = true → k.head < k.reld + B → exec (.rgrel r a b) s = .next (s.trapsIn s2 g (.plain Cause.rgTicket)))

/-- JOBNX deals a chunk of a job card, JOBGO and TQADD place task records and wait while the queue is full. (R57, R233, R234, R235, R236, R328) -/
def Obligations.JobAndTaskInstructionsComplete : Prop :=
  ∀ (s s2 s3 s4 : State) (g : Group) (r : BitVec 4) (d a b : BitVec 6) (pa : Nat) (c : Card), CanRun s g [.ctl] r → (s.here g).fulls [a, b, d] →
    let e := s.env g r
    let A := (s.here g).getX a
    let n := ((s.here g).getX b).toNat
    let active := Nat.max 1 (boundGroups s2 g.lr.id)
    let k := Nat.min (Nat.min (Nat.max ((c.rem + c.div * active - 1) / (c.div * active)) c.min) c.max) c.rem
    let dealt := homeWrite s2 (pa + 0x18) (dwordBytes [BitVec.ofNat 64 ((c.next + k) % 2 ^ 40), BitVec.ofNat 64 (c.rem - k)])
    let places := fun (j : Instr) (t : State) (x : Vector (BitVec 64) 4) =>
      (queueRoom t (taskClass x) = true → exec j s = .next ((acceptTask t { dws := x, asid := g.lr.asid, lid := g.lr.id, no := 0 }).finishAt s.curPlace s.curStream r 0)) ∧
      (queueRoom t (taskClass x) = false → (s.slot s.curPlace).cutNow = false → exec j s = .next t)
    (object e A 64 64 1 Cause.jobDesc = .ok s2 pa → readCard s2 pa = some c → exec (.jobnx r d a) s =
      .next ((dealt.setGroup s.curPlace (e.g.setStream s.curStream (e.t.arrive d (BitVec.ofNat 64 (c.next * 2 ^ 24 + k))))).finishAt s.curPlace s.curStream r 0)) ∧
    (object e A 64 64 1 Cause.jobDesc = .ok s2 pa → readCard s2 pa = none → exec (.jobnx r d a) s = .next (s.trapsIn s2 g (.plain Cause.jobDesc))) ∧
    ((n = 0 ∨ 65536 < n) → exec (.jobgo r a b) s = .next (s.traps g (.plain Cause.opRange))) ∧
    (1 ≤ n → n ≤ 65536 → object e A 64 64 0 Cause.jobDesc = .ok s2 pa → readCard s2 pa = some c → c.launch ≠ 0 → releaseDone s2 e.p e.t 4 = true →
      places (.jobgo r a b) s2 #v[(1#4 ++ 0#41 ++ g.cls ++ 0#16 : BitVec 64), A, BitVec.ofNat 64 (n - 1), 0]) ∧
    (A.toNat % 32 ≠ 0 → exec (.tqadd r a) s = .next (s.traps g (.plain Cause.tqDesc))) ∧
    (∀ tgt : Target, A.toNat % 32 = 0 → releaseDone e.s e.p e.t 4 = true → reach e A 0 false = .ok s2 tgt → (∀ die off, tgt ≠ .dcr die off) →
      tgt.loc.locked s2 e.p 32 = false → readyPages s2 e.p e.g [tgt.loc] = .ready s3 → (readRun s3 e.p e.g e.t e.t.storesIn tgt.loc 32).bad = [] →
      let u := match tgt with | .mem p' _ => l2Run s3 p' 32 (some (g.lr.asid, A.toNat)) false false | _ => s3
      let t := taskOf (readRun s3 e.p e.g e.t e.t.storesIn tgt.loc 32).bytes
      (taskOk t = false → exec (.tqadd r a) s = .next (s.trapsIn u g (.plain Cause.tqDesc))) ∧
      (taskOk t = true → t[0].extractLsb' 60 4 = 2#4 →
        let looked := translate u (coreOf e.p) g.lr.asid t[1] 0 false g.trapped.isSome
        let placed := fun (v : State) => places (.tqadd r a) v (taskForClass t g.cls)
        (inWindow t[1] = true → placed u) ∧ (∀ v c l, inWindow t[1] = false → looked = .bad v c l → placed v) ∧
        (∀ v p' ht, inWindow t[1] = false → looked = .ok v p' ht →
          let w := l2Touch v p' (some (g.lr.asid, t[1].toNat)) false false
          ((region v p').isHbm = false → placed v) ∧
          ((region v p').isHbm = true → homeNat w p' 4 = magicSave.toNat → exec (.tqadd r a) s = .next (s.trapsIn w g (.plain Cause.coDesc))) ∧
          ((region v p').isHbm = true → homeNat w p' 4 ≠ magicSave.toNat → placed w))) ∧
      (taskOk t = true → t[0].extractLsb' 60 4 = 1#4 → object { e with s := u } t[1] 64 64 0 Cause.jobDesc = .ok s4 pa → readCard s4 pa = some c →
        (c.launch = 0 → exec (.tqadd r a) s = .next (s.trapsIn s4 g (.plain Cause.jobDesc))) ∧ (c.launch ≠ 0 → places (.tqadd r a) s4 (taskForClass t g.cls))))

/-- WPSET takes a watch entry of the home slice and WPCLR frees it; the fields and the card that WPSET checks are those of log 36. (R235, R237, R238, R239) -/
def Obligations.WatchpointInstructionsComplete : Prop :=
  ∀ (s s2 s3 s4 s5 : State) (g : Group) (r ev : BitVec 4) (d a : BitVec 6) (once : BitVec 1), CanRun s g [.ctl] r → (s.here g).fulls [a, d] →
    let e := s.env g r
    let A := (s.here g).getX a
    let traps := fun (u : State) (c : BitVec 10) => exec (.wpset r ev d a once) s = .next (s.trapsIn u g (.plain c))
    (A.toNat % 64 ≠ 0 → exec (.wpset r ev d a once) s = .next (s.traps g (.plain Cause.wpDesc))) ∧
    (∀ (tgt : Target) (pa : Nat) (ht : Bool), A.toNat % 64 = 0 → reach e A 0 false = .ok s2 tgt → (∀ die off, tgt ≠ .dcr die off) →
      tgt.loc.locked s2 e.p 64 = false → readyPages s2 e.p e.g [tgt.loc] = .ready s3 → (readRun s3 e.p e.g e.t e.t.storesIn tgt.loc 64).bad = [] →
      let u := match tgt with | .mem p' _ => l2Run s3 p' 64 (some (g.lr.asid, A.toNat)) false false | _ => s3
      let bs := (readRun s3 e.p e.g e.t e.t.storesIn tgt.loc 64).bytes
      let lo := dwordOf bs 0
      let hi := dwordOf bs 1
      let t := taskOf (bs.drop 32)
      ((lo.toNat % 8 ≠ 0 ∨ hi.toNat % 8 ≠ 7 ∨ lo.toNat / 128 ≠ hi.toNat / 128 ∨ hi < lo ∨ taskOk t = false ∨ inWindow lo = true) → traps u Cause.wpDesc) ∧
      (lo.toNat % 8 = 0 → hi.toNat % 8 = 7 → lo.toNat / 128 = hi.toNat / 128 → ¬ hi < lo → taskOk t = true → inWindow lo = false →
        ((t[0].extractLsb' 60 4 = 2#4 ∧ s4 = u) ∨ (t[0].extractLsb' 60 4 = 1#4 ∧ ∃ (pc : Nat) (c : Card), object { e with s := u } t[1] 64 64 0 Cause.wpDesc = .ok s4 pc ∧
          readCard s4 pc = some c ∧ c.launch ≠ 0)) →
        translateAs s4 e.p e.g e.st lo 0 false = .ok s5 pa ht →
        ((region s5 pa).isHbm = false → traps s5 Cause.wpDesc) ∧
        ((region s5 pa).isHbm = true →
          let die := s5.dies.get (dieOf pa)
          let used := fun (i : Fin 16) => die.watch.any (fun w => w.slice == sliceOf pa && w.entry == i)
          ((∀ i, used i = true) → traps s5 Cause.wpNoslot) ∧
          (∀ i : Fin 16, used i = false → (∀ j, j < i → used j = true) →
            exec (.wpset r ev d a once) s = .next (((s5.setDie (dieOf pa) { die with watch := die.watch ++
                [{ slice := sliceOf pa, entry := i, lo := pa, hi := pa + (hi.toNat - lo.toNat), mask := dwordOf bs 2, value := dwordOf bs 3, task := taskForClass t g.cls,
                   once := once == 1#1, owner := g.lr.id, asid := g.lr.asid }] }).setGroup s.curPlace
              (e.g.setStream s.curStream (e.t.setX d (BitVec.ofNat 64 ((dieOf pa).val * 256 + (sliceOf pa).val * 16 + i.val))))).finishAt s.curPlace s.curStream r ev))))) ∧
    (∀ (dd : DieId) (sl i : Fin 16), A = BitVec.ofNat 64 (dd.val * 256 + sl.val * 16 + i.val) →
      let die := s.dies.get dd
      ((∃ w ∈ die.watch, w.slice = sl ∧ w.entry = i ∧ w.owner = g.lr.id) → exec (.wpclr r a) s =
        .next (((s.began g r).setDie dd { die with watch := die.watch.filter (fun w => !(w.slice == sl && w.entry == i)) }).finishAt s.curPlace s.curStream r 0)) ∧
      ((∀ w ∈ die.watch, w.slice = sl → w.entry = i → w.owner ≠ g.lr.id) → exec (.wpclr r a) s = .next (s.traps g (.plain Cause.wpHandle)))) ∧
    ((∀ (dd : DieId) (sl i : Fin 16), A ≠ BitVec.ofNat 64 (dd.val * 256 + sl.val * 16 + i.val)) → exec (.wpclr r a) s = .next (s.traps g (.plain Cause.wpHandle)))

/-- The predicate commands and the commands of the vector engine complete at acceptance: they enter the vector queue. DCNT rises by the tag that v(a) will have
when the command starts, which log 40 says how the model finds. (R39, R40, R124, R167, R195, R241, R246) -/
def Obligations.VectorCommandsEnterTheirQueue : Prop :=
  ∀ (s : State) (g : Group) (r ev tg : BitVec 4) (d a b : BitVec 6) (p pd pa pb c rm pos : BitVec 3) (o qt : BitVec 2) (w dyn : BitVec 1) (i : BitVec 9),
    CanRun s g [.vec] 0 → (s.here g).fulls [a, b] →
    let X := fun (k : BitVec 6) => (s.here g).getX k
    let rounds := fun (yes : Prop) [Decidable yes] (h : Group) => if yes then { h with vrs := { h.vrs with dcnt := h.vrs.dcnt + 1 } } else h
    let float := let t := tagAtStart g (g.queue .vector) a; t = 3 ∨ t = 4 ∨ t = 5
    let gives := fun (j : Instr) (xs : List (BitVec 64)) (yes : Prop) [Decidable yes] =>
      ((g.queue .vector).length < 16 → exec j s = .next (s.queued g .vector j xs [] 0 (rounds yes))) ∧
      (16 ≤ (g.queue .vector).length → exec j s = .next s)
    let plain := fun (j : Instr) => gives j [] False
    let float1 := fun (j : Instr) => gives j [] (g.vrs.mode = 5 ∧ float)
    plain (.pand r pd pa pb) ∧ plain (.por r pd pa pb) ∧ plain (.pxor r pd pa pb) ∧ plain (.pnot r pd pa) ∧ plain (.pcnt r d pa w) ∧
    gives (.pset r pd a i) [X a] False ∧
    float1 (.vadd r d a b p) ∧ float1 (.vsub r d a b p) ∧ float1 (.vmul r d a b p) ∧ float1 (.vfma r d a b p) ∧ float1 (.vfms r d a b p) ∧
    float1 (.vdiv r d a b p) ∧ float1 (.vrcp r d a p) ∧ float1 (.vrsq r d a p) ∧ float1 (.vsqrt r d a p) ∧ float1 (.vexp2 r d a p) ∧
    float1 (.vlog2 r d a p) ∧ float1 (.vscl r d a b p) ∧
    gives (.vcvt r ev d a p tg dyn rm pos qt) [] (if dyn = 1 then g.vrs.mode = 5 else rm = 5) ∧
    plain (.vmin r d a b p) ∧ plain (.vmax r d a b p) ∧ plain (.vand r d a b p) ∧ plain (.vor r d a b p) ∧ plain (.vxor r d a b p) ∧
    plain (.vshl r d a b p) ∧ plain (.vshr r d a b p) ∧ plain (.vsra r d a b p) ∧ plain (.vsel r d a b p) ∧ plain (.vcmp r c pd a b p) ∧
    plain (.vmov r d a p) ∧ plain (.vabs r d a p) ∧ plain (.vneg r d a p) ∧ plain (.vred r d a o p) ∧ plain (.vperm r d a b p) ∧
    plain (.vtag r d a tg) ∧ plain (.vpack r d a b p) ∧ plain (.vunpk r d a w p) ∧
    gives (.vbcast r d a tg p) [X a] False ∧ gives (.vext r d a b p) [X b] False ∧ gives (.vlane r d a b p) [X b] False ∧
    gives (.vld r d a tg p) [X a] False ∧ gives (.vst r d a p) [X a] False ∧ gives (.vlds r d a b p) [X a, X b] False ∧
    gives (.vgat r d a b p) [X a] False

/-- ENGINE_HEAD_START takes the tokens of the command at a ready head and starts it, or raises its cause; VLD, VLDS and VGAT place a load of their active
elements, VST a store of them. (R41, R42, R45, R242, R260, R261, R383) -/
def Obligations.EngineHeadStartsTheReadyCommand : Prop :=
  (∀ (s : State) (p : Place) (q : QueueId) (g : Group) (e : QEntry), HeadReady s p q g e →
    let v := headEnv s p q g e
    (∀ u w, startCommand v = .start u w → exec (.engineHeadStart p q) s = .next (began u p q v.e w)) ∧
    (∀ x, startCommand v = .trap x → exec (.engineHeadStart p q) s = .next (raiseHead v.s p q v.e x)) ∧
    (∀ u x, startCommand v = .trapIn u x → exec (.engineHeadStart p q) s = .next (raiseHead u p q v.e x)) ∧
    (∀ u, startCommand v = .wait u → exec (.engineHeadStart p q) s = .next u) ∧
    (∀ u w h, startCommand v = .start u w → u.group p = some h → (∀ a b c, e.instr ≠ .colgo a b c) →
      ∃ h', (began u p q v.e w).group p = some h' ∧ h'.tokens = h.tokens ∧
        ∀ x ∈ h'.queue q, x.id = e.id → x.started = true ∧ x.work = some w)) ∧
  ∀ (s : State) (p : Place) (g : Group) (e : QEntry) (r tg : BitVec 4) (d a b : BitVec 6) (pr : BitVec 3), HeadReady s p .vector g e →
    let v := headEnv s p .vector g e
    let t := g.stream .vec
    let old := g.v.get d.toFin
    let idx := g.v.get b.toFin
    let x := fun (k : Nat) => e.xops.toList.getD k 0
    let starts := fun (u : State) => exec (.engineHeadStart p .vector) s = .next (began u p .vector v.e { Work.none with access := true })
    let els := fun (w : Nat) => (List.range (16384 / w)).filter (fun k => (g.pred pr).getLsbD (k * w / 16))
    let loads := fun (tag : BitVec 4) (accs : List ElemAcc) (at_ : List Nat) =>
      (16 ≤ t.loads.length → exec (.engineHeadStart p .vector) s = .next v.s) ∧
      (t.loads.length < 16 → ∀ s2 ls, resolveAll v v.s accs 0 = .ok s2 ls → ∃ u h q, starts u ∧ u.group p = some h ∧ (h.stream .vec).loads = t.loads ++ [q] ∧
        q.dest = .vector d (tagWidth tag) e.id ∧ q.parts = List.zipWith (fun y k => ({ loc := y.1.1, va := y.2.va.toNat, n := y.2.n, pos := k } : LoadPart)) (ls.zip accs) at_ ∧
        h.v.get d.toFin = { old with tag := tag, full := false, side := 0 } ∧ (∀ k : BitVec 6, k ≠ d → h.v.get k.toFin = g.v.get k.toFin) ∧ u.mem = s2.mem)
    let elements := fun (tag : BitVec 4) (va : Nat → BitVec 64) =>
      let n := tagWidth tag / 8
      loads tag ((els (8 * n)).map (fun k => { va := va k, n := n, align := n })) ((els (8 * n)).map (n * ·))
    let blocks := fun (n : Nat) => List.range (2048 / n)
    let blockVas := fun (n : Nat) => (blocks n).flatMap (fun j => [(x 0 + BitVec.ofNat 64 (n * j), n), (x 0 + BitVec.ofNat 64 (2048 + j), 1)])
    let blockAt := fun (n : Nat) => (blocks n).flatMap (fun j => [n * j, 2048 + j])
    let size := fun (tag : BitVec 4) => if tag = 8 then 16 else 32
    let accsOf := fun (l : List (BitVec 64 × Nat)) => l.map (fun y => ({ va := y.1, n := y.2, align := 1 } : ElemAcc))
    (e.instr = .vld r d a tg pr → tg.toNat ≤ 12 → tg ≠ 11 → tagBlock tg = false → elements tg (fun k => x 0 + BitVec.ofNat 64 (tagWidth tg / 8 * k))) ∧
    (e.instr = .vld r d a tg pr → tagBlock tg = true → pr = 0 → (x 0).toNat % 64 = 0 → loads tg (accsOf (blockVas (size tg))) (blockAt (size tg))) ∧
    (e.instr = .vld r d a tg pr → tagBlock tg = true → pr = 0 → (x 0).toNat % 64 ≠ 0 →
      exec (.engineHeadStart p .vector) s = .next (raiseHead v.s p .vector v.e (Trap.at Cause.memAlign (x 0) 0))) ∧
    (e.instr = .vlds r d a b pr → tagBlock old.tag = false → old.tag ≠ 11 → elements old.tag (fun k => x 0 + BitVec.ofNat 64 k * x 1)) ∧
    (e.instr = .vgat r d a b pr → (old.tag = 0 ∨ old.tag = 1 ∨ old.tag = 3) → idx.tag = 1 →
      elements old.tag (fun k => x 0 + (BitVec.ofNat 32 (elemAt idx.data 32 k)).signExtend 64)) ∧
    (e.instr = .vst r d a pr →
      let n := tagWidth old.tag / 8
      let accs := (els (8 * n)).map (fun k => ({ va := x 0 + BitVec.ofNat 64 (n * k), n := n, align := n } : ElemAcc))
      let stores := fun (accs : List ElemAcc) (parts : List (Loc × Bool) → List StorePart) =>
        (16 ≤ t.stores.length → exec (.engineHeadStart p .vector) s = .next v.s) ∧
        (t.stores.length < 16 → ∀ s2 ls s3 h, resolveAll v v.s accs 1 = .ok s2 ls → granted v s2 (aims ls accs) (fun z => .start z Work.none) = .start s3 Work.none →
          s3.group p = some h → ∃ u h' q, starts u ∧ u.group p = some h' ∧ (h'.stream .vec).stores = (h.stream .vec).stores ++ [q] ∧ q.entry = some e.id ∧
            q.parts = parts ls ∧ h'.v = h.v ∧ u.mem = s3.mem)
      (tagBlock old.tag = false → stores accs (fun ls => List.zipWith (fun y k =>
        ({ loc := y.1.1, va := y.2.va.toNat, op := .write (leBytes n (elemAt old.data (8 * n) k)), scale := none, ht := y.1.2 } : StorePart)) (ls.zip accs) (els (8 * n)))) ∧
      (tagBlock old.tag = true → pr = 0 → (x 0).toNat % 64 = 0 → stores (accsOf (blockVas (size old.tag))) (fun ls =>
        storeParts true old (ls.zip ((accsOf (blockVas (size old.tag))).zip (blockAt (size old.tag)))))) ∧
      (tagBlock old.tag = true → pr = 0 → (x 0).toNat % 64 ≠ 0 →
        exec (.engineHeadStart p .vector) s = .next (raiseHead v.s p .vector v.e (Trap.at Cause.memAlign (x 0) 1))))

/-- PAND, POR, PXOR, PNOT, PCNT and PSET start with the result R195 and R196 give. (R194, R195, R196) -/
def Obligations.PredicateCommandsGiveTheirResults : Prop :=
  ∀ (s : State) (p : Place) (g : Group) (e : QEntry) (r : BitVec 4) (d a b : BitVec 3) (x : BitVec 6) (i : BitVec 9), HeadReady s p .vector g e →
    let v := headEnv s p .vector g e
    let P := fun (k : BitVec 3) => g.pred k
    let gives := fun (w : Work) => exec (.engineHeadStart p .vector) s = .next (began v.s p .vector v.e w)
    let bits := fun (f : Nat → Bool) => ∃ y : BitVec 1024, (∀ j, j < 1024 → y.getLsbD j = f j) ∧ gives { Work.none with pw := [(d, y)] }
    (e.instr = .pand r d a b → bits (fun j => (P a).getLsbD j && (P b).getLsbD j)) ∧
    (e.instr = .por r d a b → bits (fun j => (P a).getLsbD j || (P b).getLsbD j)) ∧
    (e.instr = .pxor r d a b → bits (fun j => (P a).getLsbD j != (P b).getLsbD j)) ∧
    (e.instr = .pnot r d a → bits (fun j => !(P a).getLsbD j)) ∧
    (∀ w : BitVec 1, e.instr = .pcnt r x a w → gives { Work.none with vw := [(x,
      { data := BitVec.ofNat 16384 ((List.range 1024).countP (fun j => (w == 0 || j % 2 == 0) && (P a).getLsbD j)), tag := 1, full := true, side := 0 })] }) ∧
    (e.instr = .pset r d x i → bits (fun j => decide ((j : Int) < (e.xops.get 0).toInt + i.toInt)))

/-- Arithmetic on integers and on floating formats, comparison, conversion, reduction, scaling, packing, logic, shifts, select, moves and lane moves start with
the elements R247 to R259 give; a block converted to its own format follows R128 (log 59). (R126, R128, R130, R131, R242, R247, R248, R249, R252, R254, R258, R259) -/
def Obligations.VectorElementCommandsGiveTheirResults : Prop :=
  ∀ (s : State) (pl : Place) (g : Group) (e : QEntry) (r ev tg : BitVec 4) (d a b : BitVec 6) (p c pd rm pos : BitVec 3) (o qt : BitVec 2) (dyn hi : BitVec 1), HeadReady s pl .vector g e →
    let v := headEnv s pl .vector g e
    let A := g.v.get a.toFin
    let B := g.v.get b.toFin
    let old := g.v.get d.toFin
    let w := tagWidth A.tag
    let el := fun (R : VReg) (k : Nat) => elemAt R.data w k
    let int := fun (R : VReg) (k : Nat) => (BitVec.ofNat w (el R k)).toInt
    let gives := fun (reg : VReg) => exec (.engineHeadStart pl .vector) s = .next (began v.s pl .vector v.e { Work.none with vw := [(d, reg)] })
    let elements := fun (t : BitVec 4) (f : Nat → Nat) => ∃ reg : VReg, ElementsAre old reg t (g.pred p) f ∧ reg.side = 0 ∧ gives reg
    let wrap := fun (z : Int) => (BitVec.ofInt w z).toNat
    (tagInt A.tag = true →
      (B.tag = A.tag →
        (e.instr = .vadd r d a b p → elements A.tag (fun k => wrap (int A k + int B k))) ∧ (e.instr = .vsub r d a b p → elements A.tag (fun k => wrap (int A k - int B k))) ∧
        (e.instr = .vmul r d a b p → elements A.tag (fun k => wrap (int A k * int B k))) ∧
        (e.instr = .vmin r d a b p → elements A.tag (fun k => wrap (min (int A k) (int B k)))) ∧
        (e.instr = .vmax r d a b p → elements A.tag (fun k => wrap (max (int A k) (int B k))))) ∧
      (e.instr = .vabs r d a p → elements A.tag (fun k => wrap (int A k).natAbs)) ∧ (e.instr = .vneg r d a p → elements A.tag (fun k => wrap (-(int A k))))) ∧
    (tagBlock A.tag = false → tagBlock B.tag = false → A.tag ≠ 11 → B.tag ≠ 11 →
      (e.instr = .vand r d a b p → elements A.tag (fun k => el A k &&& el B k)) ∧ (e.instr = .vor r d a b p → elements A.tag (fun k => el A k ||| el B k)) ∧
      (e.instr = .vxor r d a b p → elements A.tag (fun k => el A k ^^^ el B k))) ∧
    ((A.tag = 0 ∨ tagInt A.tag = true) → (B.tag = 0 ∨ tagInt B.tag = true) →
      (e.instr = .vshl r d a b p → elements A.tag (fun k => el A k * 2 ^ (el B k % w) % 2 ^ w)) ∧
      (e.instr = .vshr r d a b p → elements A.tag (fun k => el A k / 2 ^ (el B k % w))) ∧
      (e.instr = .vsra r d a b p → elements A.tag (fun k => wrap (int A k / 2 ^ (el B k % w))))) ∧
    (tagBlock A.tag = false → e.instr = .vmov r d a p → elements A.tag (el A)) ∧
    (tg.toNat < 8 ∨ tg = 12 → e.instr = .vbcast r d a tg p → elements tg (fun _ => (e.xops.get 0).toNat % 2 ^ tagWidth tg)) ∧
    (B.tag = A.tag → tagBlock A.tag = false → e.instr = .vsel r d a b p → ∃ reg : VReg, reg.tag = A.tag ∧ reg.full = true ∧ reg.side = 0 ∧ gives reg ∧
      ∀ k, k < 16384 / w → el reg k = if active (g.pred p) w k then el A k else el B k) ∧
    (let rnd := fun (m : BitVec 3) (k : Nat) => ({ mode := m, ovf := e.rs.ovf, hash := if m = 5 then dsrHash e.rs.seed 0 (BitVec.ofNat 32 k) e.rs.dcnt else 0 } : Rnd)
     let vmode := rnd e.rs.mode
     let P := g.pred p
     let F := tagFmt A.tag
     let val := fun (R : VReg) (k : Nat) => F.decode (el R k)
     let rounded := fun (f : Nat → Val) => elements A.tag (fun k => F.round (vmode k) (f k))
     (tagFloat A.tag = true →
       (B.tag = A.tag →
         (e.instr = .vadd r d a b p → rounded (fun k => Val.add (vmode k).rdn (val A k) (val B k))) ∧
         (e.instr = .vsub r d a b p → rounded (fun k => Val.add (vmode k).rdn (val A k) (val B k).flip)) ∧
         (e.instr = .vmul r d a b p → rounded (fun k => Val.mul (val A k) (val B k))) ∧
         (e.instr = .vmin r d a b p → elements A.tag (fun k => F.round Rnd.rne (Val.min2 (val A k) (val B k)))) ∧
         (e.instr = .vmax r d a b p → elements A.tag (fun k => F.round Rnd.rne (Val.max2 (val A k) (val B k)))) ∧
         (old.tag = A.tag →
           (e.instr = .vfma r d a b p → rounded (fun k => Val.add (vmode k).rdn (Val.mul (val A k) (val B k)) (val old k))) ∧
           (e.instr = .vfms r d a b p → rounded (fun k => Val.add (vmode k).rdn (Val.mul (val A k) (val B k)).flip (val old k))))) ∧
       (e.instr = .vabs r d a p → elements A.tag (fun k => if val A k = .nan then F.nanBits else el A k % 2 ^ (w - 1))) ∧
       (e.instr = .vneg r d a p → elements A.tag (fun k => if val A k = .nan then F.nanBits else (el A k + 2 ^ (w - 1)) % 2 ^ w))) ∧
     (A.tag = 3 →
       (B.tag = 3 → e.instr = .vdiv r d a b p → rounded (fun k => Val.div (val A k) (val B k))) ∧
       (e.instr = .vrcp r d a p → rounded (fun k => Val.div (.fin false 1 0) (val A k))) ∧ (e.instr = .vrsq r d a p → rounded (fun k => Val.rsqrt (val A k))) ∧
       (e.instr = .vsqrt r d a p → rounded (fun k => Val.sqrt (val A k))) ∧
       (e.instr = .vexp2 r d a p → elements 3 (fun k => exp2 (vmode k) (BitVec.ofNat 32 (el A k)))) ∧
       (e.instr = .vlog2 r d a p → elements 3 (fun k => log2 (vmode k) (BitVec.ofNat 32 (el A k))))) ∧
     (e.instr = .vcmp r c pd a b p → B.tag = A.tag → (tagInt A.tag = true ∨ (tagFloat A.tag = true ∧ c.toNat < 6)) →
       let free := fun (k : Nat) => val A k = .nan ∨ val B k = .nan
       let test := fun (k : Nat) => if tagInt A.tag = true then (match c.toNat with
           | 0 => el A k = el B k | 1 => el A k ≠ el B k | 2 => int A k < int B k | 3 => int B k ≤ int A k | 4 => el A k < el B k | 5 => el B k ≤ el A k
           | 6 => el A k &&& el B k ≠ 0 | _ => el A k &&& el B k = 0)
         else (match c.toNat with
           | 0 => ¬ free k ∧ Val.eq (val A k) (val B k) = true | 1 => free k ∨ Val.eq (val A k) (val B k) = false | 2 => ¬ free k ∧ Val.lt (val A k) (val B k) = true
           | 3 => ¬ free k ∧ Val.lt (val A k) (val B k) = false | 4 => free k ∨ Val.lt (val A k) (val B k) = true | _ => free k ∨ Val.lt (val A k) (val B k) = false)
       ∃ y : BitVec 1024, exec (.engineHeadStart pl .vector) s = .next (began v.s pl .vector v.e { Work.none with pw := [(pd, y)] }) ∧ ∀ j, j < 1024 →
         (w = 32 → (P.getLsbD (j / 2 * 2) = true → (y.getLsbD j = true ↔ j % 2 = 0 ∧ test (j / 2))) ∧ (P.getLsbD (j / 2 * 2) = false → y.getLsbD j = (g.pred pd).getLsbD j)) ∧
         (w = 16 → (P.getLsbD j = true → (y.getLsbD j = true ↔ test j)) ∧ (P.getLsbD j = false → y.getLsbD j = (g.pred pd).getLsbD j)) ∧
         (w = 8 → (P.getLsbD j = true → (y.getLsbD j = true ↔ test (2 * j) ∧ test (2 * j + 1))) ∧ (P.getLsbD j = false → y.getLsbD j = (g.pred pd).getLsbD j))) ∧
     (e.instr = .vred r d a o p → o ≠ 3 →
       let holds := fun (n : Nat) => gives { data := BitVec.ofNat 16384 n, tag := A.tag, full := true, side := 0 }
       let op : RedOp := if o = 0 then .add else if o = 1 then .max else .min
       (A.tag = 1 →
         let on := (List.range 512).filter (active P 32)
         (o = 0 → holds (BitVec.ofInt 32 ((on.map (int A)).sum)).toNat) ∧
         (o = 1 → ∃ n : BitVec 32, holds n.toNat ∧ (∀ k ∈ on, int A k ≤ n.toInt) ∧ ((on = [] ∧ n = BitVec.intMin 32) ∨ ∃ k ∈ on, n.toInt = int A k)) ∧
         (o = 2 → ∃ n : BitVec 32, holds n.toNat ∧ (∀ k ∈ on, n.toInt ≤ int A k) ∧ ((on = [] ∧ n = BitVec.intMax 32) ∨ ∃ k ∈ on, n.toInt = int A k))) ∧
       (tagFloat A.tag = true → holds ((redTree (redFloat F op) (if w = 32 then 9 else 10)
         ((List.range (16384 / w)).map (fun k => if active P w k then el A k else redIdFloat F op))).headD 0))) ∧
     (e.instr = .vcvt r ev d a p tg dyn rm pos qt → tg.toNat ≤ 12 → tg ≠ 0 → tg ≠ 11 → A.tag ≠ 0 → A.tag ≠ 11 → (p = 0 ∨ (tagBlock A.tag = false ∧ tagBlock tg = false)) →
       let wd := tagWidth tg
       pos.toNat < Nat.max w wd / Nat.min w wd → (dyn = 1 ∨ rm.toNat < 6) →
       let m := 16384 / Nat.max w wd
       let base := if wd < w then pos.toNat * m else 0
       let src := fun (k : Nat) => elemVal A.tag A.data A.side (if w < wd then pos.toNat * m + k else k)
       let mode := rnd (if dyn = 1 then e.rs.mode else rm)
       let conv := fun (k : Nat) (y : Val) => if tg = 1 then (roundInt 32 (mode k) y).toNat else if tg = 2 then (roundInt 8 (mode k) y).toNat
         else if tg = 12 then (roundInt 16 (mode k) y).toNat else (tagFmt tg).round (mode k) y
       let block := fun (j : Nat) =>
         let xs := (List.range 32).map (fun k => src (32 * j + k))
         let at_ := fun (k : Nat) => mode (base + 32 * j + k)
         if tg = 8 then ((blockQ4 qt.toNat at_ xs).1, (blockQ4 qt.toNat at_ xs).2.map BitVec.toNat)
         else ((blockMx (if tg = 9 then .e4m3 else .e5m2) at_ xs).1, (blockMx (if tg = 9 then .e4m3 else .e5m2) at_ xs).2.map BitVec.toNat)
       ∃ reg : VReg, gives reg ∧ reg.tag = tg ∧ reg.full = true ∧
         (tagBlock tg = false → reg.side = 0 ∧ ∀ k, k < 16384 / wd →
           elemAt reg.data wd k = if base ≤ k ∧ k < base + m ∧ active P wd k = true then conv k (src (k - base)) else elemAt old.data wd k) ∧
         (tagBlock tg = true → (∀ k, k < 16384 / wd →
             elemAt reg.data wd k = if base ≤ k ∧ k < base + m then (block ((k - base) / 32)).2.getD ((k - base) % 32) 0 else elemAt old.data wd k) ∧
           ∀ j, j < 16384 / wd / 32 →
             elemAt reg.side 8 j = if base / 32 ≤ j ∧ j < base / 32 + m / 32 then (block (j - base / 32)).1.toNat else elemAt old.side 8 j)) ∧
     (e.instr = .vscl r d a b p → B.tag = 1 →
       let K := fun (j : Nat) => (BitVec.ofNat 32 (elemAt B.data 32 j)).toInt
       let clamp := fun (z top : Int) => (max 0 (min top z)).toNat
       (tagFloat A.tag = true → rounded (fun k => (val A k).scale (K (k * w / 32)))) ∧
       (tagBlock A.tag = true → p = 0 → ∃ reg : VReg, gives reg ∧ reg.data = A.data ∧ reg.tag = A.tag ∧ reg.full = true ∧ ∀ j, j < 16384 / w / 32 →
         let y := elemAt A.side 8 j
         elemAt reg.side 8 j = if A.tag = 8 then (if y % 64 = 63 then y else y / 64 * 64 + clamp ((y % 64 : Nat) + K j) 62)
           else if y = 255 then y else clamp ((y : Int) + K j) 254)) ∧
     (let held := fun (z : Int) (n : Nat) => (BitVec.ofInt n (max (-(2 ^ (n - 1))) (min (2 ^ (n - 1) - 1) z))).toNat
      (e.instr = .vpack r d a b p → B.tag = A.tag →
        (A.tag = 1 → elements 12 (fun k => held (if k < 512 then int A k else int B (k - 512)) 16)) ∧
        (A.tag = 12 → elements 2 (fun k => held (if k < 1024 then int A k else int B (k - 1024)) 8))) ∧
      (e.instr = .vunpk r d a hi p →
        (A.tag = 12 → elements 1 (fun k => (BitVec.ofInt 32 (int A (512 * hi.toNat + k))).toNat)) ∧
        (A.tag = 2 → elements 12 (fun k => (BitVec.ofInt 16 (int A (1024 * hi.toNat + k))).toNat))))) ∧
    (p = 0 ∨ tagBlock A.tag = false →
      let lanes := fun (f : Nat → Nat) => ∃ reg : VReg, reg.tag = A.tag ∧ reg.full = true ∧ reg.side = A.side ∧ gives reg ∧
        ∀ k, k < 512 → elemAt reg.data 32 k = if (g.pred p).getLsbD (2 * k) then f k else elemAt old.data 32 k
      let x := (e.xops.get 0).toNat
      (e.instr = .vext r d a b p → lanes (fun k => if k + x ≤ 511 then elemAt A.data 32 (k + x) else 0)) ∧
      (e.instr = .vlane r d a b p → lanes (fun _ => elemAt A.data 32 (x % 512))) ∧
      (B.tag = 1 → e.instr = .vperm r d a b p → lanes (fun k => elemAt A.data 32 (elemAt B.data 32 k % 512)))) ∧
    (tg.toNat ≤ 12 → e.instr = .vtag r d a tg → ∃ reg : VReg, gives reg ∧ reg.data = A.data ∧ reg.tag = tg ∧ reg.full = true ∧
      (¬ (tagBlock tg = true ∧ tagBlock A.tag = true) → reg.side = 0))

/-- A vector command that the tables refuse raises the cause and does not start: TAG_RSVD, TAG_MISMATCH, PRED_BLOCK, and for VCVT OP_RANGE and RM_RSVD, the
first that holds in the order of its checks. (R112, R243, R245, R247, R248, R249, R250, R251, R252, R253, R261, R262) -/
def Obligations.VectorChecksRaiseTheirCauses : Prop :=
  ∀ (s : State) (pl : Place) (g : Group) (e : QEntry) (r ev tg : BitVec 4) (d a b : BitVec 6) (p c pd rm pos : BitVec 3) (o qt : BitVec 2) (dyn hi : BitVec 1), HeadReady s pl .vector g e →
    let v := headEnv s pl .vector g e
    let A := g.v.get a.toFin
    let B := g.v.get b.toFin
    let D := g.v.get d.toFin
    let raises := fun (c : BitVec 10) => exec (.engineHeadStart pl .vector) s = .next (raiseHead v.s pl .vector v.e (.plain c))
    let number := tagInt A.tag = true ∨ tagFloat A.tag = true
    let three := e.instr = .vadd r d a b p ∨ e.instr = .vsub r d a b p ∨ e.instr = .vmul r d a b p ∨ e.instr = .vmin r d a b p ∨ e.instr = .vmax r d a b p
    let logic := e.instr = .vand r d a b p ∨ e.instr = .vor r d a b p ∨ e.instr = .vxor r d a b p
    let shift := e.instr = .vshl r d a b p ∨ e.instr = .vshr r d a b p ∨ e.instr = .vsra r d a b p
    let function := e.instr = .vrcp r d a p ∨ e.instr = .vrsq r d a p ∨ e.instr = .vsqrt r d a p ∨ e.instr = .vexp2 r d a p ∨ e.instr = .vlog2 r d a p
    let bits := fun (R : VReg) => R.tag = 0 ∨ tagInt R.tag = true
    let blocked := p ≠ 0 ∧ tagBlock A.tag = true
    (three → (¬ number ∨ A.tag ≠ B.tag) → raises Cause.tagMismatch) ∧
    ((e.instr = .vfma r d a b p ∨ e.instr = .vfms r d a b p) → (tagFloat A.tag = false ∨ A.tag ≠ B.tag ∨ A.tag ≠ D.tag) → raises Cause.tagMismatch) ∧
    (e.instr = .vdiv r d a b p → ¬ (A.tag = 3 ∧ B.tag = 3) → raises Cause.tagMismatch) ∧ (function → A.tag ≠ 3 → raises Cause.tagMismatch) ∧
    (logic → ((A.tag = 11 ∨ B.tag = 11) → raises Cause.tagMismatch) ∧
      (A.tag ≠ 11 → B.tag ≠ 11 → p ≠ 0 → (tagBlock A.tag = true ∨ tagBlock B.tag = true) → raises Cause.predBlock)) ∧
    (shift → ¬ (bits A ∧ bits B) → raises Cause.tagMismatch) ∧
    (e.instr = .vsel r d a b p → (A.tag ≠ B.tag → raises Cause.tagMismatch) ∧ (A.tag = B.tag → blocked → raises Cause.predBlock)) ∧
    (e.instr = .vcmp r c pd a b p → (¬ number ∨ A.tag ≠ B.tag ∨ (tagFloat A.tag = true ∧ 6 ≤ c.toNat)) → raises Cause.tagMismatch) ∧
    ((e.instr = .vmov r d a p ∨ e.instr = .vext r d a b p ∨ e.instr = .vlane r d a b p) → blocked → raises Cause.predBlock) ∧
    (e.instr = .vperm r d a b p → (B.tag ≠ 1 → raises Cause.tagMismatch) ∧ (B.tag = 1 → blocked → raises Cause.predBlock)) ∧
    ((e.instr = .vabs r d a p ∨ e.instr = .vneg r d a p) → ¬ number → raises Cause.tagMismatch) ∧
    (e.instr = .vred r d a o p → ¬ (A.tag = 1 ∨ tagFloat A.tag = true) → raises Cause.tagMismatch) ∧
    (e.instr = .vscl r d a b p → (¬ ((tagFloat A.tag = true ∨ tagBlock A.tag = true) ∧ B.tag = 1) → raises Cause.tagMismatch) ∧ (B.tag = 1 → blocked → raises Cause.predBlock)) ∧
    (e.instr = .vpack r d a b p → ¬ ((A.tag = 1 ∨ A.tag = 12) ∧ A.tag = B.tag) → raises Cause.tagMismatch) ∧
    (e.instr = .vunpk r d a hi p → ¬ (A.tag = 12 ∨ A.tag = 2) → raises Cause.tagMismatch) ∧
    (13 ≤ tg.toNat → (e.instr = .vtag r d a tg ∨ e.instr = .vbcast r d a tg p ∨ e.instr = .vld r d a tg p ∨ e.instr = .vcvt r ev d a p tg dyn rm pos qt) → raises Cause.tagRsvd) ∧
    (8 ≤ tg.toNat → tg.toNat ≤ 11 → e.instr = .vbcast r d a tg p → raises Cause.tagMismatch) ∧
    (e.instr = .vcvt r ev d a p tg dyn rm pos qt → tg.toNat ≤ 12 →
      let parts := Nat.max (tagWidth A.tag) (tagWidth tg) / Nat.min (tagWidth A.tag) (tagWidth tg)
      let blocks := p ≠ 0 ∧ (tagBlock A.tag = true ∨ tagBlock tg = true)
      ((A.tag = 0 ∨ A.tag = 11) → raises Cause.tagMismatch) ∧
      (A.tag ≠ 0 → A.tag ≠ 11 → (blocks → raises Cause.predBlock) ∧
        (¬ blocks → (tg = 0 ∨ tg = 11 ∨ parts ≤ pos.toNat → raises Cause.opRange) ∧
          (tg ≠ 0 → tg ≠ 11 → pos.toNat < parts → dyn = 0 → 6 ≤ rm.toNat → raises Cause.rmRsvd)))) ∧
    (e.instr = .vld r d a tg p → (tg = 11 → raises Cause.tagMismatch) ∧ (tagBlock tg = true → p ≠ 0 → raises Cause.predBlock)) ∧
    (e.instr = .vlds r d a b p → (tagBlock D.tag = true ∨ D.tag = 11) → raises Cause.tagMismatch) ∧
    (e.instr = .vgat r d a b p → ¬ ((D.tag = 0 ∨ D.tag = 1 ∨ D.tag = 3) ∧ B.tag = 1) → raises Cause.tagMismatch) ∧
    (e.instr = .vst r d a p → p ≠ 0 → tagBlock D.tag = true → raises Cause.predBlock)

/-- ENGINE_COMPLETION writes the registers of a started command and delivers its signals in queue order: a command that completes behind an unfinished one writes
its registers and delivers nothing; when the older one completes, both deliver, the older first. (R41, R45, R46, R64, R244) -/
def Obligations.EngineCompletionWritesTheRegisters : Prop :=
  ∀ (s : State) (p : Place) (q : QueueId) (g : Group) (e : QEntry) (w : Work), s.group p = some g → e.started = true → e.done = false → e.work = some w → e.elems = [] →
    elementCode e.instr = none →
    let complete := w.lines = [] ∧ w.step = none ∧ w.close = none ∧ w.copies = [] ∧ w.cause = none ∧ w.access = false ∧ w.flush = false ∧ w.ctx = none ∧
      w.splice = none ∧ w.await = none ∧ w.xw = none
    let written := fun (t : State) (k : Group) => t.mem = s.mem ∧ t.sram = s.sram ∧
      (∀ d x, w.vw = [(d, x)] → k.v.get d.toFin = x) ∧ (∀ d, (∀ x ∈ w.vw, x.1 ≠ d) → k.v.get d.toFin = g.v.get d.toFin) ∧
      (∀ d x, w.tw = [(d, x)] → k.t.get d.toFin = x) ∧ (∀ d, (∀ x ∈ w.tw, x.1 ≠ d) → k.t.get d.toFin = g.t.get d.toFin) ∧
      (∀ d x, w.pw = [(d, x)] → k.pred d = if d = 0 then BitVec.allOnes 1024 else x) ∧ (∀ d, (∀ x ∈ w.pw, x.1 ≠ d) → k.pred d = g.pred d) ∧
      (k.stream e.stream).x = (g.stream e.stream).x ∧ k.h = g.h
    let run := fun (k : Nat) (f : State → Group → Prop) => ∃ t g', exec (.engineCompletion p q k) s = .next t ∧ t.group p = some g' ∧ f t g'
    let placed := fun (k : Group) (x : QEntry) => postEv (placeTok k x.stream x.instr.ring []) x.instr.ev []
    (g.queue q = [e] → complete → canPlace g e.stream e.instr.ring = true → run 0 (fun t g' => written t g' ∧ g'.queue q = [] ∧
      g'.tokens = (placed g e).tokens ∧ g'.ev = (placed g e).ev ∧ g'.evstat = (placed g e).evstat ∧ g'.qdone.get q.toFin = g.qdone.get q.toFin + 1 ∧
      (g'.stream e.stream).wdcnt = 0 ∧ ∀ st, st ≠ e.stream → g'.stream st = g.stream st)) ∧
    (∀ older : QEntry, g.queue q = [older, e] → older.id ≠ e.id → older.done = false → older.elems = [] → complete → run 1 (fun t g' => written t g' ∧
      g'.tokens = g.tokens ∧ g'.ev = g.ev ∧ g'.evstat = g.evstat ∧ g'.qdone = g.qdone ∧ (∀ st, g'.stream st = g.stream st) ∧
      ∃ e', g'.queue q = [older, e'] ∧ e'.id = e.id ∧ e'.instr = e.instr ∧ e'.stream = e.stream ∧ e'.done = true ∧ e'.work = none)) ∧
    (∀ later : QEntry, g.queue q = [e, later] → later.id ≠ e.id → later.done = true → later.elems = [] → complete → canPlace g e.stream e.instr.ring = true →
      canPlace (placed g e) later.stream later.instr.ring = true → run 0 (fun t g' => written t g' ∧ g'.queue q = [] ∧
        g'.tokens = (placed (placed g e) later).tokens ∧ g'.ev = (placed (placed g e) later).ev ∧ g'.qdone.get q.toFin = g.qdone.get q.toFin + 2)) ∧
    (g.queue q = [e] → w.lines ≠ [] → w.copies = [] → w.ctx = none → w.await = none → run 0 (fun t g' => t.mem = s.mem ∧ g'.queue q = [e] ∧ g'.v = g.v ∧ g'.t = g.t ∧
      g'.p = g.p ∧ g'.tokens = g.tokens ∧ g'.ev = g.ev))

/-- SHSET writes a field of a shape register and SHGET reads one, for every field number that R269 assigns. SHLD waits, and completes with the record once it has
been on its way for eight cycles; a failing field, record or address raises its cause. (R87, R268, R269, R270, R414, R440) -/
def Obligations.ShapeInstructionsComplete : Prop :=
  (∀ (s s2 : State) (g : Group) (r h : BitVec 4) (d a f : BitVec 6), CanRun s g anyStream r → (s.here g).fulls [a, d] → shapeFieldOk f = true →
    let A := (s.here g).getX a
    let old := g.h.get h.toFin
    let e := s.env g r
    let traps := fun (j : Instr) (x : Trap) => exec j s = .next (s.traps g x)
    let setH := fun (v : BitVec 512) (k : Group) => ({ k with h := k.h.set h.toNat v h.isLt } : Group)
    (∀ v, shValue f.toNat A = some v → fieldFault f.toNat v = none → ∃ h' : BitVec 512,
      exec (.shset r h a f) s = .next (s.afterGroup g r 0 (setH h')) ∧ shGet h' f.toNat = v ∧ ∀ k, k ≠ f.toNat → shGet h' k = shGet old k) ∧
    (shValue f.toNat A = none → traps (.shset r h a f) (.plain Cause.shInval)) ∧
    (∀ v c, shValue f.toNat A = some v → fieldFault f.toNat v = some c → traps (.shset r h a f) (.plain c)) ∧
    (∀ v, 13 ≤ v → fieldFault 1 v = some Cause.tagRsvd) ∧ fieldFault 1 11 = some Cause.shInval ∧
    (∀ v, (fieldFault 2 v = none ↔ 1 ≤ v ∧ v ≤ 5) ∧ (fieldFault 4 v = none ↔ v ≤ 3) ∧ (fieldFault 16 v = none ↔ v = 0)) ∧
    exec (.shget r d h f) s = .next (s.after g r 0 (fun t => t.setX d
      (if 16 ≤ f.toNat ∧ f.toNat ≤ 20 then BitVec.ofInt 64 ((BitVec.ofNat 40 (shGet old f.toNat)).toInt) else BitVec.ofNat 64 (shGet old f.toNat)))) ∧
    (A.toNat % 64 ≠ 0 → traps (.shld r h a) (Trap.at Cause.memAlign A 0)) ∧
    (∀ die off, A.toNat % 64 = 0 → reach e A 0 false = .ok s2 (.dcr die off) → exec (.shld r h a) s = .next (s.trapsIn s2 g (Trap.at Cause.dcrSize A 0))) ∧
    (∀ (tgt : Target) (g2 : Group), A.toNat % 64 = 0 → reach e A 0 false = .ok s2 tgt → (∀ die off, tgt ≠ .dcr die off) → (s.here g).waiting = none →
      (s.slot s.curPlace).cutNow = false → loadTurn s2 e.p e.t = true → tgt.loc.locked s2 e.p 64 = false → s2.group s.curPlace = some g2 →
      exec (.shld r h a) s = .next (s.waits s2 g2 .other 0))) ∧
  ∀ (s s2 s3 : State) (g : Group) (r h : BitVec 4) (a : BitVec 6) (began : BitVec 64) (tgt : Target), CanGoOn s g anyStream r → (s.here g).isFull a = true →
    (s.here g).waiting = some (.other, 0, began) → 8 ≤ ((s.cores.get (coreOf s.curPlace)).cycle - began).toNat →
    let A := (s.here g).getX a
    let e := s.again g
    A.toNat % 64 = 0 → reach e A 0 false = .ok s2 tgt → (∀ die off, tgt ≠ .dcr die off) → loadTurn s2 e.p e.t = true → tgt.loc.locked s2 e.p 64 = false →
    readyPages s2 e.p e.g [tgt.loc] = .ready s3 →
    let run := readRun s3 e.p e.g e.t e.t.storesIn tgt.loc 64
    let v := BitVec.ofNat 512 (leNat run.bytes)
    let u := match tgt with | .mem pa _ => l2Touch s3 pa (some (g.lr.asid, A.toNat)) false false | _ => s3
    let fields := [1, 2, 4, 16].findSome? (fun k => fieldFault k (shGet v k))
    (run.bad ≠ [] → exec (.shld r h a) s = .next (s.trapsIn s3 g (Trap.at Cause.mcEcc A 0))) ∧
    (∀ c, run.bad = [] → fields = some c → exec (.shld r h a) s = .next (s.trapsIn u g (.plain c))) ∧
    (run.bad = [] → fields = none → (Shape.of v).recordOk = false → exec (.shld r h a) s = .next (s.trapsIn u g (.plain Cause.shInval))) ∧
    (run.bad = [] → fields = none → (Shape.of v).recordOk = true → ∃ (t : State) (k : Group), exec (.shld r h a) s = .next t ∧ t.group s.curPlace = some k ∧
      k.h = g.h.set h.toNat v h.isLt ∧ (s.here k).seq = (s.here g).seq + 1 ∧ (s.here k).x = (s.here g).x ∧ (s.here k).c = (s.here g).c ∧
      k.v = g.v ∧ k.t = g.t ∧ k.p = g.p ∧ ∀ a', keySettled s3 a' → homeByte t a' = homeByte s3 a')

/-- TLD, TST, MMA, MMAW, MMAS, MSELF and RMODE complete at acceptance: they enter the matrix queue. At the head TLD reads the bytes of its box into the tile
register, one row of 128 bytes for each row of the box, and TST writes the box from it. (R40, R71, R124, R167, R269, R271, R272, R275, R285, R286, R415, R416) -/
def Obligations.MatrixCommandsEnterTheirQueue : Prop :=
  (∀ (s : State) (g : Group) (r ev h bt at' : BitVec 4) (x a b c slot : BitVec 6) (t : BitVec 2) (m o : BitVec 1) (chain : BitVec 12) (md : BitVec 3) (roles : List StreamId),
    CanRun s g roles 0 → (s.here g).fulls [x, a, b, c] →
    let X := fun (k : BitVec 6) => (s.here g).getX k
    let q := if s.curStream = .vec then QueueId.vector else .matrix
    let traps := fun (j : Instr) (y : BitVec 10) => exec j s = .next (s.traps g (.plain y))
    let gives := fun (j : Instr) (xs : List (BitVec 64)) (hs : List (BitVec 512)) => exec j s = .next (s.queued g .matrix j xs hs 0 id)
    let stepOk := (X x).toNat < 2 ^ 20 ∧ slot.toNat ≤ 47
    let side : Nat := if at' = 8 then 512 else if at' = 9 ∨ at' = 10 then 256 else 0
    let inside := inWindow (X a) = true ∧ (X a).toNat % 128 = 0 ∧ (X a).toNat + 8192 + side ≤ 2 ^ 57
    (roles = [.mxe] → (g.queue .matrix).length < 16 →
      (boxChecks (g.h.get h.toFin) (X b) (X c) = none →
        gives (.tld r ev t h b c) [X b, X c] [g.h.get h.toFin] ∧ gives (.tst r ev t h b c) [X b, X c] [g.h.get h.toFin]) ∧
      (∀ y, boxChecks (g.h.get h.toFin) (X b) (X c) = some y → traps (.tld r ev t h b c) y ∧ traps (.tst r ev t h b c) y) ∧
      (stepOk → gives (.mma r ev x t slot m chain bt) [X x] [] ∧ gives (.mmaw r ev x t slot chain bt) [X x] [] ∧
        (inside → gives (.mmas r ev x a slot m chain bt at') [X x, X a] []) ∧ (¬ inside → exec (.mmas r ev x a slot m chain bt at') s = .next (s.traps g (Trap.at Cause.tlAlign (X a) 0)))) ∧
      (¬ stepOk → traps (.mma r ev x t slot m chain bt) Cause.opRange ∧ traps (.mmaw r ev x t slot chain bt) Cause.opRange ∧
        traps (.mmas r ev x a slot m chain bt at') Cause.opRange) ∧
      (X a &&& 0xFFFFFFFFFFFF00FE#64 = 0 → gives (.mself r t a) [X a] []) ∧ (X a &&& 0xFFFFFFFFFFFF00FE#64 ≠ 0 → traps (.mself r t a) Cause.opRange)) ∧
    (roles = [.mxe, .vec] → (g.queue q).length < 16 →
      (md.toNat < 6 →
        exec (.rmode r o md) s = .next (s.queued g q (.rmode r o md) [] [] 0 (fun k => setRState k q (fun y => { y with ovf := o, mode := md }))) ∧
        exec (.rmodeSeed r o md a) s = .next (s.queued g q (.rmodeSeed r o md a) [X a] [] 0 (fun k => setRState k q (fun y =>
          { y with ovf := o, mode := md, seed := (X a).extractLsb' 0 32, dcnt := if s.curStream = .vec then 0 else y.dcnt })))) ∧
      (6 ≤ md.toNat → traps (.rmode r o md) Cause.rmRsvd ∧ traps (.rmodeSeed r o md a) Cause.rmRsvd))) ∧
  ∀ (s s2 : State) (p : Place) (g : Group) (e : QEntry) (r ev h4 : BitVec 4) (t : BitVec 2) (b c : BitVec 6) (pl : List PlacedChunk) (as : List Aim) (locks : List (Nat × Nat)),
    HeadReady s p .matrix g e →
    let v := headEnv s p .matrix g e
    let h := Shape.of (e.shops.get 0)
    let chunks := h.chunks (originOf (e.xops.get 0) (e.xops.get 1))
    let starts := fun (u : State) (w : Work) => exec (.engineHeadStart p .matrix) s = .next (began u p .matrix v.e w)
    let raises := fun (x : BitVec 10) => exec (.engineHeadStart p .matrix) s = .next (raiseHead v.s p .matrix v.e (.plain x))
    (∀ x ∈ chunks, x.va = (h.elem (originOf (e.xops.get 0) (e.xops.get 1)) x.row x.i0).1 ∧ 0 < x.n ∧ x.row < h.rows ∧ x.i0 < h.boxAt 0) ∧
    (e.instr = .tld r ev t h4 b c → (13 ≤ h.tag.toNat → raises Cause.tagRsvd) ∧
      (h.tag.toNat < 13 → planBox v v.s h chunks 0 = .ok s2 pl as locks → pl.map (·.1) = chunks ∧ ∀ s3, touchAll s2 p (as.map (fun x => (x.1, false))) = some s3 →
        let reads := engineTouch s3 g.lr.asid h.ef false (pl.map (fun x => (x.2.1, x.1.va)) ++ pl.filterMap (fun x => x.2.2.map (fun l => (l, h.scaleAddr x.1.va))))
        let bytes := fun (l : Loc) (n : Nat) => (List.range n).map (fun k => locByte reads p v.g (l.plus k))
        let bad := badLines reads p v.g (h.sized pl)
        (bad = [] → ∃ u reg, starts u { Work.none with tw := [(t, reg)], locks := locks } ∧ reg.tag = h.tag ∧ reg.full = true ∧
          reg.data = tileOfBytes (pl.map (fun x => (128 * x.1.row + x.1.i0 * boxWidth h.tag / 8, bytes x.2.1 (h.chunkBytes x.1)))) ∧
          reg.side = (pl.filterMap (fun x => x.2.2.map (fun l => ((x.1.row * (1024 / boxWidth h.tag) + x.1.i0) / 32, bytes l 1)))).foldl (fun acc y => overlay acc y.1 y.2) 0 ∧
          (∀ k, u.group p = some k → (k.t.get t.toFin).full = false)) ∧
        (bad ≠ [] → g.lr.ecc ≠ 1#2 → ∃ u, starts u { Work.none with locks := locks, cause := some Cause.mcEcc } ∧
          ∀ k, u.group p = some k → (k.t.get t.toFin).full = false))) ∧
    (e.instr = .tst r ev t h4 b c →
      let reg := g.t.get t.toFin
      (reg.tag ≠ h.tag → raises Cause.tagMismatch) ∧
      (reg.tag = h.tag → planBox v v.s h chunks 1 = .ok s2 pl as locks → ∀ s3, placed v s2 as (fun z => .start z Work.none) = .start s3 Work.none →
        let data := fun (x : Chunk) => reg.bytesAt (128 * x.row + x.i0 * boxWidth h.tag / 8) (h.chunkBytes x)
        let scale := fun (x : Chunk) => reg.side.extractLsb' (8 * ((x.row * (1024 / boxWidth h.tag) + x.i0) / 32)) 8
        starts s3 { Work.none with lines := writeBox h pl data scale, locks := locks }))

/-- CHBLD, CHCLOSE, CHSTAT, CHFREE, CHSPLICE, CHRD, LNORM and LSET complete at acceptance: they enter the matrix queue. Where the order of two checks
is the model's, log 47 names it. (R40, R65, R132, R139, R276, R278, R279, R280, R281, R283) -/
def Obligations.ChainCommandsEnterTheirQueue : Prop :=
  ∀ (s : State) (g : Group) (r ev d4 out : BitVec 4) (d a b c k : BitVec 6) (keep sp : BitVec 1) (chain : BitVec 12) (smode qt pl : BitVec 2) (part : BitVec 5) (xp : BitVec 16),
    CanRun s g [.mxe] 0 → (s.here g).fulls [a, b, c, d] → (g.queue .matrix).length < 16 →
    let X := fun (i : BitVec 6) => (s.here g).getX i
    let H := g.h.get d4.toFin
    let traps := fun (j : Instr) (y : BitVec 10) => exec j s = .next (s.traps g (.plain y))
    let gives := fun (j : Instr) (xs : List (BitVec 64)) (hs : List (BitVec 512)) => exec j s = .next (s.queued g .matrix j xs hs 0 id)
    let named := (X a).toNat < 2 ^ 18
    ((X a).toNat % 64 = 0 → gives (.chbld r a) [X a] []) ∧ ((X a).toNat % 64 ≠ 0 → traps (.chbld r a) Cause.chDesc) ∧
    (let close := fun (dst : BitVec 1) => Instr.chclose r ev d4 a b keep dst chain out smode qt c
     ((out = 0 ∨ out = 11 ∨ smode = 3) → ∀ dst, traps (close dst) Cause.opRange) ∧
     (out ≠ 0 → out ≠ 11 → smode ≠ 3 →
       (13 ≤ out.toNat → ∀ dst, traps (close dst) Cause.tagRsvd) ∧
       (out.toNat < 13 →
         (smode ≠ 0 ∧ (X a).toNat % 256 ≠ 0 → exec (close 0) s = .next (s.traps g (Trap.at Cause.tlAlign (X a) 0)) ∧
           (boxChecks H (X b) (X c) = none → (Shape.of H).tag = out → exec (close 1) s = .next (s.traps g (Trap.at Cause.tlAlign (X a) 0)))) ∧
         (¬ (smode ≠ 0 ∧ (X a).toNat % 256 ≠ 0) → gives (close 0) [X a] [] ∧
           (boxChecks H (X b) (X c) = none → (Shape.of H).tag = out → gives (close 1) [X a, X b, X c] [H])) ∧
         (∀ y, boxChecks H (X b) (X c) = some y → traps (close 1) y) ∧
         (boxChecks H (X b) (X c) = none → (Shape.of H).tag ≠ out → traps (close 1) Cause.tagMismatch)))) ∧
    (named →
      exec (.chstat r d a) s = .next (s.queued g .matrix (.chstat r d a) [X a] [] 0 (fun h => h.setStream s.curStream ((h.stream s.curStream).markEmpty d))) ∧
      (k ≠ 0 → gives (.lnorm r ev a b k) [X a, X b] []) ∧ gives (.lset r ev a b xp) [X a, X b] [] ∧
      ((X b).extractLsb' 52 12 = 0 ∧ (X b).extractLsb' 0 37 = 0 → gives (.chsplice r a b) [X a, X b] []) ∧
      gives (.chrd r ev d a 0 pl part) [X a] [] ∧
      (inWindow (X d) = true → (X d).toNat % 128 = 0 → gives (.chrd r ev d a 1 pl 0) [X d, X a] []) ∧
      ((inWindow (X d) = false ∨ (X d).toNat % 128 ≠ 0) → exec (.chrd r ev d a 1 pl 0) s = .next (s.traps g (Trap.at Cause.tlAlign (X d) 1)))) ∧
    (¬ named → traps (.chstat r d a) Cause.opRange ∧ traps (.lnorm r ev a b k) Cause.opRange ∧ traps (.lset r ev a b xp) Cause.opRange ∧
      traps (.chsplice r a b) Cause.opRange ∧ traps (.chrd r ev d a sp pl part) Cause.opRange) ∧
    ((X a).toNat < 2 ^ 12 → gives (.chfree r a) [X a] []) ∧ (2 ^ 12 ≤ (X a).toNat → traps (.chfree r a) Cause.opRange)

/-- At the head, CHSTAT reads the status word, CHFREE frees a chain, LSET and LNORM set the exponents of masked rows, CHRD reads a link's planes, CHSPLICE puts a
spare in a frozen link's place, CHBLD builds a chain, CHCLOSE rounds the words of link 0 into tile registers, and each raises its causes; the plane of a tree link
whose node is not computed is that of log 62. (R138, R139, R154, R155, R276, R278, R279, R280, R281, R283, R284, R425) -/
def Obligations.ChainHeadsReadSetAndFreeLinks : Prop :=
  ∀ (s : State) (p : Place) (g : Group) (e : QEntry) (r ev d4 out : BitVec 4) (d a b k6 cr : BitVec 6) (xp : BitVec 16) (plane smode qt : BitVec 2) (part : BitVec 5)
    (keep : BitVec 1) (chain : BitVec 12), HeadReady s p .matrix g e →
    let v := headEnv s p .matrix g e
    let num : BitVec 12 := (e.xops.get 0).extractLsb' 0 12
    let idx := fieldOf (e.xops.get 0) 17 12
    let raises := fun (c : BitVec 10) => exec (.engineHeadStart p .matrix) s = .next (raiseHead v.s p .matrix v.e (.plain c))
    let gives := fun (u : State) (w : Work) => exec (.engineHeadStart p .matrix) s = .next (began u p .matrix v.e w)
    (findChain s num = none →
      (e.instr = .chstat r d a → gives v.s { Work.none with xw := some (d, 0) }) ∧ (e.instr = .chfree r a → gives v.s Work.none)) ∧
    (∀ c : Chain, findChain s num = some c → c.owner ≠ g.lr.id →
      (e.instr = .chfree r a → raises Cause.chOwner) ∧
      (idx < c.links.length → (e.instr = .chstat r d a ∨ e.instr = .lset r ev a b xp) → raises Cause.chOwner)) ∧
    (∀ c : Chain, findChain s num = some c → c.links.length ≤ idx → (e.instr = .chstat r d a ∨ e.instr = .lset r ev a b xp) → raises Cause.opRange) ∧
    (∀ c : Chain, findChain s num = some c → c.owner = g.lr.id →
      (e.instr = .chfree r a → ∃ u, gives u Work.none ∧ findChain u num = none ∧ (∀ n, n ≠ num → findChain u n = findChain s n) ∧ u.mem = v.s.mem) ∧
      (∀ l : Link, c.links[idx]? = some l →
        (e.instr = .chstat r d a → ∃ z : BitVec 64, gives v.s { Work.none with xw := some (d, z) } ∧ z.getLsbD 63 = true ∧
          z.extractLsb' 60 3 = (match l.state with | .built => 1 | .open => 2 | .done => 3 | .frozen => 4 : BitVec 3) ∧ z.extractLsb' 52 8 = l.mask ∧
          z.getLsbD 51 = (l.ovr != 0) ∧ z.extractLsb' 40 11 = 0 ∧ z.extractLsb' 20 20 = l.decl ∧ z.extractLsb' 0 20 = l.recv) ∧
        (e.instr = .lset r ev a b xp →
          (l.coreId ≠ coreOf p → raises Cause.chRemote) ∧ (l.coreId = coreOf p → l.state ≠ .built → raises Cause.chState) ∧
          (l.coreId = coreOf p → l.state = .built → ∃ u c' l', gives u Work.none ∧ findChain u num = some c' ∧ c'.links[idx]? = some l' ∧
            (∀ k, k < l.e.length → l'.e[k]? = if (e.xops.get 1).getLsbD k then some xp else l.e[k]?) ∧ l'.m = l.m ∧ l'.state = .built ∧
            (∀ j, j ≠ idx → c'.links[j]? = c.links[j]?) ∧ ∀ n, n ≠ num → findChain u n = findChain s n)) ∧
        (e.instr = .lnorm r ev a b k6 →
          let mask := e.xops.get 1
          let up := fun (x : BitVec 16) => x + BitVec.ofNat 16 k6.toNat
          let high := ∃ i, i < 64 ∧ mask.getLsbD i = true ∧ 32767 < (l.e.getD i 0).toInt + k6.toNat
          let may := l.state = .built ∨ l.state = .open
          (l.coreId ≠ coreOf p → raises Cause.chRemote) ∧ (l.coreId = coreOf p → ¬ may → raises Cause.chState) ∧
          (l.coreId = coreOf p → may → high → raises Cause.opRange) ∧
          (l.coreId = coreOf p → may → ¬ high → ∃ u c' l', gives u Work.none ∧ findChain u num = some c' ∧ c'.links[idx]? = some l' ∧
            (∀ i x, l.e[i]? = some x → l'.e[i]? = some (if mask.getLsbD i then up x else x)) ∧
            (∀ i row, l.m[i]? = some row → l'.m[i]? = some (if mask.getLsbD i then row.map (fun x => (w48Round (w48Value x (l.e.getD i 0)) (up (l.e.getD i 0))).1) else row)) ∧
            l'.ovr = l.ovr ∧ l'.recv = l.recv ∧ l'.state = l.state ∧ ∀ j, j ≠ idx → c'.links[j]? = c.links[j]?)) ∧
        (e.instr = .chrd r ev d a 0 plane part → plane ≠ 3 → l.m.length = 64 → (∀ row ∈ l.m, row.length = l.ncol) → l.e.length = 64 →
          let size := if plane = 0 then 32 else 16
          let words := if plane = 0 ∨ plane = 1 then 64 * l.ncol else 128
          let per := 16384 / size
          let word := fun (i : Nat) =>
            let w := rowWord l.m (i / l.ncol) (i % l.ncol)
            if words ≤ i then 0 else if plane = 0 then (w.extractLsb' 0 32).toNat else if plane = 1 then (w.extractLsb' 32 16).toNat
            else if i < 64 then (l.e.getD i 0).toNat else (l.ovr.getLsbD (i - 64)).toNat
          ((if plane = 0 ∨ plane = 1 then words / per else 1) ≤ part.toNat → raises Cause.opRange) ∧
          (part.toNat < (if plane = 0 ∨ plane = 1 then words / per else 1) → ∃ u reg, gives u { Work.none with vw := [(d, reg)] } ∧ reg.tag = 11 ∧ reg.full = true ∧
            reg.side = 0 ∧ (∀ k, k < per → elemAt reg.data size k = word (per * part.toNat + k)) ∧ u.chains = s.chains ∧
            ∀ h, u.group p = some h → (h.v.get d.toFin).full = false)) ∧
        (e.instr = .chsplice r a b →
          let y := e.xops.get 1
          let spare := readLink y 0
          let live := ∃ h : fieldOf y 51 48 < 4, dieLive s ⟨fieldOf y 51 48, h⟩ = true
          let fits := live ∧ 14 ≤ spare.slot ∧ spare.fused = l.fused ∧ ¬ (spare.fused = true ∧ spare.array = 1) ∧ ∀ z ∈ spare.entries, entryRetired s z = false
          (l.state ≠ .frozen → raises Cause.chState) ∧ (l.state = .frozen → ¬ fits → raises Cause.chPlace) ∧
          (l.state = .frozen → fits → (∃ z ∈ spare.entries, entryFree s z = false) → raises Cause.chBusy) ∧
          (l.state = .frozen → fits → (∀ z ∈ spare.entries, entryFree s z = true) → idx ≠ l.parent → ∃ u c' l', gives u { Work.none with splice := some (num, idx) } ∧
            findChain u num = some c' ∧ c'.links[idx]? = some l' ∧ l'.home = spare.home ∧ l'.die = spare.die ∧ l'.state = .built ∧ l'.recv = 0 ∧ l'.mask = 0 ∧ l'.ovr = 0 ∧
            (∀ x ∈ l'.e, x = c.e0) ∧ (∀ i j, rowWord l'.m i j = 0) ∧ l'.decl = l.decl ∧ l'.slo = l.slo ∧ l'.scnt = l.scnt ∧ l'.parent = l.parent ∧ l'.cslot = l.cslot ∧ l'.hop = l.hop ∧
            (∀ (j : Nat) (x : Link), j ≠ idx → 0 < j → c.links[j]? = some x → x.parent = idx → x.state = .done →
              ∃ x', c'.links[j]? = some x' ∧ x'.flight = some { src := incOf s x.die x.die, dst := incOf s x.die spare.die } ∧ x'.landed = false))))) ∧
    (e.instr = .chbld r a →
      let x := e.xops.get 0
      (directoryAway v.s (dieOfPlace p) = true → exec (.engineHeadStart p .matrix) s = .next v.s) ∧
      (directoryAway v.s (dieOfPlace p) = false → ∀ s2 hd, readStruct v v.s x 1 = .ok s2 hd →
        let fails := fun (u : State) (y : BitVec 10) => exec (.engineHeadStart p .matrix) s = .next (raiseHead u p .matrix v.e (.plain y))
        (headOk hd = false → fails s2 Cause.chDesc) ∧
        (headOk hd = true → ∀ s3 ls, readStruct v s2 (x + 64) ((fieldOf (hd.getD 1 0) 21 16 + 2) / 2) = .ok s3 ls →
          (∀ y, buildChain s3 g.lr.id hd ls = .error y → fails s3 y) ∧
          (∀ c, buildChain s3 g.lr.id hd ls = .ok c → gives { s3 with chains := s3.chains ++ [c], fresh := s3.fresh + 1 } Work.none ∧ findChain s3 c.num = none ∧
            c.owner = g.lr.id ∧ c.num = (hd.getD 1 0).extractLsb' 0 12 ∧ c.links.length = fieldOf (hd.getD 1 0) 21 16 + 1 ∧
            ∀ l ∈ c.links, l.state = .built ∧ l.recv = 0 ∧ l.mask = 0 ∧ l.ovr = 0 ∧ (∀ y ∈ l.e, y = c.e0) ∧ (∀ i j, rowWord l.m i j = 0) ∧ 0 < l.decl.toNat)))) ∧
    (e.instr = .chclose r ev d4 a b keep 0 chain out smode qt cr →
      (findChain s chain = none → exec (.engineHeadStart p .matrix) s = .next v.s) ∧
      (∀ (c : Chain) (l : Link), findChain s chain = some c → (c.owner ≠ g.lr.id → raises Cause.chOwner) ∧
        (c.owner = g.lr.id → out.toNat < 13 → c.links.head? = some l →
          let tiles := Nat.max 1 (l.ncol * tagWidth out / 1024)
          let frozen := ∃ x ∈ c.links, x.state = .frozen
          let ready := l.state = .done ∧ (c.isTree l = true → l.noded = true)
          (l.coreId ≠ coreOf p → raises Cause.chNotroot) ∧ (l.coreId = coreOf p → frozen → raises Cause.chFrozen) ∧
          (l.coreId = coreOf p → ¬ frozen → ¬ ready → exec (.engineHeadStart p .matrix) s = .next v.s) ∧
          (l.coreId = coreOf p → ¬ frozen → ready → c.satok = false → l.ovr ≠ 0 → raises Cause.chOverflow) ∧
          (l.coreId = coreOf p → ¬ frozen → ready → (c.satok = true ∨ l.ovr = 0) →
            (4 < d4.toNat + tiles → raises Cause.opRange) ∧
            (d4.toNat + tiles ≤ 4 → unitsFree v.s p v.e = true → smode = 0 →
              let scale := FFmt.fp32.decode ((e.xops.get 0).extractLsb' 0 32).toNat
              let value := fun (i j : Nat) => if c.tf = 0 then w48Value (rowWord l.m i j) (l.e.getD i 0) else (treeFmt c.tf).decode (rowWord l.m i j).toNat
              let hash := fun (i j : Nat) => if e.rs.mode = 5 then dsrHash e.rs.seed (BitVec.ofNat 32 i) (BitVec.ofNat 32 j) (c.num.zeroExtend 32) else 0
              let rnd := fun (i j : Nat) => ({ mode := e.rs.mode, ovf := e.rs.ovf, hash := hash i j } : Rnd)
              ∃ u rows, gives u { Work.none with close := some (c.num, c.born, keep == 1), tw := closeTiles d4 out l.ncol rows } ∧ rows.length = 64 ∧ u.chains = s.chains ∧
                (∀ x ∈ closeTiles d4 out l.ncol rows, x.2.tag = out ∧ x.2.full = true) ∧
                (tagBlock out = false → ∀ i row, rows[i]? = some row → row.scs = [] ∧ row.els.length = l.ncol ∧ ∀ j < l.ncol, row.els.getD j 0 =
                  (if out = 1 then (roundInt 32 (rnd i j) (Val.mul (value i j) scale)).toNat else if out = 2 then (roundInt 8 (rnd i j) (Val.mul (value i j) scale)).toNat
                   else if out = 12 then (roundInt 16 (rnd i j) (Val.mul (value i j) scale)).toNat else (tagFmt out).round (rnd i j) (Val.mul (value i j) scale))))))))

/-- CPY, CPYW, STGNX, the scatter commands and COLLD, COLGO, COLWAIT enter their queues; CPSTAT reads a channel. At the head CPY and CPYW start one copy with the
bytes of its source, and SAQ and SAHIST leave one pending update for each word of each window of 64 active entries. The alignment of a SAQ base whose FMT has no
one width is log 65's, what a poisoned copy leaves in a tile log 46's. (R40, R288, R289, R290, R291, R292, R293, R294, R296, R297, R298, R300) -/
def Obligations.CopyScatterAndCollectiveCommandsComplete : Prop :=
  (∀ (s : State) (g : Group) (r ev d x fmt : BitVec 4) (a b c fa fv rd : BitVec 6) (ch p : BitVec 3) (dk sk k : BitVec 1) (op : BitVec 2) (lim : BitVec 12) (roles : List StreamId) (ring : BitVec 4),
    CanRun s g roles ring → (s.here g).fulls [a, b, c, fa, fv, rd] →
    let X := fun (i : BitVec 6) => (s.here g).getX i
    let q := if s.curStream = .str then QueueId.storer else .loader
    let side := fun (kind : BitVec 1) (n : BitVec 4) => if kind = 0 then CopySide.shape (g.h.get n.toFin) else .tile (n.extractLsb' 0 2)
    let hs := (if dk = 0 then [g.h.get d.toFin] else []) ++ (if sk = 0 then [g.h.get x.toFin] else [])
    let spec := fun (flag : Option (BitVec 64 × BitVec 64)) => ({ chan := ch, dst := side dk d, src := side sk x, od := X b, os := X c, bar := none, flag := flag } : CopySpec)
    let nid := (g.chans.get ch.toFin).nextid
    let traps := fun (j : Instr) (y : Trap) => exec j s = .next (s.traps g y)
    let gives := fun (z : QueueId) (j : Instr) (xs : List (BitVec 64)) => exec j s = .next (s.queued g z j xs [] 0 id)
    let copy := fun (j : Instr) (flag : Option (BitVec 64 × BitVec 64)) (xs : List (BitVec 64)) =>
      (∀ y, copyTrap (spec flag) = some y → traps j y) ∧
      (copyTrap (spec flag) = none → nid = BitVec.allOnes 48 → traps j (.plain Cause.opRange)) ∧
      (copyTrap (spec flag) = none → nid ≠ BitVec.allOnes 48 → exec j s = .next (s.queued g q j xs hs nid
        (fun h => { h with chans := h.chans.set ch.toNat { h.chans.get ch.toFin with nextid := nid + 1 } ch.isLt })))
    (roles = [.ldr, .str] → ring = 0 → (g.queue q).length < 16 →
      copy (.cpy r ev d x a ch dk sk b c) none [X a, X b, X c] ∧ copy (.cpyw r ev d x a ch dk sk b c fa fv) (some (X fa, X fv)) [X a, X b, X c, X fa, X fv] ∧
      gives q (.stgnx r a) [X a]) ∧
    (roles = [.vec, .ctl] → ring = 0 → (g.queue .scatter).length < 16 →
      ((X b).toNat % baseWidth fmt = 0 → gives .scatter (.saq r ev a c b p op fmt) [X b]) ∧
      ((X b).toNat % baseWidth fmt ≠ 0 → traps (.saq r ev a c b p op fmt) (Trap.at Cause.memAlign (X b) 1)) ∧
      ((X b).toNat % 4 = 0 → gives .scatter (.sahist r ev c b p lim) [X b]) ∧
      ((X b).toNat % 4 ≠ 0 → traps (.sahist r ev c b p lim) (Trap.at Cause.memAlign (X b) 1)) ∧
      gives .scatter (.safl r) [] ∧ gives .scatter (.salat r a) [X a]) ∧
    (roles = [.ctl] → ring = 0 → (g.queue .collective).length < 16 →
      gives .collective (.colld r a b) [X a, X b] ∧ gives .collective (.colgo r a b) [X a, X b] ∧ gives .collective (.colwait r a) [X a]) ∧
    (roles = anyStream →
      exec (.cpstat ring rd k ch) s = .next (s.after g ring 0 (fun t => t.setX rd ((if k = 1 then nid else (g.chans.get ch.toFin).wm).zeroExtend 64))))) ∧
  (∀ (s : State) (p : Place) (q : QueueId) (g : Group) (e : QEntry) (r ev d x : BitVec 4) (br od os fa fv : BitVec 6) (ch : BitVec 3) (dk sk wide : BitVec 1), HeadReady s p q g e →
    (q = .loader ∨ q = .storer) → e.instr = (if wide = 1 then .cpyw r ev d x br ch dk sk od os fa fv else .cpy r ev d x br ch dk sk od os) →
    let v := headEnv s p q g e
    let spec := queuedCopy e d x br ch dk sk wide
    (∀ u y, planCopy v v.s spec e.tid = .no (.trapIn u y) → exec (.engineHeadStart p q) s = .next (raiseHead u p q v.e y)) ∧
    (∀ s2 ws rs go s3 s4, planCopy v v.s spec e.tid = .ok s2 ws rs go → touchAll s2 p rs = some s3 → placed v s3 ws (fun z => .start z Work.none) = .start s4 Work.none →
      let run := (go s4).2
      exec (.engineHeadStart p q) s = .next (began (go s4).1 p q v.e { Work.none with copies := [run], cause := if run.status = 2 then some Cause.mcEcc else none }) ∧
      run.chan = ch ∧ run.tid = e.tid ∧ run.owed = 0 ∧ run.fin = false ∧ (run.barrier = none ↔ br = 0) ∧ (run.flagw = none ↔ wide = 0) ∧
      (∀ a b, spec.dst = .shape a → spec.src = .shape b → run.tile = none ∧
        let us := copyUnits (Shape.of a) (Shape.of b) (copyOrigin spec.od) (copyOrigin spec.os)
        ∃ s5 s6 sl dl, resolveAll v v.s (srcAccs us) 0 = .ok s5 sl ∧ resolveAll { v with s := s5 } s5 (dstAccs us) 1 = .ok s6 dl ∧
          let read := engineTouch s4 g.lr.asid (Shape.of b).ef false (aims sl (srcAccs us))
          let parts := unitBytes read p v.g us sl dl
          parts.map (·.unit) = us ∧
          (∀ y ∈ parts, ∀ z ∈ y.bytes, (z.src = none → z.old = 0 ∧ z.bad = false) ∧ ∀ k, z.src = some k → z.bad = locPoisoned read p v.g k ∧ (z.bad = false → z.old = locByte read p v.g k)) ∧
          ((∀ y ∈ parts, ∀ z ∈ y.bytes, z.bad = false) → run.status = 0 ∧
            ((∀ y ∈ parts, ∀ z ∈ y.bytes, ∀ y' ∈ parts, ∀ z' ∈ y'.bytes, z.src ≠ some z'.dst) →
              run.lines = parts.foldl (fun l y => y.add (Shape.of a).ef l (y.bytes.map (·.old)) (g.lr.ecc != 1#2)) []))) ∧
      (∀ a t, spec.dst = .tile t → spec.src = .shape a → run.lines = [] ∧ ∃ reg, run.tile = some (t, reg) ∧ reg.tag = (Shape.of a).tag ∧ reg.full = true))) ∧
  ∀ (s : State) (p : Place) (g : Group) (e : QEntry) (r ev fmt : BitVec 4) (x i b : BitVec 6) (pr : BitVec 3) (op : BitVec 2) (lim : BitVec 12), HeadReady s p .scatter g e →
    let v := headEnv s p .scatter g e
    let I := g.v.get i.toFin
    let V := g.v.get x.toFin
    let base := e.xops.get 0
    let raises := fun (u : State) (y : BitVec 10) => exec (.engineHeadStart p .scatter) s = .next (raiseHead u p .scatter v.e (.plain y))
    let active := (List.range 512).filter (fun k => (g.pred pr).getLsbD (2 * k))
    let word := fun (n k : Nat) => base + BitVec.ofNat 64 (k * n)
    let windows := fun (es : List ScatEntry) => (List.range ((es.length + 63) / 64)).map (fun j => (es.drop (64 * j)).take 64)
    let expands := fun (f : BitVec 4) (o : BitVec 2) (es : List ScatEntry) =>
      let n := tagWidth f / 8
      let vas := es.map (fun y => word n y.k)
      (∀ u, scatPlaced p v.g v.s vas = (u, none) → exec (.engineHeadStart p .scatter) s = .next u) ∧
      (∀ u, scatPlaced p v.g v.s vas = (u, some false) → raises u Cause.saTarget) ∧
      (∀ u s2 ls s3 h, scatPlaced p v.g v.s vas = (u, some true) →
        let accs := es.map (fun y => ({ va := word n y.k, n := n, align := 1 } : ElemAcc))
        resolveAll { v with s := u } u accs 1 = .ok s2 ls → placed v s2 (aims ls accs) (fun z => .start z Work.none) = .start s3 Work.none → s3.group p = some h →
        ∃ ups : List ScatUpd, exec (.engineHeadStart p .scatter) s = .next (began (s3.setGroup p { h with scat := h.scat ++ ups }) p .scatter v.e Work.none) ∧
          ups.map (fun y => (y.va, y.v)) = ((windows es).flatMap (mergeWindow f o)).map (fun y => ((word n y.k).toNat, BitVec.ofNat 32 y.v)) ∧
          ∀ y ∈ ups, y.fmt = f ∧ y.op = o ∧ y.cmd = e.id ∧ y.stream = e.stream ∧ y.afterLd = e.afterLd)
    let values := fmt = 1 ∨ fmt = 3 ∨ fmt = 4 ∨ fmt = 5 ∨ fmt = 12
    (e.instr = .saq r ev x i b pr op fmt →
      (I.tag ≠ 1 → raises v.s Cause.tagMismatch) ∧ (I.tag = 1 → 13 ≤ fmt.toNat → raises v.s Cause.tagRsvd) ∧
      (I.tag = 1 → fmt.toNat < 13 → ¬ (values ∧ V.tag = fmt) → raises v.s Cause.tagMismatch) ∧
      (I.tag = 1 → values → V.tag = fmt → expands fmt op (active.map (fun k => { k := elemAt I.data 32 k, v := elemAt V.data (tagWidth fmt) k })))) ∧
    (e.instr = .sahist r ev i b pr lim → (I.tag ≠ 1 → raises v.s Cause.tagMismatch) ∧
      (I.tag = 1 → expands 1 0 (((active.map (fun k => elemAt I.data 32 k)).filter (fun k => lim == 0 || decide (k < lim.toNat))).map (fun k => { k := k, v := 1 })))) ∧
    (∀ (f : BitVec 4) (o : BitVec 2) (w : List ScatEntry), (mergeWindow f o w).map (·.k) = (w.map (·.k)).eraseDups ∧
      ∀ y ∈ mergeWindow f o w, ∃ first more, (w.filter (fun z => z.k == y.k)).map (·.v) = first :: more ∧ y.v = more.foldl (scatMerge f o) first)

/-- A cause raised in a running group stops it: the generation rises and the trap record begins, and the stream that raised it issues no more; a later cause
raises MORE and sets CAUSE2. Of the causes of one cycle the first in the order of R389 is the primary and the second is CAUSE2. (R383, R386, R388, R389) -/
def Obligations.RaisingACauseBeginsTheCut : Prop :=
  ∀ (s : State) (p : Place) (g : Group) (w : RaisedAt) (x : Trap), s.group p = some g →
    let rank := causeRank w.queue.isSome (match w.queue with | some q => BitVec.ofNat 3 q.toFin.val | none => 7) w.stream
    let up := fun (n : BitVec 8) => if n = 255 then n else n + 1
    ((s.slot p).state = .running → g.stopping = .no → (s.slot p).dbg.att = false →
      ∃ g' c, raise s p w x = s.setSlot p { s.slot p with group := some g', gen := (s.slot p).gen + 1, state := .fencing, preempting := false, cutNow := s.inCycle } ∧
        g'.stopping = .trap c ∧
        c.cause = x.cause ∧ c.info0 = x.info0 ∧ c.lvl = x.lvl ∧ c.kind = x.kind ∧ c.stream = w.stream ∧ c.fpc = w.fpc ∧ c.async = w.async ∧
        c.isq = w.queue.isSome ∧ c.hdl = g.trapped.isSome ∧ c.more = 0 ∧ c.cause2 = 0 ∧
        (w.queue = none → canIssue ((raise s p w x).slot p) g' w.stream = false) ∧
        (∀ st, (g.stream st).atSlice = false → (g'.stream st).took = none ∧ (s.inCycle = false → canIssue ((raise s p w x).slot p) g' st = false)) ∧
        (∀ q, (s.inCycle = false → mayStart ((raise s p w x).slot p) g' q = false) ∧ ∀ e ∈ g'.queue q, e.started = false → e.took = false) ∧
        (∀ st, (g'.stream st).x = (g.stream st).x ∧ ((g.stream st).waiting = none → (g'.stream st).full = (g.stream st).full) ∧
          (g'.stream st).pc = (g.stream st).pc ∧ (g'.stream st).npc = (g.stream st).npc ∧ (g'.stream st).seq = (g.stream st).seq) ∧
        g'.v = g.v ∧ g'.t = g.t ∧ g'.p = g.p ∧ g'.h = g.h ∧ g'.ev = g.ev ∧ g'.qdone = g.qdone ∧ g'.qacc = g.qacc) ∧
    (∀ c, (s.slot p).state ≠ .halted → g.stopping = .trap c →
      ∃ g' c', raise s p w x = s.setGroup p g' ∧ g'.stopping = .trap c' ∧ c'.more = up c.more ∧
        g'.v = g.v ∧ g'.t = g.t ∧ (∀ st, (g'.stream st).x = (g.stream st).x ∧ (g'.stream st).pc = (g.stream st).pc) ∧
        (((s.slot p).cutNow = false ∨ causeRank c.isq c.queue c.stream ≤ rank) →
          let second := c.cause2 = 0 ∨ ((s.slot p).cutNow = true ∧ rank < c.rank2)
          (second → c' = { c with more := up c.more, cause2 := x.cause, rank2 := rank }) ∧ (¬ second → c' = { c with more := up c.more })) ∧
        ((s.slot p).cutNow = true → rank < causeRank c.isq c.queue c.stream →
          c'.cause = x.cause ∧ c'.info0 = x.info0 ∧ c'.stream = w.stream ∧ c'.fpc = w.fpc ∧ c'.isq = w.queue.isSome ∧ c'.cause2 = c.cause ∧
          c'.rank2 = causeRank c.isq c.queue c.stream))

/-- TRAP and BRK retire, going on to NPC, and raise their cause. TRET ends a handler group: it waits for the group's scratchpad stores and its releases (log 32), for
the frames and the banks of the image's pages and for the other traps of its cycle, then checks the image (log 48). An undecodable word raises its encoding cause.
(R68, R71, R102, R165, R206, R210, R211, R383, R385, R392, R407) -/
def Obligations.TrapInstructionsComplete : Prop :=
  (∀ (s : State) (g : Group) (r : BitVec 4) (n : BitVec 9) (k : BitVec 12), CanRun s g anyStream r →
    let e := s.env g r
    let u := retire (e.s.setGroup s.curPlace (e.g.setStream s.curStream (e.t.land.goto e.t.npc (lengthAt e.s s.curPlace e.g e.t.land e.t.npc)))) s.curPlace s.curStream r 0
    let raises := fun (c : BitVec 10) (i : BitVec 64) => (.next (raise u s.curPlace { stream := s.curStream, queue := none, async := false, fpc := (s.here g).pc }
      { cause := c, info0 := i, lvl := 0, kind := 0 }) : Host.Outcome State Fault Refusal)
    exec (.trap r n) s = raises Cause.trapInsn (n.zeroExtend 64) ∧
    exec (.brk r k) s = raises (if (s.slot s.curPlace).dbg.att then Cause.brkHit else Cause.brkNodbg) (k.zeroExtend 64) ∧
    (g.trapped = none → exec (.tret r) s = .next (s.traps g (.plain Cause.priv))) ∧
    (∀ x : Trapped, g.trapped = some x →
      let spad := fun (l : Loc) => match l with | .spad _ => true | .mem _ => false
      let stopped := match g.stopping with | .trap _ => true | _ => false
      let waits := stopped || StreamId.all.any (fun st => (e.g.stream st).stores.any (fun q => q.parts.any (fun y => spad y.loc ||
        (match y.scale with | some z => spad z.loc | none => false)))) || !releaseDone e.s e.p e.t 4 || bankLocked e.s e.p none 0x200000 objLen
      let dead := imageDead e.s e.p e.g
      let pages := readyPages e.s e.p e.g ((List.range 4).map (fun i => .spad (0x200000 + 65536 * i)))
      (waits = true → (s.slot s.curPlace).cutNow = false → exec (.tret r) s = .next (s.began g r)) ∧
      (waits = false → ∀ off, dead = some off → exec (.tret r) s = .next (s.traps g (Trap.at Cause.paNodie (BitVec.ofNat 64 (windowBase + off)) 0))) ∧
      (waits = false → dead = none → (s.slot s.curPlace).cutNow = false → ∀ s0, pages = .wait s0 → exec (.tret r) s = .next s0) ∧
      (waits = false → dead = none → ∀ s0, pages = .ready s0 →
        let w := writeImage s0 s.curPlace e.g x.frame
        (imageOk w (objPages x.frame) = false → exec (.tret r) s = .next (s.trapsIn s0 g (.plain Cause.coDesc))) ∧
        (imageOk w (objPages x.frame) = true → (s.slot s.curPlace).state = .running → g.stopping = .no →
          ∃ t g', exec (.tret r) s = .next t ∧ t.group s.curPlace = some g' ∧ g'.stopping = .tret ∧ g'.trapped = some x ∧
            (t.slot s.curPlace).state = .fencing ∧ (t.slot s.curPlace).gen = (s.slot s.curPlace).gen + 1 ∧ t.mem = w.mem ∧ t.poison = w.poison ∧
            (s.here g').seq = (s.here g).seq + 1 ∧ g'.v = g.v ∧ g'.t = g.t)))) ∧
  (∀ (s : State) (g : Group), s.group s.curPlace = some g → canIssue (s.slot s.curPlace) g s.curStream = true →
    let raises := fun (x : EncError) (c : BitVec 10) => exec (.illegalEncoding x) s = .next (s.traps g (.plain c))
    raises .zero Cause.encZero ∧ raises .perm Cause.encPerm ∧ raises .major Cause.encMajor ∧ raises .func Cause.encFunc ∧ raises .rsvd Cause.encRsvd)

/-- CUT_COMPLETE delivers a complete cut: to the debugger, to the host, to the handler, to the management core, or back from TRET; and it halts a group whose halt has
been asked for once the accesses of its streams are complete. (R386, R388, R390, R391, R392, R394, R395, R404) -/
def Obligations.CompleteCutsAreDelivered : Prop :=
  ∀ (s : State) (p : Place) (g : Group), s.group p = some g →
    let sl := s.slot p
    let frame := sl.latched.savePa
    (∀ c, g.stopping = .trap c → isEnding s g = false →
      (sl.dbg.att = true → sl.pending = false → sl.preempting = false → streamsQuiet s p g = true →
        ∃ t, exec (.cutComplete p) s = .next t ∧ (t.slot p).state = .halted ∧ (t.slot p).dbg.halted = true ∧ (t.slot p).dbg.reason = c.cause ∧
          (t.slot p).dbg.record = trapRecord g c ∧ t.mem = s.mem) ∧
      (sl.dbg.att = false → groupQuiet s p g = false → exec (.cutComplete p) s = .next s) ∧
      (sl.dbg.att = false → groupQuiet s p g = true → g.scat = [] → g.trapped = none →
        let x : Trapped := { frame := frame, core := coreOf p, dw0 := (sl.latched.setClass g.cls).dw0, gindex := g.gindex, cause := c.cause }
        let w := freeSlot (writeFrame s p g frame (some (trapRecord g c))) p
        let d := dieOfCore (coreOf p)
        (∀ u m fs u2, g.lr.handler ≠ 0 → frame ≠ 0 → coreObject w d g.lr.asid g.lr.handler 0 = (u, some m) → headPoisoned u m = false →
          headerCheck u m g.lr.asid (fun r => r.getLsbD 0 && r.getLsbD 1) ((objDword u m 0x10).extractLsb' 0 32) = none →
          takeFrames (((readPages u m).toList.zipIdx.filter (fun e => e.1.alloc && !imagePage e.2)).length + 4) u d = some (fs, u2) →
          exec (.cutComplete p) s = .next { u2 with dawn := { u2.dawn with
            waiting := u2.dawn.waiting ++ [.resume g.lr.id m g.cls false fs d true (some x) u2.dawn.accepted none], accepted := u2.dawn.accepted + 1 } }) ∧
        (g.lr.handler = 0 → frame ≠ 0 → msplitBit s 4 = true →
          ∃ t q, exec (.cutComplete p) s = .next t ∧ t.group p = none ∧ t.dawn.forwarded = s.dawn.forwarded ++ [{ seq := q, grp := x, lid := g.lr.id }] ∧
            (∃ f, t.dawn.out.getLast? = some f ∧ f.payload = [0x09#8 ++ 0#24 ++ q, BitVec.ofNat 64 frame])) ∧
        (frame = 0 → ∃ t, exec (.cutComplete p) s = .next t ∧ ∀ l, findLaunch t g.lr.id = some l → l.ending = some c.cause))) ∧
    (∀ x, g.stopping = .tret → g.trapped = some x → isEnding s g = false →
      ((groupQuiet s p g = false ∨ g.scat ≠ []) → exec (.cutComplete p) s = .next s) ∧
      (groupQuiet s p g = true → g.scat = [] → ∃ t, exec (.cutComplete p) s = .next t ∧ t.group p = none ∧
        t.dawn.waiting = s.dawn.waiting ++ [.saved g.lr.id x.gindex x.frame x.core x.dw0 none])) ∧
    (∀ reason, g.stopping = .no → g.halt = .asked reason →
      (streamsQuiet s p g = false → exec (.cutComplete p) s = .next s) ∧
      (streamsQuiet s p g = true → ∃ t g', exec (.cutComplete p) s = .next t ∧ t.group p = some g' ∧ (t.slot p).state = .halted ∧ (t.slot p).dbg.halted = true ∧
        (t.slot p).dbg.reason = reason ∧ t.mem = s.mem ∧ g'.v = g.v ∧ g'.t = g.t ∧ g'.halt = .none ∧
        ∀ st, (g'.stream st).x = (g.stream st).x ∧ (g'.stream st).pc = (g.stream st).pc))

/-- The watchdogs raise WATCHDOG at their limit (logs 32 and 35) at a stream or head that has raised no cause of the cut in progress; HREQ of a debug block asks a running, held
or binding group to halt, and RUN sets a halted one going, or back to being held (log 76). (R306, R399, R401, R402, R403, R404, R405) -/
def Obligations.WatchdogAndDebugEventsComplete : Prop :=
  ∀ (s : State) (p : Place) (g : Group), s.group p = some g →
    (∀ st, (s.slot p).state = .running →
      let t := g.stream st
      (t.ended = false → t.raised = false → t.limit ≤ t.wdcnt → exec (.watchdogStream p st) s = .next (raise s p { stream := st, queue := none, async := false, fpc := t.pc }
        { cause := Cause.watchdog, info0 := BitVec.ofNat 64 t.limit, lvl := 0, kind := 0 })) ∧
      ((t.wdcnt < t.limit ∨ t.raised = true) → exec (.watchdogStream p st) s = .next s)) ∧
    (∀ q, (s.slot p).state = .running →
      let waiting := (queueHead (g.queue q)).toList ++ (g.queue q).filter (fun e => e.started && !e.done && (match e.work with | some w => w.await.isSome | none => false))
      let late := fun (e : QEntry) => !e.raised && decide ((g.stream e.stream).limit ≤ e.headCnt)
      (∀ e, waiting.find? late = some e → exec (.watchdogQueueHead p q) s =
        .next (raiseHead (s.setGroup p (g.mapEntry q e.id (fun e => { e with headCnt := 0 }))) p q e (.plain Cause.watchdog))) ∧
      (waiting.find? late = none → exec (.watchdogQueueHead p q) s = .next s)) ∧
    (((s.slot p).state = .running ∨ (s.slot p).state = .held) → g.stopping = .no → g.halt = .none → (∀ st, (g.stream st).atSlice = false) →
      ∃ t g', exec (.debugHaltRequest p) s = .next t ∧ t.group p = some g' ∧ (t.slot p).state = (s.slot p).state ∧ g'.halt = .asked Cause.dbgHalt ∧
        g'.stopping = .no ∧ t.mem = s.mem ∧ g'.v = g.v ∧ g'.t = g.t ∧
        ∀ st, (g'.stream st).x = (g.stream st).x ∧ (g'.stream st).pc = (g.stream st).pc ∧ canIssue (t.slot p) g' st = false) ∧
    (∀ q : Place, s.group q = none → (s.slot q).state = .binding →
      exec (.debugHaltRequest q) s = .next (s.setSlot q { s.slot q with dbg := { (s.slot q).dbg with hreq := true } })) ∧
    ((s.slot p).state = .halted → (∀ st, (g.stream st).atSlice = false) →
      let step := (s.slot p).dbg.step
      let named := fun (st : StreamId) => step.getLsbD st.toFin.val && !(g.stream st).ended
      (step = 0 ∨ (∃ st, named st = true)) →
        ∃ t g', exec (.debugRun p) s = .next t ∧ t.group p = some g' ∧ (t.slot p).state = (if (s.slot p).latched.hold then .held else .running) ∧
          (t.slot p).dbg.halted = false ∧ g'.stopping = .no ∧
          (t.slot p).dbg.stepping = decide (step ≠ 0) ∧ g'.v = g.v ∧ (∀ st, (g'.stream st).pc = (g.stream st).pc) ∧
          (step ≠ 0 → ∀ st, named st = false → canIssue (t.slot p) g' st = false) ∧
          (g.halt = .none → (s.slot p).latched.hold = false → ∀ st, (g.stream st).ended = false → (g.stream st).faults = [] → (g.stream st).npcOpen = false →
            (step = 0 ∨ named st = true) → canIssue (t.slot p) g' st = true))

/-- SUSPEND begins a suspension (log 51) that SUSPEND_SEAL seals, RESUME queues a resume, DISCARD closes an object; a GANG launch raises CO_GANG. (R312, R313, R314,
R315, R383) -/
def Obligations.ContinuationInstructionsComplete : Prop :=
  ∀ (s s2 : State) (g : Group) (r : BitVec 4) (a b : BitVec 6) (m : List Nat), CanRun s g [.ctl] r → (s.here g).fulls [a, b] →
    let e := s.env g r
    let A := (s.here g).getX a
    let B := (s.here g).getX b
    let traps := fun (j : Instr) (y : BitVec 10) => exec j s = .next (s.traps g (.plain y))
    let trapsIn := fun (j : Instr) (u : State) (y : BitVec 10) => exec j s = .next (s.trapsIn u g (.plain y))
    let done := fun (j : Instr) (u : State) => exec j s = .next (u.finishAt s.curPlace s.curStream r 0)
    let h2 := headTouch s2 e A m true
    (B.toNat / 16 ≠ 0 → traps (.suspend r a b) Cause.opRange) ∧ (B.toNat / 2 ^ 33 ≠ 0 → traps (.resume r a b) Cause.opRange) ∧
    (B.toNat / 2 ^ 32 ≠ 0 → traps (.discard r a b) Cause.opRange) ∧
    (A.toNat % 4096 ≠ 0 → (B.toNat / 16 = 0 → trapsIn (.suspend r a b) (s.began g r) Cause.coPlace) ∧
      (B.toNat / 2 ^ 33 = 0 → trapsIn (.resume r a b) (s.began g r) Cause.coPlace) ∧ (B.toNat / 2 ^ 32 = 0 → trapsIn (.discard r a b) (s.began g r) Cause.coPlace)) ∧
    (placeObj e A = .ok s2 m →
      (B.toNat / 16 = 0 →
        (g.lr.gang = true → trapsIn (.suspend r a b) s2 Cause.coGang) ∧
        (g.lr.gang = false → holdsLink s2 g.lr.id g.gindex = true → trapsIn (.suspend r a b) s2 Cause.coLink) ∧
        (g.lr.gang = false → holdsLink s2 g.lr.id g.gindex = false → (s.slot s.curPlace).cutNow = false → s2.group s.curPlace = some e.g → (s2.slot s.curPlace).gen = (s.slot s.curPlace).gen →
          ∃ t g', exec (.suspend r a b) s = .next t ∧ t.group s.curPlace = some g' ∧ (∃ k, g'.stopping = .suspend A (B.extractLsb' 0 4) m k) ∧
            (t.slot s.curPlace).state = .fencing ∧ (t.slot s.curPlace).gen = (s.slot s.curPlace).gen + 1 ∧
            t.mem = (objWrite8 h2 m 0x10 (3#2 ++ (objDword h2 m 0x10).extractLsb' 0 62)).mem)) ∧
      (B.toNat / 2 ^ 33 = 0 → releaseDone s2 e.p e.t 4 = true → headPoisoned s2 m = false → ∀ fs s3,
        let copy := decide (A ≠ objDword h2 m 0x20)
        let right := fun (k : BitVec 4) => k.getLsbD 0 && (!copy || k.getLsbD 1) && (!B.getLsbD 32 || k.getLsbD 3)
        let frames := takeFrames (if copy then ((readPages h2 m).toList.filter (fun x => x.alloc)).length else 0) h2 (dieOfPlace s.curPlace)
        (frames = none → trapsIn (.resume r a b) h2 Cause.spPool) ∧
        (frames = some (fs, s3) →
          (headerCheck h2 m g.lr.asid right (B.extractLsb' 0 32) = none →
            let q := queueResume (closeHeader s3 m 1) m (B.getLsbD 32) copy fs (dieOfPlace s.curPlace) s3.dawn.accepted
              (some (dieOfPlace s.curPlace, g.lr.asid, A.toNat))
            done (.resume r a b) { q with dawn := { q.dawn with accepted := q.dawn.accepted + 1 } }) ∧
          (∀ c, headerCheck h2 m g.lr.asid right (B.extractLsb' 0 32) = some c → trapsIn (.resume r a b) h2 c))) ∧
      (B.toNat / 2 ^ 32 = 0 → headPoisoned s2 m = false →
        (headerCheck h2 m g.lr.asid (fun k => k.getLsbD 2) (B.extractLsb' 0 32) = none → done (.discard r a b)
          (launchEnd (returnPages (closeHeader h2 m 2) (if A = objDword h2 m 0x20 then (readPages h2 m).toList else [])) (objDword h2 m 0x28))) ∧
        (∀ c, headerCheck h2 m g.lr.asid (fun k => k.getLsbD 2) (B.extractLsb' 0 32) = some c → trapsIn (.discard r a b) h2 c))) ∧
    (∀ (p : Place) (h : Group) (va : BitVec 64) (mask : BitVec 4) (pages : List Nat) (ph : Nat), s.group p = some h → h.stopping = .suspend va mask pages ph →
      (groupQuiet s p h = false → exec (.suspendSeal p) s = .next s) ∧
      (groupQuiet s p h = true → drained h .loader = true → drained h .storer = true → drained h .scatter = true → h.scat = [] →
        canPlace h .ctl ((h.stream .ctl).took.getD 0) = true →
        exec (.suspendSeal p) s = .next (sealObject s p (cancelAll (placeTok (h.setStream .ctl (advance s p h (h.stream .ctl)).retireCounts) .ctl
          ((h.stream .ctl).took.getD 0) (h.stream .ctl).fenced)) va mask pages)))

/-- STORE_PERFORM, CLUSTER_BUFFER_DRAIN, SCATTER_UPDATE and SCRATCHPAD_FRAME_FILL write the bytes they name and no other byte, the error log apart, where a line is
poisoned; a write waits for a link that is being retrained. (R67, R68, R86, R87, R88, R101, R298, R409, R430) -/
def Obligations.WritesReachTheirHomePoints : Prop :=
  ∀ (s : State) (p : Place), memOk s →
    let memory := fun (pa : Nat) => (region s pa).isHbm = true ∨ (region s pa).isAttic = true
    let only := fun (t : State) (bs : List (Nat × Byte)) =>
      (∀ x ∈ bs, homeByte t x.1 = x.2) ∧ ∀ a, (∀ x ∈ bs, x.1 ≠ a) → keySettled s a → (s.poison = [] ∨ a / 2 ^ 48 ≠ 8) → homeByte t a = homeByte s a
    (∀ (st : StreamId) (g : Group) (q : StoreReq) (rest : List StoreReq) (pa va : Nat) (bs : List Byte), s.group p = some g → (g.stream st).stores = q :: rest →
      q.parts = [{ loc := .mem pa, va := va, op := .write bs, scale := none }] → q.entry = none → memory pa → pa % 128 + bs.length ≤ 128 →
      markClear s p { g.stream st with stores := [] } q.mark = true → q.before ≤ (g.stream st).loadsDone →
      let buf := (s.clusters.get (clusterOfPlace p)).buf
      (buf.map (·.id)).Nodup → (buf.length < 64 ∨ ∃ e ∈ buf, e.line = pa / 128) →
      ∃ t g', exec (.storePerform p (.stream st) 0) s = .next t ∧ t.group p = some g' ∧ (g'.stream st).stores = rest ∧ (g'.stream st).x = (g.stream st).x ∧
        (∀ a, homeByte t a = homeByte s a) ∧ (∀ k, k < bs.length → bufByte t (clusterOfPlace p) (pa + k) = bs[k]?) ∧
        ∀ a, (a < pa ∨ pa + bs.length ≤ a) → bufByte t (clusterOfPlace p) a = bufByte s (clusterOfPlace p) a) ∧
    (∀ (cl : ClusterId) (k : Nat) (e : BufEntry), (s.clusters.get cl).buf[k]? = some e → e.mates = [] → ((s.clusters.get cl).buf.map (·.id)).Nodup →
      memory (128 * e.line) → (∀ x ∈ e.bytes, x.1 < 128) → (e.bytes.map (·.1)).Nodup →
      let held := farHeld s ⟨cl.val / 8, by omega⟩ (128 * e.line)
      (held = true → exec (.clusterBufferDrain cl k) s = .next s) ∧
      (held = false → ∃ t, exec (.clusterBufferDrain cl k) s = .next t ∧ only t (e.bytes.map (fun x => (128 * e.line + x.1, x.2))) ∧
        (t.clusters.get cl).buf = (s.clusters.get cl).buf.eraseIdx k)) ∧
    (∀ (q : QueueId) (g : Group) (e : QEntry) (w : Work) (k line : Nat) (lw : LineWrite), s.group p = some g → (g.queue q).find? (fun x => x.id == e.id) = some e →
      e.work = some w → e.started = true → e.done = false → e.afterLd ≤ (g.stream e.stream).loadsDone → w.lines[k]? = some lw → lw.loc = .mem (128 * line) →
      lw.more = [] → lw.scales = [] → lw.poison = false → memory (128 * line) → (∀ x ∈ lw.bytes, x.1 < 128) → (lw.bytes.map (·.1)).Nodup →
      let held := farHeld s (dieOfPlace p) (128 * line)
      (held = true → exec (.storePerform p (.engine q e.id) k) s = .next s) ∧
      (held = false → ∃ t, exec (.storePerform p (.engine q e.id) k) s = .next t ∧ only t (lw.bytes.map (fun x => (128 * line + x.1, x.2))))) ∧
    (∀ (g : Group) (u : ScatUpd) (rest : List ScatUpd) (pa : Nat), s.group p = some g → g.scat = u :: rest → u.loc = .mem pa → memory pa →
      u.afterLd ≤ (g.stream u.stream).loadsDone → poisoned s pa = false → pa % scatBytes u.fmt = 0 → farHeld s (dieOfPlace p) pa = false →
      let n := scatBytes u.fmt
      ∃ t g', exec (.scatterUpdate p) s = .next t ∧ t.group p = some g' ∧ g'.scat = rest ∧
        only t ((List.range n).map (fun k => (pa + k, (leBytes n (scatMerge u.fmt u.op (leNat (homeBytes s pa n)) (u.v.toNat % 2 ^ (8 * n)))).getD k 0)))) ∧
    (∀ (g : Group) (page : Fin 64) (f : Frame), s.group p = some g → frameOf s p g page = some f → f.filling = true →
      (g.pages.get page).alloc = true → f.back = some (g.pages.get page).back →
      ∃ t, exec (.scratchpadFrameFill p page) s = .next t ∧ (∃ f', frameOf t p g page = some f' ∧ f'.filling = false) ∧ only t [] ∧
        ∀ off, pageOf off = page → keySettled s (backAddr g off) → spadByte t p g off = spadByte s p g off)

/-- MATRIX_STEP_COMPLETE and CHECKSUM_RERUN_END receive an agreeing step, whose sums enter the link as words, and make the link DONE when it has received
all it declares; they rerun or refuse a disagreeing one. ARRAY_SELF_TEST_END fences a strip. (R121, R122, R134, R141, R417, R418, R419, R420, R421, R423) -/
def Obligations.MatrixStepEventsComplete : Prop :=
  (∀ (s : State) (p : Place) (k : Nat) (g : Group) (e : QEntry) (w : StepWork) (ks : List (Nat × Nat)) (c : Chain) (l : Link), stepAt s p k = some (g, e, w) →
    e.work = some { Work.none with step := some w, locks := ks } → ((g.queue .matrix).map (·.id)).Nodup → w.self = none → w.refused = none → w.due = [] →
    findChain s w.chain = some c → c.born = w.born → c.links[w.idx]? = some l → l.home = w.home → (l.state = .built ∨ l.state = .open) →
    let core := coreOf p
    let full := l.recv + 1 = l.decl
    let ms := (List.finRange 2).filter (fun m => w.arrays.getLsbD m.val)
    let depth := stepDepth w.aTag
    let slots := ms.map (fun m => (slotBytes s core m w.slot).toArray)
    let xs := fun (r : Nat) => (List.range depth).map (fun j => elemVal w.aTag w.aData w.aSide (r * depth + j))
    let ys := fun (col : Nat) => (List.range depth).map (fun j => bValue w.bTag (slots.getD (col / 128) #[]) j (col % 128))
    let term := fun (r col : Nat) => w48Round (stepSum (depth == 64) (xs r) (ys col)) (l.e.getD r 0)
    let sum := fun (r col : Nat) => w48Add (rowWord l.m r col) (term r col).1
    let received := fun (t : State) (f : Link → Prop) => (t.cores.get core).steps = (s.cores.get core).steps + 1 ∧
      (∃ c' l', findChain t w.chain = some c' ∧ c'.links[w.idx]? = some l' ∧ l'.recv = l.recv + 1 ∧ l'.mask = l.mask ∧ l'.e = l.e ∧
        (¬ full → l'.state = .open ∧ l'.holders = l.holders ∧ l'.flight = l.flight) ∧
        (full → l'.state = .done ∧ l'.holders = [] ∧
          (w.idx ≠ 0 → l.flight = none → l.landed = false → l'.flight = some { src := incOf s l.die l.die, dst := incOf s l.die (c.dieAt l.parent) }) ∧
          (c.isTree l = true → l.noded = false → l.asks = [] → l'.asks = (c.treeKids w.idx).map (fun x =>
            (x.1, some { src := incOf s x.2.die x.2.die, dst := incOf s x.2.die l.die })))) ∧ f l') ∧
      ∀ g', t.group p = some g' → ∀ x ∈ g'.queue .matrix, x.id = e.id → x.done = true
    let clean := ∀ m : Fin 2, w.arrays.getLsbD m.val = true → slotBad s core m w.slot w.bTag = []
    (w.rerun = none → clean → ∃ t, exec (.matrixStepComplete p k 0) s = .next t ∧ received t (fun l' =>
      w.bOld = ms.map (fun m => slotBytes s core m w.slot) → (∀ m ∈ ms, ∀ i < 17408, poisoned s (slotAddr core m w.slot i) = false) →
      l.m.length = 64 → (∀ row ∈ l.m, row.length = l.ncol) → (full → c.isTree l = false) → ∀ r < 64,
        (∀ col < l.ncol, rowWord l'.m r col = (sum r col).1) ∧
        (l'.ovr.getLsbD r = true ↔ l.ovr.getLsbD r = true ∨ ∃ col < l.ncol, (term r col).2 = true ∨ (sum r col).2 = true))) ∧
    (∀ bad, w.rerun = none → badSites w.arrays bad ≠ [] →
      (rereadA s p g e w = none → exec (.matrixStepComplete p k bad) s = .next s) ∧
      (∀ a, rereadA s p g e w = some a → ∃ t g' e' w', exec (.matrixStepComplete p k bad) s = .next t ∧ t.chains = a.s.chains ∧
        stepAt t p k = some (g', e', w') ∧ w'.rerun = some bad ∧ w'.aData = a.data ∧ w'.aSide = a.side ∧ w'.chain = w.chain ∧
        (a.bad ≠ [] → g.lr.ecc ≠ 1#2 → w'.refused = some Cause.mcEcc))) ∧
    (∀ old, w.rerun = some old → clean → ∃ t, exec (.checksumRerunEnd p k 0) s = .next t ∧ received t (fun _ => True)) ∧
    (∀ old bad, w.rerun = some old → badSites w.arrays bad ≠ [] → (s.slot p).state = .running → g.stopping = .no →
      ∃ t g' c' l' cut, exec (.checksumRerunEnd p k bad) s = .next t ∧ findChain t w.chain = some c' ∧ c'.links[w.idx]? = some l' ∧ l'.state = .frozen ∧
        l'.flight = none ∧ t.group p = some g' ∧ g'.stopping = .trap cut ∧ cut.cause = Cause.mcCksum ∧ cut.isq = true ∧
        ∀ x ∈ g'.queue .matrix, x.id = e.id → x.started = false)) ∧
  (∀ a b : BitVec 48,
    let sum := a.toInt + b.toInt
    let top : Int := 2 ^ 47 - 1
    ((a = w48Nan ∨ b = w48Nan) → w48Add a b = (w48Nan, false)) ∧
    (a ≠ w48Nan → b ≠ w48Nan → (-top ≤ sum → sum ≤ top → (w48Add a b).1.toInt = sum ∧ (w48Add a b).2 = false) ∧
      (top < sum → (w48Add a b).1.toInt = top ∧ (w48Add a b).2 = true) ∧ (sum < -top → (w48Add a b).1.toInt = -top ∧ (w48Add a b).2 = true))) ∧
  (∀ (neg : Bool) (m : Nat) (f : Int) (e : BitVec 16),
    let q := e.toInt - 32
    let n := if q ≤ f then m * 2 ^ (f - q).toNat else m
    let d := if q ≤ f then 1 else 2 ^ (q - f).toNat
    let signed := fun (k : Nat) => if neg then -(k : Int) else (k : Int)
    w48Round .nan e = (w48Nan, false) ∧
    ∃ k : Nat, 2 * (k * d) ≤ 2 * n + d ∧ 2 * n ≤ 2 * (k * d) + d ∧ (2 * (k * d) = 2 * n + d ∨ 2 * n = 2 * (k * d) + d → k % 2 = 0) ∧
      (k ≤ 2 ^ 47 - 1 → (w48Round (.fin neg m f) e).1.toInt = signed k ∧ (w48Round (.fin neg m f) e).2 = false) ∧
      (2 ^ 47 - 1 < k → (w48Round (.fin neg m f) e).1.toInt = signed (2 ^ 47 - 1) ∧ (w48Round (.fin neg m f) e).2 = true)) ∧
  (∀ xs ys : List Val,
    let ps := List.zipWith Val.mul xs ys
    let finite := (∀ x ∈ xs, x.isFin = true) ∧ ∀ y ∈ ys, y.isFin = true
    (¬ finite → ∀ al, stepSum al xs ys = .nan) ∧
    (finite → (∀ low : Int, low ≤ 0 → (∀ x ∈ ps, low ≤ x.dyad.e) →
        let units := fun (x : Val) => x.dyad.i * 2 ^ (x.dyad.e - low).toNat
        units (stepSum false xs ys) = (ps.map units).sum) ∧
      (∀ top : Int, (∃ n m e, Val.fin n m e ∈ ps ∧ m ≠ 0 ∧ log2Of m e = top) → (∀ n m e, Val.fin n m e ∈ ps → m ≠ 0 → log2Of m e ≤ top) →
        let cut := fun (x : Val) => match x with
          | .fin n m e =>
            let k : Nat := if top - 46 ≤ e then m * 2 ^ (e - (top - 46)).toNat else m / 2 ^ (top - 46 - e).toNat
            if n then -(k : Int) else k
          | _ => 0
        (stepSum true xs ys).dyad = { i := (ps.map cut).sum, e := top - 46 }))) ∧
  (∀ (s : State) (core : CoreId) (m : Fin 2) (bad : BitVec 4),
    let h := healthOf s core m
    let fence := fun (j : Nat) => bad.getLsbD j = true ∨ ∃ u ∈ h.under, u.toNat = j
    h.test = true → ∃ t, exec (.arraySelfTestEnd core m bad) s = .next t ∧ (healthOf t core m).test = false ∧ (healthOf t core m).under = [] ∧
      ((∀ j, j < 4 → ¬ fence j) → (healthOf t core m).ret = h.ret ∧ (healthOf t core m).spu = h.spu) ∧
      (∀ j : Fin 4, fence j.val → (∀ i, i < 4 → i ≠ j.val → ¬ fence i) → h.spu = false → (healthOf t core m).spu = true ∧ (healthOf t core m).scg.toNat = j.val ∧
        (healthOf t core m).ret = h.ret) ∧
      (∀ j : Fin 4, fence j.val → (h.spu = true ∨ ∃ i, i < 4 ∧ i ≠ j.val ∧ fence i) → (healthOf t core m).ret = true))

/-- LINK_FORWARD_RECEIVE and LINK_NOTICE_RECEIVE bring a link's contribution to its parent, which becomes DONE with the last it declares and sends on; they
wait at a parent that cannot take it, and discard a stale one. NODE_READ_RECEIVE brings a tree child's node words, LINK_FREEZE freezes a link. (R134, R142, R146,
R147, R157, R159, R408, R423, R424, R425, R428) -/
def Obligations.LinkEventsComplete : Prop :=
  (∀ (s : State) (num : BitVec 12) (i : Nat) (c : Chain) (l : Link), findChain s num = some c → c.links[i]? = some l →
    (l.state = .frozen → exec (.linkFreeze num i) s = .next s) ∧
    (l.state ≠ .frozen → ∃ t c' l', exec (.linkFreeze num i) s = .next t ∧ findChain t num = some c' ∧ c'.links[i]? = some l' ∧ l'.state = .frozen ∧
      (l.fused = false → l'.lasting.getLsbD l.array.val = true) ∧ l'.lasting ≠ 0 ∧ l'.flight = none ∧ l'.recv = l.recv ∧ l'.mask = l.mask ∧ l'.ovr = l.ovr ∧
      ∀ j, j ≠ i → c'.links[j]? = c.links[j]?)) ∧
  ∀ (s : State) (num : BitVec 12) (i : Nat) (c : Chain) (l pr : Link), findChain s num = some c → c.links[i]? = some l → c.links[l.parent]? = some pr → i ≠ l.parent →
    let links := fun (t : State) (f : Link → Link → Prop) => ∃ c' l' q, findChain t num = some c' ∧ c'.links[i]? = some l' ∧ c'.links[l.parent]? = some q ∧ f l' q
    let stale := fun (f : Flight) => f.src ≠ incOf s pr.die l.die ∨ f.dst ≠ incOf s pr.die pr.die
    let counted := fun (t : State) => (s.dies.get pr.die).stale ≠ BitVec.allOnes 32 → (t.dies.get pr.die).stale = (s.dies.get pr.die).stale + 1
    let full := pr.recv + 1 = pr.decl
    let arrives := fun (j : Instr) (tree : Bool) (value : Link → Prop) => i ≠ 0 → c.isTree l = tree →
      (l.flight = none → exec j s = .next s) ∧ (linkHeld s l.die pr.die = true → exec j s = .next s) ∧
      (∀ f, l.flight = some f → linkHeld s l.die pr.die = false →
        (stale f → ∃ t, exec j s = .next t ∧ links t (fun l' q => l'.flight = none ∧ l'.landed = l.landed ∧ q = pr) ∧ counted t) ∧
        (¬ stale f →
          (pr.state = .frozen → exec j s = .next s) ∧
          (pr.state ≠ .frozen → pr.mask.getLsbD l.cslot.toNat = true →
            ∃ t, exec j s = .next t ∧ links t (fun l' q => l'.flight = none ∧ l'.landed = true ∧ q = pr)) ∧
          (pr.state = .done → pr.mask.getLsbD l.cslot.toNat = false → exec j s = .next s) ∧
          ((pr.state = .built ∨ pr.state = .open) → pr.mask.getLsbD l.cslot.toNat = false → ∃ t, exec j s = .next t ∧
            links t (fun l' q => l'.flight = none ∧ l'.landed = true ∧ q.recv = pr.recv + 1 ∧ q.mask = pr.mask ||| (1#8 <<< l.cslot.toNat) ∧ q.e = pr.e ∧ q.decl = pr.decl ∧
              (¬ full → q.state = .open ∧ q.holders = pr.holders ∧ q.flight = pr.flight) ∧
              (full → q.state = .done ∧ q.holders = [] ∧ (l.parent ≠ 0 → pr.flight = none → pr.landed = false →
                q.flight = some { src := incOf s pr.die pr.die, dst := incOf s pr.die (c.dieAt pr.parent) })) ∧
              ((full → c.isTree pr = false) → value q)))))
    let shaped := fun (x : Link) => x.m.length = 64 ∧ ∀ row ∈ x.m, row.length = pr.ncol
    let term := fun (r col : Nat) => w48Round (w48Value (rowWord l.m r col) (l.e.getD r 0)) (pr.e.getD r 0)
    let sum := fun (r col : Nat) => w48Add (rowWord pr.m r col) (term r col).1
    arrives (.linkForwardReceive num i) false (fun q => shaped l → shaped pr → ∀ r < 64,
      (∀ col < pr.ncol, rowWord q.m r col = (sum r col).1) ∧
      (q.ovr.getLsbD r = true ↔ pr.ovr.getLsbD r = true ∨ l.ovr.getLsbD r = true ∨ ∃ col < pr.ncol, (term r col).2 = true ∨ (sum r col).2 = true)) ∧
    arrives (.linkNoticeReceive num i) true (fun q => shaped l → shaped pr →
      (∀ r < 64, ∀ col < pr.ncol, rowWord q.m r col = rowWord pr.m r col) ∧ q.ovr = pr.ovr ||| l.ovr) ∧
    (i ≠ 0 → c.isTree l = true → l.noded = true → l.state = .done → pr.state = .done → pr.noded = false → pr.reads.any (fun x => x.1 == i) = false →
      linkHeld s l.die pr.die = false → ∀ f k, pr.asks.find? (fun a => a.1 == i) = some (k, some f) →
        (¬ stale f → ∃ t, exec (.nodeReadReceive num i) s = .next t ∧ links t (fun l' q => l' = l ∧ q.reads = (i, l.m) :: pr.reads ∧ q.state = .done ∧ q.recv = pr.recv ∧
          (q.noded = true ↔ c.isTree pr = true ∧ ∀ x ∈ c.treeKids l.parent, x.1 = i ∨ ∃ y ∈ pr.reads, y.1 = x.1))) ∧
        (stale f → ∃ t, exec (.nodeReadReceive num i) s = .next t ∧
          links t (fun l' q => l' = l ∧ q.reads = pr.reads ∧ q.noded = false ∧ q.state = .done) ∧ counted t))

/-- COLLD_READY and COL_ACK answer a load, COLLD_READY also the exchange with which a replay begins; PORT_WINDOW_END sets a port's counters,
COPY_BARRIER_PORTION subtracts bytes from a barrier, and at a poisoned one raises MC_ECC. What is told of members outside the package is the turn's (log 46), and
which answer a poisoned barrier gives log 44. (R228, R292, R338, R343, R344, R347, R373, R414) -/
def Obligations.CollectiveLoadAndPortEventsComplete : Prop :=
  ∀ (s : State),
    (∀ (p : Place) (i : Fin 64) (c : Ctx) (id : Nat) (ws : List Nat), loadingCtx s p = some (i, c, id) →
      let d := dieOfPlace p
      let answered := fun (o : Host.Outcome State Fault Refusal) (x : Ctx) => ∃ t, o = .next t ∧ (i, x) ∈ (t.dies.get d).loads ∧ (t.dies.get d).ctxs = (s.dies.get d).ctxs ∧
        (∀ y ∈ (s.dies.get d).loads, y.2.phase ≠ .loading p id → y ∈ (t.dies.get d).loads) ∧ t.mem = s.mem
      let answers := fun (j : Bool → Instr) (host : Bool) =>
        answered (exec (j false) s) { c with phase := .answered p id Cause.colResv } ∧
        ∀ nws, pathWeights s d i c host ws = some nws →
          (splitPaths c.graph nws = none → answered (exec (j true) s) { c with phase := .answered p id Cause.colDesc }) ∧
          (∀ ps, splitPaths c.graph nws = some ps → answered (exec (j true) s) { c with graph := { c.graph with paths := ps }, phase := .answered p id 0 })
      (∀ host, c.graph.fixw = true → pathWeights s d i c host ws = some (c.graph.paths.map (·.weight))) ∧
      (c.graph.fixw = false → pathWeights s d i c true ws = some ((List.range c.graph.paths.length).map (fun k => ws.getD k 0))) ∧
      (s.dawn.colReqs.any (fun x => x.2 == p) = true → ∀ granted told, exec (.colldReady p granted told) s = .next s) ∧
      (s.dawn.colReqs.any (fun x => x.2 == p) = false → (∀ sigs, answers (fun granted => .colldReady p granted (ws, sigs)) false) ∧
        (pathWeights s d i c false ws = none → ∀ sigs, exec (.colldReady p true (ws, sigs)) s = .next s)) ∧
      (∀ seq : BitVec 32, s.dawn.colReqs.find? (fun x => x.1 == seq) = some (seq, p) → answers (fun granted => .colAck seq granted ws) true)) ∧
    (∀ (p : Place) (d : DieId) (i : Fin 64) (c : Ctx) (r : Replay) (rest : List Replay) (ok : Bool) (ws nws : List Nat) (sigs : List (BitVec 32)),
      loadingCtx s p = none → ctxAt s d i = some c → c.replays = r :: rest → r.place = p → r.asked = true → r.split = false →
      (∀ d' i' c' r', ctxAt s d' i' = some c' → c'.replays.head? = some r' → r'.place = p → r'.asked = true → r'.split = false → d' = d ∧ i' = i) →
      pathWeights s d i c false ws = some nws →
      let run := exec (.colldReady p ok (ws, sigs)) s
      (otherSig s d i c sigs = true → run = .next (advanceCtx (setReplay s d i (r.fail Cause.colSig r.step)) d i)) ∧
      (otherSig s d i c sigs = false → splitPaths c.graph nws = none → run = .next (advanceCtx (setReplay s d i (r.fail Cause.colDesc r.step)) d i)) ∧
      (otherSig s d i c sigs = false → ∀ paths, splitPaths c.graph nws = some paths → run =
        .next (advanceCtx (setReplay (setCtx s d i (some { c with graph := { c.graph with paths := paths } })) d i { r with split := true }) d i))) ∧
    (∀ (q : Fin 18) (util : BitVec 11),
      let window := (s.dies.get (portDie q.val)).cycle.toNat / 2 ^ 20
      (window = (s.ports.get q).window → exec (.portWindowEnd q util) s = .next s) ∧
      (window ≠ (s.ports.get q).window → ∃ t, exec (.portWindowEnd q util) s = .next t ∧ (t.ports.get q).util.toNat = min 1024 util.toNat ∧
        (t.ports.get q).avail = BitVec.ofNat 11 ((s.ports.get q).bwm.toNat * (1024 - min 1024 util.toNat) / 1024) ∧ (t.ports.get q).bwm = (s.ports.get q).bwm ∧
        (∀ k, k ≠ q → t.ports.get k = s.ports.get k) ∧ t.mem = s.mem)) ∧
    (∀ (p : Place) (q : QueueId) (k : Nat) (g : Group) (e : QEntry) (w : Work) (c : CopyRun) (pa : Nat), s.group p = some g → (g.queue q)[k]? = some e →
      e.work = some w → w.copies = [c] → c.barrier = some pa → c.owed ≠ 0 →
      let run := exec (.copyBarrierPortion p q k) s
      (farHeld s (dieOfPlace p) pa = true → run = .next s) ∧
      (farHeld s (dieOfPlace p) pa = false → ∃ n, 1 ≤ n ∧ n ≤ 2048 ∧ n ≤ c.owed ∧
        let g' := g.mapEntry q e.id (fun e => { e with work := some { w with copies := [{ c with owed := c.owed - n }] } })
        let u := l2Touch ({ s with fresh := s.fresh + 1 }.setGroup p g') pa (some (g.lr.asid, c.barVa)) false true
        (poisoned s pa = false → ∀ b, readBarrier u pa = some b →
          let less : Barrier := { b with pend := b.pend - BitVec.ofNat 64 n }
          (s.inCycle = false → run = .next (writeBarrier u pa (if less.arrive = less.count ∧ less.pend = 0 then { less with phase := b.phase + 1, arrive := 0 } else less))) ∧
          (s.inCycle = true → ∃ t, run = .next t ∧ t.mem = (writeBarrier u pa less).mem ∧ pa ∈ t.touched ∧ t.group p = some g')) ∧
        (poisoned s pa = true → (s.slot p).state = .running → g.stopping = .no →
          ∃ t g2 cut, run = .next t ∧ t.mem = s.mem ∧ t.group p = some g2 ∧ g2.stopping = .trap cut ∧ cut.cause = Cause.mcEcc ∧ cut.isq = false)))

/-- COL_CHUNK_ARRIVE, CELLAR_FOLD, SLOT_FREE_NOTICE, COL_ABORT and RESERVATION_LOST move the replay in progress on; a notice counts at its port whether or not
the context is loaded still. (R26, R338, R345, R346, R347, R348, R432) -/
def Obligations.CollectiveReplayEventsComplete : Prop :=
  ∀ (s : State) (d : DieId) (i : Fin 64),
    let noticed := fun (op : Nat) (out : OutChunk) =>
      let q : Fin 18 := ⟨out.port % 18, Nat.mod_lt _ (by decide)⟩
      let u := s.setDie d { s.dies.get d with outs := (s.dies.get d).outs.eraseP (fun y => y.ctx == i && y.op == op) }
      { u with ports := s.ports.set q.val { s.ports.get q with notices := (s.ports.get q).notices + 1 } }
    (ctxAt s d i = none → ∀ cause, exec (.colAbort d i cause) s = .next s ∧ exec (.reservationLost d i) s = .next s) ∧
    (∀ (c : Ctx) (r : Replay) (rest : List Replay), ctxAt s d i = some c → c.replays = r :: rest →
      let goes := fun (u : State) (x : Replay) => advanceCtx (setReplay u d i x) d i
      (∀ cause, exec (.colAbort d i cause) s = .next (goes s { r.fail cause r.step with aborted := true })) ∧
      exec (.reservationLost d i) s = .next (goes (setCtx s d i (some { c with lost := true })) (r.fail Cause.colPort r.step)) ∧
      (∀ (op k : Nat) (sig : BitVec 32) (bs : List Byte) (o : GOp) (x : OpRun), c.graph.ops[op]? = some o → r.ops[op]? = some x → x.started = true → x.finished = false →
        r.failed = none → x.got.contains k = false → (c.graph.pieceOf o).contains k = true → bs.length = c.graph.chunkLen k → (o.kind = 2 ∨ o.kind = 3) →
        let places := r.addrs o.base (k * c.graph.chunk) bs.length
        let q : Fin 18 := ⟨o.port % 18, Nat.mod_lt _ (by decide)⟩
        let counted := { s with ports := s.ports.set q.val { s.ports.get q with rxb := (s.ports.get q).rxb + BitVec.ofNat 64 bs.length } }
        let wrong := firstOnPath c.graph r o.path = true ∧ sig ≠ c.graph.sig
        let run := exec (.colChunkArrive d i op k sig bs) s
        let clear := runHeld s d places = false ∧ ¬ wrong ∧ runGone s places = false
        (runHeld s d places = true → run = .next s) ∧
        (runHeld s d places = false → wrong → run = .next (goes counted (r.fail Cause.colSig op))) ∧
        (runHeld s d places = false → ¬ wrong → runGone s places = true → run = .next (goes counted (r.fail Cause.mcDie r.step))) ∧
        (o.kind = 2 → clear → run = .next (goes (writeChunk counted r o.base (k * c.graph.chunk) bs)
          ((r.setOp op (fun y => { y with got := y.got ++ [k] })).settleReceive c.graph op))) ∧
        (o.kind = 3 → clear → queueParts counted (chunkParts c.graph r d i op o.base k bs) = none → run = .next s) ∧
        (o.kind = 3 → clear → ∀ u, queueParts counted (chunkParts c.graph r d i op o.base k bs) = some u → run = .next (goes u
          ((r.setOp op (fun y => { y with got := y.got ++ [k], folds := y.folds + (chunkParts c.graph r d i op o.base k bs).length })).settleReceive c.graph op)))) ∧
      (∀ (die : DieId) (k : Fin 3) (x : Part) (more : List Part), dieLive s die = true → (s.dies.get die).cellar.get k = x :: more → x.die = d → x.ctx = i →
        let s1 := s.setDie die { s.dies.get die with cellar := (s.dies.get die).cellar.set k.val more }
        let s2 := ((x.addrs.map (· / 128)).dedup).foldl (fun t l => l2Clean t (128 * l) true) s1
        ((∀ a ∈ x.addrs, poisoned s2 a = false) →
          exec (.cellarFold die k true) s = .next (foldDone (writeCells s2 (x.addrs.zip (foldPart c.graph (x.addrs.map (homeByte s2)) x.bytes))) x false)) ∧
        ∃ u, exec (.cellarFold die k false) s = .next (goes u (r.fail Cause.mcAdder r.step))) ∧
      (∀ (op : Nat) (out : OutChunk), (s.dies.get d).outs.find? (fun y => y.ctx == i && y.op == op) = some out →
        let own := out.place = r.place ∧ out.entry = r.entry ∧ out.live = true ∧ r.failed = none
        exec (.slotFreeNotice d i op) s = .next (goes (noticed op out) (r.notice c.graph out)) ∧ (¬ own → r.notice c.graph out = r) ∧
        (own → ∀ x, r.ops[op]? = some x → ∃ y, (r.notice c.graph out).ops[op]? = some y ∧ y.acked = x.acked + 1 ∧
          (∀ o, c.graph.ops[op]? = some o → x.acked + 1 = (c.graph.pieceOf o).length → y.finished = true)))) ∧
    (∀ (op : Nat) (out : OutChunk), ctxAt s d i = none → (s.dies.get d).outs.find? (fun y => y.ctx == i && y.op == op) = some out →
      exec (.slotFreeNotice d i op) s = .next (noticed op out)) ∧
    (∀ (r : Replay) (b off : Nat) (bs : List Byte) (u : State), memOk u →
      (∀ j k a, r.addr b (off + j) = some a → r.addr b (off + k) = some a → j = k) →
      ∀ j a x, bs[j]? = some x → r.addr b (off + j) = some a → (region u a).isHbm = true → homeByte (writeChunk u r b off bs) a = x)

/-- LAUNCH_CONSUME, SCHEDULE_PICK, BIND_RECORD_WRITE and SCHED_BIND take a launch, a task or a record and start a bind. When a record is
consumed is log 22's, and that a task is taken only when its class has a place log 23's. (R54, R56, R317, R318, R319, R321, R322, R323, R331, R335) -/
def Obligations.LaunchesAndBindRecordsComplete : Prop :=
  ∀ (s : State),
    (mayConsume s = false → exec .launchConsume s = .next s) ∧
    (mayConsume s = true →
      let cons := lqDword s 0x20
      let pa := fieldOf (lqDword s 8) 51 0 + 256 * (cons.toNat % lqSize s)
      let ds := launchWords s pa
      let lr := parseLaunch ds
      let read := l2Touch (l2Run s pa 256 none false false) (s.dawn.lqaddr.toNat + 0x20) none false true
      let u : State := { homeWrite8 read (s.dawn.lqaddr.toNat + 0x20) (cons + 1) with fresh := s.fresh + 1 }
      let dw1 := fun (kind : BitVec 4) (cause : BitVec 10) => cplDw1 kind lr.cls cause (cons.extractLsb' 0 32)
      let clean := poisoned s pa = false ∧ poisoned s (pa + 128) = false
      let refused := fun (cause : BitVec 10) => exec .launchConsume s = .next (pushCpl u { lid := lr.id, dw1 := dw1 2 cause })
      (¬ clean → refused Cause.mcEcc) ∧ (clean → launchOk u ds = false → refused Cause.launchBad) ∧
      (clean → launchOk u ds = true → findLaunch u lr.id ≠ none → refused Cause.launchLive) ∧
      (clean → launchOk u ds = true → findLaunch u lr.id = none → ∃ (t : State) (l : Launch),
        exec .launchConsume s = .next (pushCpl t { lid := lr.id, dw1 := dw1 1 0, evt := true }) ∧ findLaunch t lr.id = some l ∧ l.lrec = lr ∧
        l.recPa = pa ∧ l.cls = lr.cls ∧ l.bound = 0 ∧ l.issued = 0 ∧ l.ended = 0 ∧ l.ending = none ∧ t.dawn.waiting = u.dawn.waiting ++ [.fresh lr.id 0] ∧ t.mem = u.mem)) ∧
    (∀ (save : BitVec 40) (slice : BitVec 32),
      (s.dawn.stage ≠ 3#4 → exec (.schedulePick save slice) s = .next s) ∧
      (s.dawn.stage = 3#4 → msplitBit s 0 = true → ∀ (c : Fin 8) (x : Task) (rest : List Task), s.dawn.tasks.get c = x :: rest → (∀ c', c' < c → s.dawn.tasks.get c' = []) →
        let u := leaveQueue s c rest
        exec (.schedulePick save slice) s = .next (if x.dws[0].extractLsb' 60 4 = 1#4 then startChild u x false else resumeTask u x)) ∧
      (s.dawn.stage = 3#4 → msplitBit s 0 = false → nextPlan s = none → exec (.schedulePick save slice) s = .next s) ∧
      (∀ (lid : BitVec 64) (gi : Nat) (p : Place), s.dawn.stage = 3#4 → msplitBit s 0 = false → nextPlan s = some (.bind [.fresh lid gi] [(p, false)] false) →
        saveOk s p (.fresh lid gi) (save.toNat * 4096) = true → (s.slot p).state = .free →
        ∃ (t : State), exec (.schedulePick save slice) s = .next t ∧ (t.slot p).state = .binding ∧ (t.slot p).latched.lid = lid ∧ (t.slot p).latched.kind = 1#3 ∧
          (t.slot p).latched.gindex = BitVec.ofNat 16 gi ∧ (t.slot p).latched.savePa = save.toNat * 4096 ∧ (∀ q, q ≠ p → t.slot q = s.slot q) ∧ t.mem = s.mem)) ∧
    (∀ (core : CoreId) (k : Fin 5) (v : BitVec 64), dieLive s (dieOfCore core) = false → exec (.bindRecordWrite core k v) s = .next s) ∧
    (∀ (core : CoreId) (v : BitVec 64), dieLive s (dieOfCore core) = true →
      ∃ (t : State), exec (.bindRecordWrite core 4 v) s = .next t ∧ (t.cores.get core).standby = { (s.cores.get core).standby with dw0 := v &&& ~~~(0x300000000F0000#64) } ∧
        t.slots = s.slots) ∧
    (∀ (p : Place) (v : BitVec 64) (k : Fin 5), dieLive s (dieOfPlace p) = true → k.val = p.val % 4 →
      let sl := s.slot p
      let r : BindRec := { sl.brec with dw0 := v &&& ~~~(0x300000000F0000#64) }
      let good := r.kind = 1#3 ∨ r.kind = 2#3 ∨ r.kind = 3#3
      let run := exec (.bindRecordWrite (coreOf p) k v) s
      (r.valid = true → ¬ good → run = .next (s.setSlot p { sl with err := true })) ∧
      (sl.state = .free → r.valid = false → run = .next (s.setSlot p { sl with brec := r, pending := false })) ∧
      (sl.state = .free → r.valid = true → good → run = .next (s.setSlot p { sl with brec := r, latched := r, state := .binding, pending := false, permit := false })) ∧
      exec (.registerWrite (BitVec.ofNat 52 (bindRecordPa p)) v) s = run) ∧
    (∀ (seq : BitVec 32) (pa : BitVec 64) (r : Vector (BitVec 64) 4), msplitBit s 0 = false → exec (.schedBind seq pa r) s = .next s) ∧
    (∀ (seq : BitVec 32) (p : Place) (r : Vector (BitVec 64) 4), msplitBit s 0 = true → dieLive s (dieOfPlace p) = true → (s.slot p).state = .free →
      let b : BindRec := { dw0 := r[0] &&& ~~~(0x300000000F0000#64), lid := r[1], obj := r[2] &&& 0xFFFFFFFFFFFFF#64, save := r[3] &&& 0xFFFFFFFFFF000#64 }
      b.valid = true → (b.kind = 1#3 ∨ b.kind = 2#3 ∨ b.kind = 3#3) →
      exec (.schedBind seq (BitVec.ofNat 64 (bindRecordPa p)) r) s =
        .next (s.setSlot p { s.slot p with brec := b, latched := b, state := .binding, pending := false, permit := false }))

/-- BIND, SWITCH_COMPLETE, SAVE_COMPLETE, SLICE_END, GANG_RELEASE and GANG_SAVE_PERMIT move a slot and its group on. What a record whose OBJ is not the launch's own
binds is log 25's, a record with both HOLD and HALT is log 76's, and a frame with a reserved tag log 79's. (R322, R326, R327, R328, R329, R330, R332, R333, R334, R394) -/
def Obligations.SlotEventsComplete : Prop :=
  ∀ (s : State) (p : Place),
    ((s.slot p).state ≠ .binding → exec (.bind p) s = .next s) ∧
    ((s.slot p).state = .binding → dieLive s (dieOfPlace p) = true → (s.slot p).pending = false → (s.slot p).dusk = false →
      let r := (s.slot p).latched
      let st : SlotState := if r.halt then .halted else if r.hold then .held else .running
      let asked := fun (g : Group) => if (s.slot p).dbg.hreq = true ∧ r.halt = false then askStop g Cause.dbgHalt else g
      (bindableLaunch s r.lid = none → ∃ (t : State), exec (.bind p) s = .next t ∧ (t.slot p).state = .free ∧ t.group p = none ∧ ((t.slot p).err = true ↔ (s.slot p).err = true ∨ r.kind = 3#3)) ∧
      (∀ (l : Launch), bindableLaunch s r.lid = some l → r.kind = 1#3 → r.objPa = l.recPa →
        ∃ (t : State) (l' : Launch), exec (.bind p) s = .next t ∧ t.group p = some (asked (newGroup l.lrec l.recVa r.gindex r.cls)) ∧ (t.slot p).state = st ∧
          findLaunch t r.lid = some l' ∧ l'.bound = l.bound + 1 ∧ l'.ended = l.ended ∧ t.mem = s.mem ∧ ∀ q, q ≠ p → t.slot q = s.slot q) ∧
      let settled := ∀ k, k < 128 → keySettled s (objAddr (objPages r.objPa) k)
      (∀ (l : Launch), bindableLaunch s r.lid = some l → r.kind = 2#3 → waitingResume s r = none → objPoisoned s (objPages r.objPa) = false → settled →
        ∃ (t : State) (g : Group), exec (.bind p) s = .next t ∧ t.group p = some g ∧ g.lr = l.lrec ∧ g.cls = r.cls ∧
          g.gindex = (objDword s (objPages r.objPa) 0x30).extractLsb' 0 16 ∧ (t.slot p).state = st) ∧
      (∀ (l : Launch), bindableLaunch s r.lid = some l → r.kind = 3#3 → objPoisoned s (objPages r.objPa) = false → settled →
        (objDword s (objPages r.objPa) 0).extractLsb' 0 32 = magicSave → (objDword s (objPages r.objPa) 0x10).extractLsb' 62 2 = 0#2 →
        savedTagsOk (objTouch s (objPages r.objPa) none false) (objPages r.objPa) = true →
        ∃ (t : State) (g : Group), exec (.bind p) s = .next t ∧ t.group p = some g ∧ g.lr = l.lrec ∧ g.cls = r.cls ∧
          g.gindex = (objDword s (objPages r.objPa) 0x30).extractLsb' 0 16 ∧ (t.slot p).state = st)) ∧
    (switched s p = true → (s.slot p).state = .fencing →
      (((s.slot p).isGang = false ∨ (s.slot p).permit = true) → exec (.switchComplete p) s = .next (s.setSlot p { s.slot p with state := .saving })) ∧
      ((s.slot p).isGang = true → (s.slot p).permit = false → exec (.switchComplete p) s = .next s)) ∧
    (∀ (g : Group), s.group p = some g → (s.slot p).state = .saving → g.scat = [] →
      (isEnding s g = true → exec (.saveComplete p) s = .next (endGroup s p)) ∧
      (isEnding s g = false → (s.slot p).pending = false → (s.slot p).dusk = false → ∃ (t : State) (dw0 : BitVec 64), exec (.saveComplete p) s = .next t ∧
        (t.slot p).state = .free ∧ t.group p = none ∧ (t.slot p).brec.valid = false ∧
        t.dawn.waiting = s.dawn.waiting ++ [.saved g.lr.id g.gindex (s.slot p).latched.savePa (coreOf p) dw0 g.trapped])) ∧
    (∀ (g : Group), s.group p = some g → (((s.slot p).state ≠ .running ∧ (s.slot p).state ≠ .held) ∨ (s.slot p).left ≠ 0) → exec (.sliceEnd p) s = .next s) ∧
    (∀ (g : Group), s.group p = some g → ((s.slot p).state = .running ∨ (s.slot p).state = .held) → (s.slot p).left = 0 → msplitBit s 0 = false →
      (s.cores.get (coreOf p)).standby.valid = false →
      let e := ((s.slot p).sle - (s.slot p).sleMark).toNat
      let u := chargeSlice s g.lr.id e
      ((s.slot p).pending = false → (s.slot p).dusk = false → exec (.sliceEnd p) s = .next (startSlice u p)) ∧
      ((s.slot p).pending = true → (s.slot p).latched.savePa ≠ 0 → (s.slot p).isGang = false → exec (.sliceEnd p) s = .next (preempt u p)) ∧
      (∀ (l : Launch), findLaunch s g.lr.id = some l →
        ((l.budget = 0 ∨ l.spent + e < l.budget) → findLaunch u g.lr.id = some { l with spent := l.spent + e } ∧ u.slots = s.slots) ∧
        (l.budget ≠ 0 → l.budget ≤ l.spent + e → findLaunch u g.lr.id =
          some { l with cls := if l.cls = 7#3 then 7#3 else l.cls + 1, spent := 0, budget := l.lrec.refill.toNat }))) ∧
    (∀ (u : State), ((startSlice u p).slot p).sleMark = (u.slot p).sle ∧ ((startSlice u p).slot p).state = (u.slot p).state ∧ (startSlice u p).group p = u.group p ∧
      (∀ g, u.group p = some g → g.stopping = .no → ((preempt u p).slot p).state = .fencing ∧ ((preempt u p).slot p).gen = (u.slot p).gen + 1 ∧
        ∃ h, (preempt u p).group p = some h ∧ h.stopping = .preempt ∧ h.lr = g.lr)) ∧
    ∀ (die : DieId),
      let lid := (s.dies.get die).gangId
      ((dieLive s die = false ∨ gangSeated s lid = false) → exec (.gangRelease die) s = .next s) ∧
      ((dieLive s die = false ∨ gangSwitched s lid = false) → exec (.gangSavePermit die) s = .next s) ∧
      (dieLive s die = true →
        (gangSeated s lid = true → ∃ (t : State), exec (.gangRelease die) s = .next t ∧ (∀ q, (gangPlaces s die).contains q = false → t.slot q = s.slot q) ∧
          ∀ q, (gangPlaces s die).contains q = true → (t.slot q).latched.hold = false ∧ (t.slot q).group = (s.slot q).group ∧
            (t.slot q).state = if (s.slot q).state = .held then .running else (s.slot q).state) ∧
        (gangSwitched s lid = true → ∃ (t : State), exec (.gangSavePermit die) s = .next t ∧ (∀ q, { t.slot q with permit := (s.slot q).permit } = s.slot q) ∧
          ∀ q, (t.slot q).permit = ((s.slot q).permit || ((gangPlaces s die).contains q && switched s q))))

/-- Invalidation, page-fault answers, demand fill, declarations, rekey and the sag lock act on the die they name; a retry of the host's waits for the accesses that
use the page and removes its translations. Who answers which request is log 27's, and when the removal happens log 28's. (R334, R336, R369, R396, R397, R398, R437) -/
def Obligations.TranslationAndKeyEventsComplete : Prop :=
  ∀ (s : State) (die : DieId),
    (dieLive s die = false → exec (.tlbInvalidate die) s = .next s ∧ exec (.rekey die) s = .next s ∧ exec (.sagLockClear die) s = .next s) ∧
    (dieLive s die = true →
      (∃ (t : State), exec (.tlbInvalidate die) s = .next t ∧ t.dies.get die = { s.dies.get die with invBusy := true } ∧ (∀ d, d ≠ die → t.dies.get d = s.dies.get d) ∧ t.cores = s.cores) ∧
      (∃ (t : State), exec (.sagLockClear die) s = .next t ∧ t.dies.get die = { s.dies.get die with lock := false, slowRun := 0 } ∧ ∀ d, d ≠ die → t.dies.get d = s.dies.get d) ∧
      (s.dawn.rekeyBusy = false → exec (.rekey die) s = .next { s with dawn := { s.dawn with rekeyBusy := true, rekeyDie := BitVec.ofNat 2 die.val, rekeyOf := die } })) ∧
    ((s.dies.get die).invBusy = false → exec (.tlbInvalidateDone die) s = .next s) ∧
    ((s.dies.get die).invBusy = true → invPending s die = false → ∃ (t : State), exec (.tlbInvalidateDone die) s = .next t ∧ (t.dies.get die).invBusy = false ∧ t.mem = s.mem ∧
      ∀ c, (t.cores.get c).tlb = if dieOfCore c = die then (s.cores.get c).tlb.filter (fun x => !invEntry (s.dies.get die) x) else (s.cores.get c).tlb) ∧
    (s.dawn.rekeyBusy = true → ∃ (t : State), exec .rekeyDone s = .next t ∧ t.dawn.rekeyBusy = false ∧ t.mem = s.mem ∧
      ∀ d : Fin 4, t.dawn.epoch.get d = if d = s.dawn.rekeyOf then s.dawn.epoch.get d + 1 else s.dawn.epoch.get d) ∧
    (∀ (k : Nat) (r : SvcReq), (s.dies.get die).svc[k]? = some r →
      (r.retry = false → r.sent = false → servingRange s r.fault = none → exec (.faultAnswer die k r.fault.cause) s = .next (answerRequest s die k r.fault.cause)) ∧
      (∀ (ans : BitVec 10), r.sent = true → (∀ j x, j < k → (s.dies.get die).svc[j]? = some x → x.sent = true → x.seq ≠ r.seq) →
        (∀ d x, d < die → x ∈ (s.dies.get d).svc → x.sent = true → x.seq ≠ r.seq) →
        (ans = 0 → exec (.pfAck r.seq ans) s = .next (retryRequest s die k)) ∧
        (trapCause ans = true → exec (.pfAck r.seq ans) s = .next (answerRequest s die k ans)) ∧
        (ans ≠ 0 → trapCause ans = false → exec (.pfAck r.seq ans) s = .next (dropBad s))) ∧
      (r.retry = true → exec (.faultAnswer die k 0) s = .next (retryRequest s die k)) ∧
      (pageBusy s r.fault = true → retryRequest s die k = s.setDie die { s.dies.get die with svc := (s.dies.get die).svc.set k { r with retry := true } }) ∧
      (pageBusy s r.fault = false → ∃ u : State, retryRequest s die k = answerRequest u die k 0 ∧ u.mem = s.mem ∧ ∀ c x, dieLive s (dieOfCore c) = true → x ∈ (u.cores.get c).tlb →
        x.asid = r.fault.asid → (r.fault.page + 1) * 65536 ≤ x.va ∨ x.va + 2 ^ x.logSize ≤ r.fault.page * 65536) ∧
      (∀ (rg : PfRange), r.sent = false → servingRange s r.fault = some rg →
        (fillEntry s die r.fault = none → exec (.demandFill die k) s = .next (answerRequest s die k 0)) ∧
        (∀ pte, fillEntry s die r.fault = some pte → ∃ (u : State), exec (.demandFill die k) s = .next (answerRequest u die k 0) ∧
          let read := (List.range 512).foldl (fun v i => l2Touch v ((rg.pool + rg.given) * 65536 + 128 * i) none false true) s
          u.mem = (homeWrite8 (homeWriteRun 513 read ((rg.pool + rg.given) * 65536) (List.replicate 65536 0#8)) pte
            (BitVec.ofNat 64 ((rg.pool + rg.given) * 65536) ||| 0x11#64 ||| (rg.perms &&& 0x80E#64))).mem ∧
          ∀ c x, dieLive s (dieOfCore c) = true → x ∈ (u.cores.get c).tlb → x.asid = r.fault.asid →
            (r.fault.page + 1) * 65536 ≤ x.va ∨ x.va + 2 ^ x.logSize ≤ r.fault.page * 65536)) ∧
      (∀ (ans : BitVec 10) (p : Place) (g : Group), s.group p = some g →
        (answerRequest s die k ans).group p = some (if dieOfPlace p = die then answerGroup r.fault ans g else g))) ∧
    (∀ (seq : BitVec 32) (b : Vector (BitVec 64) 6),
      let r := declRange b
      let same := fun (x : PfRange) => x.asid == r.asid && x.first == r.first
      let replies := fun (ranges : List PfRange) (v : BitVec 64) => ∃ (t : State), exec (.pfDecl seq b) s = .next t ∧ t.dawn.ranges = ranges ∧ t.mem = s.mem ∧
        t.dawn.out = s.dawn.out ++ [sentFrame 4 0 0 [0x0C#8 ++ 0#24 ++ seq, v]]
      (r.nframe = 0 → s.dawn.ranges.any same = true → replies (s.dawn.ranges.filter (fun x => !same x)) 0) ∧
      (r.nframe = 0 → s.dawn.ranges.any same = false → replies s.dawn.ranges (Cause.opRange.zeroExtend 64)) ∧
      (r.nframe ≠ 0 → declOk s b = true → replies (s.dawn.ranges ++ [r]) 0) ∧
      (r.nframe ≠ 0 → declOk s b = false → replies s.dawn.ranges (Cause.opRange.zeroExtend 64)))

/-- Power-on, boot, die release, WR and RD frames, TRAP_ACK and register writes do what the spec gives them. The hash of a measurement is log 12's, when an
invalidation has effect log 28's, and a WR frame with a dword that may not be written is log 29's. (R363, R364, R365, R370, R371, R372, R395, R428, R435, R436) -/
def Obligations.BootAndPortEventsComplete : Prop :=
  ∀ (s : State),
    (∀ live : BitVec 4, (s.dawn.powered = true → exec (.powerOn live) s = .next s) ∧
      (s.dawn.powered = false → ∃ (t : State), exec (.powerOn live) s = .next t ∧ t.dawn.powered = true ∧ t.dawn.live = live ∧ t.dawn.meas.get 0 = shake256 romBytes ∧
        t.dawn.rel = s.dawn.rel ∧ t.dawn.stage = s.dawn.stage ∧ t.mem = (homeWrite8 s (dawnAddr 0x20000000) (0#16 ++ 1#16 ++ 0x474F4C45#32)).mem)) ∧
    (∀ seq : BitVec 32, (atRom s = false → exec (.bootGo seq) s = .next s) ∧
      (atRom s = true → ∃ (t : State), exec (.bootGo seq) s = .next t ∧ t.dawn.meas.get 1 = shake256 (stagedBytes s) ∧ t.mem = s.mem ∧
        (Config.imageSigned (stagedCells s) = true → t.dawn.stage = 1#4) ∧
        (Config.imageSigned (stagedCells s) = false → t.dawn.stage = 15#4 ∧ t.dawn.cause = Cause.mcFw))) ∧
    (∀ die : DieId,
      (mayRelease s die = false → exec (.dieRelease die) s = .next s) ∧
      (mayRelease s die = true → ∃ (t : State), exec (.dieRelease die) s = .next t ∧ t.dawn.rel = s.dawn.rel ∧ t.dawn.inc.get die = s.dawn.inc.get die + 1 ∧
        t.dawn.meas.get ⟨2 + die.val, by omega⟩ = shake256 (Config.configImage die) ∧
        (Config.configDigestGood die (stagedCells s) = false → t.dawn.releasing = [] ∧ t.dawn.tried.contains die = true ∧ t.slots = s.slots) ∧
        (Config.configDigestGood die (stagedCells s) = true → t.dawn.releasing = [die] ∧ t.dawn.epoch.get die = s.dawn.epoch.get die + 1 ∧ t.mem = s.mem ∧
          (∀ p, t.slot p = if dieOfPlace p = die then Slot.reset else s.slot p) ∧ ∀ d, (t.dies.get d).incs.get die = t.dawn.inc.get die)) ∧
      (s.dawn.releasing.contains die = false → exec (.dieAnswer die) s = .next s ∧ exec (.dieReleaseTimeout die) s = .next s) ∧
      (s.dawn.releasing.contains die = true →
        (∃ (t : State), exec (.dieAnswer die) s = .next t ∧ t.dawn.rel = s.dawn.rel ||| BitVec.ofNat 4 (2 ^ die.val) ∧ t.dawn.releasing.contains die = false ∧
          t.dawn.tried.contains die = true ∧ t.slots = s.slots ∧ t.mem = s.mem) ∧
        ∃ (t : State), exec (.dieReleaseTimeout die) s = .next t ∧ t.dawn.rel = s.dawn.rel ∧ t.dawn.releasing.contains die = false ∧ t.dawn.tried.contains die = true ∧
          t.slots = s.slots)) ∧
    (∀ (hdr : BitVec 128) (pay : List (BitVec 64)) (trailer : BitVec 64), ∀ j ∈ [Instr.wr hdr pay trailer, .rd hdr pay trailer],
      let good := trailerOf hdr pay
      let run := exec j s
      let a := frameAddr hdr
      let n := frameLen hdr
      let typ := frameType hdr
      (trailer.extractLsb' 0 32 ≠ good.extractLsb' 0 32 → run = .next (dropCrc s)) ∧
      (trailer.extractLsb' 0 32 = good.extractLsb' 0 32 → (frameBad hdr = true ∨ trailer ≠ good) → run = .next (dropBad s)) ∧
      (trailer = good → frameBad hdr = false →
        ((typ = 3 ∨ (typ ≠ 2 ∧ pay.length ≠ n) ∨ (typ = 2 ∧ pay ≠ []) ∨ ((typ = 4 ∨ typ = 5) ∧ a ≠ 0)) → run = .next (dropBad s)) ∧
        (typ = 1 → pay.length = n →
          let may := a % 8 = 0 ∧ ∀ i, i < n → hostWritable s (a + 8 * i) = true
          let u := pay.zipIdx.foldl (fun v x => homeWrite8 (l2Touch v (a + 8 * x.2) none false true) (a + 8 * x.2) x.1) s
          (may → run = .next (flushCpl u.dawn.cpls.length u)) ∧ (¬ may → run = .next s)) ∧
        (typ = 2 → pay = [] →
          let sends := fun (v : State) (status : BitVec 8) (data : List (BitVec 64)) =>
            run = .next { v with dawn := { v.dawn with out := v.dawn.out ++ [sentFrame 3 (frameTag hdr) status data] } }
          let may := a % 8 = 0 ∧ hostReadable s a = true ∧ ∀ i, i < n → hostReadable s (a + 8 * i) = true ∧ poisoned s (a + 8 * i) = false
          (may → sends ((List.range n).foldl (fun v i => l2Touch v (a + 8 * i) none false false) s) 0 ((List.range n).map (fun i => hostRead s (a + 8 * i)))) ∧
          (¬ may → sends s 1 [])) ∧
        (∀ head body, typ = 4 → pay = head :: body → pay.length = n → a = 0 →
          (head.extractLsb' 32 24 ≠ 0#24 ∨ fieldOf head 63 56 ∉ [1, 3, 5, 7, 10, 11]) → run = .next (dropBad s)))) ∧
    (∀ (f : Forwarded), s.dawn.forwarded.find? (fun x => x.seq == f.seq) = some f →
      let u : State := { s with dawn := { s.dawn with forwarded := s.dawn.forwarded.filter (fun x => x.seq ≠ f.seq) } }
      (∃ (t : State), exec (.trapAck f.seq 1) s = .next t ∧ t.dawn.forwarded = u.dawn.forwarded ∧
        t.dawn.waiting = s.dawn.waiting ++ [.saved f.lid f.grp.gindex f.grp.frame f.grp.core f.grp.dw0 none]) ∧
      exec (.trapAck f.seq 0) s = .next (dropSaved u f.lid f.grp.gindex f.grp.frame f.grp.core) ∧
      ∀ v : BitVec 64, 1 < v.toNat → exec (.trapAck f.seq v) s = .next (dropBad s)) ∧
    ∀ (pa : BitVec 52) (v : BitVec 64),
      (pa.toNat % 8 ≠ 0 → exec (.registerWrite pa v) s = .next s) ∧
      (pa.toNat = lqaddrPa →
        let u : State := { s with dawn := { s.dawn with lqaddr := v.extractLsb' 0 52 } }
        let tried := allTried s = true ∧ s.dawn.rel ≠ 0#4
        (¬ tried → exec (.registerWrite pa v) s = .next u) ∧
        (tried → ∃ (t : State), exec (.registerWrite pa v) s = .next t ∧ t.dawn.lqaddr = v.extractLsb' 0 52 ∧ t.dawn.stage = 3#4 ∧
          t.dawn.meas.get 6 = shake256 (dwordBytes (lFields s)) ∧ t.mem = s.mem ∧ t.slots = s.slots)) ∧
      ∀ d : DieId, dieLive s d = true → pa.toNat = d.val * 2 ^ 48 + 0xE00000002000 →
        ∃ (t : State), exec (.registerWrite pa v) s = .next t ∧ t.dies.get d = { s.dies.get d with atabBase := v.extractLsb' 20 32, atabEn := v.getLsbD 0 } ∧
          (∀ e, e ≠ d → t.dies.get e = s.dies.get e) ∧ t.mem = s.mem

/-- Sag trips, corrected errors, a lost die, link and port failures count at their sites and take their parts down; what a lost die's requests become is log 30's. A fabric port counts to at most 255 and its limit is 256, so by the letter of R408 its site never becomes lasting (log 21). (R30, R31, R408, R409, R412, R429, R430, R431, R437) -/
def Obligations.FailureEventsComplete : Prop :=
  ∀ (s : State),
    (∀ die : DieId,
      let d := s.dies.get die
      (dieLive s die = false → exec (.sagTrip die) s = .next s ∧ exec (.dieLost die) s = .next s) ∧
      (dieLive s die = true → exec (.dieLost die) s = .next (loseDie s die) ∧
        let n := (countSite s 12 die 0 (2 ^ 24) 16).2.1
        ∃ (t : State), exec (.sagTrip die) s = .next t ∧ (t.dies.get die).slow = true ∧ (t.dies.get die).slowRun = 0 ∧ (t.dies.get die).tripw = n ∧
          (t.dies.get die).trips = (if d.trips = BitVec.allOnes 32 then d.trips else d.trips + 1) ∧ (t.dies.get die).lock = (d.lock || n == 16#8) ∧
          (∀ e, e ≠ die → t.dies.get e = s.dies.get e) ∧ t.slots = s.slots) ∧
      (d.slow = true → d.lock = false → 65536 ≤ d.slowRun → ∃ (t : State), exec (.sagRecover die) s = .next t ∧ t.dies.get die = { d with slow := false, slowRun := 0 }) ∧
      ((d.slow = false ∨ d.lock = true ∨ d.slowRun < 65536) → exec (.sagRecover die) s = .next s)) ∧
    (∀ (d : DieId) (g : Group) (st : StreamId) (w : Work),
      (∀ r ∈ ((dropStores d g st).stream st).stores, r.parts ≠ [] ∧ ∀ x ∈ r.parts, locOn d x.loc = false) ∧
      (∀ l ∈ (failWork d w).lines, locOn d l.loc = false) ∧ ((∃ l ∈ w.lines, locOn d l.loc = true) → (failWork d w).cause = some Cause.mcDie ∧ (failWork d w).status = 2)) ∧
    (∀ (src : BitVec 4) (die : DieId) (core : CoreId) (sub : BitVec 5) (addr synd : BitVec 64),
      (correctedAt s src die core addr = false → exec (.correctedError src die core sub addr synd) s = .next s) ∧
      (correctedAt s src die core addr = true → ∃ r : ErrRec, r.src = src ∧ r.kind = 0#4 ∧ r.cause = 0 ∧ r.lid = 0 ∧ r.synd = synd ∧ r.cycle = (s.dies.get die).cycle ∧
        (correctedSite s src core sub addr = none → r.count = 0 ∧ exec (.correctedError src die core sub addr synd) s = .next (logErr s r)) ∧
        (∀ key window limit, correctedSite s src core sub addr = some (key, window, limit) →
          let c := countSite s src die key window limit
          r.count = c.2.1 ∧ (c.2.1.toNat ≠ limit → exec (.correctedError src die core sub addr synd) s = .next (logErr c.1 r)) ∧
          (c.2.1.toNat = limit → exec (.correctedError src die core sub addr synd) s =
            .next (logErr (lastingAction (logErr c.1 r) src die core sub addr) { r with kind := 4 }))))) ∧
    (∀ (a b : DieId), a < b →
      (s.dawn.retraining.contains (a, b) = true →
        exec (.d2dFlitCrcFail a b) s = .next s ∧ exec (.d2dFlitCrcFail b a) s = .next s ∧
        (∃ (t : State), exec (.d2dRetrainEnd a b true) s = .next t ∧ t.dawn.retraining.contains (a, b) = false ∧ t.slots = s.slots ∧ t.dawn.rel = s.dawn.rel) ∧
        (dieLive s b = true → ∃ (u : State), exec (.d2dRetrainEnd a b false) s = .next (loseDie u b) ∧ u.dawn.retraining.contains (a, b) = false ∧ u.slots = s.slots)) ∧
      (s.dawn.retraining.contains (a, b) = false → exec (.d2dRetrainEnd a b true) s = .next s ∧
        (dieLive s a = true → dieLive s b = true →
          let n := (countSite s 8 a b.val (2 ^ 20) 64).2.1
          ∃ (t : State), exec (.d2dFlitCrcFail a b) s = .next t ∧ exec (.d2dFlitCrcFail b a) s = .next t ∧ siteCount t 8 a b.val = n ∧ t.slots = s.slots ∧
            t.dawn.retraining = if n = 64#8 then (a, b) :: s.dawn.retraining else s.dawn.retraining))) ∧
    ∀ (q : Fin 18),
      ((s.ports.get q).up = false → exec (.fabricFlitCrcFail q) s = .next s ∧ exec (.fabricPortDown q) s = .next s) ∧
      ((s.ports.get q).up = true → (∃ (t : State), exec (.fabricFlitCrcFail q) s = .next t ∧ t.ports = s.ports ∧
          siteCount t 9 (portDie q.val) q.val = (countSite s 9 (portDie q.val) q.val (2 ^ 20) 256).2.1) ∧
        exec (.fabricPortDown q) s = .next (takeDown s q) ∧
        ((∀ d i c, ctxAt s d i = some c → c.graph.paths.any (fun x => x.ports.getLsbD q.val) = false) →
          (takeDown s q).ports = s.ports.set q.val { s.ports.get q with up := false, bwm := 0 })) ∧
      ∀ rate : BitVec 11, dieLive s (portDie q.val) = true → rate ≠ 0 → rate.toNat ≤ 1600 →
        exec (.fabricPortRetrain q rate) s = .next { s with ports := s.ports.set q.val { s.ports.get q with up := true, bwm := rate } }

/-- Every SPDM request is answered by its response in a frame of TYPE 5 once the responder runs; before power-on nothing answers. Codes, layouts and hash are those of
log 12. (R365, R366, R367) -/
def Obligations.SpdmRequestsAreAnswered : Prop :=
  ∀ (s : State),
    (responding s = false → ∀ (a h sign last : Bool) (sl : BitVec 4) (x y : BitVec 16) (b c : BitVec 8) (nonce : BitVec 256) (ctx : BitVec 64) (bs : List Byte),
      ∀ j ∈ [Instr.getVersion, .getCapabilities, .negotiateAlgorithms a h, .getDigests, .getCertificate sl x y, .challenge (b, c) (nonce, ctx),
        .getMeasurements b (sign, sl) (nonce, ctx), .chunkSend (b, x) last bs, .chunkGet b x, .unsupportedRequest c], exec j s = .next s) ∧
    (responding s = true →
      let sent := fun (t : State) (bs : List Byte) => t.dawn.out = s.dawn.out ++ [sentFrame 5 0 0 (packDwords bs.length bs)]
      let tells := fun (j : Instr) (bs : List Byte) (f : State → Prop) => ∃ (t : State), exec j s = .next t ∧ t.mem = s.mem ∧ t.slots = s.slots ∧ f t ∧ sent t bs
      let same := fun (t : State) => t.dawn.negotiated = s.dawn.negotiated ∧ t.dawn.large = s.dawn.large ∧ t.dawn.chunks = s.dawn.chunks ∧ t.dawn.meas = s.dawn.meas
      let invalid := fun (j : Instr) => tells j [0x13, 0x7F, 1, 0] same
      let chain := digestBytes Config.certChain
      tells .getVersion [0x10, 0x04, 0, 0, 0, 1, 0, 0x13] (fun t => t.dawn.negotiated = false ∧ t.dawn.large = [] ∧ t.dawn.chunks = []) ∧
      (∃ ct : Byte, tells .getCapabilities ([0x13, 0x61, 0, 0, 0, ct, 0, 0] ++ leBytes 4 0x20016 ++ leBytes 4 4096 ++ leBytes 4 65536) same) ∧
      invalid (.negotiateAlgorithms false false) ∧
      (∀ a h : Bool, (a || h) = true → ∃ (t : State) (bs : List Byte), exec (.negotiateAlgorithms a h) s = .next t ∧ t.dawn.negotiated = true ∧
        sent t bs ∧ bs.take 2 = [0x13, 0x63] ∧
        bs.length = 36 + (if a then 4 else 0) + (if h then 4 else 0) ∧ bs.getD 4 0 = BitVec.ofNat 8 bs.length) ∧
      (s.dawn.negotiated = false → ∀ (sl : BitVec 4) (x y : BitVec 16) (b c : BitVec 8) (sign : Bool) (nonce : BitVec 256) (ctx : BitVec 64),
        ∀ j ∈ [Instr.getDigests, .getCertificate sl x y, .challenge (b, c) (nonce, ctx), .getMeasurements b (sign, sl) (nonce, ctx)], tells j [0x13, 0x7F, 4, 0] same) ∧
      (s.dawn.negotiated = true →
        tells .getDigests ([0x13, 0x01, 1, 1] ++ chain) same ∧
        (∀ (sl : BitVec 4) (x y : BitVec 16),
          let rest := Config.certChain.drop x.toNat
          let k := min (min y.toNat 4088) rest.length
          ((sl ≠ 0 ∨ rest = []) → invalid (.getCertificate sl x y)) ∧
          (sl = 0 → rest ≠ [] → tells (.getCertificate sl x y) ([0x13, 0x02, 0, 0] ++ leBytes 2 k ++ leBytes 2 (rest.length - k) ++ rest.take k) same)) ∧
        (∀ (sl kind : BitVec 8) (nonce : BitVec 256) (ctx : BitVec 64),
          ((sl ≠ 0 ∨ (kind ≠ 0 ∧ kind ≠ 1 ∧ kind ≠ 0xFF)) → invalid (.challenge (sl, kind) (nonce, ctx))) ∧
          (sl = 0 → ∀ sum, measSummary s kind = some sum → ∃ (u : State) (drawn : BitVec 256),
            let body := [0x13, 0x03, 0, 1] ++ chain ++ bvBytes 32 drawn ++ sum ++ leBytes 2 0 ++ bvBytes 8 ctx
            exec (.challenge (sl, kind) (nonce, ctx)) s = .next (answer (u, body ++ (Config.sign (bvBytes 32 nonce ++ body)).toList)) ∧ u.dawn = s.dawn ∧ u.mem = s.mem)) ∧
        (measSummary s 0 = some [] ∧ measSummary s 0xFF = some (digestBytes ((measBlocks s).flatMap (fun b => measBlock b.1 b.2)))) ∧
        (∀ (op : BitVec 8) (sign : Bool) (sl : BitVec 4) (nonce : BitVec 256) (ctx : BitVec 64),
          let asked := if op = 0xFF#8 then measBlocks s else (measBlocks s).filter (fun b => b.1 == op.toNat)
          let reply := fun (num : Byte) (sel : List (Nat × BitVec 512)) => ∃ (u : State) (drawn : BitVec 256),
            let data := sel.flatMap (fun b => measBlock b.1 b.2)
            let body := [0x13, 0x60, num, 0, BitVec.ofNat 8 sel.length] ++ leBytes 3 data.length ++ data ++ bvBytes 32 drawn ++ leBytes 2 0 ++ bvBytes 8 ctx
            exec (.getMeasurements op (sign, sl) (nonce, ctx)) s = .next (answer (u, if sign then body ++ (Config.sign (bvBytes 32 nonce ++ body)).toList else body)) ∧
              u.dawn = s.dawn ∧ u.mem = s.mem
          (sign = true → sl ≠ 0 → invalid (.getMeasurements op (sign, sl) (nonce, ctx))) ∧
          ((sign = false ∨ sl = 0) →
            (op = 0 → reply (BitVec.ofNat 8 (measBlocks s).length) []) ∧ (op = 0xFF#8 → reply 0 asked) ∧ (op ≠ 0 → op ≠ 0xFF#8 → asked ≠ [] → reply 0 asked) ∧
            (op ≠ 0 → op ≠ 0xFF#8 → asked = [] → invalid (.getMeasurements op (sign, sl) (nonce, ctx)))))) ∧
      (∀ (h : BitVec 8) (seq : BitVec 16) (bs : List Byte),
        let head := fun (early : Byte) => [0x13, 0x05, early, h] ++ leBytes 2 seq.toNat
        let inOrder := seq = 0 ∨ (seq.toNat = s.dawn.chunkNext ∧ h = s.dawn.chunkHandle)
        let whole := (if seq = 0 then [] else s.dawn.chunks) ++ bs
        (¬ inOrder → ∀ last, tells (.chunkSend (h, seq) last bs) (head 1 ++ [0x13, 0x7F, 1, 0]) (fun t => t.dawn.chunks = [])) ∧
        (inOrder → 65536 < whole.length → ∀ last, tells (.chunkSend (h, seq) last bs) (head 1 ++ [0x13, 0x7F, 0x0E, 0]) (fun t => t.dawn.chunks = [])) ∧
        (inOrder → whole.length ≤ 65536 →
          tells (.chunkSend (h, seq) false bs) (head 0) (fun t => t.dawn.chunks = whole ∧ t.dawn.chunkHandle = h ∧ t.dawn.chunkNext = seq.toNat + 1) ∧
          let x := wholeRequest { s with dawn := { s.dawn with chunks := [], chunkHandle := h, chunkNext := 0 } } whole
          let y := respond x.1 x.2
          exec (.chunkSend (h, seq) true bs) s = .next (answer (y.1, head 0 ++ y.2)))) ∧
      (∀ (h : BitVec 8) (seq : BitVec 16),
        let off := if seq = 0 then 0 else 4080 + 4084 * (seq.toNat - 1)
        let part := (s.dawn.large.drop off).take (if seq = 0 then 4080 else 4084)
        let last := off + part.length = s.dawn.large.length
        ((part = [] ∨ h ≠ s.dawn.handle) → invalid (.chunkGet h seq)) ∧
        (part ≠ [] → h = s.dawn.handle → tells (.chunkGet h seq) ([0x13, 0x06, if last then 1 else 0, h] ++ leBytes 2 seq.toNat ++ [0, 0] ++ leBytes 4 part.length ++
          (if seq = 0 then leBytes 4 s.dawn.large.length else []) ++ part) (fun t => t.dawn.large = if last then [] else s.dawn.large))) ∧
      ∀ code : Byte, tells (.unsupportedRequest code) [0x13, 0x7F, 7, code] same)
end

