-- ==== Sys2Proof/Laws/State.lean ====
section
/-! SUPPORT. Sys2Proof/Laws/State.lean: one lemma per field per update of the state, and reading what was just replaced. -/

namespace Sys2Proof.Machine

open Sys2Proof

/-! ## setSlot -/

@[simp] theorem State.setSlot_curPlace (s : State) (p : Place) (x : Slot) : (s.setSlot p x).curPlace = s.curPlace := rfl
@[simp] theorem State.setSlot_curStream (s : State) (p : Place) (x : Slot) : (s.setSlot p x).curStream = s.curStream := rfl
@[simp] theorem State.setSlot_turns (s : State) (p : Place) (x : Slot) : (s.setSlot p x).turns = s.turns := rfl
@[simp] theorem State.setSlot_fresh (s : State) (p : Place) (x : Slot) : (s.setSlot p x).fresh = s.fresh := rfl
@[simp] theorem State.setSlot_mem (s : State) (p : Place) (x : Slot) : (s.setSlot p x).mem = s.mem := rfl
@[simp] theorem State.setSlot_sram (s : State) (p : Place) (x : Slot) : (s.setSlot p x).sram = s.sram := rfl
@[simp] theorem State.setSlot_epochs (s : State) (p : Place) (x : Slot) : (s.setSlot p x).epochs = s.epochs := rfl
@[simp] theorem State.setSlot_poison (s : State) (p : Place) (x : Slot) : (s.setSlot p x).poison = s.poison := rfl
@[simp] theorem State.setSlot_spadPoison (s : State) (p : Place) (x : Slot) : (s.setSlot p x).spadPoison = s.spadPoison := rfl
@[simp] theorem State.setSlot_cores (s : State) (p : Place) (x : Slot) : (s.setSlot p x).cores = s.cores := rfl
@[simp] theorem State.setSlot_clusters (s : State) (p : Place) (x : Slot) : (s.setSlot p x).clusters = s.clusters := rfl
@[simp] theorem State.setSlot_dies (s : State) (p : Place) (x : Slot) : (s.setSlot p x).dies = s.dies := rfl
@[simp] theorem State.setSlot_ports (s : State) (p : Place) (x : Slot) : (s.setSlot p x).ports = s.ports := rfl
@[simp] theorem State.setSlot_fabric (s : State) (p : Place) (x : Slot) : (s.setSlot p x).fabric = s.fabric := rfl
@[simp] theorem State.setSlot_sites (s : State) (p : Place) (x : Slot) : (s.setSlot p x).sites = s.sites := rfl
@[simp] theorem State.setSlot_chains (s : State) (p : Place) (x : Slot) : (s.setSlot p x).chains = s.chains := rfl
@[simp] theorem State.setSlot_dawn (s : State) (p : Place) (x : Slot) : (s.setSlot p x).dawn = s.dawn := rfl
@[simp] theorem State.setSlot_inCycle (s : State) (p : Place) (x : Slot) : (s.setSlot p x).inCycle = s.inCycle := rfl
@[simp] theorem State.setSlot_barriers (s : State) (p : Place) (x : Slot) : (s.setSlot p x).barriers = s.barriers := rfl
@[simp] theorem State.setSlot_openPcs (s : State) (p : Place) (x : Slot) : (s.setSlot p x).openPcs = s.openPcs := rfl
@[simp] theorem State.setSlot_now (s : State) (p : Place) (x : Slot) : (s.setSlot p x).now = s.now := rfl
@[simp] theorem State.setSlot_touched (s : State) (p : Place) (x : Slot) : (s.setSlot p x).touched = s.touched := rfl
@[simp] theorem State.setSlot_aborts (s : State) (p : Place) (x : Slot) : (s.setSlot p x).aborts = s.aborts := rfl

/-! ## setCore -/

@[simp] theorem State.setCore_curPlace (s : State) (p : CoreId) (x : Core) : (s.setCore p x).curPlace = s.curPlace := rfl
@[simp] theorem State.setCore_curStream (s : State) (p : CoreId) (x : Core) : (s.setCore p x).curStream = s.curStream := rfl
@[simp] theorem State.setCore_turns (s : State) (p : CoreId) (x : Core) : (s.setCore p x).turns = s.turns := rfl
@[simp] theorem State.setCore_fresh (s : State) (p : CoreId) (x : Core) : (s.setCore p x).fresh = s.fresh := rfl
@[simp] theorem State.setCore_mem (s : State) (p : CoreId) (x : Core) : (s.setCore p x).mem = s.mem := rfl
@[simp] theorem State.setCore_sram (s : State) (p : CoreId) (x : Core) : (s.setCore p x).sram = s.sram := rfl
@[simp] theorem State.setCore_epochs (s : State) (p : CoreId) (x : Core) : (s.setCore p x).epochs = s.epochs := rfl
@[simp] theorem State.setCore_poison (s : State) (p : CoreId) (x : Core) : (s.setCore p x).poison = s.poison := rfl
@[simp] theorem State.setCore_spadPoison (s : State) (p : CoreId) (x : Core) : (s.setCore p x).spadPoison = s.spadPoison := rfl
@[simp] theorem State.setCore_slots (s : State) (p : CoreId) (x : Core) : (s.setCore p x).slots = s.slots := rfl
@[simp] theorem State.setCore_clusters (s : State) (p : CoreId) (x : Core) : (s.setCore p x).clusters = s.clusters := rfl
@[simp] theorem State.setCore_dies (s : State) (p : CoreId) (x : Core) : (s.setCore p x).dies = s.dies := rfl
@[simp] theorem State.setCore_ports (s : State) (p : CoreId) (x : Core) : (s.setCore p x).ports = s.ports := rfl
@[simp] theorem State.setCore_fabric (s : State) (p : CoreId) (x : Core) : (s.setCore p x).fabric = s.fabric := rfl
@[simp] theorem State.setCore_sites (s : State) (p : CoreId) (x : Core) : (s.setCore p x).sites = s.sites := rfl
@[simp] theorem State.setCore_chains (s : State) (p : CoreId) (x : Core) : (s.setCore p x).chains = s.chains := rfl
@[simp] theorem State.setCore_dawn (s : State) (p : CoreId) (x : Core) : (s.setCore p x).dawn = s.dawn := rfl
@[simp] theorem State.setCore_inCycle (s : State) (p : CoreId) (x : Core) : (s.setCore p x).inCycle = s.inCycle := rfl
@[simp] theorem State.setCore_barriers (s : State) (p : CoreId) (x : Core) : (s.setCore p x).barriers = s.barriers := rfl
@[simp] theorem State.setCore_openPcs (s : State) (p : CoreId) (x : Core) : (s.setCore p x).openPcs = s.openPcs := rfl
@[simp] theorem State.setCore_now (s : State) (p : CoreId) (x : Core) : (s.setCore p x).now = s.now := rfl
@[simp] theorem State.setCore_touched (s : State) (p : CoreId) (x : Core) : (s.setCore p x).touched = s.touched := rfl
@[simp] theorem State.setCore_aborts (s : State) (p : CoreId) (x : Core) : (s.setCore p x).aborts = s.aborts := rfl

/-! ## setCluster -/

@[simp] theorem State.setCluster_curPlace (s : State) (p : ClusterId) (x : Cluster) : (s.setCluster p x).curPlace = s.curPlace := rfl
@[simp] theorem State.setCluster_curStream (s : State) (p : ClusterId) (x : Cluster) : (s.setCluster p x).curStream = s.curStream := rfl
@[simp] theorem State.setCluster_turns (s : State) (p : ClusterId) (x : Cluster) : (s.setCluster p x).turns = s.turns := rfl
@[simp] theorem State.setCluster_fresh (s : State) (p : ClusterId) (x : Cluster) : (s.setCluster p x).fresh = s.fresh := rfl
@[simp] theorem State.setCluster_mem (s : State) (p : ClusterId) (x : Cluster) : (s.setCluster p x).mem = s.mem := rfl
@[simp] theorem State.setCluster_sram (s : State) (p : ClusterId) (x : Cluster) : (s.setCluster p x).sram = s.sram := rfl
@[simp] theorem State.setCluster_epochs (s : State) (p : ClusterId) (x : Cluster) : (s.setCluster p x).epochs = s.epochs := rfl
@[simp] theorem State.setCluster_poison (s : State) (p : ClusterId) (x : Cluster) : (s.setCluster p x).poison = s.poison := rfl
@[simp] theorem State.setCluster_spadPoison (s : State) (p : ClusterId) (x : Cluster) : (s.setCluster p x).spadPoison = s.spadPoison := rfl
@[simp] theorem State.setCluster_slots (s : State) (p : ClusterId) (x : Cluster) : (s.setCluster p x).slots = s.slots := rfl
@[simp] theorem State.setCluster_cores (s : State) (p : ClusterId) (x : Cluster) : (s.setCluster p x).cores = s.cores := rfl
@[simp] theorem State.setCluster_dies (s : State) (p : ClusterId) (x : Cluster) : (s.setCluster p x).dies = s.dies := rfl
@[simp] theorem State.setCluster_ports (s : State) (p : ClusterId) (x : Cluster) : (s.setCluster p x).ports = s.ports := rfl
@[simp] theorem State.setCluster_fabric (s : State) (p : ClusterId) (x : Cluster) : (s.setCluster p x).fabric = s.fabric := rfl
@[simp] theorem State.setCluster_sites (s : State) (p : ClusterId) (x : Cluster) : (s.setCluster p x).sites = s.sites := rfl
@[simp] theorem State.setCluster_chains (s : State) (p : ClusterId) (x : Cluster) : (s.setCluster p x).chains = s.chains := rfl
@[simp] theorem State.setCluster_dawn (s : State) (p : ClusterId) (x : Cluster) : (s.setCluster p x).dawn = s.dawn := rfl
@[simp] theorem State.setCluster_inCycle (s : State) (p : ClusterId) (x : Cluster) : (s.setCluster p x).inCycle = s.inCycle := rfl
@[simp] theorem State.setCluster_barriers (s : State) (p : ClusterId) (x : Cluster) : (s.setCluster p x).barriers = s.barriers := rfl
@[simp] theorem State.setCluster_openPcs (s : State) (p : ClusterId) (x : Cluster) : (s.setCluster p x).openPcs = s.openPcs := rfl
@[simp] theorem State.setCluster_now (s : State) (p : ClusterId) (x : Cluster) : (s.setCluster p x).now = s.now := rfl
@[simp] theorem State.setCluster_touched (s : State) (p : ClusterId) (x : Cluster) : (s.setCluster p x).touched = s.touched := rfl
@[simp] theorem State.setCluster_aborts (s : State) (p : ClusterId) (x : Cluster) : (s.setCluster p x).aborts = s.aborts := rfl

/-! ## setDie -/

@[simp] theorem State.setDie_curPlace (s : State) (p : DieId) (x : Die) : (s.setDie p x).curPlace = s.curPlace := rfl
@[simp] theorem State.setDie_curStream (s : State) (p : DieId) (x : Die) : (s.setDie p x).curStream = s.curStream := rfl
@[simp] theorem State.setDie_turns (s : State) (p : DieId) (x : Die) : (s.setDie p x).turns = s.turns := rfl
@[simp] theorem State.setDie_fresh (s : State) (p : DieId) (x : Die) : (s.setDie p x).fresh = s.fresh := rfl
@[simp] theorem State.setDie_mem (s : State) (p : DieId) (x : Die) : (s.setDie p x).mem = s.mem := rfl
@[simp] theorem State.setDie_sram (s : State) (p : DieId) (x : Die) : (s.setDie p x).sram = s.sram := rfl
@[simp] theorem State.setDie_epochs (s : State) (p : DieId) (x : Die) : (s.setDie p x).epochs = s.epochs := rfl
@[simp] theorem State.setDie_poison (s : State) (p : DieId) (x : Die) : (s.setDie p x).poison = s.poison := rfl
@[simp] theorem State.setDie_spadPoison (s : State) (p : DieId) (x : Die) : (s.setDie p x).spadPoison = s.spadPoison := rfl
@[simp] theorem State.setDie_slots (s : State) (p : DieId) (x : Die) : (s.setDie p x).slots = s.slots := rfl
@[simp] theorem State.setDie_cores (s : State) (p : DieId) (x : Die) : (s.setDie p x).cores = s.cores := rfl
@[simp] theorem State.setDie_clusters (s : State) (p : DieId) (x : Die) : (s.setDie p x).clusters = s.clusters := rfl
@[simp] theorem State.setDie_ports (s : State) (p : DieId) (x : Die) : (s.setDie p x).ports = s.ports := rfl
@[simp] theorem State.setDie_fabric (s : State) (p : DieId) (x : Die) : (s.setDie p x).fabric = s.fabric := rfl
@[simp] theorem State.setDie_sites (s : State) (p : DieId) (x : Die) : (s.setDie p x).sites = s.sites := rfl
@[simp] theorem State.setDie_chains (s : State) (p : DieId) (x : Die) : (s.setDie p x).chains = s.chains := rfl
@[simp] theorem State.setDie_dawn (s : State) (p : DieId) (x : Die) : (s.setDie p x).dawn = s.dawn := rfl
@[simp] theorem State.setDie_inCycle (s : State) (p : DieId) (x : Die) : (s.setDie p x).inCycle = s.inCycle := rfl
@[simp] theorem State.setDie_barriers (s : State) (p : DieId) (x : Die) : (s.setDie p x).barriers = s.barriers := rfl
@[simp] theorem State.setDie_openPcs (s : State) (p : DieId) (x : Die) : (s.setDie p x).openPcs = s.openPcs := rfl
@[simp] theorem State.setDie_now (s : State) (p : DieId) (x : Die) : (s.setDie p x).now = s.now := rfl
@[simp] theorem State.setDie_touched (s : State) (p : DieId) (x : Die) : (s.setDie p x).touched = s.touched := rfl
@[simp] theorem State.setDie_aborts (s : State) (p : DieId) (x : Die) : (s.setDie p x).aborts = s.aborts := rfl

/-! ## setGroup -/

@[simp] theorem State.setGroup_curPlace (s : State) (p : Place) (x : Group) : (s.setGroup p x).curPlace = s.curPlace := rfl
@[simp] theorem State.setGroup_curStream (s : State) (p : Place) (x : Group) : (s.setGroup p x).curStream = s.curStream := rfl
@[simp] theorem State.setGroup_turns (s : State) (p : Place) (x : Group) : (s.setGroup p x).turns = s.turns := rfl
@[simp] theorem State.setGroup_fresh (s : State) (p : Place) (x : Group) : (s.setGroup p x).fresh = s.fresh := rfl
@[simp] theorem State.setGroup_mem (s : State) (p : Place) (x : Group) : (s.setGroup p x).mem = s.mem := rfl
@[simp] theorem State.setGroup_sram (s : State) (p : Place) (x : Group) : (s.setGroup p x).sram = s.sram := rfl
@[simp] theorem State.setGroup_epochs (s : State) (p : Place) (x : Group) : (s.setGroup p x).epochs = s.epochs := rfl
@[simp] theorem State.setGroup_poison (s : State) (p : Place) (x : Group) : (s.setGroup p x).poison = s.poison := rfl
@[simp] theorem State.setGroup_spadPoison (s : State) (p : Place) (x : Group) : (s.setGroup p x).spadPoison = s.spadPoison := rfl
@[simp] theorem State.setGroup_cores (s : State) (p : Place) (x : Group) : (s.setGroup p x).cores = s.cores := rfl
@[simp] theorem State.setGroup_clusters (s : State) (p : Place) (x : Group) : (s.setGroup p x).clusters = s.clusters := rfl
@[simp] theorem State.setGroup_dies (s : State) (p : Place) (x : Group) : (s.setGroup p x).dies = s.dies := rfl
@[simp] theorem State.setGroup_ports (s : State) (p : Place) (x : Group) : (s.setGroup p x).ports = s.ports := rfl
@[simp] theorem State.setGroup_fabric (s : State) (p : Place) (x : Group) : (s.setGroup p x).fabric = s.fabric := rfl
@[simp] theorem State.setGroup_sites (s : State) (p : Place) (x : Group) : (s.setGroup p x).sites = s.sites := rfl
@[simp] theorem State.setGroup_chains (s : State) (p : Place) (x : Group) : (s.setGroup p x).chains = s.chains := rfl
@[simp] theorem State.setGroup_dawn (s : State) (p : Place) (x : Group) : (s.setGroup p x).dawn = s.dawn := rfl
@[simp] theorem State.setGroup_inCycle (s : State) (p : Place) (x : Group) : (s.setGroup p x).inCycle = s.inCycle := rfl
@[simp] theorem State.setGroup_barriers (s : State) (p : Place) (x : Group) : (s.setGroup p x).barriers = s.barriers := rfl
@[simp] theorem State.setGroup_openPcs (s : State) (p : Place) (x : Group) : (s.setGroup p x).openPcs = s.openPcs := rfl
@[simp] theorem State.setGroup_now (s : State) (p : Place) (x : Group) : (s.setGroup p x).now = s.now := rfl
@[simp] theorem State.setGroup_touched (s : State) (p : Place) (x : Group) : (s.setGroup p x).touched = s.touched := rfl
@[simp] theorem State.setGroup_aborts (s : State) (p : Place) (x : Group) : (s.setGroup p x).aborts = s.aborts := rfl

/-! ## setStream, setQueue, setTok -/

@[simp] theorem Group.setStream_lr (g : Group) (st : StreamId) (t : Stream) : (g.setStream st t).lr = g.lr := rfl
@[simp] theorem Group.setStream_gindex (g : Group) (st : StreamId) (t : Stream) : (g.setStream st t).gindex = g.gindex := rfl
@[simp] theorem Group.setStream_cls (g : Group) (st : StreamId) (t : Stream) : (g.setStream st t).cls = g.cls := rfl
@[simp] theorem Group.setStream_v (g : Group) (st : StreamId) (t : Stream) : (g.setStream st t).v = g.v := rfl
@[simp] theorem Group.setStream_t (g : Group) (st : StreamId) (t : Stream) : (g.setStream st t).t = g.t := rfl
@[simp] theorem Group.setStream_p (g : Group) (st : StreamId) (t : Stream) : (g.setStream st t).p = g.p := rfl
@[simp] theorem Group.setStream_h (g : Group) (st : StreamId) (t : Stream) : (g.setStream st t).h = g.h := rfl
@[simp] theorem Group.setStream_ev (g : Group) (st : StreamId) (t : Stream) : (g.setStream st t).ev = g.ev := rfl
@[simp] theorem Group.setStream_evstat (g : Group) (st : StreamId) (t : Stream) : (g.setStream st t).evstat = g.evstat := rfl
@[simp] theorem Group.setStream_tokens (g : Group) (st : StreamId) (t : Stream) : (g.setStream st t).tokens = g.tokens := rfl
@[simp] theorem Group.setStream_queues (g : Group) (st : StreamId) (t : Stream) : (g.setStream st t).queues = g.queues := rfl
@[simp] theorem Group.setStream_mrs (g : Group) (st : StreamId) (t : Stream) : (g.setStream st t).mrs = g.mrs := rfl
@[simp] theorem Group.setStream_vrs (g : Group) (st : StreamId) (t : Stream) : (g.setStream st t).vrs = g.vrs := rfl
@[simp] theorem Group.setStream_pages (g : Group) (st : StreamId) (t : Stream) : (g.setStream st t).pages = g.pages := rfl
@[simp] theorem Group.setStream_syncf (g : Group) (st : StreamId) (t : Stream) : (g.setStream st t).syncf = g.syncf := rfl
@[simp] theorem Group.setStream_chans (g : Group) (st : StreamId) (t : Stream) : (g.setStream st t).chans = g.chans := rfl
@[simp] theorem Group.setStream_stages (g : Group) (st : StreamId) (t : Stream) : (g.setStream st t).stages = g.stages := rfl
@[simp] theorem Group.setStream_rq (g : Group) (st : StreamId) (t : Stream) : (g.setStream st t).rq = g.rq := rfl
@[simp] theorem Group.setStream_cnum (g : Group) (st : StreamId) (t : Stream) : (g.setStream st t).cnum = g.cnum := rfl
@[simp] theorem Group.setStream_tkts (g : Group) (st : StreamId) (t : Stream) : (g.setStream st t).tkts = g.tkts := rfl
@[simp] theorem Group.setStream_lostTkt (g : Group) (st : StreamId) (t : Stream) : (g.setStream st t).lostTkt = g.lostTkt := rfl
@[simp] theorem Group.setStream_qdone (g : Group) (st : StreamId) (t : Stream) : (g.setStream st t).qdone = g.qdone := rfl
@[simp] theorem Group.setStream_qacc (g : Group) (st : StreamId) (t : Stream) : (g.setStream st t).qacc = g.qacc := rfl
@[simp] theorem Group.setStream_evwait (g : Group) (st : StreamId) (t : Stream) : (g.setStream st t).evwait = g.evwait := rfl
@[simp] theorem Group.setStream_scat (g : Group) (st : StreamId) (t : Stream) : (g.setStream st t).scat = g.scat := rfl
@[simp] theorem Group.setStream_decstall (g : Group) (st : StreamId) (t : Stream) : (g.setStream st t).decstall = g.decstall := rfl
@[simp] theorem Group.setStream_headwait (g : Group) (st : StreamId) (t : Stream) : (g.setStream st t).headwait = g.headwait := rfl
@[simp] theorem Group.setStream_stopping (g : Group) (st : StreamId) (t : Stream) : (g.setStream st t).stopping = g.stopping := rfl
@[simp] theorem Group.setStream_halt (g : Group) (st : StreamId) (t : Stream) : (g.setStream st t).halt = g.halt := rfl
@[simp] theorem Group.setStream_trapped (g : Group) (st : StreamId) (t : Stream) : (g.setStream st t).trapped = g.trapped := rfl
@[simp] theorem Group.setStream_damaged (g : Group) (st : StreamId) (t : Stream) : (g.setStream st t).damaged = g.damaged := rfl
@[simp] theorem Group.setStream_nextId (g : Group) (st : StreamId) (t : Stream) : (g.setStream st t).nextId = g.nextId := rfl
@[simp] theorem Group.setStream_tokSets (g : Group) (st : StreamId) (t : Stream) : (g.setStream st t).tokSets = g.tokSets := rfl
@[simp] theorem Group.setStream_evSets (g : Group) (st : StreamId) (t : Stream) : (g.setStream st t).evSets = g.evSets := rfl

@[simp] theorem Group.setQueue_lr (g : Group) (q : QueueId) (l : List QEntry) : (g.setQueue q l).lr = g.lr := rfl
@[simp] theorem Group.setQueue_gindex (g : Group) (q : QueueId) (l : List QEntry) : (g.setQueue q l).gindex = g.gindex := rfl
@[simp] theorem Group.setQueue_cls (g : Group) (q : QueueId) (l : List QEntry) : (g.setQueue q l).cls = g.cls := rfl
@[simp] theorem Group.setQueue_v (g : Group) (q : QueueId) (l : List QEntry) : (g.setQueue q l).v = g.v := rfl
@[simp] theorem Group.setQueue_t (g : Group) (q : QueueId) (l : List QEntry) : (g.setQueue q l).t = g.t := rfl
@[simp] theorem Group.setQueue_p (g : Group) (q : QueueId) (l : List QEntry) : (g.setQueue q l).p = g.p := rfl
@[simp] theorem Group.setQueue_h (g : Group) (q : QueueId) (l : List QEntry) : (g.setQueue q l).h = g.h := rfl
@[simp] theorem Group.setQueue_ev (g : Group) (q : QueueId) (l : List QEntry) : (g.setQueue q l).ev = g.ev := rfl
@[simp] theorem Group.setQueue_evstat (g : Group) (q : QueueId) (l : List QEntry) : (g.setQueue q l).evstat = g.evstat := rfl
@[simp] theorem Group.setQueue_tokens (g : Group) (q : QueueId) (l : List QEntry) : (g.setQueue q l).tokens = g.tokens := rfl
@[simp] theorem Group.setQueue_mrs (g : Group) (q : QueueId) (l : List QEntry) : (g.setQueue q l).mrs = g.mrs := rfl
@[simp] theorem Group.setQueue_vrs (g : Group) (q : QueueId) (l : List QEntry) : (g.setQueue q l).vrs = g.vrs := rfl
@[simp] theorem Group.setQueue_pages (g : Group) (q : QueueId) (l : List QEntry) : (g.setQueue q l).pages = g.pages := rfl
@[simp] theorem Group.setQueue_syncf (g : Group) (q : QueueId) (l : List QEntry) : (g.setQueue q l).syncf = g.syncf := rfl
@[simp] theorem Group.setQueue_chans (g : Group) (q : QueueId) (l : List QEntry) : (g.setQueue q l).chans = g.chans := rfl
@[simp] theorem Group.setQueue_stages (g : Group) (q : QueueId) (l : List QEntry) : (g.setQueue q l).stages = g.stages := rfl
@[simp] theorem Group.setQueue_rq (g : Group) (q : QueueId) (l : List QEntry) : (g.setQueue q l).rq = g.rq := rfl
@[simp] theorem Group.setQueue_cnum (g : Group) (q : QueueId) (l : List QEntry) : (g.setQueue q l).cnum = g.cnum := rfl
@[simp] theorem Group.setQueue_tkts (g : Group) (q : QueueId) (l : List QEntry) : (g.setQueue q l).tkts = g.tkts := rfl
@[simp] theorem Group.setQueue_lostTkt (g : Group) (q : QueueId) (l : List QEntry) : (g.setQueue q l).lostTkt = g.lostTkt := rfl
@[simp] theorem Group.setQueue_qdone (g : Group) (q : QueueId) (l : List QEntry) : (g.setQueue q l).qdone = g.qdone := rfl
@[simp] theorem Group.setQueue_qacc (g : Group) (q : QueueId) (l : List QEntry) : (g.setQueue q l).qacc = g.qacc := rfl
@[simp] theorem Group.setQueue_evwait (g : Group) (q : QueueId) (l : List QEntry) : (g.setQueue q l).evwait = g.evwait := rfl
@[simp] theorem Group.setQueue_scat (g : Group) (q : QueueId) (l : List QEntry) : (g.setQueue q l).scat = g.scat := rfl
@[simp] theorem Group.setQueue_decstall (g : Group) (q : QueueId) (l : List QEntry) : (g.setQueue q l).decstall = g.decstall := rfl
@[simp] theorem Group.setQueue_headwait (g : Group) (q : QueueId) (l : List QEntry) : (g.setQueue q l).headwait = g.headwait := rfl
@[simp] theorem Group.setQueue_stopping (g : Group) (q : QueueId) (l : List QEntry) : (g.setQueue q l).stopping = g.stopping := rfl
@[simp] theorem Group.setQueue_halt (g : Group) (q : QueueId) (l : List QEntry) : (g.setQueue q l).halt = g.halt := rfl
@[simp] theorem Group.setQueue_trapped (g : Group) (q : QueueId) (l : List QEntry) : (g.setQueue q l).trapped = g.trapped := rfl
@[simp] theorem Group.setQueue_damaged (g : Group) (q : QueueId) (l : List QEntry) : (g.setQueue q l).damaged = g.damaged := rfl
@[simp] theorem Group.setQueue_nextId (g : Group) (q : QueueId) (l : List QEntry) : (g.setQueue q l).nextId = g.nextId := rfl
@[simp] theorem Group.setQueue_streams (g : Group) (q : QueueId) (l : List QEntry) : (g.setQueue q l).streams = g.streams := rfl
@[simp] theorem Group.setQueue_tokSets (g : Group) (q : QueueId) (l : List QEntry) : (g.setQueue q l).tokSets = g.tokSets := rfl
@[simp] theorem Group.setQueue_evSets (g : Group) (q : QueueId) (l : List QEntry) : (g.setQueue q l).evSets = g.evSets := rfl

/-! ## Reading what was replaced -/

theorem StreamId.toFin_inj {a b : StreamId} (h : a.toFin.val = b.toFin.val) : a = b := by
  cases a <;> cases b <;> first | rfl | simp [StreamId.toFin] at h

theorem QueueId.toFin_inj {a b : QueueId} (h : a.toFin.val = b.toFin.val) : a = b := by
  cases a <;> cases b <;> first | rfl | simp [QueueId.toFin] at h

@[simp] theorem State.setSlot_setSlot (s : State) (p : Place) (x y : Slot) : (s.setSlot p x).setSlot p y = s.setSlot p y := by
  simp [State.setSlot]

@[simp] theorem State.slot_setSlot (s : State) (p : Place) (x : Slot) : (s.setSlot p x).slot p = x := by
  simp [State.setSlot, State.slot, Vector.get_eq_getElem]

theorem State.slot_setSlot_ne (s : State) {p q : Place} (x : Slot) (h : q ≠ p) : (s.setSlot p x).slot q = s.slot q := by
  have h' : p.val ≠ q.val := fun e => h (Fin.ext e.symm)
  simp [State.setSlot, State.slot, Vector.get_eq_getElem, h']

@[simp] theorem State.setGroup_setGroup (s : State) (p : Place) (x y : Group) : (s.setGroup p x).setGroup p y = s.setGroup p y := by
  simp [State.setGroup]

@[simp] theorem State.group_setGroup (s : State) (p : Place) (x : Group) : (s.setGroup p x).group p = some x := by
  simp [State.setGroup, State.group, State.setSlot, Vector.get_eq_getElem]

@[simp] theorem State.slot_setGroup (s : State) (p : Place) (x : Group) :
    (s.setGroup p x).slot p = { s.slot p with group := some x } := by
  simp [State.setGroup]

theorem State.slot_setGroup_ne (s : State) {p q : Place} (x : Group) (h : q ≠ p) : (s.setGroup p x).slot q = s.slot q :=
  State.slot_setSlot_ne s _ h

@[simp] theorem Group.stream_setStream (g : Group) (st : StreamId) (t : Stream) : (g.setStream st t).stream st = t := by
  simp [Group.setStream, Group.stream, Vector.get_eq_getElem]

theorem Group.stream_setStream_ne (g : Group) {st st' : StreamId} (t : Stream) (h : st' ≠ st) :
    (g.setStream st t).stream st' = g.stream st' := by
  have h' : st.toFin.val ≠ st'.toFin.val := fun e => h (StreamId.toFin_inj e.symm)
  simp [Group.setStream, Group.stream, Vector.get_eq_getElem, h']

@[simp] theorem Group.setStream_setStream (g : Group) (st : StreamId) (t u : Stream) :
    (g.setStream st t).setStream st u = g.setStream st u := by
  simp [Group.setStream]

@[simp] theorem Group.queue_setQueue (g : Group) (q : QueueId) (l : List QEntry) : (g.setQueue q l).queue q = l := by
  simp [Group.setQueue, Group.queue, Vector.get_eq_getElem]

theorem Group.queue_setQueue_ne (g : Group) {q q' : QueueId} (l : List QEntry) (h : q' ≠ q) : (g.setQueue q l).queue q' = g.queue q' := by
  have h' : q.toFin.val ≠ q'.toFin.val := fun e => h (QueueId.toFin_inj e.symm)
  simp [Group.setQueue, Group.queue, Vector.get_eq_getElem, h']

@[simp] theorem Group.stream_setQueue (g : Group) (q : QueueId) (l : List QEntry) (st : StreamId) :
    (g.setQueue q l).stream st = g.stream st := rfl

@[simp] theorem Group.queue_setStream (g : Group) (st : StreamId) (t : Stream) (q : QueueId) :
    (g.setStream st t).queue q = g.queue q := rfl

end Sys2Proof.Machine
end

