-- ==== Sys2Proof/Laws/Memory.lean ====
section
/-! SUPPORT. Sys2Proof/Laws/Memory.lean: the canonical form is kept by every memory operation, and what a byte reads as after a write. -/

namespace Sys2Proof.Machine

open Sys2Proof

/-! ## Lists of cells -/

theorem cellsOf_mem {a : Nat} {bs : List Byte} {c : Host.Cell} (h : c ∈ cellsOf a bs) : a ≤ c.1 ∧ c.1 < a + bs.length ∧ c.2 ≠ unlisted := by
  induction bs generalizing a with
  | nil => cases h
  | cons b bs ih =>
    simp only [cellsOf] at h
    split at h
    · have := ih h
      simp only [List.length_cons]; exact ⟨by omega, by omega, this.2.2⟩
    · rcases List.mem_cons.1 h with rfl | h
      · simp; assumption
      · have := ih h
        simp only [List.length_cons]; exact ⟨by omega, by omega, this.2.2⟩

theorem cellsOf_sorted (a : Nat) (bs : List Byte) : (cellsOf a bs).Pairwise (fun c d => c.1 < d.1) := by
  induction bs generalizing a with
  | nil => exact List.Pairwise.nil
  | cons b bs ih =>
    simp only [cellsOf]
    split
    · exact ih _
    · exact List.Pairwise.cons (fun c hc => by have := cellsOf_mem hc; simp; omega) (ih _)

/-- A splice of any bytes keeps the canonical form. -/
theorem splice_wf {m : List Host.Cell} (a : Nat) (bs : List Byte) (h : Memory.wf m) : Memory.wf (splice m a bs) := by
  refine ⟨?_, ?_⟩
  · simp only [splice, List.append_assoc]
    refine List.pairwise_append.2 ⟨h.1.filter _, List.pairwise_append.2 ⟨cellsOf_sorted _ _, h.1.filter _, ?_⟩, ?_⟩
    · intro c hc d hd
      have := cellsOf_mem hc
      have := of_decide_eq_true (List.mem_filter.1 hd).2
      omega
    · intro c hc d hd
      have hlt := of_decide_eq_true (List.mem_filter.1 hc).2
      rcases List.mem_append.1 hd with hd | hd
      · have := cellsOf_mem hd; omega
      · have := of_decide_eq_true (List.mem_filter.1 hd).2; omega
  · intro c hc
    simp only [splice, List.mem_append] at hc
    rcases hc with (hc | hc) | hc
    · exact h.2 c (List.mem_filter.1 hc).1
    · exact (cellsOf_mem hc).2.2
    · exact h.2 c (List.mem_filter.1 hc).1

theorem find_append_none {m m' : List Host.Cell} {a : Nat} (h : ∀ c ∈ m, c.1 ≠ a) :
    (m ++ m').find? (fun c => c.1 == a) = m'.find? (fun c => c.1 == a) := by
  rw [List.find?_append, List.find?_eq_none.2 (by simpa using h)]
  simp

/-- Dropping cells of other addresses does not change which cell an address has. -/
theorem find_filter {m : List Host.Cell} {a : Nat} {q : Host.Cell → Bool} (h : ∀ c, c.1 = a → q c = true) :
    (m.filter q).find? (fun c => c.1 == a) = m.find? (fun c => c.1 == a) := by
  rw [List.find?_filter]
  congr 1
  funext c
  by_cases hc : c.1 = a <;> simp [hc]
  exact h c hc

/-- A byte outside the written run reads as before. -/
theorem readByte_splice_outside (m : List Host.Cell) {a b : Nat} (bs : List Byte) (h : b < a ∨ a + bs.length ≤ b) :
    readByte (splice m a bs) b = readByte m b := by
  have key : (splice m a bs).find? (fun c => c.1 == b) = m.find? (fun c => c.1 == b) := by
    rcases h with h | h
    · simp only [splice, List.append_assoc]
      rw [List.find?_append, find_filter (by intro c hc; simp; omega)]
      have : (cellsOf a bs ++ m.filter fun c => decide (a + bs.length ≤ c.1)).find? (fun c => c.1 == b) = none := by
        rw [List.find?_eq_none]
        intro c hc
        rcases List.mem_append.1 hc with hc | hc
        · have := cellsOf_mem hc; simp; omega
        · have := of_decide_eq_true (List.mem_filter.1 hc).2; simp; omega
      rw [this, Option.or_none]
    · have h1 : ∀ c ∈ m.filter (fun c => decide (c.1 < a)) ++ cellsOf a bs, c.1 ≠ b := by
        intro c hc
        rcases List.mem_append.1 hc with hc | hc
        · have := of_decide_eq_true (List.mem_filter.1 hc).2; omega
        · have := cellsOf_mem hc; omega
      rw [splice, find_append_none h1, find_filter (by intro c hc; simp; omega)]
  simp only [readByte, key]

theorem find_cellsOf (a : Nat) (bs : List Byte) (i : Nat) (h : i < bs.length) :
    ((cellsOf a bs).find? (fun c => c.1 == a + i)).elim unlisted (fun c => c.2) = bs[i] := by
  induction bs generalizing a i with
  | nil => simp at h
  | cons b bs ih =>
    cases i with
    | zero =>
      simp only [cellsOf]
      split
      · rename_i hb
        have : (cellsOf (a + 1) bs).find? (fun c => c.1 == a + 0) = none := by
          rw [List.find?_eq_none]
          intro c hc
          have := cellsOf_mem hc; simp; omega
        simp only [this, List.getElem_cons_zero, hb, Option.elim_none]
      · simp
    | succ i =>
      have h' : i < bs.length := by simpa using h
      have e : a + (i + 1) = a + 1 + i := by omega
      simp only [cellsOf, e, List.getElem_cons_succ]
      split
      · exact ih (a + 1) i h'
      · have : ¬ (a = a + 1 + i) := by omega
        simp only [List.find?_cons, beq_eq_false_iff_ne.2 this]
        exact ih (a + 1) i h'

/-- A written byte reads as the byte written. -/
theorem readByte_splice_inside (m : List Host.Cell) (a : Nat) (bs : List Byte) (i : Nat) (h : i < bs.length) :
    readByte (splice m a bs) (a + i) = bs[i] := by
  have h1 : ∀ c ∈ m.filter (fun c => decide (c.1 < a)), c.1 ≠ a + i := by
    intro c hc; have := of_decide_eq_true (List.mem_filter.1 hc).2; omega
  have h2 : (m.filter fun c => decide (a + bs.length ≤ c.1)).find? (fun c => c.1 == a + i) = none := by
    rw [List.find?_eq_none]
    intro c hc
    have := of_decide_eq_true (List.mem_filter.1 hc).2
    simp; omega
  have key : (splice m a bs).find? (fun c => c.1 == a + i) = (cellsOf a bs).find? (fun c => c.1 == a + i) := by
    rw [splice, List.append_assoc, find_append_none h1, List.find?_append, h2, Option.or_none]
  have := find_cellsOf a bs i h
  rw [readByte, key]
  revert this
  cases (cellsOf a bs).find? (fun c => c.1 == a + i) <;> exact id

/-! ## Lists of cells as functions of the address -/

/-- In the canonical form an address has one entry: the addresses of the cells do not repeat. -/
theorem pairwise_fst {m : List Host.Cell} (h : m.Pairwise (fun c d => c.1 < d.1)) {c d : Host.Cell} (hc : c ∈ m) (hd : d ∈ m) (e : c.1 = d.1) : c = d :=
  List.inj_on_of_nodup_map ((List.pairwise_map.2 h).imp Nat.ne_of_lt) hc hd e

/-- The entries are what reads other than as an unlisted address. -/
theorem mem_iff_readByte {m : List Host.Cell} (h : Memory.wf m) (a : Nat) (v : Byte) (hv : v ≠ unlisted) : (a, v) ∈ m ↔ readByte m a = v := by
  unfold readByte
  cases hf : m.find? (fun c => c.1 == a) with
  | none => exact ⟨fun hm => absurd (List.find?_eq_none.1 hf _ hm) (by simp), fun hr => absurd hr.symm hv⟩
  | some c =>
    have hc := List.mem_of_find?_eq_some hf
    have ha : c.1 = a := by simpa using List.find?_some hf
    constructor
    · intro hm; rw [pairwise_fst h.1 hc hm ha]
    · intro hr; rwa [← show c = (a, v) from Prod.ext ha hr]

/-- Memories in canonical form that read alike are equal. -/
theorem mem_ext {m n : List Host.Cell} (hm : Memory.wf m) (hn : Memory.wf n) (h : ∀ a, readByte m a = readByte n a) : m = n := by
  have nd : ∀ {l : List Host.Cell}, Memory.wf l → l.Nodup := fun hl => hl.1.imp (fun h e => by rw [e] at h; omega)
  have hp : m.Perm n := (List.perm_ext_iff_of_nodup (nd hm) (nd hn)).2 (fun c => by
    constructor
    · intro hc; exact (mem_iff_readByte hn c.1 c.2 (hm.2 c hc)).2 (by rw [← h, (mem_iff_readByte hm c.1 c.2 (hm.2 c hc)).1 hc])
    · intro hc; exact (mem_iff_readByte hm c.1 c.2 (hn.2 c hc)).2 (by rw [h, (mem_iff_readByte hn c.1 c.2 (hn.2 c hc)).1 hc]))
  exact hp.eq_of_pairwise (fun a b _ _ h1 h2 => by omega) hm.1 hn.1

/-- Writing what stands there changes nothing. -/
theorem splice_self {m : List Host.Cell} (h : Memory.wf m) (a : Nat) (bs : List Byte) (hb : ∀ i x, bs[i]? = some x → x = readByte m (a + i)) : splice m a bs = m := by
  refine mem_ext (splice_wf a _ h) h (fun b => ?_)
  by_cases hb' : a ≤ b ∧ b < a + bs.length
  · obtain ⟨i, rfl⟩ : ∃ i, b = a + i := ⟨b - a, by omega⟩
    have hi : i < bs.length := by omega
    rw [readByte_splice_inside m a _ i hi]
    exact hb i _ (List.getElem?_eq_getElem hi)
  · exact readByte_splice_outside m _ (by omega)

/-! ## Writes of the state -/

theorem memOk_refreshLine {s : State} (line : Nat) (h : memOk s) : memOk (refreshLine s line) := by
  unfold refreshLine
  dsimp only
  split
  · exact ⟨splice_wf _ _ h.1, h.2⟩
  · exact h

/-- Marking a line of an L2 dirty writes no memory. -/
theorem memOk_dirtyLine {s : State} (pa : Nat) (h : memOk s) : memOk (dirtyLine s pa) := by
  unfold dirtyLine
  split <;> exact h

theorem memOk_putHome {s : State} (pa : Nat) (bs : List Byte) (h : memOk s) : memOk (putHome s pa bs) :=
  have h' := memOk_dirtyLine pa (memOk_refreshLine (pa / 128) h)
  ⟨splice_wf _ _ h'.1, h'.2⟩

theorem memOk_putPoison {s : State} (pa : Nat) (h : memOk s) : memOk (putPoison s pa) := by
  unfold putPoison
  split <;> exact h

theorem memOk_pushTask {s : State} (t : Task) (h : memOk s) : memOk (pushTask s t) := by
  unfold pushTask
  split <;> exact h

/-- A fold of operations that keep the form keeps it. -/
theorem memOk_foldl {α : Type} {f : State → α → State} (hf : ∀ s x, memOk s → memOk (f s x)) (l : List α) {s : State} (h : memOk s) :
    memOk (l.foldl f s) := List.foldlRecOn l f h (fun t ht x _ => hf t x ht)

/-- An error record is put at its place in the Dawn window, or is sent. -/
theorem memOk_logErr {s : State} (e : ErrRec) (h : memOk s) : memOk (logErr s e) := by
  unfold logErr
  generalize e.dwords = ds
  unfold logDwords
  split
  · exact h
  · dsimp only
    generalize dawnAddr (0x20000000 + 0x40 + 64 * _) = a
    generalize dawnAddr 0x20000008 = b
    have h1 := memOk_putHome a (dwordBytes ds) h
    generalize putHome s a (dwordBytes ds) = u at h1 ⊢
    exact memOk_putHome b (leBytes 8 (u.dawn.logNext + 1).toNat) h1

theorem memOk_watchFill {s : State} (w : Watch) (touched : Nat → Bool) (h : memOk s) : memOk (watchFill s w touched) := by
  unfold watchFill
  dsimp only
  split
  · exact memOk_logErr _ h
  · exact h

theorem memOk_watchHits {s : State} (d : DieId) (touched : Nat → Bool) (h : memOk s) : memOk (watchHits s d touched) :=
  memOk_foldl (fun _ _ h => memOk_pushTask _ h) _ (memOk_foldl (fun _ _ h => memOk_watchFill _ _ h) _ h)

theorem memOk_watchTest {s : State} (pa : Nat) (touched : Nat → Bool) (h : memOk s) : memOk (watchTest s pa touched) := by
  unfold watchTest
  split
  · split
    · exact h
    · exact memOk_watchHits _ _ h
  · exact h

theorem memOk_homeWrite {s : State} (pa : Nat) (bs : List Byte) (h : memOk s) : memOk (homeWrite s pa bs) :=
  memOk_watchTest _ _ (memOk_putHome _ _ h)

theorem memOk_homeWrite8 {s : State} (pa : Nat) (v : BitVec 64) (h : memOk s) : memOk (homeWrite8 s pa v) := memOk_homeWrite _ _ h

theorem memOk_homeWriteLine {s : State} (line : Nat) (bs : List (Nat × Byte)) (h : memOk s) : memOk (homeWriteLine s line bs) := by
  unfold homeWriteLine
  refine memOk_watchTest _ _ ?_
  have h' : memOk (bs.foldl (fun s b => putHome s (128 * line + b.1) [b.2]) s) := memOk_foldl (fun _ _ h => memOk_putHome _ _ h) _ h
  split <;> exact h'

theorem memOk_homeWriteRun (fuel : Nat) {s : State} (pa : Nat) (bs : List Byte) (h : memOk s) : memOk (homeWriteRun fuel s pa bs) := by
  induction fuel generalizing s pa bs with
  | zero => exact h
  | succ n ih =>
    unfold homeWriteRun
    split
    · exact h
    · exact ih _ _ (memOk_homeWrite _ _ h)

theorem memOk_spadWrite {s : State} (p : Place) (g : Group) (off : Nat) (bs : List Byte) (h : memOk s) : memOk (spadWrite s p g off bs) := by
  unfold spadWrite
  split
  · split
    · exact memOk_homeWrite _ _ h
    · exact ⟨h.1, splice_wf _ _ h.2⟩
  · split
    · exact memOk_homeWrite _ _ h
    · exact h

theorem memOk_spadPoison {s : State} (p : Place) (g : Group) (off : Nat) (h : memOk s) : memOk (spadPoison s p g off) := by
  unfold spadPoison
  split
  · split
    · exact memOk_putPoison _ h
    · exact h
  · split
    · exact memOk_putPoison _ h
    · exact h

theorem memOk_locWrite {s : State} (p : Place) (g : Group) (l : Loc) (bs : List Byte) (h : memOk s) : memOk (locWrite s p g l bs) := by
  cases l
  · exact memOk_spadWrite _ _ _ _ h
  · exact memOk_homeWrite _ _ h

theorem memOk_setL2 {s : State} (d : DieId) (die : Die) (h : memOk s) : memOk (setL2 s d die) := by
  have h' : memOk (writtenBack (s.setDie d die) d (s.dies.get d).l2) := by
    unfold writtenBack
    split <;> exact h
  unfold setL2 shedPoison
  dsimp only
  split <;> exact h'

/-- A request at an L2 writes no memory but the line it brings in (R368). -/
theorem memOk_l2Touch {s : State} (pa : Nat) (tag : ReqTag) (ef write : Bool) (h : memOk s) : memOk (l2Touch s pa tag ef write) := by
  unfold l2Touch
  split
  · exact memOk_setL2 _ _ (memOk_refreshLine (pa / 128) h)
  · exact h

theorem memOk_l2Run {s : State} (pa n : Nat) (tag : ReqTag) (ef write : Bool) (h : memOk s) : memOk (l2Run s pa n tag ef write) :=
  memOk_foldl (fun _ _ h => memOk_l2Touch _ _ _ _ h) _ h

theorem memOk_writeBackFrame {s : State} (c : CoreId) (f : Frame) (h : memOk s) : memOk (writeBackFrame s c f) := by
  unfold writeBackFrame
  split
  · exact h
  · split
    · exact h
    · refine memOk_foldl (fun s i h => ?_) _ h
      have h1 := memOk_l2Touch (‹BitVec 36›.toNat * 2 ^ 16 + 128 * i) none true true h
      dsimp only
      generalize l2Touch s _ none true true = u at h1 ⊢
      split
      · exact memOk_putPoison _ (memOk_homeWrite _ _ h1)
      · exact memOk_homeWrite _ _ h1

/-- New contents of a part of the scratchpad SRAM keep the canonical form. -/
theorem memOk_sram {s : State} (a : Nat) (bs : List Byte) (poison : List Nat) (h : memOk s) :
    memOk { s with sram := splice s.sram a bs, spadPoison := poison } := ⟨h.1, splice_wf _ _ h.2⟩

theorem memOk_fillFrame {s : State} (c : CoreId) (f : Frame) (h : memOk s) : memOk (fillFrame s c f) := by
  rw [fillFrame]
  cases f.back with
  | none => exact memOk_sram _ _ _ h
  | some b => exact memOk_sram _ _ _ (memOk_l2Run _ _ _ _ _ h)

theorem memOk_takePool {s t : State} {d : DieId} {fr : BitVec 36} (h : memOk s) (e : takePool s d = some (fr, t)) : memOk t := by
  unfold takePool at e
  split at e
  · cases e
  · cases e
    exact memOk_homeWriteRun _ _ _ (memOk_l2Run _ _ _ _ _ h)

theorem memOk_returnPool {s : State} (fr : BitVec 36) (h : memOk s) : memOk (returnPool s fr) := h

theorem memOk_touchFrame {s : State} (p : Place) (f : Frame) (h : memOk s) : memOk (touchFrame s p f) := h

theorem memOk_takeFrame {s t : State} {p : Place} {g : Group} {page : Fin 64} (h : memOk s) (e : takeFrame s p g page = some t) : memOk t := by
  unfold takeFrame at e
  dsimp only at e
  split at e
  · cases e
  · cases e
    rename_i old _
    cases old
    · exact h
    · exact memOk_writeBackFrame _ _ h

end Sys2Proof.Machine
end

