-- ==== Sys2Proof/Laws/Ops.lean ====
section
/-! SUPPORT. Sys2Proof/Laws/Ops.lean: what the shared operations can do, once each: the issue of an instruction, its retirement, the acceptance of a
command, the raising of a cause, a translation. -/

namespace Sys2Proof.Machine

open Sys2Proof

/-! ## The stream and the group as their instruction sees them -/

/-- Taking its tokens leaves a stream as it was, but for the note of what it took: a field of it is read off by `simp`. -/
@[simp] theorem here_taken (s : State) (g : Group) (r : BitVec 4) :
    s.here (s.taken g r) = { s.here g with took := some r, tookSets := takenSets g s.curStream r } := by
  show ((takeTok g s.curStream r).setStream s.curStream _).stream s.curStream = _
  rw [Group.stream_setStream]

@[simp] theorem getX_taken (s : State) (g : Group) (r : BitVec 4) (i : BitVec 6) : (s.here (s.taken g r)).getX i = (s.here g).getX i := by
  rw [here_taken]; rfl

@[simp] theorem isFull_taken (s : State) (g : Group) (r : BitVec 4) (i : BitVec 6) : (s.here (s.taken g r)).isFull i = (s.here g).isFull i := by
  rw [here_taken]; rfl

@[simp] theorem getC_taken (s : State) (g : Group) (r : BitVec 4) (i : BitVec 3) : (s.here (s.taken g r)).getC i = (s.here g).getC i := by
  rw [here_taken]; rfl

@[simp] theorem group_taken_lr (s : State) (g : Group) (r : BitVec 4) : (s.taken g r).lr = g.lr := rfl
@[simp] theorem group_taken_gindex (s : State) (g : Group) (r : BitVec 4) : (s.taken g r).gindex = g.gindex := rfl
@[simp] theorem group_taken_cls (s : State) (g : Group) (r : BitVec 4) : (s.taken g r).cls = g.cls := rfl
@[simp] theorem group_taken_v (s : State) (g : Group) (r : BitVec 4) : (s.taken g r).v = g.v := rfl
@[simp] theorem group_taken_t (s : State) (g : Group) (r : BitVec 4) : (s.taken g r).t = g.t := rfl
@[simp] theorem group_taken_p (s : State) (g : Group) (r : BitVec 4) : (s.taken g r).p = g.p := rfl
@[simp] theorem group_taken_h (s : State) (g : Group) (r : BitVec 4) : (s.taken g r).h = g.h := rfl
@[simp] theorem group_taken_ev (s : State) (g : Group) (r : BitVec 4) : (s.taken g r).ev = g.ev := rfl
@[simp] theorem group_taken_evstat (s : State) (g : Group) (r : BitVec 4) : (s.taken g r).evstat = g.evstat := rfl
@[simp] theorem group_taken_evSets (s : State) (g : Group) (r : BitVec 4) : (s.taken g r).evSets = g.evSets := rfl
@[simp] theorem group_taken_queues (s : State) (g : Group) (r : BitVec 4) : (s.taken g r).queues = g.queues := rfl
@[simp] theorem group_taken_mrs (s : State) (g : Group) (r : BitVec 4) : (s.taken g r).mrs = g.mrs := rfl
@[simp] theorem group_taken_vrs (s : State) (g : Group) (r : BitVec 4) : (s.taken g r).vrs = g.vrs := rfl
@[simp] theorem group_taken_pages (s : State) (g : Group) (r : BitVec 4) : (s.taken g r).pages = g.pages := rfl
@[simp] theorem group_taken_syncf (s : State) (g : Group) (r : BitVec 4) : (s.taken g r).syncf = g.syncf := rfl
@[simp] theorem group_taken_chans (s : State) (g : Group) (r : BitVec 4) : (s.taken g r).chans = g.chans := rfl
@[simp] theorem group_taken_stages (s : State) (g : Group) (r : BitVec 4) : (s.taken g r).stages = g.stages := rfl
@[simp] theorem group_taken_rq (s : State) (g : Group) (r : BitVec 4) : (s.taken g r).rq = g.rq := rfl
@[simp] theorem group_taken_cnum (s : State) (g : Group) (r : BitVec 4) : (s.taken g r).cnum = g.cnum := rfl
@[simp] theorem group_taken_tkts (s : State) (g : Group) (r : BitVec 4) : (s.taken g r).tkts = g.tkts := rfl
@[simp] theorem group_taken_lostTkt (s : State) (g : Group) (r : BitVec 4) : (s.taken g r).lostTkt = g.lostTkt := rfl
@[simp] theorem group_taken_qdone (s : State) (g : Group) (r : BitVec 4) : (s.taken g r).qdone = g.qdone := rfl
@[simp] theorem group_taken_qacc (s : State) (g : Group) (r : BitVec 4) : (s.taken g r).qacc = g.qacc := rfl
@[simp] theorem group_taken_evwait (s : State) (g : Group) (r : BitVec 4) : (s.taken g r).evwait = g.evwait := rfl
@[simp] theorem group_taken_scat (s : State) (g : Group) (r : BitVec 4) : (s.taken g r).scat = g.scat := rfl
@[simp] theorem group_taken_decstall (s : State) (g : Group) (r : BitVec 4) : (s.taken g r).decstall = g.decstall := rfl
@[simp] theorem group_taken_headwait (s : State) (g : Group) (r : BitVec 4) : (s.taken g r).headwait = g.headwait := rfl
@[simp] theorem group_taken_stopping (s : State) (g : Group) (r : BitVec 4) : (s.taken g r).stopping = g.stopping := rfl
@[simp] theorem group_taken_halt (s : State) (g : Group) (r : BitVec 4) : (s.taken g r).halt = g.halt := rfl
@[simp] theorem group_taken_trapped (s : State) (g : Group) (r : BitVec 4) : (s.taken g r).trapped = g.trapped := rfl
@[simp] theorem group_taken_damaged (s : State) (g : Group) (r : BitVec 4) : (s.taken g r).damaged = g.damaged := rfl
@[simp] theorem group_taken_nextId (s : State) (g : Group) (r : BitVec 4) : (s.taken g r).nextId = g.nextId := rfl

/-! ## Issue -/

/-- The issue of an instruction that can run is what its body's answer comes to. -/
theorem plainThen_run {s : State} {g : Group} {roles : List StreamId} {r ev : BitVec 4} {body : Env → Act State} {after : Env → State → State}
    (h : CanRun s g roles r) : plainThen roles r ev body after s = .next (settleAct s s (s.env g r) r ev after (body (s.env g r))) := by
  have ht : (g.stream s.curStream).took.isNone = true := by rw [show (g.stream s.curStream).took = none from h.fresh]; rfl
  simp only [plainThen, h.bound, h.issue, h.role, h.take, ht, Bool.true_eq_false, if_false, Bool.not_true, Bool.and_false, Bool.false_eq_true, if_true]
  rfl

/-- An instruction whose body takes effect, and retires. -/
theorem plain_finish {s s2 : State} {g : Group} {roles : List StreamId} {r ev : BitVec 4} {body : Env → Act State}
    (h : CanRun s g roles r) (hb : body (s.env g r) = .done s2) :
    plain roles r ev body s = .next (s2.finishAt s.curPlace s.curStream r ev) := by
  rw [plain, plainThen_run h, hb]
  exact congrArg _ (if_pos h.place)

/-- An instruction whose body takes effect and sets the PC pair, and retires. -/
theorem plain_jump {s s2 : State} {g : Group} {roles : List StreamId} {r ev : BitVec 4} {body : Env → Act State} {pc npc : BitVec 64}
    (h : CanRun s g roles r) (hb : body (s.env g r) = .jump s2 pc (some npc)) :
    plain roles r ev body s = .next (s2.jumpAt s.curPlace s.curStream r ev pc npc) := by
  rw [plain, plainThen_run h, hb]
  exact congrArg _ (if_pos h.place)

/-- An instruction whose body waits, outside the cycle of its group's cut. -/
theorem plain_wait {s s2 : State} {g : Group} {roles : List StreamId} {r ev : BitVec 4} {body : Env → Act State}
    (h : CanRun s g roles r) (hc : (s.slot s.curPlace).cutNow = false) (hb : body (s.env g r) = .wait s2) : plain roles r ev body s = .next s2 := by
  rw [plain, plainThen_run h, hb]
  exact congrArg _ (if_neg (by rw [show (s.slot (s.env g r).p).cutNow = false from hc]; exact Bool.false_ne_true))

/-- An instruction whose body raises a cause and changes nothing. -/
theorem plain_trap {s : State} {g : Group} {roles : List StreamId} {r ev : BitVec 4} {body : Env → Act State} {x : Trap}
    (h : CanRun s g roles r) (hb : body (s.env g r) = .trap x) : plain roles r ev body s = .next (s.traps g x) := by
  rw [plain, plainThen_run h, hb, State.traps]
  show _ = Host.Outcome.next (raise s s.curPlace _ x)
  rw [show (s.here g).pc = (s.here (s.taken g r)).pc by rw [here_taken]]
  rfl

/-- An instruction that changes its group and retires. -/
theorem plain_done {s : State} {g : Group} {roles : List StreamId} {r ev : BitVec 4} {body : Env → Act State} {f : Group → Group}
    (h : CanRun s g roles r) (hb : body (s.env g r) = .done (s.setGroup s.curPlace (f (s.taken g r)))) :
    plain roles r ev body s = .next (s.afterGroup g r ev f) := plain_finish h hb

/-- An instruction that changes its stream and retires. -/
theorem onStream_done {s : State} {g : Group} {roles : List StreamId} {r ev : BitVec 4} {k : Stream → Act Stream} {f : Stream → Stream}
    (h : CanRun s g roles r) (hb : k (s.here (s.taken g r)) = .done (f (s.here (s.taken g r)))) :
    plain roles r ev (onStream k) s = .next (s.after g r ev f) := by
  apply plain_done h
  show Act.map _ (k (s.here (s.taken g r))) = _
  rw [hb]
  show Act.done ((s.began g r).setGroup s.curPlace _) = _
  rw [State.began, State.setGroup_setGroup]
  rfl

/-- What the current stream's instruction looks at, with the group as it stands in it. -/
def State.envOf (s : State) (g : Group) : Env :=
  { s := s.setGroup s.curPlace g, p := s.curPlace, st := s.curStream, g := g, t := g.stream s.curStream }

/-- Everything the issue of an instruction can come to: nothing, a cause, or what its body answers with its tokens taken, now or at an earlier try. -/
theorem plainThen_cases {s u : State} {roles : List StreamId} {r ev : BitVec 4} {body : Env → Act State} {after : Env → State → State}
    (h : plainThen roles r ev body after s = .next u) :
    u = s ∨ (∃ w x, u = raise s s.curPlace w x) ∨
    ∃ g g1 back, s.group s.curPlace = some g ∧ (g1 = s.taken g r ∨ g1 = g.setStream s.curStream (s.here g).refill) ∧
      (back = s ∨ back = s.setGroup s.curPlace g1) ∧ u = settleAct back s (s.envOf g1) r ev after (body (s.envOf g1)) := by
  have inj {a b : State} (e : (Host.Outcome.next a : Host.Outcome State Fault Refusal) = .next b) : b = a := by cases e; rfl
  unfold plainThen at h
  dsimp only at h
  cases hg : s.group s.curPlace with
  | none => rw [hg] at h; exact .inl (inj h)
  | some g =>
    rw [hg] at h
    dsimp only at h
    by_cases h1 : canIssue (s.slot s.curPlace) g s.curStream = false
    · rw [if_pos h1] at h; exact .inl (inj h)
    rw [if_neg h1] at h
    by_cases h2 : roles.contains s.curStream = false
    · rw [if_pos h2] at h; exact .inr (.inl ⟨_, _, inj h⟩)
    rw [if_neg h2] at h
    by_cases h3 : ((g.stream s.curStream).took.isNone && !canTake g s.curStream r) = true
    · rw [if_pos h3] at h; exact .inl (inj h)
    rw [if_neg h3] at h
    exact .inr (.inr ⟨g, _, _, rfl, ite_eq_or_eq _ _ _, ite_eq_or_eq _ _ _, inj h⟩)

/-! ## What raising a cause, retirement and a halt change -/

theorem setSlot_self (s : State) (p : Place) : s.setSlot p (s.slot p) = s := by
  simp [State.setSlot, State.slot, Vector.get_eq_getElem]

/-- A cause changes nothing but the slot it is raised in. -/
theorem raise_slot (s : State) (p : Place) (w : RaisedAt) (t : Trap) : ∃ sl, raise s p w t = s.setSlot p sl := by
  unfold raise
  dsimp only
  split
  · exact ⟨_, (setSlot_self s p).symm⟩
  · split
    · exact ⟨_, rfl⟩
    · split
      · exact ⟨_, rfl⟩
      · exact ⟨_, (setSlot_self s p).symm⟩
      · exact ⟨_, rfl⟩

/-- Retirement changes nothing but the slot. -/
theorem retire_slot (s : State) (p : Place) (st : StreamId) (r ev : BitVec 4) : ∃ sl, retire s p st r ev = s.setSlot p sl := by
  unfold retire
  split
  · exact ⟨_, (setSlot_self s p).symm⟩
  · exact ⟨_, rfl⟩

/-- The end of a step changes nothing but the slot. -/
theorem stepHalt_slot (s : State) (p : Place) : ∃ sl, stepHalt s p = s.setSlot p sl := by
  have hs : s = s.setSlot p (s.slot p) := (setSlot_self s p).symm
  unfold stepHalt
  dsimp only
  split
  · exact ⟨_, hs⟩
  · split
    · split
      · exact ⟨_, rfl⟩
      · exact ⟨_, hs⟩
    · exact ⟨_, hs⟩

theorem memOk_raise {s : State} (p : Place) (w : RaisedAt) (t : Trap) (h : memOk s) : memOk (raise s p w t) := by
  obtain ⟨sl, e⟩ := raise_slot s p w t
  rw [e]; exact h

theorem memOk_retire {s : State} (p : Place) (st : StreamId) (r ev : BitVec 4) (h : memOk s) : memOk (retire s p st r ev) := by
  obtain ⟨sl, e⟩ := retire_slot s p st r ev
  rw [e]; exact h

theorem memOk_stepHalt {s : State} (p : Place) (h : memOk s) : memOk (stepHalt s p) := by
  obtain ⟨sl, e⟩ := stepHalt_slot s p
  rw [e]; exact h

/-- The requests of a walk keep the canonical form. -/
theorem memOk_walkTouch {s : State} (d : DieId) (asid : BitVec 16) (va : BitVec 64) (h : memOk s) : memOk (walkTouch s d asid va) :=
  memOk_foldl (fun _ pa h => memOk_l2Touch pa none false false h) _ h

theorem memOk_setAD {s : State} (pte : Nat) (e e' : BitVec 64) (h : memOk s) : memOk (setAD s pte e e') := by
  unfold setAD
  split
  · exact h
  · exact memOk_homeWrite8 _ _ (memOk_l2Touch _ _ _ _ h)

/-- A translation keeps the canonical form: the most it writes is the page-table entry (R84). -/
theorem memOk_translate {s t : State} {c : CoreId} {asid : BitVec 16} {va : BitVec 64} {kind : BitVec 2} {setD sys : Bool} {pa : Nat} {ht : Bool}
    (h : memOk s) (e : translate s c asid va kind setD sys = .ok t pa ht) : memOk t := by
  have h1 : memOk (if (tlbFind s c asid va.toNat).isSome then s else walkTouch s (dieOfCore c) asid va) := by
    split
    · exact h
    · exact memOk_walkTouch _ _ _ h
  unfold translate at e
  dsimp only at e
  generalize (if (tlbFind s c asid va.toNat).isSome then s else walkTouch s (dieOfCore c) asid va) = u at h1 e
  split at e
  · cases e
  split at e
  · cases e
  generalize (if setD = true then 0x40#64 else 0#64) = w at e
  split at e
  · cases e
  split at e
  · cases e
  split at e
  · cases e
  cases e
  exact memOk_setAD _ _ _ h1

/-- Retirement keeps the canonical form if what follows it does. -/
theorem memOk_retireIn {s : State} {e : Env} {r ev : BitVec 4} {after : Env → State → State} {pcs : Group → Stream} (h : memOk s)
    (ha : ∀ e t, memOk t → memOk (after e t)) : memOk (retireIn s e r ev after pcs) := by
  unfold retireIn
  split
  · exact h
  · exact memOk_stepHalt _ (ha _ _ (memOk_retire _ _ _ _ h))

/-- An instruction keeps the canonical form if its body does. -/
theorem memOk_plainThen {s u : State} {roles : List StreamId} {r ev : BitVec 4} {body : Env → Act State} {after : Env → State → State}
    (h : memOk s) (e : plainThen roles r ev body after s = .next u) (ha : ∀ e t, memOk t → memOk (after e t))
    (hb : ∀ e, memOk e.s → match body e with
      | .wait t => memOk t | .done t => memOk t | .jump t _ _ => memOk t | .trapIn t _ => memOk t | _ => True) : memOk u := by
  rcases plainThen_cases e with rfl | ⟨w, x, rfl⟩ | ⟨g, g1, back, -, -, hback, rfl⟩
  · exact h
  · exact memOk_raise _ _ _ h
  · have h0 : memOk back := by rcases hback with rfl | rfl <;> exact h
    have hx := hb (s.envOf g1) h
    revert hx
    cases body (s.envOf g1) with
    | hold => exact fun _ => h
    | trap x => exact fun _ => memOk_raise _ _ _ h0
    | trapIn t x => exact fun ht => memOk_raise _ _ _ ht
    | wait t => intro ht; unfold settleAct; dsimp only; split <;> assumption
    | done t => intro ht; unfold settleAct; dsimp only; split; exacts [memOk_retireIn ht ha, h]
    | jump t a b => intro ht; unfold settleAct; dsimp only; split; exacts [memOk_retireIn ht ha, h]

/-! ## Commands -/

/-- The issue of a command whose operand registers are full, whose queue has a free entry and whose acceptance checks pass (R39, R40). -/
theorem command_run {s : State} {g : Group} {q : QueueId} {roles : List StreamId} {i : Instr} {rs : List (BitVec 6)}
    {cap : Env → Except Trap Capture} {upd : Group → Group} {c : Capture} (h : CanRun s g roles 0) (hr : (s.here g).fulls rs)
    (hq : (g.queue q).length < 16) (hc : cap (s.env g 0) = .ok c) :
    command q roles i rs cap upd s = .next (s.afterGroup g 0 0 (fun g => upd (accept g q s.curStream i c))) := by
  refine plain_done h ?_
  have hall : rs.all (s.here (s.taken g 0)).isFull = true := by
    rw [← hr]; congr 1; funext i; exact isFull_taken s g 0 i
  have hq' : ¬ 16 ≤ ((s.taken g 0).queue q).length := by
    have e : (s.taken g 0).queue q = g.queue q := rfl
    rw [e]; omega
  show Stream.reads (s.here (s.taken g 0)) rs _ = _
  rw [Stream.reads, if_pos hall]
  show (if 16 ≤ ((s.taken g 0).queue q).length then _ else _) = _
  rw [if_neg hq', hc]
  show Act.done ((s.began g 0).setGroup s.curPlace _) = _
  rw [State.began, State.setGroup_setGroup]
  rfl

end Sys2Proof.Machine
end

