-- ==== Sys2Proof/Laws/PerInstr.lean ====
section
/-! SUPPORT. Sys2Proof/Laws/PerInstr.lean: the round trip of every constructor: the words the encoder gives a well-formed instruction decode to it,
and their number is the length its major fixes (R161). An event has no words. -/

namespace Sys2Proof.Laws

open Sys2Proof

set_option linter.unusedSimpArgs false
set_option linter.unreachableTactic false
set_option linter.unnecessarySeqFocus false
set_option linter.unusedTactic false

/-! ## Fields of concatenated words -/

theorem extract_high {v w : Nat} (x : BitVec v) (y : BitVec w) (s n : Nat) (h : w ≤ s) :
    (x ++ y).extractLsb' s n = x.extractLsb' (s - w) n := BitVec.extractLsb'_append_eq_of_le h


theorem extract_low {v w : Nat} (x : BitVec v) (y : BitVec w) (s n : Nat) (h : s + n ≤ w) :
    (x ++ y).extractLsb' s n = y.extractLsb' s n := BitVec.extractLsb'_append_eq_of_add_le h

theorem extract_extract {v : Nat} (x : BitVec v) (s n t m : Nat) (h : t + m ≤ n) :
    (x.extractLsb' s n).extractLsb' t m = x.extractLsb' (s + t) m := by
  apply BitVec.eq_of_getLsbD_eq
  intro i hi
  simp only [BitVec.getLsbD_extractLsb', hi, decide_true, Bool.true_and]
  have : t + i < n := by omega
  simp [this, Nat.add_assoc]

theorem join {v : Nat} (x : BitVec v) (s n t m : Nat) (h : s = t + m) :
    x.extractLsb' s n ++ x.extractLsb' t m = x.extractLsb' t (n + m) := by
  apply BitVec.eq_of_getLsbD_eq
  intro i hi
  simp only [BitVec.getLsbD_append, BitVec.getLsbD_extractLsb']
  by_cases hm : i < m
  · have h3 : i < n + m := by omega
    simp [hm, h3]
  · have h1 : i - m < n := by omega
    have h2 : s + (i - m) = t + i := by omega
    simp [hm, h1, h2, hi]

theorem whole {v : Nat} (x : BitVec v) : x.extractLsb' 0 v = x := by
  apply BitVec.eq_of_getLsbD_eq
  intro i hi
  simp [hi]

theorem word_fields (r : BitVec 4) (maj : BitVec 7) (d a b : BitVec 6) (f : BitVec 3) :
    (word r maj d a b f).extractLsb' 28 4 = r ∧ (word r maj d a b f).extractLsb' 21 7 = maj ∧
    (word r maj d a b f).extractLsb' 15 6 = d ∧ (word r maj d a b f).extractLsb' 9 6 = a ∧
    (word r maj d a b f).extractLsb' 3 6 = b ∧ (word r maj d a b f).extractLsb' 0 3 = f := by
  let W : BitVec (4 + 7 + 6 + 6 + 6 + 3) := r ++ maj ++ d ++ a ++ b ++ f
  show W.extractLsb' 28 4 = r ∧ W.extractLsb' 21 7 = maj ∧ W.extractLsb' 15 6 = d ∧ W.extractLsb' 9 6 = a ∧ W.extractLsb' 3 6 = b ∧
    W.extractLsb' 0 3 = f
  simp (disch := omega) only [W, extract_high, extract_low, whole, Nat.reduceSub, and_self]

theorem decodeWords_word (r : BitVec 4) (maj : BitVec 7) (d a b : BitVec 6) (f : BitVec 3) (w1 : BitVec 32) :
    decodeWords (word r maj d a b f) w1 = decodeBoxes r maj d a b f (w1.extractLsb' 28 4) (w1.extractLsb' 0 28) := by
  obtain ⟨h1, h2, h3, h4, h5, h6⟩ := word_fields r maj d a b f
  simp only [decodeWords, majorOf, h1, h2, h3, h4, h5, h6]

theorem word_major (r : BitVec 4) (maj : BitVec 7) (d a b : BitVec 6) (f : BitVec 3) : majorOf (word r maj d a b f) = maj :=
  (word_fields r maj d a b f).2.1

theorem decodeWords_two (r : BitVec 4) (maj : BitVec 7) (d a b : BitVec 6) (f : BitVec 3) (ev : BitVec 4) (e : BitVec 28) :
    decodeWords (word r maj d a b f) (ev ++ e) = decodeBoxes r maj d a b f ev e := by
  rw [decodeWords_word]
  simp (disch := omega) only [extract_high, extract_low, whole, Nat.reduceSub]

theorem join9 (x : BitVec 9) : (x.extractLsb' 3 6 ++ x.extractLsb' 0 3 : BitVec 9) = x := by
  exact (join x 3 6 0 3 rfl).trans (whole x)

theorem join6 (x : BitVec 6) : (x.extractLsb' 3 3 ++ x.extractLsb' 0 3 : BitVec 6) = x := by
  exact (join x 3 3 0 3 rfl).trans (whole x)

theorem join3 (x : BitVec 3) : (x.extractLsb' 2 1 ++ x.extractLsb' 0 2 : BitVec 3) = x := by
  exact (join x 2 1 0 2 rfl).trans (whole x)

theorem join336 (x : BitVec 12) : (x.extractLsb' 9 3 ++ x.extractLsb' 3 6 ++ x.extractLsb' 0 3 : BitVec 12) = x := by
  have h : x.extractLsb' 9 3 ++ x.extractLsb' 3 6 = x.extractLsb' 3 (3 + 6) := join x 9 3 3 6 rfl
  rw [h]
  exact (join x 3 9 0 3 rfl).trans (whole x)

theorem join15 (x : BitVec 15) : (x.extractLsb' 9 6 ++ x.extractLsb' 3 6 ++ x.extractLsb' 0 3 : BitVec 15) = x := by
  have h : x.extractLsb' 9 6 ++ x.extractLsb' 3 6 = x.extractLsb' 3 (6 + 6) := join x 9 6 3 6 rfl
  rw [h]
  exact (join x 3 12 0 3 rfl).trans (whole x)

theorem join18 (x : BitVec 18) :
    (x.extractLsb' 15 3 ++ x.extractLsb' 9 6 ++ x.extractLsb' 3 6 ++ x.extractLsb' 0 3 : BitVec 18) = x := by
  have h : x.extractLsb' 15 3 ++ x.extractLsb' 9 6 = x.extractLsb' 9 (3 + 6) := join x 15 3 9 6 rfl
  have h' : x.extractLsb' 9 (3 + 6) ++ x.extractLsb' 3 6 = x.extractLsb' 3 (3 + 6 + 6) := join x 9 9 3 6 rfl
  rw [h, h']
  exact (join x 3 15 0 3 rfl).trans (whole x)

theorem join12 (x : BitVec 12) : (x.extractLsb' 6 6 ++ x.extractLsb' 0 6 : BitVec 12) = x := by
  exact (join x 6 6 0 6 rfl).trans (whole x)

/-! ## The family -/

namespace RoundTrip

/-- The words the encoder gives a well-formed instruction decode to it, and their number is its length; an event has none. -/
def Statement (i : Instr) : Prop :=
  (i.encodable = true → i.wf = true →
    decodeWords ((encode i).getD 0 0) ((encode i).getD 1 0) = .ok i ∧ 4 * (encode i).length = lengthOf ((encode i).getD 0 0)) ∧
  (i.encodable = false → encode i = [])

theorem pick_ok {v z : Bool} {i' i : Instr} (hv : v = true) (hz : z = true) (hi : i' = i) : pick v z i' = .ok i := by
  subst hv hz hi; rfl

theorem one_word {i : Instr} {r : BitVec 4} {maj : BitVec 7} {d a b : BitVec 6} {f : BitVec 3} (he : encode i = [word r maj d a b f])
    (hc : i.encodable = true) (hl : isTwoWordMajor maj = false) (h : i.wf = true → decodeBoxes r maj d a b f 0#4 0#28 = .ok i) : Statement i := by
  refine ⟨fun _ hw => ?_, fun hn => ?_⟩
  · rw [he]
    show decodeWords (word r maj d a b f) 0#32 = _ ∧ _
    refine ⟨(decodeWords_word r maj d a b f 0#32).trans ((congrArg₂ (decodeBoxes r maj d a b f) (by decide) (by decide)).trans (h hw)), ?_⟩
    show 4 * 1 = lengthOf (word r maj d a b f)
    rw [lengthOf, word_major, hl]
    rfl
  · rw [hc] at hn; cases hn

theorem two_words {i : Instr} {r : BitVec 4} {maj : BitVec 7} {d a b : BitVec 6} {f : BitVec 3} {ev : BitVec 4} {e : BitVec 28}
    (he : encode i = [word r maj d a b f, ev ++ e]) (hc : i.encodable = true) (hl : isTwoWordMajor maj = true)
    (h : i.wf = true → decodeBoxes r maj d a b f ev e = .ok i) : Statement i := by
  refine ⟨fun _ hw => ?_, fun hn => ?_⟩
  · rw [he]
    refine ⟨(decodeWords_two _ _ _ _ _ _ _ _).trans (h hw), ?_⟩
    show 4 * 2 = lengthOf (word r maj d a b f)
    rw [lengthOf, word_major, hl]
    rfl
  · rw [hc] at hn; cases hn

theorem event {i : Instr} (hc : i.encodable = false) (he : encode i = []) : Statement i := by
  refine ⟨fun hn => ?_, fun _ => he⟩
  rw [hc] at hn
  cases hn

theorem add (r : BitVec 4) (d a b : BitVec 6) : Statement (.add r d a b) :=
  one_word rfl rfl rfl (fun _ => pick_ok rfl rfl rfl)

theorem sub (r : BitVec 4) (d a b : BitVec 6) : Statement (.sub r d a b) :=
  one_word rfl rfl rfl (fun _ => pick_ok rfl rfl rfl)

theorem and (r : BitVec 4) (d a b : BitVec 6) : Statement (.and r d a b) :=
  one_word rfl rfl rfl (fun _ => pick_ok rfl rfl rfl)

theorem or (r : BitVec 4) (d a b : BitVec 6) : Statement (.or r d a b) :=
  one_word rfl rfl rfl (fun _ => pick_ok rfl rfl rfl)

theorem xor (r : BitVec 4) (d a b : BitVec 6) : Statement (.xor r d a b) :=
  one_word rfl rfl rfl (fun _ => pick_ok rfl rfl rfl)

theorem shl (r : BitVec 4) (d a b : BitVec 6) : Statement (.shl r d a b) :=
  one_word rfl rfl rfl (fun _ => pick_ok rfl rfl rfl)

theorem shr (r : BitVec 4) (d a b : BitVec 6) : Statement (.shr r d a b) :=
  one_word rfl rfl rfl (fun _ => pick_ok rfl rfl rfl)

theorem sra (r : BitVec 4) (d a b : BitVec 6) : Statement (.sra r d a b) :=
  one_word rfl rfl rfl (fun _ => pick_ok rfl rfl rfl)

theorem mul (r : BitVec 4) (d a b : BitVec 6) : Statement (.mul r d a b) :=
  one_word rfl rfl rfl (fun _ => pick_ok rfl rfl rfl)

theorem mulh (r : BitVec 4) (d a b : BitVec 6) : Statement (.mulh r d a b) :=
  one_word rfl rfl rfl (fun _ => pick_ok rfl rfl rfl)

theorem mulhu (r : BitVec 4) (d a b : BitVec 6) : Statement (.mulhu r d a b) :=
  one_word rfl rfl rfl (fun _ => pick_ok rfl rfl rfl)

theorem div (r : BitVec 4) (d a b : BitVec 6) : Statement (.div r d a b) :=
  one_word rfl rfl rfl (fun _ => pick_ok rfl rfl rfl)

theorem divu (r : BitVec 4) (d a b : BitVec 6) : Statement (.divu r d a b) :=
  one_word rfl rfl rfl (fun _ => pick_ok rfl rfl rfl)

theorem rem (r : BitVec 4) (d a b : BitVec 6) : Statement (.rem r d a b) :=
  one_word rfl rfl rfl (fun _ => pick_ok rfl rfl rfl)

theorem remu (r : BitVec 4) (d a b : BitVec 6) : Statement (.remu r d a b) :=
  one_word rfl rfl rfl (fun _ => pick_ok rfl rfl rfl)

theorem min (r : BitVec 4) (d a b : BitVec 6) : Statement (.min r d a b) :=
  one_word rfl rfl rfl (fun _ => pick_ok rfl rfl rfl)

theorem max (r : BitVec 4) (d a b : BitVec 6) : Statement (.max r d a b) :=
  one_word rfl rfl rfl (fun _ => pick_ok rfl rfl rfl)

theorem minu (r : BitVec 4) (d a b : BitVec 6) : Statement (.minu r d a b) :=
  one_word rfl rfl rfl (fun _ => pick_ok rfl rfl rfl)

theorem maxu (r : BitVec 4) (d a b : BitVec 6) : Statement (.maxu r d a b) :=
  one_word rfl rfl rfl (fun _ => pick_ok rfl rfl rfl)

theorem clz (r : BitVec 4) (d a : BitVec 6) : Statement (.clz r d a) :=
  one_word rfl rfl rfl (fun _ => pick_ok rfl rfl rfl)

theorem ctz (r : BitVec 4) (d a : BitVec 6) : Statement (.ctz r d a) :=
  one_word rfl rfl rfl (fun _ => pick_ok rfl rfl rfl)

theorem popc (r : BitVec 4) (d a : BitVec 6) : Statement (.popc r d a) :=
  one_word rfl rfl rfl (fun _ => pick_ok rfl rfl rfl)

theorem brev (r : BitVec 4) (d a : BitVec 6) : Statement (.brev r d a) :=
  one_word rfl rfl rfl (fun _ => pick_ok rfl rfl rfl)

theorem addi (r : BitVec 4) (d a : BitVec 6) (i : BitVec 9) : Statement (.addi r d a i) :=
  one_word rfl rfl rfl (fun _ => pick_ok rfl (by (try simp (disch := omega) only [extract_high, extract_low, Nat.reduceSub]) <;> simp (disch := omega) only [extract_extract, whole, join3, join336, join6, join9, join12, join15, join18, Nat.reduceAdd, and_self, decide_true] <;> decide) (by (try simp (disch := omega) only [extract_high, extract_low, Nat.reduceSub]) <;> simp (disch := omega) only [extract_extract, whole, join3, join336, join6, join9, join12, join15, join18, Nat.reduceAdd, and_self, decide_true] <;> decide))

theorem andi (r : BitVec 4) (d a : BitVec 6) (i : BitVec 9) : Statement (.andi r d a i) :=
  one_word rfl rfl rfl (fun _ => pick_ok rfl (by (try simp (disch := omega) only [extract_high, extract_low, Nat.reduceSub]) <;> simp (disch := omega) only [extract_extract, whole, join3, join336, join6, join9, join12, join15, join18, Nat.reduceAdd, and_self, decide_true] <;> decide) (by (try simp (disch := omega) only [extract_high, extract_low, Nat.reduceSub]) <;> simp (disch := omega) only [extract_extract, whole, join3, join336, join6, join9, join12, join15, join18, Nat.reduceAdd, and_self, decide_true] <;> decide))

theorem ori (r : BitVec 4) (d a : BitVec 6) (i : BitVec 9) : Statement (.ori r d a i) :=
  one_word rfl rfl rfl (fun _ => pick_ok rfl (by (try simp (disch := omega) only [extract_high, extract_low, Nat.reduceSub]) <;> simp (disch := omega) only [extract_extract, whole, join3, join336, join6, join9, join12, join15, join18, Nat.reduceAdd, and_self, decide_true] <;> decide) (by (try simp (disch := omega) only [extract_high, extract_low, Nat.reduceSub]) <;> simp (disch := omega) only [extract_extract, whole, join3, join336, join6, join9, join12, join15, join18, Nat.reduceAdd, and_self, decide_true] <;> decide))

theorem xori (r : BitVec 4) (d a : BitVec 6) (i : BitVec 9) : Statement (.xori r d a i) :=
  one_word rfl rfl rfl (fun _ => pick_ok rfl (by (try simp (disch := omega) only [extract_high, extract_low, Nat.reduceSub]) <;> simp (disch := omega) only [extract_extract, whole, join3, join336, join6, join9, join12, join15, join18, Nat.reduceAdd, and_self, decide_true] <;> decide) (by (try simp (disch := omega) only [extract_high, extract_low, Nat.reduceSub]) <;> simp (disch := omega) only [extract_extract, whole, join3, join336, join6, join9, join12, join15, join18, Nat.reduceAdd, and_self, decide_true] <;> decide))

theorem shli (r : BitVec 4) (d a k : BitVec 6) : Statement (.shli r d a k) :=
  one_word rfl rfl rfl (fun _ => pick_ok rfl (by (try simp (disch := omega) only [extract_high, extract_low, Nat.reduceSub]) <;> simp (disch := omega) only [extract_extract, whole, join3, join336, join6, join9, join12, join15, join18, Nat.reduceAdd, and_self, decide_true] <;> decide) (by (try simp (disch := omega) only [extract_high, extract_low, Nat.reduceSub]) <;> simp (disch := omega) only [extract_extract, whole, join3, join336, join6, join9, join12, join15, join18, Nat.reduceAdd, and_self, decide_true] <;> decide))

theorem shri (r : BitVec 4) (d a k : BitVec 6) : Statement (.shri r d a k) :=
  one_word rfl rfl rfl (fun _ => pick_ok rfl (by (try simp (disch := omega) only [extract_high, extract_low, Nat.reduceSub]) <;> simp (disch := omega) only [extract_extract, whole, join3, join336, join6, join9, join12, join15, join18, Nat.reduceAdd, and_self, decide_true] <;> decide) (by (try simp (disch := omega) only [extract_high, extract_low, Nat.reduceSub]) <;> simp (disch := omega) only [extract_extract, whole, join3, join336, join6, join9, join12, join15, join18, Nat.reduceAdd, and_self, decide_true] <;> decide))

theorem srai (r : BitVec 4) (d a k : BitVec 6) : Statement (.srai r d a k) :=
  one_word rfl rfl rfl (fun _ => pick_ok rfl (by (try simp (disch := omega) only [extract_high, extract_low, Nat.reduceSub]) <;> simp (disch := omega) only [extract_extract, whole, join3, join336, join6, join9, join12, join15, join18, Nat.reduceAdd, and_self, decide_true] <;> decide) (by (try simp (disch := omega) only [extract_high, extract_low, Nat.reduceSub]) <;> simp (disch := omega) only [extract_extract, whole, join3, join336, join6, join9, join12, join15, join18, Nat.reduceAdd, and_self, decide_true] <;> decide))

theorem lis (r : BitVec 4) (d : BitVec 6) (i : BitVec 15) : Statement (.lis r d i) :=
  one_word rfl rfl rfl (fun _ => pick_ok rfl (by (try simp (disch := omega) only [extract_high, extract_low, Nat.reduceSub]) <;> simp (disch := omega) only [extract_extract, whole, join3, join336, join6, join9, join12, join15, join18, Nat.reduceAdd, and_self, decide_true] <;> decide) (by (try simp (disch := omega) only [extract_high, extract_low, Nat.reduceSub]) <;> simp (disch := omega) only [extract_extract, whole, join3, join336, join6, join9, join12, join15, join18, Nat.reduceAdd, and_self, decide_true] <;> decide))

theorem liw (r ev : BitVec 4) (d : BitVec 6) (ih : BitVec 15) (il : BitVec 28) : Statement (.liw r ev d ih il) :=
  two_words rfl rfl rfl (fun _ => pick_ok rfl (by (try simp (disch := omega) only [extract_high, extract_low, Nat.reduceSub]) <;> simp (disch := omega) only [extract_extract, whole, join3, join336, join6, join9, join12, join15, join18, Nat.reduceAdd, and_self, decide_true] <;> decide) (by (try simp (disch := omega) only [extract_high, extract_low, Nat.reduceSub]) <;> simp (disch := omega) only [extract_extract, whole, join3, join336, join6, join9, join12, join15, join18, Nat.reduceAdd, and_self, decide_true] <;> decide))

theorem lihi (r ev : BitVec 4) (d : BitVec 6) (v : BitVec 21) : Statement (.lihi r ev d v) :=
  two_words rfl rfl rfl (fun _ => pick_ok rfl (by (try simp (disch := omega) only [extract_high, extract_low, Nat.reduceSub]) <;> simp (disch := omega) only [extract_extract, whole, join3, join336, join6, join9, join12, join15, join18, Nat.reduceAdd, and_self, decide_true] <;> decide) (by (try simp (disch := omega) only [extract_high, extract_low, Nat.reduceSub]) <;> simp (disch := omega) only [extract_extract, whole, join3, join336, join6, join9, join12, join15, join18, Nat.reduceAdd, and_self, decide_true] <;> decide))

theorem lea (r : BitVec 4) (d a b : BitVec 6) (s : BitVec 2) : Statement (.lea r d a b s) :=
  one_word rfl rfl rfl (fun _ => (if_pos (by simp (disch := omega) only [extract_high, extract_low, whole, Nat.reduceSub] <;> decide)).trans (pick_ok rfl rfl (by (try simp (disch := omega) only [extract_high, extract_low, Nat.reduceSub]) <;> simp (disch := omega) only [extract_extract, whole, join3, join336, join6, join9, join12, join15, join18, Nat.reduceAdd, and_self, decide_true] <;> decide)))

theorem mvc (r : BitVec 4) (d : BitVec 6) (a : BitVec 3) : Statement (.mvc r d a) :=
  one_word rfl rfl rfl (fun _ => pick_ok rfl (by (try simp (disch := omega) only [extract_high, extract_low, Nat.reduceSub]) <;> simp (disch := omega) only [extract_extract, whole, join3, join336, join6, join9, join12, join15, join18, Nat.reduceAdd, and_self, decide_true] <;> decide) (by (try simp (disch := omega) only [extract_high, extract_low, Nat.reduceSub]) <;> simp (disch := omega) only [extract_extract, whole, join3, join336, join6, join9, join12, join15, join18, Nat.reduceAdd, and_self, decide_true] <;> decide))

theorem mvb (r : BitVec 4) (d : BitVec 6) (a : BitVec 3) : Statement (.mvb r d a) :=
  one_word rfl rfl rfl (fun _ => pick_ok rfl (by (try simp (disch := omega) only [extract_high, extract_low, Nat.reduceSub]) <;> simp (disch := omega) only [extract_extract, whole, join3, join336, join6, join9, join12, join15, join18, Nat.reduceAdd, and_self, decide_true] <;> decide) (by (try simp (disch := omega) only [extract_high, extract_low, Nat.reduceSub]) <;> simp (disch := omega) only [extract_extract, whole, join3, join336, join6, join9, join12, join15, join18, Nat.reduceAdd, and_self, decide_true] <;> decide))

theorem mvtV (r : BitVec 4) (d a : BitVec 6) : Statement (.mvtV r d a) :=
  one_word rfl rfl rfl (fun _ => pick_ok rfl rfl rfl)

theorem mvtT (r : BitVec 4) (d : BitVec 6) (a : BitVec 2) : Statement (.mvtT r d a) :=
  one_word rfl rfl rfl (fun _ => pick_ok rfl (by (try simp (disch := omega) only [extract_high, extract_low, Nat.reduceSub]) <;> simp (disch := omega) only [extract_extract, whole, join3, join336, join6, join9, join12, join15, join18, Nat.reduceAdd, and_self, decide_true] <;> decide) (by (try simp (disch := omega) only [extract_high, extract_low, Nat.reduceSub]) <;> simp (disch := omega) only [extract_extract, whole, join3, join336, join6, join9, join12, join15, join18, Nat.reduceAdd, and_self, decide_true] <;> decide))

theorem bfx (r ev : BitVec 4) (d a pos len : BitVec 6) (sg : BitVec 1) : Statement (.bfx r ev d a pos len sg) :=
  two_words rfl rfl rfl (fun _ => pick_ok rfl (by (try simp (disch := omega) only [extract_high, extract_low, Nat.reduceSub]) <;> simp (disch := omega) only [extract_extract, whole, join3, join336, join6, join9, join12, join15, join18, Nat.reduceAdd, and_self, decide_true] <;> decide) (by (try simp (disch := omega) only [extract_high, extract_low, Nat.reduceSub]) <;> simp (disch := omega) only [extract_extract, whole, join3, join336, join6, join9, join12, join15, join18, Nat.reduceAdd, and_self, decide_true] <;> decide))

theorem bfi (r ev : BitVec 4) (d a b pos len : BitVec 6) : Statement (.bfi r ev d a b pos len) :=
  two_words rfl rfl rfl (fun _ => pick_ok rfl (by (try simp (disch := omega) only [extract_high, extract_low, Nat.reduceSub]) <;> simp (disch := omega) only [extract_extract, whole, join3, join336, join6, join9, join12, join15, join18, Nat.reduceAdd, and_self, decide_true] <;> decide) (by (try simp (disch := omega) only [extract_high, extract_low, Nat.reduceSub]) <;> simp (disch := omega) only [extract_extract, whole, join3, join336, join6, join9, join12, join15, join18, Nat.reduceAdd, and_self, decide_true] <;> decide))

theorem sel (r ev : BitVec 4) (d a b : BitVec 6) (c : BitVec 3) : Statement (.sel r ev d a b c) :=
  two_words rfl rfl rfl (fun _ => pick_ok rfl (by (try simp (disch := omega) only [extract_high, extract_low, Nat.reduceSub]) <;> simp (disch := omega) only [extract_extract, whole, join3, join336, join6, join9, join12, join15, join18, Nat.reduceAdd, and_self, decide_true] <;> decide) (by (try simp (disch := omega) only [extract_high, extract_low, Nat.reduceSub]) <;> simp (disch := omega) only [extract_extract, whole, join3, join336, join6, join9, join12, join15, join18, Nat.reduceAdd, and_self, decide_true] <;> decide))

theorem cmp (r : BitVec 4) (c : BitVec 3) (a b : BitVec 6) (k : BitVec 3) : Statement (.cmp r c a b k) :=
  one_word rfl rfl rfl (fun _ => pick_ok rfl (by (try simp (disch := omega) only [extract_high, extract_low, Nat.reduceSub]) <;> simp (disch := omega) only [extract_extract, whole, join3, join336, join6, join9, join12, join15, join18, Nat.reduceAdd, and_self, decide_true] <;> decide) (by (try simp (disch := omega) only [extract_high, extract_low, Nat.reduceSub]) <;> simp (disch := omega) only [extract_extract, whole, join3, join336, join6, join9, join12, join15, join18, Nat.reduceAdd, and_self, decide_true] <;> decide))

theorem cmpi (r : BitVec 4) (k c : BitVec 3) (a : BitVec 6) (i : BitVec 9) : Statement (.cmpi r k c a i) :=
  one_word rfl rfl rfl (fun _ => pick_ok rfl (by (try simp (disch := omega) only [extract_high, extract_low, Nat.reduceSub]) <;> simp (disch := omega) only [extract_extract, whole, join3, join336, join6, join9, join12, join15, join18, Nat.reduceAdd, and_self, decide_true] <;> decide) (by (try simp (disch := omega) only [extract_high, extract_low, Nat.reduceSub]) <;> simp (disch := omega) only [extract_extract, whole, join3, join336, join6, join9, join12, join15, join18, Nat.reduceAdd, and_self, decide_true] <;> decide))

theorem cand (r : BitVec 4) (d a b : BitVec 3) : Statement (.cand r d a b) :=
  one_word rfl rfl rfl (fun _ => pick_ok rfl (by (try simp (disch := omega) only [extract_high, extract_low, Nat.reduceSub]) <;> simp (disch := omega) only [extract_extract, whole, join3, join336, join6, join9, join12, join15, join18, Nat.reduceAdd, and_self, decide_true] <;> decide) (by (try simp (disch := omega) only [extract_high, extract_low, Nat.reduceSub]) <;> simp (disch := omega) only [extract_extract, whole, join3, join336, join6, join9, join12, join15, join18, Nat.reduceAdd, and_self, decide_true] <;> decide))

theorem cor (r : BitVec 4) (d a b : BitVec 3) : Statement (.cor r d a b) :=
  one_word rfl rfl rfl (fun _ => pick_ok rfl (by (try simp (disch := omega) only [extract_high, extract_low, Nat.reduceSub]) <;> simp (disch := omega) only [extract_extract, whole, join3, join336, join6, join9, join12, join15, join18, Nat.reduceAdd, and_self, decide_true] <;> decide) (by (try simp (disch := omega) only [extract_high, extract_low, Nat.reduceSub]) <;> simp (disch := omega) only [extract_extract, whole, join3, join336, join6, join9, join12, join15, join18, Nat.reduceAdd, and_self, decide_true] <;> decide))

theorem cnot (r : BitVec 4) (d a : BitVec 3) : Statement (.cnot r d a) :=
  one_word rfl rfl rfl (fun _ => pick_ok rfl (by (try simp (disch := omega) only [extract_high, extract_low, Nat.reduceSub]) <;> simp (disch := omega) only [extract_extract, whole, join3, join336, join6, join9, join12, join15, join18, Nat.reduceAdd, and_self, decide_true] <;> decide) (by (try simp (disch := omega) only [extract_high, extract_low, Nat.reduceSub]) <;> simp (disch := omega) only [extract_extract, whole, join3, join336, join6, join9, join12, join15, join18, Nat.reduceAdd, and_self, decide_true] <;> decide))

theorem vany (r : BitVec 4) (d a : BitVec 3) (w : BitVec 1) : Statement (.vany r d a w) :=
  one_word rfl rfl rfl (fun _ => pick_ok rfl (by (try simp (disch := omega) only [extract_high, extract_low, Nat.reduceSub]) <;> simp (disch := omega) only [extract_extract, whole, join3, join336, join6, join9, join12, join15, join18, Nat.reduceAdd, and_self, decide_true] <;> decide) (by (try simp (disch := omega) only [extract_high, extract_low, Nat.reduceSub]) <;> simp (disch := omega) only [extract_extract, whole, join3, join336, join6, join9, join12, join15, join18, Nat.reduceAdd, and_self, decide_true] <;> decide))

theorem vall (r : BitVec 4) (d a : BitVec 3) (w : BitVec 1) : Statement (.vall r d a w) :=
  one_word rfl rfl rfl (fun _ => pick_ok rfl (by (try simp (disch := omega) only [extract_high, extract_low, Nat.reduceSub]) <;> simp (disch := omega) only [extract_extract, whole, join3, join336, join6, join9, join12, join15, join18, Nat.reduceAdd, and_self, decide_true] <;> decide) (by (try simp (disch := omega) only [extract_high, extract_low, Nat.reduceSub]) <;> simp (disch := omega) only [extract_extract, whole, join3, join336, join6, join9, join12, join15, join18, Nat.reduceAdd, and_self, decide_true] <;> decide))

theorem pand (r : BitVec 4) (d a b : BitVec 3) : Statement (.pand r d a b) :=
  one_word rfl rfl rfl (fun _ => pick_ok rfl (by (try simp (disch := omega) only [extract_high, extract_low, Nat.reduceSub]) <;> simp (disch := omega) only [extract_extract, whole, join3, join336, join6, join9, join12, join15, join18, Nat.reduceAdd, and_self, decide_true] <;> decide) (by (try simp (disch := omega) only [extract_high, extract_low, Nat.reduceSub]) <;> simp (disch := omega) only [extract_extract, whole, join3, join336, join6, join9, join12, join15, join18, Nat.reduceAdd, and_self, decide_true] <;> decide))

theorem por (r : BitVec 4) (d a b : BitVec 3) : Statement (.por r d a b) :=
  one_word rfl rfl rfl (fun _ => pick_ok rfl (by (try simp (disch := omega) only [extract_high, extract_low, Nat.reduceSub]) <;> simp (disch := omega) only [extract_extract, whole, join3, join336, join6, join9, join12, join15, join18, Nat.reduceAdd, and_self, decide_true] <;> decide) (by (try simp (disch := omega) only [extract_high, extract_low, Nat.reduceSub]) <;> simp (disch := omega) only [extract_extract, whole, join3, join336, join6, join9, join12, join15, join18, Nat.reduceAdd, and_self, decide_true] <;> decide))

theorem pxor (r : BitVec 4) (d a b : BitVec 3) : Statement (.pxor r d a b) :=
  one_word rfl rfl rfl (fun _ => pick_ok rfl (by (try simp (disch := omega) only [extract_high, extract_low, Nat.reduceSub]) <;> simp (disch := omega) only [extract_extract, whole, join3, join336, join6, join9, join12, join15, join18, Nat.reduceAdd, and_self, decide_true] <;> decide) (by (try simp (disch := omega) only [extract_high, extract_low, Nat.reduceSub]) <;> simp (disch := omega) only [extract_extract, whole, join3, join336, join6, join9, join12, join15, join18, Nat.reduceAdd, and_self, decide_true] <;> decide))

theorem pnot (r : BitVec 4) (d a : BitVec 3) : Statement (.pnot r d a) :=
  one_word rfl rfl rfl (fun _ => pick_ok rfl (by (try simp (disch := omega) only [extract_high, extract_low, Nat.reduceSub]) <;> simp (disch := omega) only [extract_extract, whole, join3, join336, join6, join9, join12, join15, join18, Nat.reduceAdd, and_self, decide_true] <;> decide) (by (try simp (disch := omega) only [extract_high, extract_low, Nat.reduceSub]) <;> simp (disch := omega) only [extract_extract, whole, join3, join336, join6, join9, join12, join15, join18, Nat.reduceAdd, and_self, decide_true] <;> decide))

theorem pcnt (r : BitVec 4) (d : BitVec 6) (a : BitVec 3) (w : BitVec 1) : Statement (.pcnt r d a w) :=
  one_word rfl rfl rfl (fun _ => pick_ok rfl (by (try simp (disch := omega) only [extract_high, extract_low, Nat.reduceSub]) <;> simp (disch := omega) only [extract_extract, whole, join3, join336, join6, join9, join12, join15, join18, Nat.reduceAdd, and_self, decide_true] <;> decide) (by (try simp (disch := omega) only [extract_high, extract_low, Nat.reduceSub]) <;> simp (disch := omega) only [extract_extract, whole, join3, join336, join6, join9, join12, join15, join18, Nat.reduceAdd, and_self, decide_true] <;> decide))

theorem pset (r : BitVec 4) (d : BitVec 3) (a : BitVec 6) (i : BitVec 9) : Statement (.pset r d a i) :=
  one_word rfl rfl rfl (fun _ => pick_ok rfl (by (try simp (disch := omega) only [extract_high, extract_low, Nat.reduceSub]) <;> simp (disch := omega) only [extract_extract, whole, join3, join336, join6, join9, join12, join15, join18, Nat.reduceAdd, and_self, decide_true] <;> decide) (by (try simp (disch := omega) only [extract_high, extract_low, Nat.reduceSub]) <;> simp (disch := omega) only [extract_extract, whole, join3, join336, join6, join9, join12, join15, join18, Nat.reduceAdd, and_self, decide_true] <;> decide))

theorem prep (r : BitVec 4) (b : BitVec 3) (i : BitVec 18) : Statement (.prep r b i) :=
  one_word rfl rfl rfl (fun _ => pick_ok rfl (by (try simp (disch := omega) only [extract_high, extract_low, Nat.reduceSub]) <;> simp (disch := omega) only [extract_extract, whole, join3, join336, join6, join9, join12, join15, join18, Nat.reduceAdd, and_self, decide_true] <;> decide) (by (try simp (disch := omega) only [extract_high, extract_low, Nat.reduceSub]) <;> simp (disch := omega) only [extract_extract, whole, join3, join336, join6, join9, join12, join15, join18, Nat.reduceAdd, and_self, decide_true] <;> decide))

theorem prepr (r : BitVec 4) (b : BitVec 3) (a : BitVec 6) : Statement (.prepr r b a) :=
  one_word rfl rfl rfl (fun _ => pick_ok rfl (by (try simp (disch := omega) only [extract_high, extract_low, Nat.reduceSub]) <;> simp (disch := omega) only [extract_extract, whole, join3, join336, join6, join9, join12, join15, join18, Nat.reduceAdd, and_self, decide_true] <;> decide) (by (try simp (disch := omega) only [extract_high, extract_low, Nat.reduceSub]) <;> simp (disch := omega) only [extract_extract, whole, join3, join336, join6, join9, join12, join15, join18, Nat.reduceAdd, and_self, decide_true] <;> decide))

theorem xfer (r : BitVec 4) (b : BitVec 3) : Statement (.xfer r b) :=
  one_word rfl rfl rfl (fun _ => (if_pos (by simp (disch := omega) only [extract_high, extract_low, whole, Nat.reduceSub] <;> decide)).trans (pick_ok rfl (by (try simp (disch := omega) only [extract_high, extract_low, Nat.reduceSub]) <;> simp (disch := omega) only [extract_extract, whole, join3, join336, join6, join9, join12, join15, join18, Nat.reduceAdd, and_self, decide_true] <;> decide) (by (try simp (disch := omega) only [extract_high, extract_low, Nat.reduceSub]) <;> simp (disch := omega) only [extract_extract, whole, join3, join336, join6, join9, join12, join15, join18, Nat.reduceAdd, and_self, decide_true] <;> decide)))

theorem xferC (r : BitVec 4) (b c : BitVec 3) : Statement (.xferC r b c) :=
  one_word rfl rfl rfl (fun _ => (if_neg (by simp (disch := omega) only [extract_high, extract_low, whole, Nat.reduceSub] <;> decide)).trans ((if_pos (by simp (disch := omega) only [extract_high, extract_low, whole, Nat.reduceSub] <;> decide)).trans (pick_ok rfl (by (try simp (disch := omega) only [extract_high, extract_low, Nat.reduceSub]) <;> simp (disch := omega) only [extract_extract, whole, join3, join336, join6, join9, join12, join15, join18, Nat.reduceAdd, and_self, decide_true] <;> decide) (by (try simp (disch := omega) only [extract_high, extract_low, Nat.reduceSub]) <;> simp (disch := omega) only [extract_extract, whole, join3, join336, join6, join9, join12, join15, join18, Nat.reduceAdd, and_self, decide_true] <;> decide))))

theorem xferNc (r : BitVec 4) (b c : BitVec 3) : Statement (.xferNc r b c) :=
  one_word rfl rfl rfl (fun _ => (if_neg (by simp (disch := omega) only [extract_high, extract_low, whole, Nat.reduceSub] <;> decide)).trans ((if_neg (by simp (disch := omega) only [extract_high, extract_low, whole, Nat.reduceSub] <;> decide)).trans ((if_pos (by simp (disch := omega) only [extract_high, extract_low, whole, Nat.reduceSub] <;> decide)).trans (pick_ok rfl (by (try simp (disch := omega) only [extract_high, extract_low, Nat.reduceSub]) <;> simp (disch := omega) only [extract_extract, whole, join3, join336, join6, join9, join12, join15, join18, Nat.reduceAdd, and_self, decide_true] <;> decide) (by (try simp (disch := omega) only [extract_high, extract_low, Nat.reduceSub]) <;> simp (disch := omega) only [extract_extract, whole, join3, join336, join6, join9, join12, join15, join18, Nat.reduceAdd, and_self, decide_true] <;> decide)))))

theorem loop (r : BitVec 4) (l : BitVec 1) (a : BitVec 6) (n : BitVec 12) : Statement (.loop r l a n) :=
  one_word rfl rfl rfl (fun _ => pick_ok rfl (by (try simp (disch := omega) only [extract_high, extract_low, Nat.reduceSub]) <;> simp (disch := omega) only [extract_extract, whole, join3, join336, join6, join9, join12, join15, join18, Nat.reduceAdd, and_self, decide_true] <;> decide) (by (try simp (disch := omega) only [extract_high, extract_low, Nat.reduceSub]) <;> simp (disch := omega) only [extract_extract, whole, join3, join336, join6, join9, join12, join15, join18, Nat.reduceAdd, and_self, decide_true] <;> decide))

theorem loopi (r ev : BitVec 4) (l : BitVec 1) (len : BitVec 12) (n : BitVec 28) : Statement (.loopi r ev l len n) :=
  two_words rfl rfl rfl (fun _ => pick_ok rfl (by (try simp (disch := omega) only [extract_high, extract_low, Nat.reduceSub]) <;> simp (disch := omega) only [extract_extract, whole, join3, join336, join6, join9, join12, join15, join18, Nat.reduceAdd, and_self, decide_true] <;> decide) (by (try simp (disch := omega) only [extract_high, extract_low, Nat.reduceSub]) <;> simp (disch := omega) only [extract_extract, whole, join3, join336, join6, join9, join12, join15, join18, Nat.reduceAdd, and_self, decide_true] <;> decide))

theorem nop (r : BitVec 4) : Statement (.nop r) :=
  one_word rfl rfl rfl (fun _ => pick_ok rfl rfl rfl)

theorem endg (r : BitVec 4) : Statement (.endg r) :=
  one_word rfl rfl rfl (fun _ => pick_ok rfl rfl rfl)

theorem yield (r : BitVec 4) : Statement (.yield r) :=
  one_word rfl rfl rfl (fun _ => pick_ok rfl rfl rfl)

theorem ifence (r : BitVec 4) : Statement (.ifence r) :=
  one_word rfl rfl rfl (fun _ => pick_ok rfl rfl rfl)

theorem suspend (r : BitVec 4) (a b : BitVec 6) : Statement (.suspend r a b) :=
  one_word rfl rfl rfl (fun _ => pick_ok rfl rfl rfl)

theorem suspendSeal (p : Place) : Statement (.suspendSeal p) := event rfl rfl

theorem resume (r : BitVec 4) (a b : BitVec 6) : Statement (.resume r a b) :=
  one_word rfl rfl rfl (fun _ => pick_ok rfl rfl rfl)

theorem discard (r : BitVec 4) (a b : BitVec 6) : Statement (.discard r a b) :=
  one_word rfl rfl rfl (fun _ => pick_ok rfl rfl rfl)

theorem trap (r : BitVec 4) (n : BitVec 9) : Statement (.trap r n) :=
  one_word rfl rfl rfl (fun _ => pick_ok rfl (by (try simp (disch := omega) only [extract_high, extract_low, Nat.reduceSub]) <;> simp (disch := omega) only [extract_extract, whole, join3, join336, join6, join9, join12, join15, join18, Nat.reduceAdd, and_self, decide_true] <;> decide) (by (try simp (disch := omega) only [extract_high, extract_low, Nat.reduceSub]) <;> simp (disch := omega) only [extract_extract, whole, join3, join336, join6, join9, join12, join15, join18, Nat.reduceAdd, and_self, decide_true] <;> decide))

theorem sysr (r : BitVec 4) (d : BitVec 6) (n : BitVec 12) : Statement (.sysr r d n) :=
  one_word rfl rfl rfl (fun _ => by delta decodeBoxes; exact pick_ok rfl rfl (by rw [join12]))

theorem sysw (r : BitVec 4) (d : BitVec 6) (n : BitVec 12) : Statement (.sysw r d n) :=
  one_word rfl rfl rfl (fun _ => by delta decodeBoxes; exact pick_ok rfl rfl (by rw [join12]))

theorem perfr (r : BitVec 4) (d : BitVec 6) (n : BitVec 12) : Statement (.perfr r d n) :=
  one_word rfl rfl rfl (fun _ => by delta decodeBoxes; exact pick_ok rfl rfl (by rw [join12]))

theorem tret (r : BitVec 4) : Statement (.tret r) :=
  one_word rfl rfl rfl (fun _ => pick_ok rfl rfl rfl)

theorem brk (r : BitVec 4) (n : BitVec 12) : Statement (.brk r n) :=
  one_word rfl rfl rfl (fun _ => by delta decodeBoxes; exact pick_ok rfl rfl (by rw [join12]))

theorem locq (r : BitVec 4) (d a : BitVec 6) : Statement (.locq r d a) :=
  one_word rfl rfl rfl (fun _ => pick_ok rfl rfl rfl)

theorem ldB (r : BitVec 4) (d a : BitVec 6) (i : BitVec 9) : Statement (.ldB r d a i) :=
  one_word rfl rfl rfl (fun _ => pick_ok rfl (by (try simp (disch := omega) only [extract_high, extract_low, Nat.reduceSub]) <;> simp (disch := omega) only [extract_extract, whole, join3, join336, join6, join9, join12, join15, join18, Nat.reduceAdd, and_self, decide_true] <;> decide) (by (try simp (disch := omega) only [extract_high, extract_low, Nat.reduceSub]) <;> simp (disch := omega) only [extract_extract, whole, join3, join336, join6, join9, join12, join15, join18, Nat.reduceAdd, and_self, decide_true] <;> decide))

theorem ldBu (r : BitVec 4) (d a : BitVec 6) (i : BitVec 9) : Statement (.ldBu r d a i) :=
  one_word rfl rfl rfl (fun _ => pick_ok rfl (by (try simp (disch := omega) only [extract_high, extract_low, Nat.reduceSub]) <;> simp (disch := omega) only [extract_extract, whole, join3, join336, join6, join9, join12, join15, join18, Nat.reduceAdd, and_self, decide_true] <;> decide) (by (try simp (disch := omega) only [extract_high, extract_low, Nat.reduceSub]) <;> simp (disch := omega) only [extract_extract, whole, join3, join336, join6, join9, join12, join15, join18, Nat.reduceAdd, and_self, decide_true] <;> decide))

theorem ldH (r : BitVec 4) (d a : BitVec 6) (i : BitVec 9) : Statement (.ldH r d a i) :=
  one_word rfl rfl rfl (fun _ => pick_ok rfl (by (try simp (disch := omega) only [extract_high, extract_low, Nat.reduceSub]) <;> simp (disch := omega) only [extract_extract, whole, join3, join336, join6, join9, join12, join15, join18, Nat.reduceAdd, and_self, decide_true] <;> decide) (by (try simp (disch := omega) only [extract_high, extract_low, Nat.reduceSub]) <;> simp (disch := omega) only [extract_extract, whole, join3, join336, join6, join9, join12, join15, join18, Nat.reduceAdd, and_self, decide_true] <;> decide))

theorem ldHu (r : BitVec 4) (d a : BitVec 6) (i : BitVec 9) : Statement (.ldHu r d a i) :=
  one_word rfl rfl rfl (fun _ => pick_ok rfl (by (try simp (disch := omega) only [extract_high, extract_low, Nat.reduceSub]) <;> simp (disch := omega) only [extract_extract, whole, join3, join336, join6, join9, join12, join15, join18, Nat.reduceAdd, and_self, decide_true] <;> decide) (by (try simp (disch := omega) only [extract_high, extract_low, Nat.reduceSub]) <;> simp (disch := omega) only [extract_extract, whole, join3, join336, join6, join9, join12, join15, join18, Nat.reduceAdd, and_self, decide_true] <;> decide))

theorem ldW (r : BitVec 4) (d a : BitVec 6) (i : BitVec 9) : Statement (.ldW r d a i) :=
  one_word rfl rfl rfl (fun _ => pick_ok rfl (by (try simp (disch := omega) only [extract_high, extract_low, Nat.reduceSub]) <;> simp (disch := omega) only [extract_extract, whole, join3, join336, join6, join9, join12, join15, join18, Nat.reduceAdd, and_self, decide_true] <;> decide) (by (try simp (disch := omega) only [extract_high, extract_low, Nat.reduceSub]) <;> simp (disch := omega) only [extract_extract, whole, join3, join336, join6, join9, join12, join15, join18, Nat.reduceAdd, and_self, decide_true] <;> decide))

theorem ldWu (r : BitVec 4) (d a : BitVec 6) (i : BitVec 9) : Statement (.ldWu r d a i) :=
  one_word rfl rfl rfl (fun _ => pick_ok rfl (by (try simp (disch := omega) only [extract_high, extract_low, Nat.reduceSub]) <;> simp (disch := omega) only [extract_extract, whole, join3, join336, join6, join9, join12, join15, join18, Nat.reduceAdd, and_self, decide_true] <;> decide) (by (try simp (disch := omega) only [extract_high, extract_low, Nat.reduceSub]) <;> simp (disch := omega) only [extract_extract, whole, join3, join336, join6, join9, join12, join15, join18, Nat.reduceAdd, and_self, decide_true] <;> decide))

theorem ldD (r : BitVec 4) (d a : BitVec 6) (i : BitVec 9) : Statement (.ldD r d a i) :=
  one_word rfl rfl rfl (fun _ => pick_ok rfl (by (try simp (disch := omega) only [extract_high, extract_low, Nat.reduceSub]) <;> simp (disch := omega) only [extract_extract, whole, join3, join336, join6, join9, join12, join15, join18, Nat.reduceAdd, and_self, decide_true] <;> decide) (by (try simp (disch := omega) only [extract_high, extract_low, Nat.reduceSub]) <;> simp (disch := omega) only [extract_extract, whole, join3, join336, join6, join9, join12, join15, join18, Nat.reduceAdd, and_self, decide_true] <;> decide))

theorem stB (r : BitVec 4) (s a : BitVec 6) (i : BitVec 9) : Statement (.stB r s a i) :=
  one_word rfl rfl rfl (fun _ => pick_ok rfl (by (try simp (disch := omega) only [extract_high, extract_low, Nat.reduceSub]) <;> simp (disch := omega) only [extract_extract, whole, join3, join336, join6, join9, join12, join15, join18, Nat.reduceAdd, and_self, decide_true] <;> decide) (by (try simp (disch := omega) only [extract_high, extract_low, Nat.reduceSub]) <;> simp (disch := omega) only [extract_extract, whole, join3, join336, join6, join9, join12, join15, join18, Nat.reduceAdd, and_self, decide_true] <;> decide))

theorem stH (r : BitVec 4) (s a : BitVec 6) (i : BitVec 9) : Statement (.stH r s a i) :=
  one_word rfl rfl rfl (fun _ => pick_ok rfl (by (try simp (disch := omega) only [extract_high, extract_low, Nat.reduceSub]) <;> simp (disch := omega) only [extract_extract, whole, join3, join336, join6, join9, join12, join15, join18, Nat.reduceAdd, and_self, decide_true] <;> decide) (by (try simp (disch := omega) only [extract_high, extract_low, Nat.reduceSub]) <;> simp (disch := omega) only [extract_extract, whole, join3, join336, join6, join9, join12, join15, join18, Nat.reduceAdd, and_self, decide_true] <;> decide))

theorem stW (r : BitVec 4) (s a : BitVec 6) (i : BitVec 9) : Statement (.stW r s a i) :=
  one_word rfl rfl rfl (fun _ => pick_ok rfl (by (try simp (disch := omega) only [extract_high, extract_low, Nat.reduceSub]) <;> simp (disch := omega) only [extract_extract, whole, join3, join336, join6, join9, join12, join15, join18, Nat.reduceAdd, and_self, decide_true] <;> decide) (by (try simp (disch := omega) only [extract_high, extract_low, Nat.reduceSub]) <;> simp (disch := omega) only [extract_extract, whole, join3, join336, join6, join9, join12, join15, join18, Nat.reduceAdd, and_self, decide_true] <;> decide))

theorem stD (r : BitVec 4) (s a : BitVec 6) (i : BitVec 9) : Statement (.stD r s a i) :=
  one_word rfl rfl rfl (fun _ => pick_ok rfl (by (try simp (disch := omega) only [extract_high, extract_low, Nat.reduceSub]) <;> simp (disch := omega) only [extract_extract, whole, join3, join336, join6, join9, join12, join15, join18, Nat.reduceAdd, and_self, decide_true] <;> decide) (by (try simp (disch := omega) only [extract_high, extract_low, Nat.reduceSub]) <;> simp (disch := omega) only [extract_extract, whole, join3, join336, join6, join9, join12, join15, join18, Nat.reduceAdd, and_self, decide_true] <;> decide))

theorem lds (r : BitVec 4) (d a : BitVec 6) : Statement (.lds r d a) :=
  one_word rfl rfl rfl (fun _ => pick_ok rfl rfl rfl)

theorem stf (r : BitVec 4) (s a : BitVec 6) : Statement (.stf r s a) :=
  one_word rfl rfl rfl (fun _ => pick_ok rfl rfl rfl)

theorem waita (r : BitVec 4) (d a b : BitVec 6) : Statement (.waita r d a b) :=
  one_word rfl rfl rfl (fun _ => pick_ok rfl rfl rfl)

theorem qmark (r : BitVec 4) : Statement (.qmark r) :=
  one_word rfl rfl rfl (fun _ => pick_ok rfl rfl rfl)

theorem fence (r : BitVec 4) (s : BitVec 3) (k : BitVec 2) : Statement (.fence r s k) :=
  one_word rfl rfl rfl (fun hw => pick_ok (by simp (disch := omega) only [extract_high, extract_low, whole, Nat.reduceSub]; exact hw) (by (try simp (disch := omega) only [extract_high, extract_low, Nat.reduceSub]) <;> simp (disch := omega) only [extract_extract, whole, join3, join336, join6, join9, join12, join15, join18, Nat.reduceAdd, and_self, decide_true] <;> decide) (by (try simp (disch := omega) only [extract_high, extract_low, Nat.reduceSub]) <;> simp (disch := omega) only [extract_extract, whole, join3, join336, join6, join9, join12, join15, join18, Nat.reduceAdd, and_self, decide_true] <;> decide))

theorem epop (r : BitVec 4) (d : BitVec 6) (e : BitVec 4) : Statement (.epop r d e) :=
  one_word rfl rfl rfl (fun hw => pick_ok (by simp (disch := omega) only [extract_high, extract_low, whole, Nat.reduceSub]; exact hw) (by (try simp (disch := omega) only [extract_high, extract_low, Nat.reduceSub]) <;> simp (disch := omega) only [extract_extract, whole, join3, join336, join6, join9, join12, join15, join18, Nat.reduceAdd, and_self, decide_true] <;> decide) (by (try simp (disch := omega) only [extract_high, extract_low, Nat.reduceSub]) <;> simp (disch := omega) only [extract_extract, whole, join3, join336, join6, join9, join12, join15, join18, Nat.reduceAdd, and_self, decide_true] <;> decide))

theorem pref (r : BitVec 4) (a : BitVec 6) (w e : BitVec 1) : Statement (.pref r a w e) :=
  one_word rfl rfl rfl (fun _ => pick_ok rfl (by (try simp (disch := omega) only [extract_high, extract_low, Nat.reduceSub]) <;> simp (disch := omega) only [extract_extract, whole, join3, join336, join6, join9, join12, join15, join18, Nat.reduceAdd, and_self, decide_true] <;> decide) (by (try simp (disch := omega) only [extract_high, extract_low, Nat.reduceSub]) <;> simp (disch := omega) only [extract_extract, whole, join3, join336, join6, join9, join12, join15, join18, Nat.reduceAdd, and_self, decide_true] <;> decide))

theorem evpost (r : BitVec 4) (e : BitVec 5) : Statement (.evpost r e) :=
  one_word rfl rfl rfl (fun _ => pick_ok rfl (by (try simp (disch := omega) only [extract_high, extract_low, Nat.reduceSub]) <;> simp (disch := omega) only [extract_extract, whole, join3, join336, join6, join9, join12, join15, join18, Nat.reduceAdd, and_self, decide_true] <;> decide) (by (try simp (disch := omega) only [extract_high, extract_low, Nat.reduceSub]) <;> simp (disch := omega) only [extract_extract, whole, join3, join336, join6, join9, join12, join15, join18, Nat.reduceAdd, and_self, decide_true] <;> decide))

theorem evpostG (r : BitVec 4) (e : BitVec 5) (a : BitVec 6) : Statement (.evpostG r e a) :=
  one_word rfl rfl rfl (fun _ => pick_ok rfl (by (try simp (disch := omega) only [extract_high, extract_low, Nat.reduceSub]) <;> simp (disch := omega) only [extract_extract, whole, join3, join336, join6, join9, join12, join15, join18, Nat.reduceAdd, and_self, decide_true] <;> decide) (by (try simp (disch := omega) only [extract_high, extract_low, Nat.reduceSub]) <;> simp (disch := omega) only [extract_extract, whole, join3, join336, join6, join9, join12, join15, join18, Nat.reduceAdd, and_self, decide_true] <;> decide))

theorem evwait (r : BitVec 4) (e : BitVec 5) : Statement (.evwait r e) :=
  one_word rfl rfl rfl (fun _ => pick_ok rfl (by (try simp (disch := omega) only [extract_high, extract_low, Nat.reduceSub]) <;> simp (disch := omega) only [extract_extract, whole, join3, join336, join6, join9, join12, join15, join18, Nat.reduceAdd, and_self, decide_true] <;> decide) (by (try simp (disch := omega) only [extract_high, extract_low, Nat.reduceSub]) <;> simp (disch := omega) only [extract_extract, whole, join3, join336, join6, join9, join12, join15, join18, Nat.reduceAdd, and_self, decide_true] <;> decide))

theorem bara (r : BitVec 4) (d a b : BitVec 6) : Statement (.bara r d a b) :=
  one_word rfl rfl rfl (fun _ => (if_neg (fun h => absurd h.2 (by decide))).trans ((if_neg (fun h => absurd h.2 (by decide))).trans (pick_ok rfl rfl rfl)))

theorem barex (r : BitVec 4) (a b : BitVec 6) : Statement (.barex r a b) :=
  one_word rfl rfl rfl (fun _ => (if_neg (fun h => absurd h.2 (by decide))).trans ((if_neg (fun h => absurd h.2 (by decide))).trans (pick_ok rfl rfl rfl)))

theorem barw (r : BitVec 4) (d a b : BitVec 6) : Statement (.barw r d a b) :=
  one_word rfl rfl rfl (fun _ => (if_neg (fun h => absurd h.2 (by decide))).trans ((if_neg (fun h => absurd h.2 (by decide))).trans (pick_ok rfl rfl rfl)))

theorem l2unpin (r : BitVec 4) (a : BitVec 6) : Statement (.l2unpin r a) :=
  one_word rfl rfl rfl (fun _ => pick_ok rfl rfl rfl)

theorem l2pin (r ev : BitVec 4) (d a b : BitVec 6) (ways : BitVec 4) : Statement (.l2pin r ev d a b ways) :=
  two_words rfl rfl rfl (fun _ => pick_ok rfl (by (try simp (disch := omega) only [extract_high, extract_low, Nat.reduceSub]) <;> simp (disch := omega) only [extract_extract, whole, join3, join336, join6, join9, join12, join15, join18, Nat.reduceAdd, and_self, decide_true] <;> decide) (by (try simp (disch := omega) only [extract_high, extract_low, Nat.reduceSub]) <;> simp (disch := omega) only [extract_extract, whole, join3, join336, join6, join9, join12, join15, join18, Nat.reduceAdd, and_self, decide_true] <;> decide))

theorem rgtkt (r : BitVec 4) (d a : BitVec 6) : Statement (.rgtkt r d a) :=
  one_word rfl rfl rfl (fun _ => pick_ok rfl rfl rfl)

theorem rgfill (r : BitVec 4) (a b : BitVec 6) : Statement (.rgfill r a b) :=
  one_word rfl rfl rfl (fun _ => pick_ok rfl rfl rfl)

theorem rgtake (r : BitVec 4) (d a b : BitVec 6) : Statement (.rgtake r d a b) :=
  one_word rfl rfl rfl (fun _ => pick_ok rfl rfl rfl)

theorem rgrel (r : BitVec 4) (a b : BitVec 6) : Statement (.rgrel r a b) :=
  one_word rfl rfl rfl (fun _ => pick_ok rfl rfl rfl)

theorem jobnx (r : BitVec 4) (d a : BitVec 6) : Statement (.jobnx r d a) :=
  one_word rfl rfl rfl (fun _ => pick_ok rfl rfl rfl)

theorem jobgo (r : BitVec 4) (a b : BitVec 6) : Statement (.jobgo r a b) :=
  one_word rfl rfl rfl (fun _ => pick_ok rfl rfl rfl)

theorem tqadd (r : BitVec 4) (a : BitVec 6) : Statement (.tqadd r a) :=
  one_word rfl rfl rfl (fun _ => pick_ok rfl rfl rfl)

theorem wpclr (r : BitVec 4) (a : BitVec 6) : Statement (.wpclr r a) :=
  one_word rfl rfl rfl (fun _ => pick_ok rfl rfl rfl)

theorem wpset (r ev : BitVec 4) (d a : BitVec 6) (once : BitVec 1) : Statement (.wpset r ev d a once) :=
  two_words rfl rfl rfl (fun _ => pick_ok rfl (by (try simp (disch := omega) only [extract_high, extract_low, Nat.reduceSub]) <;> simp (disch := omega) only [extract_extract, whole, join3, join336, join6, join9, join12, join15, join18, Nat.reduceAdd, and_self, decide_true] <;> decide) (by (try simp (disch := omega) only [extract_high, extract_low, Nat.reduceSub]) <;> simp (disch := omega) only [extract_extract, whole, join3, join336, join6, join9, join12, join15, join18, Nat.reduceAdd, and_self, decide_true] <;> decide))

theorem vadd (r : BitVec 4) (d a b : BitVec 6) (p : BitVec 3) : Statement (.vadd r d a b p) :=
  one_word rfl rfl rfl (fun _ => pick_ok rfl rfl rfl)

theorem vsub (r : BitVec 4) (d a b : BitVec 6) (p : BitVec 3) : Statement (.vsub r d a b p) :=
  one_word rfl rfl rfl (fun _ => pick_ok rfl rfl rfl)

theorem vmul (r : BitVec 4) (d a b : BitVec 6) (p : BitVec 3) : Statement (.vmul r d a b p) :=
  one_word rfl rfl rfl (fun _ => pick_ok rfl rfl rfl)

theorem vfma (r : BitVec 4) (d a b : BitVec 6) (p : BitVec 3) : Statement (.vfma r d a b p) :=
  one_word rfl rfl rfl (fun _ => pick_ok rfl rfl rfl)

theorem vfms (r : BitVec 4) (d a b : BitVec 6) (p : BitVec 3) : Statement (.vfms r d a b p) :=
  one_word rfl rfl rfl (fun _ => pick_ok rfl rfl rfl)

theorem vmin (r : BitVec 4) (d a b : BitVec 6) (p : BitVec 3) : Statement (.vmin r d a b p) :=
  one_word rfl rfl rfl (fun _ => pick_ok rfl rfl rfl)

theorem vmax (r : BitVec 4) (d a b : BitVec 6) (p : BitVec 3) : Statement (.vmax r d a b p) :=
  one_word rfl rfl rfl (fun _ => pick_ok rfl rfl rfl)

theorem vdiv (r : BitVec 4) (d a b : BitVec 6) (p : BitVec 3) : Statement (.vdiv r d a b p) :=
  one_word rfl rfl rfl (fun _ => pick_ok rfl rfl rfl)

theorem vand (r : BitVec 4) (d a b : BitVec 6) (p : BitVec 3) : Statement (.vand r d a b p) :=
  one_word rfl rfl rfl (fun _ => pick_ok rfl rfl rfl)

theorem vor (r : BitVec 4) (d a b : BitVec 6) (p : BitVec 3) : Statement (.vor r d a b p) :=
  one_word rfl rfl rfl (fun _ => pick_ok rfl rfl rfl)

theorem vxor (r : BitVec 4) (d a b : BitVec 6) (p : BitVec 3) : Statement (.vxor r d a b p) :=
  one_word rfl rfl rfl (fun _ => pick_ok rfl rfl rfl)

theorem vshl (r : BitVec 4) (d a b : BitVec 6) (p : BitVec 3) : Statement (.vshl r d a b p) :=
  one_word rfl rfl rfl (fun _ => pick_ok rfl rfl rfl)

theorem vshr (r : BitVec 4) (d a b : BitVec 6) (p : BitVec 3) : Statement (.vshr r d a b p) :=
  one_word rfl rfl rfl (fun _ => pick_ok rfl rfl rfl)

theorem vsra (r : BitVec 4) (d a b : BitVec 6) (p : BitVec 3) : Statement (.vsra r d a b p) :=
  one_word rfl rfl rfl (fun _ => pick_ok rfl rfl rfl)

theorem vsel (r : BitVec 4) (d a b : BitVec 6) (p : BitVec 3) : Statement (.vsel r d a b p) :=
  one_word rfl rfl rfl (fun _ => pick_ok rfl rfl rfl)

theorem vcmp (r : BitVec 4) (k d : BitVec 3) (a b : BitVec 6) (p : BitVec 3) : Statement (.vcmp r k d a b p) :=
  one_word rfl rfl rfl (fun _ => pick_ok rfl (by (try simp (disch := omega) only [extract_high, extract_low, Nat.reduceSub]) <;> simp (disch := omega) only [extract_extract, whole, join3, join336, join6, join9, join12, join15, join18, Nat.reduceAdd, and_self, decide_true] <;> decide) (by (try simp (disch := omega) only [extract_high, extract_low, Nat.reduceSub]) <;> simp (disch := omega) only [extract_extract, whole, join3, join336, join6, join9, join12, join15, join18, Nat.reduceAdd, and_self, decide_true] <;> decide))

theorem vmov (r : BitVec 4) (d a : BitVec 6) (p : BitVec 3) : Statement (.vmov r d a p) :=
  one_word rfl rfl rfl (fun _ => pick_ok rfl rfl rfl)

theorem vabs (r : BitVec 4) (d a : BitVec 6) (p : BitVec 3) : Statement (.vabs r d a p) :=
  one_word rfl rfl rfl (fun _ => pick_ok rfl rfl rfl)

theorem vneg (r : BitVec 4) (d a : BitVec 6) (p : BitVec 3) : Statement (.vneg r d a p) :=
  one_word rfl rfl rfl (fun _ => pick_ok rfl rfl rfl)

theorem vrcp (r : BitVec 4) (d a : BitVec 6) (p : BitVec 3) : Statement (.vrcp r d a p) :=
  one_word rfl rfl rfl (fun _ => pick_ok rfl rfl rfl)

theorem vrsq (r : BitVec 4) (d a : BitVec 6) (p : BitVec 3) : Statement (.vrsq r d a p) :=
  one_word rfl rfl rfl (fun _ => pick_ok rfl rfl rfl)

theorem vsqrt (r : BitVec 4) (d a : BitVec 6) (p : BitVec 3) : Statement (.vsqrt r d a p) :=
  one_word rfl rfl rfl (fun _ => pick_ok rfl rfl rfl)

theorem vexp2 (r : BitVec 4) (d a : BitVec 6) (p : BitVec 3) : Statement (.vexp2 r d a p) :=
  one_word rfl rfl rfl (fun _ => pick_ok rfl rfl rfl)

theorem vlog2 (r : BitVec 4) (d a : BitVec 6) (p : BitVec 3) : Statement (.vlog2 r d a p) :=
  one_word rfl rfl rfl (fun _ => pick_ok rfl rfl rfl)

theorem vred (r : BitVec 4) (d a : BitVec 6) (o : BitVec 2) (p : BitVec 3) : Statement (.vred r d a o p) :=
  one_word rfl rfl rfl (fun hw => (if_pos (by simp (disch := omega) only [extract_high, extract_low, whole, Nat.reduceSub] <;> decide)).trans (pick_ok (by simp (disch := omega) only [extract_high, extract_low, whole, Nat.reduceSub]; exact hw) rfl (by (try simp (disch := omega) only [extract_high, extract_low, Nat.reduceSub]) <;> simp (disch := omega) only [extract_extract, whole, join3, join336, join6, join9, join12, join15, join18, Nat.reduceAdd, and_self, decide_true] <;> decide)))

theorem vcvt (r ev : BitVec 4) (d a : BitVec 6) (p : BitVec 3) (tgt : BitVec 4) (dyn : BitVec 1) (rm pos : BitVec 3) (qt : BitVec 2) : Statement (.vcvt r ev d a p tgt dyn rm pos qt) :=
  two_words rfl rfl rfl (fun hw => pick_ok rfl (by simp (disch := omega) only [extract_high, extract_low, whole, Nat.reduceSub, true_and, and_true]; exact hw) (by (try simp (disch := omega) only [extract_high, extract_low, Nat.reduceSub]) <;> simp (disch := omega) only [extract_extract, whole, join3, join336, join6, join9, join12, join15, join18, Nat.reduceAdd, and_self, decide_true] <;> decide))

theorem vbcast (r : BitVec 4) (d a : BitVec 6) (t : BitVec 4) (p : BitVec 3) : Statement (.vbcast r d a t p) :=
  one_word rfl rfl rfl (fun _ => pick_ok rfl (by (try simp (disch := omega) only [extract_high, extract_low, Nat.reduceSub]) <;> simp (disch := omega) only [extract_extract, whole, join3, join336, join6, join9, join12, join15, join18, Nat.reduceAdd, and_self, decide_true] <;> decide) (by (try simp (disch := omega) only [extract_high, extract_low, Nat.reduceSub]) <;> simp (disch := omega) only [extract_extract, whole, join3, join336, join6, join9, join12, join15, join18, Nat.reduceAdd, and_self, decide_true] <;> decide))

theorem vext (r : BitVec 4) (d a b : BitVec 6) (p : BitVec 3) : Statement (.vext r d a b p) :=
  one_word rfl rfl rfl (fun _ => pick_ok rfl rfl rfl)

theorem vperm (r : BitVec 4) (d a b : BitVec 6) (p : BitVec 3) : Statement (.vperm r d a b p) :=
  one_word rfl rfl rfl (fun _ => pick_ok rfl rfl rfl)

theorem vlane (r : BitVec 4) (d a b : BitVec 6) (p : BitVec 3) : Statement (.vlane r d a b p) :=
  one_word rfl rfl rfl (fun _ => pick_ok rfl rfl rfl)

theorem vld (r : BitVec 4) (d a : BitVec 6) (t : BitVec 4) (p : BitVec 3) : Statement (.vld r d a t p) :=
  one_word rfl rfl rfl (fun _ => pick_ok rfl (by (try simp (disch := omega) only [extract_high, extract_low, Nat.reduceSub]) <;> simp (disch := omega) only [extract_extract, whole, join3, join336, join6, join9, join12, join15, join18, Nat.reduceAdd, and_self, decide_true] <;> decide) (by (try simp (disch := omega) only [extract_high, extract_low, Nat.reduceSub]) <;> simp (disch := omega) only [extract_extract, whole, join3, join336, join6, join9, join12, join15, join18, Nat.reduceAdd, and_self, decide_true] <;> decide))

theorem vst (r : BitVec 4) (s a : BitVec 6) (p : BitVec 3) : Statement (.vst r s a p) :=
  one_word rfl rfl rfl (fun _ => pick_ok rfl rfl rfl)

theorem vlds (r : BitVec 4) (d a b : BitVec 6) (p : BitVec 3) : Statement (.vlds r d a b p) :=
  one_word rfl rfl rfl (fun _ => pick_ok rfl rfl rfl)

theorem vgat (r : BitVec 4) (d a b : BitVec 6) (p : BitVec 3) : Statement (.vgat r d a b p) :=
  one_word rfl rfl rfl (fun _ => pick_ok rfl rfl rfl)

theorem vtag (r : BitVec 4) (d a : BitVec 6) (t : BitVec 4) : Statement (.vtag r d a t) :=
  one_word rfl rfl rfl (fun _ => pick_ok rfl (by (try simp (disch := omega) only [extract_high, extract_low, Nat.reduceSub]) <;> simp (disch := omega) only [extract_extract, whole, join3, join336, join6, join9, join12, join15, join18, Nat.reduceAdd, and_self, decide_true] <;> decide) (by (try simp (disch := omega) only [extract_high, extract_low, Nat.reduceSub]) <;> simp (disch := omega) only [extract_extract, whole, join3, join336, join6, join9, join12, join15, join18, Nat.reduceAdd, and_self, decide_true] <;> decide))

theorem vscl (r : BitVec 4) (d a b : BitVec 6) (p : BitVec 3) : Statement (.vscl r d a b p) :=
  one_word rfl rfl rfl (fun _ => pick_ok rfl rfl rfl)

theorem vpack (r : BitVec 4) (d a b : BitVec 6) (p : BitVec 3) : Statement (.vpack r d a b p) :=
  one_word rfl rfl rfl (fun _ => pick_ok rfl rfl rfl)

theorem vunpk (r : BitVec 4) (d a : BitVec 6) (h : BitVec 1) (p : BitVec 3) : Statement (.vunpk r d a h p) :=
  one_word rfl rfl rfl (fun _ => pick_ok rfl (by (try simp (disch := omega) only [extract_high, extract_low, Nat.reduceSub]) <;> simp (disch := omega) only [extract_extract, whole, join3, join336, join6, join9, join12, join15, join18, Nat.reduceAdd, and_self, decide_true] <;> decide) (by (try simp (disch := omega) only [extract_high, extract_low, Nat.reduceSub]) <;> simp (disch := omega) only [extract_extract, whole, join3, join336, join6, join9, join12, join15, join18, Nat.reduceAdd, and_self, decide_true] <;> decide))

theorem tld (r ev : BitVec 4) (t : BitVec 2) (h : BitVec 4) (b c : BitVec 6) : Statement (.tld r ev t h b c) :=
  two_words rfl rfl rfl (fun _ => pick_ok rfl (by (try simp (disch := omega) only [extract_high, extract_low, Nat.reduceSub]) <;> simp (disch := omega) only [extract_extract, whole, join3, join336, join6, join9, join12, join15, join18, Nat.reduceAdd, and_self, decide_true] <;> decide) (by (try simp (disch := omega) only [extract_high, extract_low, Nat.reduceSub]) <;> simp (disch := omega) only [extract_extract, whole, join3, join336, join6, join9, join12, join15, join18, Nat.reduceAdd, and_self, decide_true] <;> decide))

theorem tst (r ev : BitVec 4) (t : BitVec 2) (h : BitVec 4) (b c : BitVec 6) : Statement (.tst r ev t h b c) :=
  two_words rfl rfl rfl (fun _ => pick_ok rfl (by (try simp (disch := omega) only [extract_high, extract_low, Nat.reduceSub]) <;> simp (disch := omega) only [extract_extract, whole, join3, join336, join6, join9, join12, join15, join18, Nat.reduceAdd, and_self, decide_true] <;> decide) (by (try simp (disch := omega) only [extract_high, extract_low, Nat.reduceSub]) <;> simp (disch := omega) only [extract_extract, whole, join3, join336, join6, join9, join12, join15, join18, Nat.reduceAdd, and_self, decide_true] <;> decide))

theorem shld (r h : BitVec 4) (a : BitVec 6) : Statement (.shld r h a) :=
  one_word rfl rfl rfl (fun _ => pick_ok rfl (by (try simp (disch := omega) only [extract_high, extract_low, Nat.reduceSub]) <;> simp (disch := omega) only [extract_extract, whole, join3, join336, join6, join9, join12, join15, join18, Nat.reduceAdd, and_self, decide_true] <;> decide) (by (try simp (disch := omega) only [extract_high, extract_low, Nat.reduceSub]) <;> simp (disch := omega) only [extract_extract, whole, join3, join336, join6, join9, join12, join15, join18, Nat.reduceAdd, and_self, decide_true] <;> decide))

theorem shset (r h : BitVec 4) (a f : BitVec 6) : Statement (.shset r h a f) :=
  one_word rfl rfl rfl (fun hw => pick_ok hw (by (try simp (disch := omega) only [extract_high, extract_low, Nat.reduceSub]) <;> simp (disch := omega) only [extract_extract, whole, join3, join336, join6, join9, join12, join15, join18, Nat.reduceAdd, and_self, decide_true] <;> decide) (by (try simp (disch := omega) only [extract_high, extract_low, Nat.reduceSub]) <;> simp (disch := omega) only [extract_extract, whole, join3, join336, join6, join9, join12, join15, join18, Nat.reduceAdd, and_self, decide_true] <;> decide))

theorem shget (r : BitVec 4) (d : BitVec 6) (h : BitVec 4) (f : BitVec 6) : Statement (.shget r d h f) :=
  one_word rfl rfl rfl (fun hw => pick_ok hw (by (try simp (disch := omega) only [extract_high, extract_low, Nat.reduceSub]) <;> simp (disch := omega) only [extract_extract, whole, join3, join336, join6, join9, join12, join15, join18, Nat.reduceAdd, and_self, decide_true] <;> decide) (by (try simp (disch := omega) only [extract_high, extract_low, Nat.reduceSub]) <;> simp (disch := omega) only [extract_extract, whole, join3, join336, join6, join9, join12, join15, join18, Nat.reduceAdd, and_self, decide_true] <;> decide))

theorem mma (r ev : BitVec 4) (s : BitVec 6) (t : BitVec 2) (slot : BitVec 6) (m : BitVec 1) (chain : BitVec 12) (btag : BitVec 4) : Statement (.mma r ev s t slot m chain btag) :=
  two_words rfl rfl rfl (fun _ => pick_ok rfl (by (try simp (disch := omega) only [extract_high, extract_low, Nat.reduceSub]) <;> simp (disch := omega) only [extract_extract, whole, join3, join336, join6, join9, join12, join15, join18, Nat.reduceAdd, and_self, decide_true] <;> decide) (by (try simp (disch := omega) only [extract_high, extract_low, Nat.reduceSub]) <;> simp (disch := omega) only [extract_extract, whole, join3, join336, join6, join9, join12, join15, join18, Nat.reduceAdd, and_self, decide_true] <;> decide))

theorem mmas (r ev : BitVec 4) (s a slot : BitVec 6) (m : BitVec 1) (chain : BitVec 12) (btag atag : BitVec 4) : Statement (.mmas r ev s a slot m chain btag atag) :=
  two_words rfl rfl rfl (fun _ => pick_ok rfl (by (try simp (disch := omega) only [extract_high, extract_low, Nat.reduceSub]) <;> simp (disch := omega) only [extract_extract, whole, join3, join336, join6, join9, join12, join15, join18, Nat.reduceAdd, and_self, decide_true] <;> decide) (by (try simp (disch := omega) only [extract_high, extract_low, Nat.reduceSub]) <;> simp (disch := omega) only [extract_extract, whole, join3, join336, join6, join9, join12, join15, join18, Nat.reduceAdd, and_self, decide_true] <;> decide))

theorem mmaw (r ev : BitVec 4) (s : BitVec 6) (t : BitVec 2) (slot : BitVec 6) (chain : BitVec 12) (btag : BitVec 4) : Statement (.mmaw r ev s t slot chain btag) :=
  two_words rfl rfl rfl (fun _ => pick_ok rfl (by (try simp (disch := omega) only [extract_high, extract_low, Nat.reduceSub]) <;> simp (disch := omega) only [extract_extract, whole, join3, join336, join6, join9, join12, join15, join18, Nat.reduceAdd, and_self, decide_true] <;> decide) (by (try simp (disch := omega) only [extract_high, extract_low, Nat.reduceSub]) <;> simp (disch := omega) only [extract_extract, whole, join3, join336, join6, join9, join12, join15, join18, Nat.reduceAdd, and_self, decide_true] <;> decide))

theorem chbld (r : BitVec 4) (a : BitVec 6) : Statement (.chbld r a) :=
  one_word rfl rfl rfl (fun _ => pick_ok rfl rfl rfl)

theorem chclose (r ev d : BitVec 4) (a b : BitVec 6) (keep dst : BitVec 1) (chain : BitVec 12) (out : BitVec 4) (smode qt : BitVec 2) (c : BitVec 6) : Statement (.chclose r ev d a b keep dst chain out smode qt c) :=
  two_words rfl rfl rfl (fun hw => (if_pos (by simp (disch := omega) only [extract_high, extract_low, whole, Nat.reduceSub] <;> decide)).trans (pick_ok rfl (by simp (disch := omega) only [extract_high, extract_low, whole, Nat.reduceSub, true_and, and_true]; exact hw) (by (try simp (disch := omega) only [extract_high, extract_low, Nat.reduceSub]) <;> simp (disch := omega) only [extract_extract, whole, join3, join336, join6, join9, join12, join15, join18, Nat.reduceAdd, and_self, decide_true] <;> decide)))

theorem chstat (r : BitVec 4) (d a : BitVec 6) : Statement (.chstat r d a) :=
  one_word rfl rfl rfl (fun _ => pick_ok rfl rfl rfl)

theorem chfree (r : BitVec 4) (a : BitVec 6) : Statement (.chfree r a) :=
  one_word rfl rfl rfl (fun _ => pick_ok rfl rfl rfl)

theorem chsplice (r : BitVec 4) (a b : BitVec 6) : Statement (.chsplice r a b) :=
  one_word rfl rfl rfl (fun _ => pick_ok rfl rfl rfl)

theorem chrd (r ev : BitVec 4) (d a : BitVec 6) (sp : BitVec 1) (plane : BitVec 2) (part : BitVec 5) : Statement (.chrd r ev d a sp plane part) :=
  two_words rfl rfl rfl (fun hw => pick_ok (by simp (disch := omega) only [extract_high, extract_low, whole, Nat.reduceSub]; exact hw) (by (try simp (disch := omega) only [extract_high, extract_low, Nat.reduceSub]) <;> simp (disch := omega) only [extract_extract, whole, join3, join336, join6, join9, join12, join15, join18, Nat.reduceAdd, and_self, decide_true] <;> decide) (by (try simp (disch := omega) only [extract_high, extract_low, Nat.reduceSub]) <;> simp (disch := omega) only [extract_extract, whole, join3, join336, join6, join9, join12, join15, join18, Nat.reduceAdd, and_self, decide_true] <;> decide))

theorem lnorm (r ev : BitVec 4) (a b k : BitVec 6) : Statement (.lnorm r ev a b k) :=
  two_words rfl rfl rfl (fun _ => pick_ok rfl (by (try simp (disch := omega) only [extract_high, extract_low, Nat.reduceSub]) <;> simp (disch := omega) only [extract_extract, whole, join3, join336, join6, join9, join12, join15, join18, Nat.reduceAdd, and_self, decide_true] <;> decide) (by (try simp (disch := omega) only [extract_high, extract_low, Nat.reduceSub]) <;> simp (disch := omega) only [extract_extract, whole, join3, join336, join6, join9, join12, join15, join18, Nat.reduceAdd, and_self, decide_true] <;> decide))

theorem lset (r ev : BitVec 4) (a b : BitVec 6) (e : BitVec 16) : Statement (.lset r ev a b e) :=
  two_words rfl rfl rfl (fun _ => pick_ok rfl (by (try simp (disch := omega) only [extract_high, extract_low, Nat.reduceSub]) <;> simp (disch := omega) only [extract_extract, whole, join3, join336, join6, join9, join12, join15, join18, Nat.reduceAdd, and_self, decide_true] <;> decide) (by (try simp (disch := omega) only [extract_high, extract_low, Nat.reduceSub]) <;> simp (disch := omega) only [extract_extract, whole, join3, join336, join6, join9, join12, join15, join18, Nat.reduceAdd, and_self, decide_true] <;> decide))

theorem rmode (r : BitVec 4) (o : BitVec 1) (m : BitVec 3) : Statement (.rmode r o m) :=
  one_word rfl rfl rfl (fun _ => (if_pos (by simp (disch := omega) only [extract_high, extract_low, whole, Nat.reduceSub] <;> decide)).trans (pick_ok rfl (by (try simp (disch := omega) only [extract_high, extract_low, Nat.reduceSub]) <;> simp (disch := omega) only [extract_extract, whole, join3, join336, join6, join9, join12, join15, join18, Nat.reduceAdd, and_self, decide_true] <;> decide) (by (try simp (disch := omega) only [extract_high, extract_low, Nat.reduceSub]) <;> simp (disch := omega) only [extract_extract, whole, join3, join336, join6, join9, join12, join15, join18, Nat.reduceAdd, and_self, decide_true] <;> decide)))

theorem rmodeSeed (r : BitVec 4) (o : BitVec 1) (m : BitVec 3) (a : BitVec 6) : Statement (.rmodeSeed r o m a) :=
  one_word rfl rfl rfl (fun _ => (if_neg (by simp (disch := omega) only [extract_high, extract_low, whole, Nat.reduceSub] <;> decide)).trans ((if_pos (by simp (disch := omega) only [extract_high, extract_low, whole, Nat.reduceSub] <;> decide)).trans (pick_ok rfl (by (try simp (disch := omega) only [extract_high, extract_low, Nat.reduceSub]) <;> simp (disch := omega) only [extract_extract, whole, join3, join336, join6, join9, join12, join15, join18, Nat.reduceAdd, and_self, decide_true] <;> decide) (by (try simp (disch := omega) only [extract_high, extract_low, Nat.reduceSub]) <;> simp (disch := omega) only [extract_extract, whole, join3, join336, join6, join9, join12, join15, join18, Nat.reduceAdd, and_self, decide_true] <;> decide))))

theorem mself (r : BitVec 4) (t : BitVec 2) (a : BitVec 6) : Statement (.mself r t a) :=
  one_word rfl rfl rfl (fun _ => pick_ok rfl (by (try simp (disch := omega) only [extract_high, extract_low, Nat.reduceSub]) <;> simp (disch := omega) only [extract_extract, whole, join3, join336, join6, join9, join12, join15, join18, Nat.reduceAdd, and_self, decide_true] <;> decide) (by (try simp (disch := omega) only [extract_high, extract_low, Nat.reduceSub]) <;> simp (disch := omega) only [extract_extract, whole, join3, join336, join6, join9, join12, join15, join18, Nat.reduceAdd, and_self, decide_true] <;> decide))

theorem cpy (r ev d s : BitVec 4) (br : BitVec 6) (ch : BitVec 3) (dk sk : BitVec 1) (od os : BitVec 6) : Statement (.cpy r ev d s br ch dk sk od os) :=
  two_words rfl rfl rfl (fun hw => pick_ok rfl (by simp (disch := omega) only [extract_high, extract_low, whole, Nat.reduceSub, true_and, and_true]; exact hw) (by (try simp (disch := omega) only [extract_high, extract_low, Nat.reduceSub]) <;> simp (disch := omega) only [extract_extract, whole, join3, join336, join6, join9, join12, join15, join18, Nat.reduceAdd, and_self, decide_true] <;> decide))

theorem cpyw (r ev d s : BitVec 4) (br : BitVec 6) (ch : BitVec 3) (dk sk : BitVec 1) (od os fa fv : BitVec 6) : Statement (.cpyw r ev d s br ch dk sk od os fa fv) :=
  two_words rfl rfl rfl (fun hw => pick_ok rfl (by simp (disch := omega) only [extract_high, extract_low, whole, Nat.reduceSub, true_and, and_true]; exact hw) (by (try simp (disch := omega) only [extract_high, extract_low, Nat.reduceSub]) <;> simp (disch := omega) only [extract_extract, whole, join3, join336, join6, join9, join12, join15, join18, Nat.reduceAdd, and_self, decide_true] <;> decide))

theorem cpstat (r : BitVec 4) (d : BitVec 6) (k : BitVec 1) (c : BitVec 3) : Statement (.cpstat r d k c) :=
  one_word rfl rfl rfl (fun _ => pick_ok rfl (by (try simp (disch := omega) only [extract_high, extract_low, Nat.reduceSub]) <;> simp (disch := omega) only [extract_extract, whole, join3, join336, join6, join9, join12, join15, join18, Nat.reduceAdd, and_self, decide_true] <;> decide) (by (try simp (disch := omega) only [extract_high, extract_low, Nat.reduceSub]) <;> simp (disch := omega) only [extract_extract, whole, join3, join336, join6, join9, join12, join15, join18, Nat.reduceAdd, and_self, decide_true] <;> decide))

theorem stgnx (r : BitVec 4) (a : BitVec 6) : Statement (.stgnx r a) :=
  one_word rfl rfl rfl (fun _ => pick_ok rfl rfl rfl)

theorem saq (r ev : BitVec 4) (v i b : BitVec 6) (p : BitVec 3) (op : BitVec 2) (fmt : BitVec 4) : Statement (.saq r ev v i b p op fmt) :=
  two_words rfl rfl rfl (fun hw => pick_ok (by simp (disch := omega) only [extract_high, extract_low, whole, Nat.reduceSub]; exact hw) (by (try simp (disch := omega) only [extract_high, extract_low, Nat.reduceSub]) <;> simp (disch := omega) only [extract_extract, whole, join3, join336, join6, join9, join12, join15, join18, Nat.reduceAdd, and_self, decide_true] <;> decide) (by (try simp (disch := omega) only [extract_high, extract_low, Nat.reduceSub]) <;> simp (disch := omega) only [extract_extract, whole, join3, join336, join6, join9, join12, join15, join18, Nat.reduceAdd, and_self, decide_true] <;> decide))

theorem sahist (r ev : BitVec 4) (i b : BitVec 6) (p : BitVec 3) (limit : BitVec 12) : Statement (.sahist r ev i b p limit) :=
  two_words rfl rfl rfl (fun _ => pick_ok rfl (by (try simp (disch := omega) only [extract_high, extract_low, Nat.reduceSub]) <;> simp (disch := omega) only [extract_extract, whole, join3, join336, join6, join9, join12, join15, join18, Nat.reduceAdd, and_self, decide_true] <;> decide) (by (try simp (disch := omega) only [extract_high, extract_low, Nat.reduceSub]) <;> simp (disch := omega) only [extract_extract, whole, join3, join336, join6, join9, join12, join15, join18, Nat.reduceAdd, and_self, decide_true] <;> decide))

theorem safl (r : BitVec 4) : Statement (.safl r) :=
  one_word rfl rfl rfl (fun _ => pick_ok rfl rfl rfl)

theorem salat (r : BitVec 4) (a : BitVec 6) : Statement (.salat r a) :=
  one_word rfl rfl rfl (fun _ => pick_ok rfl rfl rfl)

theorem colld (r : BitVec 4) (a b : BitVec 6) : Statement (.colld r a b) :=
  one_word rfl rfl rfl (fun _ => pick_ok rfl rfl rfl)

theorem colgo (r : BitVec 4) (a b : BitVec 6) : Statement (.colgo r a b) :=
  one_word rfl rfl rfl (fun _ => pick_ok rfl rfl rfl)

theorem colwait (r : BitVec 4) (a : BitVec 6) : Statement (.colwait r a) :=
  one_word rfl rfl rfl (fun _ => pick_ok rfl rfl rfl)

theorem clwb (r : BitVec 4) (a : BitVec 6) : Statement (.clwb r a) :=
  one_word rfl rfl rfl (fun _ => pick_ok rfl rfl rfl)

theorem clinv (r : BitVec 4) (a : BitVec 6) : Statement (.clinv r a) :=
  one_word rfl rfl rfl (fun _ => pick_ok rfl rfl rfl)

theorem illegalEncoding (cause : EncError) : Statement (.illegalEncoding cause) := event rfl rfl

theorem loadDataReturn (p : Place) (st : StreamId) (k : Nat) : Statement (.loadDataReturn p st k) := event rfl rfl

theorem storePerform (p : Place) (ag : Agent) (k : Nat) : Statement (.storePerform p ag k) := event rfl rfl

theorem clusterBufferDrain (cl : ClusterId) (k : Nat) : Statement (.clusterBufferDrain cl k) := event rfl rfl

theorem scratchpadFrameFill (p : Place) (page : Fin 64) : Statement (.scratchpadFrameFill p page) := event rfl rfl

theorem engineHeadStart (p : Place) (q : QueueId) : Statement (.engineHeadStart p q) := event rfl rfl

theorem engineCompletion (p : Place) (q : QueueId) (k : Nat) : Statement (.engineCompletion p q k) := event rfl rfl

theorem matrixStepComplete (p : Place) (k : Nat) (bad : BitVec 10) : Statement (.matrixStepComplete p k bad) := event rfl rfl

theorem checksumRerunEnd (p : Place) (k : Nat) (bad : BitVec 10) : Statement (.checksumRerunEnd p k bad) := event rfl rfl

theorem arraySelfTestEnd (core : CoreId) (m : Fin 2) (bad : BitVec 4) : Statement (.arraySelfTestEnd core m bad) := event rfl rfl

theorem linkForwardReceive (chain : BitVec 12) (i : Nat) : Statement (.linkForwardReceive chain i) := event rfl rfl

theorem linkNoticeReceive (chain : BitVec 12) (i : Nat) : Statement (.linkNoticeReceive chain i) := event rfl rfl

theorem linkFreeze (chain : BitVec 12) (i : Nat) : Statement (.linkFreeze chain i) := event rfl rfl

theorem copyBarrierPortion (p : Place) (q : QueueId) (k : Nat) : Statement (.copyBarrierPortion p q k) := event rfl rfl

theorem scatterUpdate (p : Place) : Statement (.scatterUpdate p) := event rfl rfl

theorem colldReady (p : Place) (granted : Bool) (told : List Nat × List (BitVec 32)) : Statement (.colldReady p granted told) := event rfl rfl

theorem colChunkArrive (die : DieId) (ctx : Fin 64) (op : Nat) (chunk : Nat) (sig : BitVec 32) (bytes : List (BitVec 8)) : Statement (.colChunkArrive die ctx op chunk sig bytes) := event rfl rfl

theorem cellarFold (die : DieId) (k : Fin 3) (ok : Bool) : Statement (.cellarFold die k ok) := event rfl rfl

theorem slotFreeNotice (die : DieId) (ctx : Fin 64) (op : Nat) : Statement (.slotFreeNotice die ctx op) := event rfl rfl

theorem colAbort (die : DieId) (ctx : Fin 64) (cause : BitVec 10) : Statement (.colAbort die ctx cause) := event rfl rfl

theorem portWindowEnd (port : Fin 18) (util : BitVec 11) : Statement (.portWindowEnd port util) := event rfl rfl

theorem launchConsume : Statement .launchConsume := event rfl rfl

theorem schedulePick (save : BitVec 40) (slice : BitVec 32) : Statement (.schedulePick save slice) := event rfl rfl

theorem bindRecordWrite (core : CoreId) (k : Fin 5) (v : BitVec 64) : Statement (.bindRecordWrite core k v) := event rfl rfl

theorem bind (p : Place) : Statement (.bind p) := event rfl rfl

theorem switchComplete (p : Place) : Statement (.switchComplete p) := event rfl rfl

theorem saveComplete (p : Place) : Statement (.saveComplete p) := event rfl rfl

theorem sliceEnd (p : Place) : Statement (.sliceEnd p) := event rfl rfl

theorem gangRelease (die : DieId) : Statement (.gangRelease die) := event rfl rfl

theorem gangSavePermit (die : DieId) : Statement (.gangSavePermit die) := event rfl rfl

theorem tlbInvalidate (die : DieId) : Statement (.tlbInvalidate die) := event rfl rfl

theorem tlbInvalidateDone (die : DieId) : Statement (.tlbInvalidateDone die) := event rfl rfl

theorem demandFill (die : DieId) (k : Nat) : Statement (.demandFill die k) := event rfl rfl

theorem faultAnswer (die : DieId) (k : Nat) (ans : BitVec 10) : Statement (.faultAnswer die k ans) := event rfl rfl

theorem cutComplete (p : Place) : Statement (.cutComplete p) := event rfl rfl

theorem watchdogStream (p : Place) (st : StreamId) : Statement (.watchdogStream p st) := event rfl rfl

theorem watchdogQueueHead (p : Place) (q : QueueId) : Statement (.watchdogQueueHead p q) := event rfl rfl

theorem debugRun (p : Place) : Statement (.debugRun p) := event rfl rfl

theorem debugHaltRequest (p : Place) : Statement (.debugHaltRequest p) := event rfl rfl

theorem rekey (die : DieId) : Statement (.rekey die) := event rfl rfl

theorem rekeyDone : Statement .rekeyDone := event rfl rfl

theorem sagLockClear (die : DieId) : Statement (.sagLockClear die) := event rfl rfl

theorem registerWrite (pa : BitVec 52) (v : BitVec 64) : Statement (.registerWrite pa v) := event rfl rfl

theorem sagTrip (die : DieId) : Statement (.sagTrip die) := event rfl rfl

theorem sagRecover (die : DieId) : Statement (.sagRecover die) := event rfl rfl

theorem correctedError (src : BitVec 4) (die : DieId) (core : CoreId) (sub : BitVec 5) (addr : BitVec 64) (synd : BitVec 64) : Statement (.correctedError src die core sub addr synd) := event rfl rfl

theorem dieLost (die : DieId) : Statement (.dieLost die) := event rfl rfl

theorem d2dFlitCrcFail (a : DieId) (b : DieId) : Statement (.d2dFlitCrcFail a b) := event rfl rfl

theorem d2dRetrainEnd (a : DieId) (b : DieId) (ok : Bool) : Statement (.d2dRetrainEnd a b ok) := event rfl rfl

theorem fabricFlitCrcFail (port : Fin 18) : Statement (.fabricFlitCrcFail port) := event rfl rfl

theorem fabricPortDown (port : Fin 18) : Statement (.fabricPortDown port) := event rfl rfl

theorem powerOn (live : BitVec 4) : Statement (.powerOn live) := event rfl rfl

theorem bootGo (seq : BitVec 32) : Statement (.bootGo seq) := event rfl rfl

theorem dieRelease (die : DieId) : Statement (.dieRelease die) := event rfl rfl

theorem dieAnswer (die : DieId) : Statement (.dieAnswer die) := event rfl rfl

theorem dieReleaseTimeout (die : DieId) : Statement (.dieReleaseTimeout die) := event rfl rfl

theorem wr (hdr : BitVec 128) (pay : List (BitVec 64)) (trailer : BitVec 64) : Statement (.wr hdr pay trailer) := event rfl rfl

theorem rd (hdr : BitVec 128) (pay : List (BitVec 64)) (trailer : BitVec 64) : Statement (.rd hdr pay trailer) := event rfl rfl

theorem schedBind (seq : BitVec 32) (pa : BitVec 64) (rec : Vector (BitVec 64) 4) : Statement (.schedBind seq pa rec) := event rfl rfl

theorem pfAck (seq : BitVec 32) (ans : BitVec 10) : Statement (.pfAck seq ans) := event rfl rfl

theorem colAck (seq : BitVec 32) (granted : Bool) (ws : List Nat) : Statement (.colAck seq granted ws) := event rfl rfl

theorem trapAck (seq : BitVec 32) (ans : BitVec 64) : Statement (.trapAck seq ans) := event rfl rfl

theorem pfDecl (seq : BitVec 32) (body : Vector (BitVec 64) 6) : Statement (.pfDecl seq body) := event rfl rfl

theorem getVersion : Statement .getVersion := event rfl rfl

theorem getCapabilities : Statement .getCapabilities := event rfl rfl

theorem negotiateAlgorithms (asym : Bool) (hash : Bool) : Statement (.negotiateAlgorithms asym hash) := event rfl rfl

theorem getDigests : Statement .getDigests := event rfl rfl

theorem getCertificate (slot : BitVec 4) (off : BitVec 16) (len : BitVec 16) : Statement (.getCertificate slot off len) := event rfl rfl

theorem challenge (ask : BitVec 8 × BitVec 8) (sent : BitVec 256 × BitVec 64) : Statement (.challenge ask sent) := event rfl rfl

theorem getMeasurements (op : BitVec 8) (sign : Bool × BitVec 4) (sent : BitVec 256 × BitVec 64) : Statement (.getMeasurements op sign sent) := event rfl rfl

theorem chunkSend (chunk : BitVec 8 × BitVec 16) (last : Bool) (bytes : List (BitVec 8)) : Statement (.chunkSend chunk last bytes) := event rfl rfl

theorem chunkGet (handle : BitVec 8) (seq : BitVec 16) : Statement (.chunkGet handle seq) := event rfl rfl

theorem nodeReadReceive (chain : BitVec 12) (i : Nat) : Statement (.nodeReadReceive chain i) := event rfl rfl

theorem fabricPortRetrain (port : Fin 18) (rate : BitVec 11) : Statement (.fabricPortRetrain port rate) := event rfl rfl

theorem reservationLost (die : DieId) (ctx : Fin 64) : Statement (.reservationLost die ctx) := event rfl rfl

theorem unsupportedRequest (code : BitVec 8) : Statement (.unsupportedRequest code) := event rfl rfl

end RoundTrip

end Sys2Proof.Laws
end

