-- ==== Sys2Proof/Tests/Slice0.lean ====
section
/-! SUPPORT. Sys2Proof/Tests/Slice0.lean: the model's own tests: ill-formed terms refused, words written out from the encoding tables decoded, single
instructions on small states, and for every statement with hypotheses a state that meets them. -/

namespace Sys2Proof.Machine

open Sys2Proof

set_option Elab.async false

/-! ## Well-formedness: one ill-formed term for each check (R168, R188, R269) -/

theorem test_wf_refuses_ill_formed_terms : [
    Instr.fence 0 6 1, .fence 0 0 0, .epop 0 1 5, .vred 0 1 2 3 0, .vcvt 0 0 1 2 0 6 0 0 0 1, .vcvt 0 0 1 2 0 6 1 4 0 0, .shset 0 1 2 6, .shget 0 1 2 13,
    .chclose 0 0 1 2 0 0 1 5 6 0 1 0, .chclose 0 0 4 2 0 0 0 5 6 0 0 0, .chclose 0 0 1 2 3 0 0 5 6 0 0 0, .chrd 0 0 1 2 0 3 0, .cpy 0 0 4 1 0 0 1 0 2 3,
    .cpyw 0 0 1 5 0 0 0 1 2 3 4 5, .saq 0 0 1 2 3 0 3 1].all (fun i => i.wf == false) = true := by decide
theorem test_wf_accepts_the_neighbours : [
    Instr.fence 0 5 1, .epop 0 1 4, .vred 0 1 2 2 0, .vcvt 0 0 1 2 0 8 0 0 0 1, .vcvt 0 0 1 2 0 6 1 0 0 0, .shset 0 1 2 5, .shget 0 1 2 12,
    .chclose 0 0 1 2 0 0 1 5 8 0 1 0, .chclose 0 0 3 2 0 0 0 5 6 0 0 0, .chrd 0 0 1 2 0 2 0, .cpy 0 0 3 1 0 0 1 0 2 3, .cpyw 0 0 4 3 0 0 0 1 2 3 4 5,
    .saq 0 0 1 2 3 0 2 1].all (fun i => i.wf) = true := by decide

/-! ## States for the tests -/

/-- A new group of a launch of one group, whose streams have their first instruction's length known. -/
def tGroup : Group := { newGroup placedLaunch 0 0 0 with streams := Vector.ofFn (fun i => { newStream placedLaunch 0 0 i with npcOpen := false }) }

/-- The package with die 0 live, the first 4 GiB of address space 0 mapped onto itself, and a group running in slot 0 of core 0. -/
def tWith (st : StreamId) (g : Group) : State :=
  let s := State.reset.withFetchWord 32 0x13A00000
  ({ s with curStream := st, dawn := { s.dawn with stage := 3 } } : State).setGroup 0 g

/-- The group with values in scalar registers of a stream. -/
def tRegs (st : StreamId) (l : List (BitVec 6 × BitVec 64)) : Group := tGroup.setStream st (l.foldl (fun t x => t.setX x.1 x.2) (tGroup.stream st))

/-- Whether the hypotheses of a statement about an instruction are met. -/
def tReady (st : StreamId) (g : Group) (roles : List StreamId) (r : BitVec 4) (rs : List (BitVec 6)) : Bool :=
  let s := tWith st g
  decide (canIssue (s.slot s.curPlace) g s.curStream = true ∧ roles.contains s.curStream = true ∧ (s.here g).took = none ∧ canTake g s.curStream r = true ∧
    canPlace (takeTok g s.curStream r) s.curStream r = true ∧ rs.all (s.here g).isFull = true)

theorem tWith_bound (st : StreamId) (g : Group) : (tWith st g).group (tWith st g).curPlace = some g := by
  have h : (tWith st g).curPlace = 0 := rfl
  rw [h]; simp [tWith]

theorem tReady_ok {st : StreamId} {g : Group} {roles : List StreamId} {r : BitVec 4} {rs : List (BitVec 6)} (h : tReady st g roles r rs = true) :
    CanRun (tWith st g) g roles r ∧ ((tWith st g).here g).fulls rs := by
  have ⟨issue, role, fresh, take, place, full⟩ := of_decide_eq_true h
  exact ⟨{ bound := tWith_bound st g, issue, role, fresh, take, place }, full⟩

/-- A test of what an option holds. -/
theorem tSome {α : Type} {o : Option α} {P : α → Bool} (h : o.any P = true) : ∃ x, o = some x ∧ P x = true :=
  match o, h with
  | some x, h => ⟨x, rfl, h⟩

/-- A run that gives a next state with a property. -/
def tRun (o : Host.Outcome State Fault Refusal) (P : State → Bool) : Bool := match o with | .next t => P t | _ => false

/-- A property of the stream st of the group in slot 0. -/
def tStream (st : StreamId) (P : Stream → Bool) (s : State) : Bool := match s.group 0 with | some g => P (g.stream st) | none => false

/-- The trap that the group in slot 0 has taken is of a cause. -/
def tCause (c : BitVec 10) (s : State) : Bool := match s.group 0 with
  | some g => (match g.stopping with | .trap x => x.cause == c | _ => false)
  | none => false
theorem test_words_scalar_1 : [
    (0x2020e940, Instr.add 2 1 52 40),
    (0x2020e941, Instr.sub 2 1 52 40),
    (0x2020e942, Instr.and 2 1 52 40),
    (0x2020e943, Instr.or 2 1 52 40),
    (0x2020e944, Instr.xor 2 1 52 40),
    (0x2020e945, Instr.shl 2 1 52 40),
    (0x2020e946, Instr.shr 2 1 52 40),
    (0x2020e947, Instr.sra 2 1 52 40),
    (0x4040eb48, Instr.mul 4 1 53 41),
    (0x4040eb49, Instr.mulh 4 1 53 41),
    (0x4040eb4a, Instr.mulhu 4 1 53 41),
    (0x4040eb4b, Instr.div 4 1 53 41),
    (0x4040eb4c, Instr.divu 4 1 53 41),
    (0x4040eb4d, Instr.rem 4 1 53 41),
    (0x4040eb4e, Instr.remu 4 1 53 41),
    (0x80616d50, Instr.min 8 2 54 42)].all (fun x => decide (decodeTableWord 32 x.1 = some x.2)) = true := by decide +kernel

theorem test_words_scalar_2 : [
    (0x80616d51, Instr.max 8 2 54 42),
    (0x80616d52, Instr.minu 8 2 54 42),
    (0x80616d53, Instr.maxu 8 2 54 42),
    (0x80616c04, Instr.clz 8 2 54),
    (0x80616c05, Instr.ctz 8 2 54),
    (0x80616c06, Instr.popc 8 2 54),
    (0x80616c07, Instr.brev 8 2 54),
    (0x5081ef6b, Instr.addi 5 3 55 363),
    (0xa0a2716c, Instr.andi 10 4 56 364),
    (0x10c2f36d, Instr.ori 1 5 57 365),
    (0x20e3756e, Instr.xori 2 6 58 366),
    (0x4103f62f, Instr.shli 4 7 59 47),
    (0x81247830, Instr.shri 8 8 60 48),
    (0x5144fa31, Instr.srai 5 9 61 49),
    (0xa1656abe, Instr.lis 10 10 27326),
    (0x41c683a9, Instr.lea 4 13 1 53 1)].all (fun x => decide (decodeTableWord 32 x.1 = some x.2)) = true := by decide +kernel

theorem test_words_scalar_3 : [
    (0x41c68204, Instr.mvc 4 13 1),
    (0x41c68205, Instr.mvb 4 13 1),
    (0x41c68206, Instr.mvtV 4 13 1),
    (0x41c6820e, Instr.mvtT 4 13 1)].all (fun x => decide (decodeTableWord 32 x.1 = some x.2)) = true := by decide +kernel

theorem test_words_condition : [
    (0x520387bb, Instr.cmp 5 7 3 55 3),
    (0xa226702c, Instr.cmpi 10 1 4 56 44),
    (0x12408a08, Instr.cand 1 1 5 1),
    (0x12408a09, Instr.cor 1 1 5 1),
    (0x12408a02, Instr.cnot 1 1 5),
    (0x22610c08, Instr.vany 2 2 6 1),
    (0x22610c09, Instr.vall 2 2 6 1)].all (fun x => decide (decodeTableWord 32 x.1 = some x.2)) = true := by decide +kernel

theorem test_words_predicate : [
    (0x42818e18, Instr.pand 4 3 7 3),
    (0x42818e19, Instr.por 4 3 7 3),
    (0x42818e1a, Instr.pxor 4 3 7 3),
    (0x42818e03, Instr.pnot 4 3 7),
    (0x42898e0c, Instr.pcnt 4 19 7 1),
    (0x82a2117c, Instr.pset 8 4 8 380)].all (fun x => decide (decodeTableWord 32 x.1 = some x.2)) = true := by decide +kernel

theorem test_words_control_1 : [
    (0x131d6acb, Instr.prep 1 7 92875),
    (0x23241800, Instr.prepr 2 1 12),
    (0x43440000, Instr.xfer 4 1),
    (0x4345a000, Instr.xferC 4 1 5),
    (0x4346a000, Instr.xferNc 4 1 5),
    (0x8370e582, Instr.loop 8 1 14 1410),
    (0xa3a00000, Instr.nop 10),
    (0xa3a00001, Instr.endg 10),
    (0xa3a00002, Instr.yield 10),
    (0xa3a00003, Instr.ifence 10),
    (0xa3a03884, Instr.suspend 10 28 16),
    (0xa3a03885, Instr.resume 10 28 16),
    (0xa3a03886, Instr.discard 10 28 16),
    (0x13c0001d, Instr.trap 1 29),
    (0x23ef5690, Instr.sysr 2 30 2770),
    (0x23ef5691, Instr.sysw 2 30 2770)].all (fun x => decide (decodeTableWord 32 x.1 = some x.2)) = true := by decide +kernel

theorem test_words_control_2 : [
    (0x23ef5692, Instr.perfr 2 30 2770),
    (0x23e00003, Instr.tret 2),
    (0x23e000f4, Instr.brk 2 30),
    (0x23ef2405, Instr.locq 2 30 18)].all (fun x => decide (decodeTableWord 32 x.1 = some x.2)) = true := by decide +kernel

theorem test_words_memory_1 : [
    (0x440fa787, Instr.ldB 4 31 19 391),
    (0x84302988, Instr.ldBu 8 32 20 392),
    (0x5450ab89, Instr.ldH 5 33 21 393),
    (0xa4712d8a, Instr.ldHu 10 34 22 394),
    (0x1491af8b, Instr.ldW 1 35 23 395),
    (0x24b2318c, Instr.ldWu 2 36 24 396),
    (0x44d2b38d, Instr.ldD 4 37 25 397),
    (0x84f3358e, Instr.stB 8 38 26 398),
    (0x5513b78f, Instr.stH 5 39 27 399),
    (0xa5343990, Instr.stW 10 40 28 400),
    (0x1554bb91, Instr.stD 1 41 29 401),
    (0x25753c00, Instr.lds 2 42 30),
    (0x25753c01, Instr.stf 2 42 30),
    (0x25753c92, Instr.waita 2 42 30 18),
    (0x25600003, Instr.qmark 2),
    (0x25600134, Instr.fence 2 4 3)].all (fun x => decide (decodeTableWord 32 x.1 = some x.2)) = true := by decide +kernel

theorem test_words_memory_2 : [
    (0x25750605, Instr.epop 2 42 3),
    (0x2560541e, Instr.pref 2 42 1 1),
    (0x45858000, Instr.evpost 4 11),
    (0x4585be08, Instr.evpostG 4 11 31),
    (0x45858001, Instr.evwait 4 11),
    (0x4595be9a, Instr.bara 4 43 31 19),
    (0x458056fb, Instr.barex 4 43 31),
    (0x4595be9c, Instr.barw 4 43 31 19),
    (0x45805605, Instr.l2unpin 4 43),
    (0x85b64000, Instr.rgtkt 8 44 32),
    (0x85a05901, Instr.rgfill 8 44 32),
    (0x85b640a2, Instr.rgtake 8 44 32 20),
    (0x85a05903, Instr.rgrel 8 44 32),
    (0x55d6c200, Instr.jobnx 5 45 33),
    (0x55c05b09, Instr.jobgo 5 45 33),
    (0x55c05a02, Instr.tqadd 5 45)].all (fun x => decide (decodeTableWord 32 x.1 = some x.2)) = true := by decide +kernel

theorem test_words_memory_3 : [
    (0x55c05a03, Instr.wpclr 5 45)].all (fun x => decide (decodeTableWord 32 x.1 = some x.2)) = true := by decide +kernel

theorem test_words_vector : [
    (0x1617c6bb, Instr.vadd 1 47 35 23 3),
    (0x263848c4, Instr.vsub 2 48 36 24 4),
    (0x4658cacd, Instr.vmul 4 49 37 25 5),
    (0x86794cd6, Instr.vfma 8 50 38 26 6),
    (0x5699cedf, Instr.vfms 5 51 39 27 7),
    (0xa6ba50e1, Instr.vmin 10 52 40 28 1),
    (0x16dad2e9, Instr.vmax 1 53 41 29 1),
    (0x26fb54f2, Instr.vdiv 2 54 42 30 2),
    (0x471bd6fb, Instr.vand 4 55 43 31 3),
    (0x873c5904, Instr.vor 8 56 44 32 4),
    (0x575cdb0d, Instr.vxor 5 57 45 33 5),
    (0xa77d5d16, Instr.vshl 10 58 46 34 6),
    (0x179ddf1f, Instr.vshr 1 59 47 35 7),
    (0x27be6121, Instr.vsra 2 60 48 36 1),
    (0x47dee329, Instr.vsel 4 61 49 37 1),
    (0x87f94cd6, Instr.vcmp 8 6 2 38 26 6)].all (fun x => decide (decodeTableWord 32 x.1 = some x.2)) = true := by decide +kernel

theorem test_words_vector_more_1 : [
    (0x581fe607, Instr.vmov 5 63 51 7),
    (0x581fe60f, Instr.vabs 5 63 51 7),
    (0x581fe617, Instr.vneg 5 63 51 7),
    (0x581fe61f, Instr.vrcp 5 63 51 7),
    (0x581fe627, Instr.vrsq 5 63 51 7),
    (0x581fe62f, Instr.vsqrt 5 63 51 7),
    (0x581fe637, Instr.vexp2 5 63 51 7),
    (0x581fe63f, Instr.vlog2 5 63 51 7),
    (0xa820e814, Instr.vred 10 1 52 2 4),
    (0x28616c56, Instr.vbcast 2 2 54 10 6),
    (0x4881ef5f, Instr.vext 4 3 55 43 7),
    (0x88a27161, Instr.vperm 8 4 56 44 1),
    (0x58c2f369, Instr.vlane 5 5 57 45 1),
    (0xa8e37472, Instr.vld 10 6 58 14 2),
    (0x1903f607, Instr.vst 1 7 59 7),
    (0x29247984, Instr.vlds 2 8 60 48 4)].all (fun x => decide (decodeTableWord 32 x.1 = some x.2)) = true := by decide +kernel

theorem test_words_vector_more_2 : [
    (0x4944fb8d, Instr.vgat 4 9 61 49 5),
    (0x89657c10, Instr.vtag 8 10 62 2),
    (0x5985ff9f, Instr.vscl 5 11 63 51 7),
    (0xa9a603a1, Instr.vpack 10 12 1 52 1),
    (0x19c68209, Instr.vunpk 1 13 1 1 1)].all (fun x => decide (decodeTableWord 32 x.1 = some x.2)) = true := by decide +kernel

theorem test_words_matrix : [
    (0x5a408a00, Instr.shld 5 1 5),
    (0x5a408ac1, Instr.shset 5 1 5 24),
    (0x5a488ac2, Instr.shget 5 17 5 24),
    (0x4ac02a00, Instr.chbld 4 21),
    (0x5b0b9600, Instr.chstat 5 23 11),
    (0x5b002e01, Instr.chfree 5 23),
    (0x5b002e5a, Instr.chsplice 5 23 11),
    (0x4b878000, Instr.rmode 4 1 7),
    (0x4b8f8600, Instr.rmodeSeed 4 1 7 3),
    (0x8ba0a000, Instr.mself 8 1 16)].all (fun x => decide (decodeTableWord 32 x.1 = some x.2)) = true := by decide +kernel

theorem test_words_engine : [
    (0x4c508048, Instr.cpstat 4 33 1 1),
    (0x4c404201, Instr.stgnx 4 33),
    (0xaca00000, Instr.safl 10),
    (0xaca04801, Instr.salat 10 36),
    (0x1cc04ac8, Instr.colld 1 37 25),
    (0x1cc04ac9, Instr.colgo 1 37 25),
    (0x1cc04a02, Instr.colwait 1 37),
    (0x2ce04c00, Instr.clwb 2 38),
    (0x2ce04c01, Instr.clinv 2 38)].all (fun x => decide (decodeTableWord 32 x.1 = some x.2)) = true := by decide +kernel

theorem test_words_two_1 : [
    (0x30ad6a5e11970fc6, Instr.liw 1 3 46 4038 11364958),
    (0x80020feb21a98000, Instr.lihi 2 8 19 135147),
    (0xda01800041fc2000, Instr.bfx 4 13 56 16 40 1 1),
    (0x297d000081eeea69, Instr.bfi 8 2 29 53 13 37 61),
    (0x7400000091e13592, Instr.sel 9 7 2 26 50 2),
    (0xc0ad6b171390007f, Instr.loopi 1 12 1 127 11365143),
    (0x1000000425e649e0, Instr.l2pin 2 1 12 36 60 4),
    (0x6000000145f89201, Instr.wpset 4 6 49 9 1),
    (0xb88d8000884b5c06, Instr.vcvt 8 11 22 46 6 8 1 0 6 3),
    (0xc000009a018758, Instr.tld 9 0 3 3 43 3),
    (0x5a0000001a209080, Instr.tst 1 5 1 8 16 40)].all (fun x => decide (decodeTableWord 64 x.1 = some x.2)) = true := by decide +kernel

theorem test_words_two_2 : [
    (0xa125d0002a6283a9, Instr.mma 2 10 5 1 53 1 293 13),
    (0xf14a2a004a9504d1, Instr.mmas 4 15 42 2 26 1 330 2 10),
    (0x46d7f0008aa787f8, Instr.mmaw 8 4 15 3 63 1751 15),
    (0x9c2c86309ae21925, Instr.chclose 9 9 4 12 36 1 1 3116 8 1 2 12),
    (0xeb2000001b2ce201, Instr.chrd 1 14 25 49 1 2 25),
    (0x3b8000002b407cb0, Instr.lnorm 2 3 62 22 46),
    (0x86cd30004b6047d8, Instr.lset 4 8 35 59 27859),
    (0xd58c00008c0407c1, Instr.cpy 8 13 8 3 56 1 0 1 24 48),
    (0x2bd54b459c210aed, Instr.cpyw 9 2 2 5 29 5 1 0 61 21 45 5),
    (0x7a8000001c695412, Instr.saq 1 7 18 42 2 2 2 10),
    (0xc7ff00002c806e7f, Instr.sahist 2 12 55 15 7 2047)].all (fun x => decide (decodeTableWord 64 x.1 = some x.2)) = true := by decide +kernel

theorem test_words_of_the_worked_examples : [
    (0x5456789a01850123, Instr.liw 0 5 10 0x123 0x456789A),
    (0x600000008428800, Instr.vcvt 0 0 5 4 0 6 0 0 0 0),
    (0x205a60000a648218, Instr.mma 0 2 9 1 3 0 0x05A 6),
    (0x5a60000ae11400, Instr.chclose 0 0 2 10 0 0 0 0x05A 6 0 0 0),
    (0x300005c030a00, Instr.cpy 5 0 6 5 0 0 0 0 0 12),
    (0xa208ea8, Instr.tst 0 0 1 7 21 0),
    (0x105ea0a40, Instr.l2pin 0 0 20 5 8 1),
    (0xc07000001e79a00, Instr.bfx 0 0 15 13 48 7 0),
    (0x305b60000a680009, Instr.mma 0 3 16 0 1 1 0x05B 6),
    (0x10b300000c030a00, Instr.cpy 0 1 6 5 0 0 0 0 11 12)].all (fun x => decide (decodeTableWord 64 x.1 = some x.2)) = true := by decide +kernel


/-! ## States that meet the hypotheses of the statements: encoding and steps -/

theorem test_meets_EncodedInstructionDecodesToItself : ∃ i : Instr, i.encodable = true ∧ i.wf = true := ⟨.chclose 1 2 3 4 5 1 1 4095 8 2 3 6, by decide⟩
theorem test_meets_DecodedInstructionIsWellFormed : decode [0x98#8, 0x81, 0x20, 0x00, 0x07] = .ok (.add 0 1 0 0x33, [0x07]) := by decide +kernel

/-- The bytes at the PC decode, or do not, after one word or two. -/
theorem test_meets_StepRunsTheDecodedInstruction : [(32, 0x13A00000), (64, 0x0123456701846EF0), (32, 0), (64, 0x0000000001E00003)].all (fun (x : Nat × Nat) =>
    let s := State.reset.withFetchWord x.1 x.2
    match s.group s.curPlace with
    | none => false
    | some g => s.turns == [] && canIssue (s.slot s.curPlace) (g.setStream s.curStream { s.here g with npcOpen := false }) s.curStream &&
      (match fetch s s.curPlace g s.curStream (s.here g).pc with
       | .word s1 w => lengthOf w == x.1 / 8 && (s1.group s.curPlace).isSome &&
          (x.1 == 32 || (match fetch s1 s.curPlace g s.curStream ((s.here g).pc + 4) with | .word s2 _ => (s2.group s.curPlace).isSome | _ => false))
       | _ => false)) = true := by decide +kernel

theorem test_meets_StepTakesTheNextTurn : Instr.rekeyDone.encodable = false ∧ (∀ x, Instr.rekeyDone ≠ .illegalEncoding x) ∧ (Instr.nop 1).encodable = true ∧
    ({ State.reset with turns := [.happen .rekeyDone] } : State).turns = .happen .rekeyDone :: [] := ⟨rfl, by intro x; cases x <;> decide, rfl, rfl⟩

theorem test_meets_EveryStepKeepsTheMemoryCanonical : memOk (tWith .ctl tGroup) ∧ ∃ t, step (tWith .ctl tGroup) = .next t := by
  refine ⟨by unfold memOk; decide +kernel, ?_⟩
  cases h : step (tWith .ctl tGroup) with
  | next t => exact ⟨t, rfl⟩
  | fault f => exact absurd (show tRun (step (tWith .ctl tGroup)) (fun _ => true) = true by decide +kernel) (by rw [h]; simp [tRun])
  | refused f => exact absurd (show tRun (step (tWith .ctl tGroup)) (fun _ => true) = true by decide +kernel) (by rw [h]; simp [tRun])

theorem test_meets_RetirementMovesTheCounts :
    let s := tWith .ctl tGroup
    s.group s.curPlace = some tGroup ∧ (s.here tGroup).loops.toList.all (fun l => !l.act) = true ∧ (s.slot s.curPlace).dbg.stepping = false ∧ tGroup.halt = .none ∧
      lengthAt s s.curPlace tGroup (s.here tGroup) (s.here tGroup).npc = some 4 := ⟨tWith_bound _ _, by decide +kernel, by decide +kernel, by decide +kernel, by decide +kernel⟩

/-- A stream at the last word of a body of two, with a count. -/
def tLooping (n : BitVec 32) : Stream :=
  { (tGroup.stream .ctl) with pc := 0x1004, npc := 0x1008, loops := #v[{ act := true, len := 2, count := n, start := 0x1000 }, { act := false, len := 0, count := 0, start := 0 }] }

theorem test_meets_LoopBackRestartsTheBody : [1, 2, 0xFFFFFFFF].all (fun n =>
    let t := tLooping n
    let s := tWith .ctl tGroup
    (t.loops.get 0).act && !(t.loops.get 1).act && t.pc.toNat == (t.loops.get 0).start.toNat + 4 * (t.loops.get 0).len.toNat - 4 && decide (0 < (t.loops.get 0).len.toNat) &&
    lengthAt s 0 tGroup t t.pc == some 4 && lengthAt s 0 tGroup t ((t.loops.get 0).start.zeroExtend 64) == some 4 && lengthAt s 0 tGroup t t.npc == some 4) = true := by
  decide +kernel

/-! ## Scalar instructions -/

theorem test_meets_ScalarRegisterOperations : ∃ s g, CanRun s g anyStream 0 ∧ (s.here g).fulls [1, 2, 0] :=
  ⟨_, _, tReady_ok (st := .ctl) (g := tRegs .ctl [(2, 5)]) (by decide +kernel)⟩
theorem test_meets_ScalarRegisterOperations_other_stream : ∃ s g, CanRun s g anyStream 0 ∧ (s.here g).fulls [63, 63, 63] :=
  ⟨_, _, tReady_ok (st := .vec) (g := tRegs .vec [(63, 5)]) (by decide +kernel)⟩

theorem test_meets_Immediates : ∃ s g, CanRun s g anyStream 0 ∧ (s.here g).fulls [1, 2, 3] ∧ (g.v.get (0 : BitVec 6).toFin).full = true ∧
    (g.t.get (3 : BitVec 2).toFin).full = true ∧ (60 : BitVec 6).toNat + ((3 : BitVec 6).toNat + 1) ≤ 64 ∧ 64 < (60 : BitVec 6).toNat + ((4 : BitVec 6).toNat + 1) :=
  ⟨_, _, (tReady_ok (st := .ctl) (g := tGroup) (rs := [1, 2, 3]) (by decide +kernel)).1, (tReady_ok (roles := anyStream) (r := 0) (by decide +kernel)).2, by decide +kernel, by decide +kernel, by decide, by decide⟩

/-- The group with an empty register. -/
def tEmpty (fe : BitVec 1) : Group := tGroup.setStream .ctl { (tGroup.stream .ctl).markEmpty 5 with femode := fe }

theorem test_meets_EmptyOperand (fe : BitVec 1) : ∃ s g, CanRun s g anyStream 0 ∧ (s.here g).isFull 5 = false ∧ (s.here g).isFull 6 = true ∧ (s.here g).femode = fe := by
  rcases (show fe = 0 ∨ fe = 1 by revert fe; decide) with h | h <;> subst h
  · exact ⟨_, _, (tReady_ok (st := .ctl) (g := tEmpty 0) (rs := []) (by decide +kernel)).1, by decide +kernel, by decide +kernel, by decide +kernel⟩
  · exact ⟨_, _, (tReady_ok (st := .ctl) (g := tEmpty 1) (rs := []) (by decide +kernel)).1, by decide +kernel, by decide +kernel, by decide +kernel⟩

theorem test_meets_ConditionInstructions : ∃ s g, CanRun s g anyStream 0 ∧ (s.here g).fulls [1, 2] ∧ predDamaged g 0 = false ∧ predDamaged g 7 = false :=
  ⟨_, _, (tReady_ok (st := .ctl) (g := tGroup) (rs := [1, 2]) (by decide +kernel)).1, (tReady_ok (roles := anyStream) (r := 0) (by decide +kernel)).2, by decide +kernel, by decide +kernel⟩

theorem test_meets_ScalarInstructionsChangeNothingElse : tRun (exec (.add 0 5 3 3) (tWith .ctl tGroup)) (fun t => (t.group 0).isSome) = true ∧
    tRun (exec (.cmp 0 1 3 3 0) (tWith .ctl tGroup)) (fun t => (t.group 0).isSome) = true ∧
    tRun (exec (.bfx 0 0 5 3 60 4 0) (tWith .ctl tGroup)) (fun t => (t.group 0).isSome) = true := by decide +kernel

theorem test_meets_TargetPreparation : ∃ s g, CanRun s g anyStream 0 ∧ (s.here g).isFull 5 = true ∧ ((s.here g).getX 5).toNat % 4 = 0 ∧ ((s.here g).getX 5).toNat < 2 ^ 57 ∧
    (s.here g).isFull 6 = true ∧ ((s.here g).getX 6).toNat % 4 ≠ 0 ∧ 2 ^ 57 ≤ ((s.here g).getX 7).toNat :=
  ⟨_, _, (tReady_ok (st := .ctl) (g := tRegs .ctl [(5, 0x1FFFFFFFFFFFFFC), (6, 0x1001), (7, 0x200000000000000)]) (rs := []) (by decide +kernel)).1,
    by decide +kernel, by decide +kernel, by decide +kernel, by decide +kernel, by decide +kernel, by decide +kernel⟩

/-- A stream whose target register 2 and condition 1 are set, in a loop body that ends at the delay slot or not. -/
def tPrepared (inLoop : Bool) : Group := tGroup.setStream .ctl { ((tGroup.stream .ctl).setB 2 0x1040).setC 1 true with
  loops := #v[{ act := inLoop, len := 2, count := 2, start := 0x1000 }, { act := false, len := 0, count := 0, start := 0 }] }

/-- The delay slot holds a word that may stand there, one that may not, and one at the end of a loop body. -/
theorem test_meets_TransfersSetThePcPair : [(0x13A00000, false, false, false), (0x03600000, false, true, false), (0x13A00000, true, false, true)].all
    (fun (x : Nat × Bool × Bool × Bool) =>
    let g := tPrepared x.2.1
    let s := placeBytes (tWith .ctl g) 0x1004 (leBytes 4 x.1)
    let e := s.env g 0
    (s.group s.curPlace).isSome && (s.here g).isPrep 2 && !(s.here g).isPrep 3 && (match fetch e.s e.p e.g e.st e.t.npc with
      | .word s2 w => (s2.group s.curPlace).isSome && slotForbidden w == x.2.2.1 &&
          e.t.loops.toList.any (fun l => l.endsIn e.t.pc 4 || l.endsIn e.t.npc (lengthOf w)) == x.2.2.2
      | _ => false)) = true := by decide +kernel

/-- The hypotheses of a statement about an instruction, at the group that runs: it can run, registers are full, and a condition holds. -/
def tMeets (s : State) (roles : List StreamId) (r : BitVec 4) (rs : List (BitVec 6)) (P : Group → Env → Bool) : Bool :=
  (s.group s.curPlace).any fun g =>
    decide (canIssue (s.slot s.curPlace) g s.curStream = true ∧ roles.contains s.curStream = true ∧ (s.here g).took = none ∧
      canTake g s.curStream r = true ∧ canPlace (takeTok g s.curStream r) s.curStream r = true ∧ rs.all (s.here g).isFull = true ∧ P g (s.env g r) = true)

theorem tMeets_ok {s : State} {roles : List StreamId} {r : BitVec 4} {rs : List (BitVec 6)} {P : Group → Env → Bool} (h : tMeets s roles r rs P = true) :
    ∃ g, CanRun s g roles r ∧ (s.here g).fulls rs ∧ P g (s.env g r) = true := by
  have ⟨g, bound, w⟩ := tSome h
  have ⟨issue, role, fresh, take, place, rest⟩ := of_decide_eq_true w
  exact ⟨g, { bound, issue, role, fresh, take, place }, rest⟩

/-- The package with values in scalar registers of a stream. -/
def tS (st : StreamId) (l : List (BitVec 6 × BitVec 64)) : State := tWith st (tRegs st l)

/-- The same with the first control registers of die 0 mapped at 2^33. -/
def tDcr (st : StreamId) (l : List (BitVec 6 × BitVec 64)) : State :=
  let s := tS st l
  s.setCore 0 { s.cores.get 0 with tlb := [{ asid := 0, va := 0x200000000, logSize := 16, leaf := 0xE0000000007F, pte := 0 }] }

/-- The group of a state with stream .ctl changed. -/
def tCtl (f : Stream → Stream) : Group := tGroup.setStream .ctl (f (tGroup.stream .ctl))

/-! ## Control and system instructions -/

/-- A pair of loops: pair 1 has a body of two words from 0x1000. -/
def tNest : Group := tCtl (fun t => { t with
  loops := #v[{ act := false, len := 0, count := 0, start := 0 }, { act := true, len := 2, count := 2, start := 0x1000 }] })

theorem test_meets_LoopsOpenSkipOrTrap :
    tMeets (tS .ctl [(5, 0x100000000), (6, 1)]) anyStream 0 [5, 6] (fun g e =>
      let t := g.stream .ctl
      decide (t.pc.toNat + 8 + 4 * 4095 < 2 ^ 57) && (t.loops.get 0).act == false && (t.loops.get 1).act == false && decide ((t.getX 5).toNat % 2 ^ 32 = 0) &&
      decide ((t.getX 6).toNat % 2 ^ 32 ≠ 0) && (e.s.group 0).isSome &&
      (let s := tS .ctl [(5, 0x100000000), (6, 1)]
       let h := (s.taken g 0).setStream s.curStream (s.here (s.taken g 0)).landAnew
       [4, 8].all (fun size => lengthAt (s.setGroup 0 h) 0 h (s.here h) (BitVec.ofNat 64 (t.pc.toNat + size + 4 * 4095)) == some 4))) = true ∧
    tMeets (tWith .ctl tNest) anyStream 0 [1] (fun g _ =>
      let t := g.stream .ctl
      let other := t.loops.get 1
      (t.loops.get 0).act == false && other.act && decide (t.pc.toNat + 4 + 4 * 1 ≤ other.start.toNat + 4 * other.len.toNat) &&
      decide (¬ t.pc.toNat + 4 + 4 * 2 ≤ other.start.toNat + 4 * other.len.toNat) && decide (¬ t.pc.toNat + 8 + 4 * 1 ≤ other.start.toNat + 4 * other.len.toNat)) = true := by
  decide +kernel

theorem test_meets_ControlInstructions :
    tMeets (tWith .ctl tGroup) anyStream 0 [] (fun g _ => (g.stream .ctl).loads.isEmpty && (g.stream .ctl).stores.isEmpty &&
      !ownPending (tWith .ctl tGroup) 0 (g.stream .ctl) && mayEnd g .ctl && !(g.stream .vec).ended && g.halt == .none) = true ∧
    tMeets (tWith .ctl { tGroup with streams := Vector.ofFn (fun i => { newStream placedLaunch 0 0 i with npcOpen := false, ended := i != 0 }) }) anyStream 0 []
      (fun g _ => mayEnd g .ctl && [StreamId.ldr, .mxe, .vec, .str].all (fun st => (g.stream st).ended)) = true := by decide +kernel

theorem test_meets_SystemRegisterAccesses : tMeets (tS .mxe [(9, 1)]) anyStream 0 [9] (fun _ _ => true) = true := by decide +kernel

theorem test_meets_CounterAndLocalityReads :
    tMeets (tS .ctl [(5, 0x1FFFFFFFFC00000), (6, 0x200000000000000)]) anyStream 0 [5, 6, 9] (fun g _ =>
      let t := g.stream .ctl
      inWindow (t.getX 5) && inWindow (t.getX 6) == false && decide (2 ^ 57 ≤ (t.getX 6).toNat)) = true ∧
    ((tCtl (fun t => { t with arrivals := [(3, 7, none), (5, 9, some 0)] })).stream .ctl).arrivals[0]? = some (3, 7, none) ∧
    ((tCtl (fun t => { t with arrivals := [(3, 7, none), (5, 9, some 0)] })).stream .ctl).arrivals[1]? = some (5, 9, some 0) ∧
    8 ≤ ((8 : BitVec 64) - 0).toNat ∧ ((7 : BitVec 64) - 0).toNat < 8 := by decide +kernel

/-- Two live dies, and pages of every kind of place mapped at 2^33 and on. -/
def tPlaces (l : List (BitVec 6 × BitVec 64)) : State :=
  let s := tS .ctl l
  let at_ (k : Nat) (pa : Nat) : TlbEntry := { asid := 0, va := 0x200000000 + 65536 * k, logSize := 16, leaf := BitVec.ofNat 64 (pa + 0x7F), pte := 0 }
  let pas : List Nat := [0x10000, 0x1000000010000, 0xF00000000000, 0xF00008000000, 0x1F00000000000, 0xE00000000000, 0x8000000000000, 0x3000000010000]
  { s.setCore 0 { s.cores.get 0 with tlb := pas.zipIdx.map (fun x => at_ x.2 x.1) } with dawn := { s.dawn with live := 3, rel := 3 } }

theorem test_meets_LocalityClasses : (List.range 8).map (fun k =>
    let va : BitVec 64 := BitVec.ofNat 64 (0x200000000 + 65536 * k)
    if inWindow va then 9 else
    match findLeaf (tPlaces []) (coreOf 0) 0 va with
    | .bad _ _ => 9
    | .leaf x _ lg =>
      let pa := leafAddr x lg va
      (match region (tPlaces []) pa with
       | .hbm die => if die = 0 then 0 else 1
       | .attic die => if die.val ≠ 0 then 5 else if atticCore pa / 4 = 0 then 3 else 4
       | .dcr _ _ => 6
       | .dawn _ => 8
       | .none => 7)) = [0, 1, 3, 4, 5, 6, 8, 7] ∧
    (match findLeaf (tPlaces []) (coreOf 0) 0 0x300000000 with | .bad _ _ => true | _ => false) = true := by decide +kernel

/-! ## Scalar memory instructions -/

/-- Where a reach leads: 0 a trap or a wait, 1 the scratchpad, 2 memory, 3 a control register. -/
def tReach (e : Env) (va : BitVec 64) (kind : BitVec 2) (setD : Bool) : Nat :=
  match reach e va kind setD with
  | .ok _ (.spad _) => 1
  | .ok _ (.mem _ _) => 2
  | .ok _ (.dcr _ _) => 3
  | _ => 0

theorem test_meets_ScalarLoads : tMeets (tDcr .ctl [(5, 0x2008), (6, 0x1FFFFFFFFC00008), (7, 0x200000000), (8, 0x2001)]) anyStream 0 [5, 6, 7, 8, 9] (fun g e =>
    tReach e 0x2008 0 false == 2 && tReach e 0x1FFFFFFFFC00008 0 false == 1 && tReach e 0x200000000 0 false == 3 && (g.stream .ctl).loads.isEmpty) = true := by decide +kernel

/-- A load from memory at the head of the load queue. -/
def tLoad : Group := tCtl (fun t => { t.markEmpty 5 with
  loads := [{ fpc := 0x1000, va := 0x2000, dest := .scalar 5 8 false, parts := [{ loc := .mem 0x2000, va := 0x2000, n := 8, pos := 0 }], after := 0, mark := 0, issued := 0 }] })

/-- A group with page 0 of its scratchpad allocated, and its sync word 1 full or not. -/
def tSync (full : Bool) : Group := { tGroup with pages := tGroup.pages.set 0 { back := 3, alloc := true }, syncf := if full then 2 else 0 }
/-- The same with the page's frame in the core's SRAM. -/
def tSyncState (full : Bool) : State :=
  let s := tWith .ctl (let g := tSync full; g.setStream .ctl (((g.stream .ctl).setX 5 0x1FFFFFFFFC00008).setX 6 0x1FFFFFFFFC10000 |>.setX 7 0x1FFFFFFFFC00004))
  s.setCore 0 { s.cores.get 0 with frames := [{ idx := 0, lid := 1, gindex := 0, hdl := false, page := 0, pinned := true, filling := false, back := some 3 }] }

/-- The same load of the scratchpad's page 0. -/
def tLoadSpad : Group :=
  let g := tCtl (fun t => { t.markEmpty 5 with
    loads := [{ fpc := 0x1000, va := 0x1FFFFFFFFC00008, dest := .scalar 5 8 true, parts := [{ loc := .spad 8, va := 0x1FFFFFFFFC00008, n := 8, pos := 0 }], after := 0, mark := 0, issued := 0 }] })
  { g with pages := g.pages.set 0 { back := 3, alloc := true } }

/-- Whether a load of eight bytes at the head of the load queue of CTL can be performed at a state whose core has counted eight cycles. -/
def tLoadMeets (s0 : State) (g : Group) (loc : Loc) : Bool :=
  let s := (s0.setGroup 0 g).setCore 0 { s0.cores.get 0 with cycle := 8 }
  let t := g.stream .ctl
  decide (8 ≤ ((s.cores.get (coreOf 0)).cycle - 0).toNat) && (match loc with | .mem pa => !farHeld s (dieOfPlace 0) pa | .spad _ => true) &&
  markClear s 0 { t with loads := [] } 0 && !loc.locked s 0 8 && t.loads.length == 1 &&
  (match readyPages s 0 g [loc] with
   | .ready s2 => (List.range 8).all (fun k => !locPoisoned s2 0 g (loc.plus k))
   | _ => false)

theorem test_meets_LoadedDataReachesItsRegister : tLoadMeets (tWith .ctl tGroup) tLoad (.mem 0x2000) = true ∧ tLoadMeets (tSyncState true) tLoadSpad (.spad 8) = true := by
  decide +kernel

theorem test_meets_ScalarStores : tMeets (tDcr .ctl [(5, 0x2008), (6, 0x1FFFFFFFFC00008), (7, 0x200000000), (8, 0x2001)]) anyStream 0 [5, 6, 7, 8] (fun g e =>
    tReach e 0x2008 1 true == 2 && tReach e 0x200000000 1 true == 3 && (g.stream .ctl).stores.isEmpty && !windowDead e.s e.p e.g 8 &&
    (match reach e 0x200000000 1 true with | .ok s2 _ => (s2.group 0).isSome | _ => false)) = true ∧
    (let s0 := tWith .ctl tGroup
     let s := s0.setDie 0 { s0.dies.get 0 with poolBase := 2, poolCount := 1 }
     (s.group 0).isSome && (allocPage s 0 tGroup (pageOf 8)).isSome && (allocPage s0 0 tGroup (pageOf 8)).isNone) = true := by decide +kernel

theorem test_meets_FullEmptyWordAccesses : [false, true].all (fun full => tMeets (tSyncState full) anyStream 0 [5, 6, 7, 9] (fun g e =>
    let t := g.stream .ctl
    let off := (t.getX 5).toNat - windowBase
    inWindow (t.getX 5) && decide (off < 65536) && decide ((t.getX 5).toNat % 8 = 0) && g.syncf.getLsbD (off / 8) == full && (g.pages.get (pageOf off)).alloc &&
    decide ((t.getX 6).toNat - windowBase = 65536) && inWindow (t.getX 7) && decide ((t.getX 7).toNat % 8 ≠ 0) && !bankLocked e.s e.p none off 8 &&
    !(e.s.slot e.p).cutNow && !outrun e.g e.st (.word off) && releaseDone e.s e.p e.t 0 && !windowDead e.s e.p e.g off &&
    (match ensureFrame e.s e.p e.g (pageOf off) with
      | .ready s2 => (readRun s2 e.p e.g e.t e.t.storesIn (.spad off) 8).bad.isEmpty
      | _ => false) && loadTurn e.s e.p e.t && storeTurn e.s e.p e.t && (ldsRun 5 e).bad.isEmpty)) = true := by decide +kernel

theorem test_meets_WaitsFencesAndPops :
    tMeets (tS .ctl [(5, 0x2008), (6, 1), (7, 0x2001)]) anyStream 0 [5, 6, 7, 9] (fun g e =>
      tReach e 0x2008 0 false == 2 && loadTurn e.s e.p e.t && (waitaRun 5 e).bad.isEmpty && releaseDone e.s e.p e.t 5 && (g.stream .ctl).loads.isEmpty &&
      !(e.s.slot e.p).cutNow && !(Loc.mem 0x2008).locked e.s e.p 8 && (match readyPages e.s e.p e.g [.mem 0x2008] with | .ready _ => true | _ => false) && g.rq[3].isEmpty &&
      (readRun e.s e.p e.g e.t e.t.storesIn (.mem 0x2008) 8).bad.isEmpty && g.rq[0].isEmpty &&
      leNat ((List.range 8).map (fun k => streamByte e.s e.p e.g e.t e.t.storesIn (.mem (0x2008 + k)))) == 0) = true ∧
    tMeets (tWith .ctl (let g := tLoad; { g with rq := g.rq.set 4 [7] })) anyStream 0 [9] (fun g e => !(g.stream .ctl).loads.isEmpty && g.rq[4] == [7] && !outrun e.g e.st (.result 4)) = true := by
  decide +kernel

theorem test_meets_CacheControl : tMeets (tS .ctl [(5, 0x2008), (6, 0x1FFFFFFFFC00008), (7, 0x200000000)]) anyStream 0 [5, 6, 7] (fun g e =>
    let walked (va : BitVec 64) := if (tlbFind e.s (coreOf e.p) g.lr.asid va.toNat).isSome then e.s else walkTouch e.s (dieOfPlace e.p) g.lr.asid va
    inWindow ((g.stream .ctl).getX 6) && !windowDead e.s e.p e.g 8 &&
    (match findLeaf (walked 0x200000000) (coreOf e.p) g.lr.asid 0x200000000 with | .bad _ _ => true | _ => false) &&
    (match findLeaf (walked 0x2008) (coreOf e.p) g.lr.asid 0x2008 with | .leaf x _ _ => permits x 1 false | _ => false) &&
    tReach e 0x2008 0 false == 2 && tReach e 0x2008 1 false == 2 && (region e.s 0x2008).isHbm && (g.stream .ctl).stores.isEmpty) = true := by decide +kernel

theorem test_meets_CacheControlElsewhere : tMeets (tPlaces [(5, 0x200020008), (6, 0x200050008)]) anyStream 0 [5, 6] (fun _ e =>
    [0, 1].all (fun kind =>
      (match reach e 0x200020008 kind false with | .ok s2 (.mem pa _) => (region s2 pa).isAttic | _ => false) && tReach e 0x200050008 kind false == 3)) = true := by
  decide +kernel

/-- Page 0 allocated with its backing frame on a die that is not live. -/
def tDead : State :=
  let g := (tSync true).setStream .ctl (((tSync true).stream .ctl).setX 5 0x1FFFFFFFFC00008)
  tWith .ctl { g with pages := g.pages.set 0 { back := 0x300000000, alloc := true } }

theorem test_meets_DeadWindow : tMeets tDead anyStream 0 [5, 9] (fun _ e => windowDead e.s e.p e.g 8) = true := by decide +kernel

/-! ## Events, barriers, rings, tasks, retention and watchpoints -/

/-- A gang of two groups in slots 0 and 1 of core 0, group 0 running an instruction with a destination index in x5 to x7. -/
def tGang : State :=
  let gang (i : BitVec 16) : Group := { (tRegs .ctl [(5, 1), (6, 2), (7, 0)]) with lr := { placedLaunch with gang := true, g := 2 }, gindex := i }
  let s := tWith .ctl (gang 0)
  s.setSlot 1 { s.slot 1 with state := .running, group := some (gang 1) }

theorem test_meets_EventInstructions :
    tMeets (tS .ctl [(5, 1), (6, 0)]) anyStream 0 [5, 6] (fun g e => releaseDone e.s e.p e.t 0 && (g.stream .ctl).getX 6 == g.gindex.zeroExtend 64 &&
      (g.stream .ctl).getX 5 != g.gindex.zeroExtend 64 && !g.lr.gang && g.ev.get (31 : BitVec 5).toFin == 0) = true ∧
    tMeets tGang anyStream 0 [5, 6, 7] (fun g e => g.lr.gang && decide (g.lr.g ≤ ((g.stream .ctl).getX 6).toNat) && decide (((g.stream .ctl).getX 5).toNat < g.lr.g) &&
      releaseDone e.s e.p e.t 4 && boundAt e.s g.lr.id 1 == some 1 && (e.s.group 1).isSome && !linkHeld e.s (dieOfPlace e.p) (dieOfPlace 1)) = true ∧
    tMeets (tWith .ctl { tGroup with ev := tGroup.ev.set 31 1 }) anyStream 0 [] (fun g _ => g.ev.get (31 : BitVec 5).toFin != 0 && g.evwait.isEmpty) = true ∧
    tMeets (tWith .ctl (tCtl (fun t => { t with stores := [{ fpc := 0, ht := false, parts := [], entry := none, id := 0, before := 0, mark := 0, age := 0 }] }))) anyStream 0 []
      (fun _ e => !releaseDone e.s e.p e.t 0 && !(e.s.slot e.p).cutNow) = true := by decide +kernel

/-- A state with dwords in memory. -/
def tMem (s : State) (pa : Nat) (ds : List (BitVec 64)) : State := placeBytes s pa (dwordBytes ds)

/-- A barrier at 0x2040 with arrivals, count, level and phase; the arguments of BARA and BARW in registers. -/
def tBarrier (arrive count : BitVec 32) (level : BitVec 3) (phase : BitVec 32) : State :=
  tMem (tS .ctl [(5, 0x2040), (6, 3)]) 0x2040 [arrive ++ count, 0, 0#29 ++ level ++ phase, 0, 0, 0, 0, 0]

/-- The state with stream .ctl of its group changed. -/
def tWithGroup (s : State) (f : Stream → Stream) : State := match s.group 0 with
  | some g => s.setGroup 0 (g.setStream .ctl (f (g.stream .ctl)))
  | none => s

/-- A store that waits in a queue. -/
def tSpadWait : StoreReq := { fpc := 0, ht := false, parts := [], entry := none, id := 0, before := 0, mark := 0, age := 0 }

/-- What a test of a barrier instruction finds. -/
def tBar (s : State) (kind : BitVec 2) (P : State → Option Barrier → Bool) : Bool :=
  tMeets s anyStream 0 [5, 6, 9] (fun _ e => match object e 0x2040 64 64 kind Cause.barPlace with | .ok s2 pa => pa == 0x2040 && P s2 (readBarrier s2 pa) | _ => false)

theorem test_meets_BarrierInstructions :
    tBar (tBarrier 0 0 0 0) 1 (fun _ b => b.isNone) = true ∧
    tBar (tBarrier 1 2 1 0) 1 (fun _ b => match b with | some b => decide (placedLaunch.nlev < b.level) | none => false) = true ∧
    tBar (tBarrier 1 2 0 0) 1 (fun s2 b => match b with
      | some b => decide (b.level ≤ placedLaunch.nlev) && b.arrive != b.count && releaseDone s2 0 (tGroup.stream .ctl) (levelScope placedLaunch b.level)
      | none => false) = true ∧
    tBar (tBarrier 2 2 0 0) 1 (fun s2 b => match b with
      | some b => b.arrive == b.count && releaseDone s2 0 (tGroup.stream .ctl) 0 && !(s2.slot 0).cutNow && (firstArrival s2 0x2040).isNone
      | none => false) = true ∧
    tBar { (tBarrier 1 2 0 0).setSlot 1 { (tBarrier 1 2 0 0).slot 1 with group := some (tCtl (fun t => { t with atSlice := true })) } with
        barriers := [(0x2040, 1, .ctl)] } 1 (fun s2 b => match b with
      | some b => b.arrive != b.count && firstArrival s2 0x2040 == some (0x2040, 1, .ctl)
      | none => false) = true ∧
    tBar (tWithGroup (tBarrier 1 2 0 0) (fun t => { t with stores := [tSpadWait] })) 1 (fun s2 b => match b, s2.group 0 with
      | some _, some g => !releaseDone s2 0 (g.stream .ctl) 0
      | _, _ => false) = true ∧
    tBar (tBarrier 1 2 0 3) 0 (fun _ b => match b with | some b => b.phase == 3 | none => false) = true ∧
    tBar (tBarrier 1 2 0 4) 0 (fun _ b => match b with | some b => b.phase != 3 | none => false) = true ∧
    ((tBarrier 1 2 0 0).touched.isEmpty && (readBarrier (tBarrier 1 2 0 0) 0x2040).isSome) = true := by decide +kernel

/-- What L2PIN finds of the home die when the range is good. -/
def tPin (ways : Nat) (die : Die) (P : Die → Bool) : Bool :=
  let s0 := tS .ctl [(5, 0x20000), (6, 0x3FFFF), (7, 0x1FFFFFFFFC00000)]
  tMeets (s0.setDie 0 { die with atabBase := 1, atabEn := true }) anyStream 0 [5, 6, 7, 9] (fun g e =>
    decide (1 ≤ ways ∧ ways ≤ 8) && decide (¬ (g.stream .ctl).getX 6 < (g.stream .ctl).getX 5) && decide ((g.stream .ctl).getX 5 < (g.stream .ctl).getX 6) &&
    inWindow ((g.stream .ctl).getX 7) &&
    (match translateAs e.s e.p e.g e.st 0x20000 0 false with | .ok s2 pa _ => (region s2 pa).isHbm && P (s2.dies.get (dieOf pa)) | _ => false))

/-- A retention register of a range of 64 KiB pages with owned ways. -/
def tReg (lo hi : BitVec 41) (ways : List (Fin 16)) : RetReg := { RetReg.reset with v := true, base := lo, last := hi, ways := BitVec.ofNat 4 ways.length, owned := ways }

theorem test_meets_RetentionInstructions :
    tPin 8 Die.reset (fun d => !(d.regs.get 0).v && decide (ownedWays d + 8 ≤ d.rways.toNat) && !d.regs.toList.any (fun q => q.v)) = true ∧
    tPin 1 { Die.reset with regs := Vector.replicate 8 (tReg 9 9 [15]) } (fun d => d.regs.toList.all (fun q => q.v)) = true ∧
    tPin 8 { Die.reset with regs := Die.reset.regs.set 0 (tReg 9 9 [15]) } (fun d => (d.regs.get 0).v && !(d.regs.get 1).v && decide (d.rways.toNat < ownedWays d + 8)) = true ∧
    tPin 7 { Die.reset with regs := Die.reset.regs.set 0 (tReg 3 9 [15]) } (fun d => decide (ownedWays d + 7 ≤ d.rways.toNat) &&
      d.regs.toList.any (fun q => q.v && q.asid == 0 && decide (q.base ≤ 3 ∧ 2 ≤ q.last))) = true ∧
    tMeets (let s := tS .ctl [(5, 0), (6, 1)]; s.setDie 0 { s.dies.get 0 with regs := (s.dies.get 0).regs.set 0 (tReg 1 1 [15]) }) anyStream 0 [5, 6] (fun g e =>
      dieLive e.s 0 && ((e.s.dies.get 0).regs.get 0).v && ((e.s.dies.get 0).regs.get 0).asid == g.lr.asid && !((e.s.dies.get 0).regs.get 1).v) = true ∧
    (∀ (dd : DieId) (i : Fin 8), (8 : BitVec 64) ≠ BitVec.ofNat 64 (dd.val * 16 + i.val)) := by decide +kernel

/-- A reorder ring of two tickets at 0x3000 with NEXT, HEAD, RELEASED and its first bits. -/
def tRing (next head reld bits : BitVec 64) : State :=
  tMem (tS .ctl [(5, 0x3000), (6, 0), (7, 1)]) 0x3000 [0x1474E4952, 0, 0x601, next, head, reld, 0, 0, bits]

/-- What a test of a ring instruction finds. -/
def tRingIs (s : State) (P : State → Ring → Bool) : Bool :=
  tMeets s anyStream 0 [5, 6, 7, 9] (fun _ e => match object e 0x3000 64 64 1 Cause.rgDesc with
    | .ok s2 pa => pa == 0x3000 && releaseDone e.s e.p e.t 4 &&
        (match readRing s2 pa with
         | some k => !(List.range ((bitmapBytes k.n.log2 + 64 + 127 + pa % 128) / 128)).any (fun i => poisoned s2 (pa + 128 * i)) && P s2 k
         | none => false)
    | _ => false)

theorem test_meets_RingInstructions :
    tRingIs (tRing 1 0 0 0) (fun s2 k => decide (k.next - k.reld < k.n) && decide (k.head ≤ 0 ∧ 0 < k.next) && !ringBit s2 0x3000 k 0 && decide (k.reld + 0 ≤ k.head) &&
      decide (k.head < k.reld + 1)) = true ∧
    tRingIs (tRing 2 1 0 1) (fun s2 k => decide (k.n ≤ k.next - k.reld) && ringBit s2 0x3000 k 0 && decide (k.reld + 1 ≤ k.head)) = true := by decide +kernel

/-- A job card at 0x2040 and a task record at 0x4000. -/
def tCard (task : List (BitVec 64)) : State :=
  tMem (tMem (tS .ctl [(5, 0x2040), (6, 65536), (7, 0), (8, 65537), (10, 0x4000), (11, 0x4008)]) 0x2040 [0x143424F4A, 0, 8, 0, 5, 0x1000001000007, 0x100, 0]) 0x4000 task

/-- What TQADD finds at the object of a continuation: 0 the window, 1 no translation, 2 no HBM, 3 a save frame, 4 another object. -/
def tNamed (e : Env) (u : State) (va : BitVec 64) : Nat :=
  if inWindow va then 0
  else match translate u (coreOf e.p) e.g.lr.asid va 0 false e.g.trapped.isSome with
    | .ok v pa _ =>
      if !(region v pa).isHbm then 2 else if homeNat (l2Touch v pa (some (e.g.lr.asid, va.toNat)) false false) pa 4 = magicSave.toNat then 3 else 4
    | .bad _ _ _ => 1
    | _ => 9

/-- A save frame's MAGIC at 0x2000, and attic mapped at 2^33. -/
def tFrames (s : State) : State :=
  let s := tMem s 0x2000 [magicSave.zeroExtend 64]
  s.setCore 0 { s.cores.get 0 with tlb := [{ asid := 0, va := 0x200000000, logSize := 16, leaf := 0xF0000000007F, pte := 0 }] }

/-- The kinds of task records: a continuation, a job card's, and one with a reserved bit; what a continuation's object is. -/
theorem test_meets_JobAndTaskInstructions : [([0x2000000000000000, 0x5000, 0, 0], true, 4), ([0x2000000000000001, 0x5000, 0, 0], false, 4),
    ([0x2000000000000000, 0x2000, 0, 0], true, 3), ([0x2000000000000000, 0x1FFFFFFFFC00000, 0, 0], true, 0), ([0x2000000000000000, 0x300000000, 0, 0], true, 1),
    ([0x2000000000000000, 0x200000000, 0, 0], true, 2), ([0x1000000000000000, 0x2040, 0, 0], true, 4)].all
    (fun (x : List (BitVec 64) × Bool × Nat) => tMeets (tFrames (tCard x.1)) [.ctl] 0 [5, 6, 7, 8, 10, 11] (fun g e =>
      releaseDone e.s e.p e.t 4 && !(e.s.slot e.p).cutNow && queueRoom e.s (taskClass #v[(1#4 ++ 0#41 ++ g.cls ++ 0#16 : BitVec 64), 0, 0, 0]) &&
      (match object e 0x2040 64 64 1 Cause.jobDesc, object e 0x2040 64 64 0 Cause.jobDesc with
        | .ok s2 pa, .ok s3 pb => pa == 0x2040 && pb == 0x2040 && (match readCard s2 pa, readCard s3 pb with | some c, some c' => c.launch != 0 && c'.launch != 0 | _, _ => false)
        | _, _ => false) &&
      (match reach e 0x4000 0 false with
        | .ok s2 (.mem pa _) =>
          match readyPages s2 e.p e.g [.mem pa] with
          | .ready s3 =>
            let run := readRun s3 e.p e.g e.t e.t.storesIn (.mem pa) 32
            let u := l2Run s3 pa 32 (some (g.lr.asid, 0x4000)) false false
            let t := taskOf run.bytes
            !(Loc.mem pa).locked s2 e.p 32 && run.bad.isEmpty && taskOk t == x.2.1 && (t[0].extractLsb' 60 4 == 2#4 || t[0].extractLsb' 60 4 == 1#4) &&
            tNamed e u t[1] == x.2.2 && queueRoom u (taskClass (taskForClass t g.cls)) &&
            (t[0].extractLsb' 60 4 == 2#4 || (match object { e with s := u } t[1] 64 64 0 Cause.jobDesc with
              | .ok s4 pc => (match readCard s4 pc with | some c => c.launch != 0 | none => false)
              | _ => false))
          | _ => false
        | _ => false))) = true ∧
    (let s := tWith .ctl tGroup
     let t : Task := { dws := #v[0x2000000000000000, 0, 0, 0], asid := 0, lid := 1, no := 0 }
     queueRoom { s with dawn := { s.dawn with held := [t] } } (taskClass t.dws) == false) = true := by decide +kernel

/-- A watchpoint record at 0x4000 over a range, and its registers. -/
def tWatch (lo hi : BitVec 64) : State := tMem (tS .ctl [(5, 0x4000), (6, 0x4008), (7, 0)]) 0x4000 [lo, hi, 0, 0, 0x2000000000000000, 0x5000, 0, 0]

/-- What WPSET finds. -/
def tWatchIs (s : State) (good : Bool) (P : State → Nat → Bool) : Bool :=
  tMeets s [.ctl] 0 [5, 6, 7, 9] (fun g e => match reach e 0x4000 0 false with
    | .ok s1 (.mem pa _) =>
      let s2 := l2Run s1 pa 64 (some (g.lr.asid, 0x4000)) false false
      let run := readRun s1 e.p e.g e.t e.t.storesIn (.mem pa) 64
      let lo := dwordOf run.bytes 0
      let hi := dwordOf run.bytes 1
      !(Loc.mem pa).locked s1 e.p 64 && (match readyPages s1 e.p e.g [.mem pa] with | .ready _ => true | _ => false) &&
      run.bad.isEmpty && (decide (lo.toNat % 8 = 0 ∧ hi.toNat % 8 = 7 ∧ lo.toNat / 128 = hi.toNat / 128 ∧ ¬ hi < lo) && taskOk (taskOf (run.bytes.drop 32)) &&
        !inWindow lo) == good &&
      (!good || (match translateAs s2 e.p e.g e.st lo 0 false with | .ok s3 pa _ => P s3 pa | _ => false))
    | _ => false)

/-- A watch entry of the slice of an address. -/
def tEntryOf (pa : Nat) (i : Fin 16) (owner : BitVec 64) : Watch :=
  { slice := sliceOf pa, entry := i, lo := pa, hi := pa + 7, mask := 0, value := 0, task := Vector.replicate 4 0, once := false, owner := owner, asid := 0 }

theorem test_meets_WatchpointInstructions :
    tWatchIs (tWatch 0x6000 0x607F) true (fun s3 pa => (region s3 pa).isHbm && (s3.dies.get (dieOf pa)).watch.isEmpty) = true ∧
    tWatchIs (tFrames (tWatch 0x200000000 0x20000007F)) true (fun s3 pa => !(region s3 pa).isHbm) = true ∧
    (∀ (dd : DieId) (sl i : Fin 16), (0x400 : BitVec 64) ≠ BitVec.ofNat 64 (dd.val * 256 + sl.val * 16 + i.val)) ∧
    tMeets (tMem (tCard [0x6000, 0x6007, 0, 0, 0x1000000000000000, 0x2040, 0, 0]) 0x6000 []) [.ctl] 0 [10] (fun g e =>
      match reach e 0x4000 0 false with
      | .ok s1 (.mem pa _) =>
        let t := taskOf ((readRun s1 e.p e.g e.t e.t.storesIn (.mem pa) 64).bytes.drop 32)
        taskOk t && t[0].extractLsb' 60 4 == 1#4 &&
        (match object { e with s := l2Run s1 pa 64 (some (g.lr.asid, 0x4000)) false false } t[1] 64 64 0 Cause.wpDesc with
         | .ok s4 pc => (match readCard s4 pc with | some c => c.launch != 0 | none => false) && (match translateAs s4 e.p e.g e.st 0x6000 0 false with | .ok _ _ _ => true | _ => false)
         | _ => false)
      | _ => false) = true ∧
    tWatchIs (tWatch 0x6000 0x6087) false (fun _ _ => true) = true ∧ tWatchIs (tWatch 0x6008 0x6007) false (fun _ _ => true) = true ∧
    tWatchIs (let s := tWatch 0x6000 0x6007; s.setDie 0 { s.dies.get 0 with watch := (List.finRange 16).map (fun i => tEntryOf 0x6000 i 1) }) true
      (fun s3 pa => (region s3 pa).isHbm && (List.finRange 16).all (fun i => (s3.dies.get (dieOf pa)).watch.any (fun w => w.slice == sliceOf pa && w.entry == i))) = true ∧
    [1, 2].all (fun (owner : BitVec 64) => tMeets (let s := tWatch 0 0; s.setDie 0 { s.dies.get 0 with watch := [{ tEntryOf 0 0 owner with slice := 0 }] }) [.ctl] 0 [7]
      (fun g e => (e.s.dies.get 0).watch.any (fun w => w.slice == 0 && w.entry == 0 && (w.owner == g.lr.id) == (owner == 1)))) = true := by decide +kernel

/-! ## Engine commands -/

/-- A command that waits in the vector queue. -/
def tPending : QEntry :=
  { instr := .vtag 0 1 2 1, stream := .vec, xops := Vector.replicate 6 0, shops := Vector.replicate 2 0, rs := tGroup.vrs, fpc := 0, tid := 0, id := 0, took := false,
    started := false, raised := false, done := false, elems := [], headCnt := 0, refused := none, work := none, faults := [], afterSt := 0, afterLd := 0, tookSets := ([], []), wrote := [], behind := [] }

theorem test_meets_VectorCommandsEnterTheirQueue :
    tMeets (tS .vec [(5, 7)]) [.vec] 0 [5, 6] (fun g _ => decide ((g.queue .vector).length < 16)) = true ∧
    tMeets (tWith .vec (tGroup.setQueue .vector (List.replicate 16 tPending))) [.vec] 0 [5, 6] (fun g _ => decide (16 ≤ (g.queue .vector).length)) = true ∧
    tMeets (tWith .vec { tGroup with v := tGroup.v.set 5 { tGroup.v.get 5 with tag := 3 }, vrs := { tGroup.vrs with mode := 5 } }) [.vec] 0 [5, 6] (fun g _ =>
      g.vrs.mode == 5 && (g.v.get 5).tag == 3) = true := by decide +kernel

/-- A group with one command accepted into a queue. -/
def tQueued (g : Group) (q : QueueId) (st : StreamId) (i : Instr) (xs : List (BitVec 64)) (hs : List (BitVec 512)) : Group :=
  accept g q st i { xs := xs, hs := hs, tid := 0 }

/-- A command at the head with its tokens taken finds nothing to wait for. -/
def tClear (v : QEnv) : Bool :=
  let u := regUse v.e.instr
  decide (belongs v.q v.e.instr = true ∧ (pushReleased v.s v.p (v.g.stream v.e.stream) v.e.afterSt = true ∧ reachesHome v.s v.p v.e = true) ∧
    (v.q = .vector ∨ v.q = .scatter → readsFull v.g u = true) ∧ (v.q = .vector → writesFull v.g u = true) ∧
    (v.q = .vector ∨ v.q = .matrix → hazard v.s (v.g.queue v.q) v.e = false) ∧
    (v.q = .matrix → tileHazard v.s (v.g.queue v.q) v.e = false ∧ unitsFree v.s v.p v.e = true) ∧ readsDamaged v.g u = false)

theorem tClear_ok {v : QEnv} (h : tClear v = true) : HeadClear v := by
  have ⟨kind, pushed, reads, writes, order, units, whole⟩ := of_decide_eq_true h
  exact { kind, pushed, reads, writes, order, units, whole }

/-- The hypotheses of a statement about the command at a head, and a condition. -/
def tHead (s : State) (p : Place) (q : QueueId) (P : Group → QEntry → QEnv → Bool) : Bool :=
  (s.group p).any fun g =>
    (queueHead (g.queue q)).any fun e =>
      decide (mayStart (s.slot p) g q = true ∧ (s.slot p).cutNow = false ∧ (e.took = false ∧ e.raised = false ∧ e.faults = [] ∧ e.refused = none) ∧
        canTake g e.stream e.instr.ring = true ∧ served s p q = true ∧ tClear (headEnv s p q g e) = true ∧ P g e (headEnv s p q g e) = true)

theorem tHead_ok {s : State} {p : Place} {q : QueueId} {P : Group → QEntry → QEnv → Bool} (h : tHead s p q P = true) :
    ∃ g e, HeadReady s p q g e ∧ P g e (headEnv s p q g e) = true := by
  have ⟨g, bound, w⟩ := tSome h
  have ⟨e, head, x⟩ := tSome w
  have ⟨may, nocut, fresh, take, turn, clear, holds⟩ := of_decide_eq_true x
  exact ⟨g, e, { bound, head, may, nocut, fresh, take, turn, clear := tClear_ok clear }, holds⟩

/-- How a command would start: 1 it starts, 2 it raises a cause, 3 it waits, 4 it raises a cause after a part of its effect. -/
def tActs (v : QEnv) : Nat := match startCommand v with | .start u _ => if (u.group v.p).isSome then 1 else 0 | .trap _ => 2 | .trapIn _ _ => 4 | .wait _ => 3

/-- A group whose vector registers carry tags. -/
def tTags (l : List (Fin 64 × BitVec 4)) : Group :=
  { tGroup with v := l.foldl (fun v x => v.set x.1.val { (v.get x.1) with tag := x.2, data := 0x80000001#16384 }) tGroup.v }

/-- A vector command at the head over tagged registers, with its scalar operands. -/
def tVec (l : List (Fin 64 × BitVec 4)) (i : Instr) (xs : List (BitVec 64)) : State := tWith .vec (tQueued (tTags l) .vector .vec i xs [])

/-- A record whose box is 0, which breaks a record constraint and no field's. -/
def tBadShape : BitVec 512 := (8#512 <<< 64) ||| (1#512 <<< 505) ||| (12#512 <<< 508)

/-- A small box in shape register terms: INT8 elements, one dimension of 8, from the scratchpad window. -/
def tShape (base : BitVec 64) : BitVec 512 :=
  (base.zeroExtend 512) ||| (8#512 <<< 64) ||| (8#512 <<< 424) ||| (1#512 <<< 505) ||| (12#512 <<< 508)

theorem test_meets_EngineHeadStartsTheReadyCommand :
    tHead (tVec [(1, 1), (2, 1)] (.vadd 0 3 1 2 0) []) 0 .vector (fun _ _ v => tActs v == 1) = true ∧
    tHead (tVec [(1, 1), (2, 2)] (.vadd 0 3 1 2 0) []) 0 .vector (fun _ _ v => tActs v == 2) = true ∧
    (let s := tWith .mxe (tQueued tGroup .matrix .mxe (.tld 0 0 1 2 0 0) [0, 0] [tShape 0x200000000])
     tHead { s with dawn := { s.dawn with msplit := 2 } } 0 .matrix (fun _ _ v => tActs v == 3)) = true := by decide +kernel

theorem test_meets_PredicateCommands : [Instr.pand 0 1 2 3, .por 0 1 2 7, .pxor 0 0 0 0, .pnot 0 1 7, .pcnt 0 63 7 0, .pcnt 0 63 7 1, .pset 0 1 5 0x1FF].all (fun i =>
    tHead (tVec [] i [3]) 0 .vector (fun _ e v => decide (e.instr = i) && tActs v == 1)) = true := by decide +kernel

/-- For each clause of a list, a command at the head whose registers v1, v2 and v3 carry the tags it asks for. -/
def tClauses (l : List (Instr × BitVec 4 × BitVec 4 × BitVec 4)) (acts : Nat) : Bool := l.all (fun x =>
  tHead (tVec [(1, x.2.1), (2, x.2.2.1), (3, x.2.2.2)] x.1 [511]) 0 .vector (fun g e v => decide (e.instr = x.1) && (g.v.get 1).tag == x.2.1 &&
    (g.v.get 2).tag == x.2.2.1 && (g.v.get 3).tag == x.2.2.2 && tActs v == acts))

theorem test_meets_VectorElementCommands : tClauses [
    (.vadd 0 3 1 2 7, 1, 1, 0), (.vsub 0 3 1 2 0, 2, 2, 0), (.vmul 0 3 1 2 0, 12, 12, 0), (.vmin 0 3 1 2 0, 1, 1, 0), (.vmax 0 3 1 2 0, 2, 2, 0),
    (.vabs 0 3 1 0, 12, 1, 0), (.vneg 0 3 1 0, 1, 1, 0), (.vand 0 3 1 2 0, 0, 7, 0), (.vor 0 3 1 2 0, 12, 3, 0), (.vxor 0 3 1 2 0, 6, 6, 0), (.vshl 0 3 1 2 0, 0, 1, 0),
    (.vshr 0 3 1 2 0, 12, 0, 0), (.vsra 0 3 1 2 0, 2, 2, 0), (.vmov 0 3 1 1, 7, 0, 0), (.vbcast 0 3 5 7 0, 0, 0, 0), (.vbcast 0 3 5 12 0, 0, 0, 0), (.vsel 0 3 1 2 1, 0, 0, 0),
    (.vext 0 3 1 5 0, 8, 0, 0), (.vlane 0 3 1 5 1, 7, 0, 0), (.vperm 0 3 1 2 0, 9, 1, 0), (.vtag 0 3 1 12, 8, 0, 0), (.vtag 0 3 1 9, 8, 0, 0)] 1 = true := by decide +kernel

theorem test_meets_VectorFloatCommands : tClauses [
    (.vadd 0 3 1 2 1, 3, 3, 0), (.vsub 0 3 1 2 1, 4, 4, 0), (.vmul 0 3 1 2 1, 5, 5, 0), (.vmin 0 3 1 2 1, 4, 4, 0), (.vmax 0 3 1 2 1, 5, 5, 0), (.vfma 0 3 1 2 1, 3, 3, 3),
    (.vfms 0 3 1 2 1, 4, 4, 4), (.vabs 0 3 1 1, 3, 0, 0), (.vneg 0 3 1 1, 5, 0, 0), (.vdiv 0 3 1 2 1, 3, 3, 0), (.vrcp 0 3 1 1, 3, 0, 0), (.vrsq 0 3 1 1, 3, 0, 0),
    (.vsqrt 0 3 1 1, 3, 0, 0), (.vexp2 0 3 1 1, 3, 0, 0), (.vlog2 0 3 1 1, 3, 0, 0), (.vscl 0 3 1 2 1, 3, 1, 0), (.vpack 0 3 1 2 1, 1, 1, 0), (.vpack 0 3 1 2 1, 12, 12, 0),
    (.vunpk 0 3 1 1 1, 12, 0, 0), (.vunpk 0 3 1 0 1, 2, 0, 0), (.vcmp 0 5 3 1 2 1, 3, 3, 0), (.vcmp 0 7 3 1 2 1, 1, 1, 0), (.vcmp 0 2 3 1 2 1, 12, 12, 0),
    (.vcmp 0 0 3 1 2 1, 2, 2, 0), (.vcmp 0 1 3 1 2 1, 4, 4, 0)] 1 = true := by decide +kernel

theorem test_meets_VectorConversions : tClauses [
    (.vcvt 0 0 3 1 1 1 0 0 0 0, 3, 0, 0), (.vcvt 0 0 3 1 1 6 0 1 1 0, 3, 0, 0), (.vcvt 0 0 3 1 1 3 1 0 3 0, 6, 0, 0), (.vcvt 0 0 3 1 0 9 0 0 0 0, 3, 0, 0),
    (.vcvt 0 0 3 1 0 8 0 0 0 1, 4, 0, 0), (.vcvt 0 0 3 1 0 9 0 0 0 0, 9, 0, 0)] 1 = true := by decide +kernel

theorem test_meets_VectorReductions : tClauses [(.vred 0 3 1 0 1, 1, 0, 0), (.vred 0 3 1 1 1, 1, 0, 0), (.vred 0 3 1 2 1, 1, 0, 0), (.vred 0 3 1 1 1, 3, 0, 0),
    (.vscl 0 3 1 2 0, 8, 1, 0), (.vscl 0 3 1 2 0, 9, 1, 0)] 1 = true := by decide +kernel

theorem test_meets_VectorChecksRaiseTheirCauses : tClauses [
    (.vadd 0 3 1 2 0, 0, 0, 0), (.vsub 0 3 1 2 0, 1, 2, 0), (.vfma 0 3 1 2 0, 3, 4, 0), (.vfms 0 3 1 2 0, 1, 1, 0), (.vfma 0 3 1 2 0, 3, 3, 0), (.vdiv 0 3 1 2 0, 3, 4, 0),
    (.vrcp 0 3 1 0, 4, 0, 0), (.vand 0 3 1 2 0, 11, 0, 0), (.vand 0 3 1 2 1, 8, 0, 0), (.vor 0 3 1 2 1, 0, 9, 0), (.vshl 0 3 1 2 0, 3, 1, 0), (.vsel 0 3 1 2 1, 1, 2, 0),
    (.vsel 0 3 1 2 1, 8, 8, 0), (.vcmp 0 6 3 1 2 0, 3, 3, 0), (.vcmp 0 0 3 1 2 0, 0, 0, 0), (.vmov 0 3 1 1, 8, 0, 0), (.vext 0 3 1 5 7, 9, 0, 0), (.vlane 0 3 1 5 1, 10, 0, 0),
    (.vperm 0 3 1 2 0, 0, 2, 0), (.vperm 0 3 1 2 1, 8, 1, 0), (.vabs 0 3 1 0, 0, 0, 0), (.vneg 0 3 1 0, 8, 0, 0), (.vred 0 3 1 0 0, 2, 0, 0), (.vscl 0 3 1 2 0, 1, 1, 0),
    (.vscl 0 3 1 2 1, 8, 1, 0), (.vpack 0 3 1 2 0, 1, 12, 0), (.vunpk 0 3 1 0 0, 1, 0, 0), (.vtag 0 3 1 13, 0, 0, 0), (.vbcast 0 3 5 15 0, 0, 0, 0), (.vld 0 3 5 14 0, 0, 0, 0),
    (.vcvt 0 0 3 1 0 13 0 0 0 0, 3, 0, 0), (.vbcast 0 3 5 8 0, 0, 0, 0), (.vcvt 0 0 3 1 0 1 0 0 0 0, 0, 0, 0), (.vcvt 0 0 3 1 1 8 0 0 0 0, 3, 0, 0), (.vcvt 0 0 3 1 0 1 0 0 7 0, 3, 0, 0),
    (.vcvt 0 0 3 1 0 11 0 0 0 0, 3, 0, 0), (.vcvt 0 0 3 1 0 1 0 6 0 0, 3, 0, 0), (.vld 0 3 5 11 0, 0, 0, 0), (.vld 0 3 5 8 1, 0, 0, 0), (.vlds 0 3 5 6 0, 0, 0, 8),
    (.vgat 0 3 5 2 0, 0, 2, 0), (.vst 0 3 5 1, 0, 0, 8)] 2 = true := by decide +kernel

/-- A vector memory command at the head: v3 of a tag, v2 of INT32 indexes, p1 true in lanes 0 and 1, p2 in lane 0. -/
def tVmem (tag : BitVec 4) (i : Instr) (xs : List (BitVec 64)) : State := tWith .vec (tQueued (((tTags [(2, 1), (3, tag)]).setPred 1 15#1024).setPred 2 3#1024) .vector .vec i xs [])

/-- Whether the accesses of a command at the head resolve. -/
def tResolves (v : QEnv) (kind : BitVec 2) (accs : List (BitVec 64 × Nat)) : Bool :=
  match resolveAll v v.s (accs.map (fun x => ({ va := x.1, n := x.2, align := 1 } : ElemAcc))) kind with | .ok _ _ => true | _ => false

theorem test_meets_VectorMemoryCommands :
    [(Instr.vld 0 3 5 1 1, (1 : BitVec 4), (0 : BitVec 2)), (.vlds 0 3 5 6 1, 1, 0), (.vgat 0 3 5 2 2, 1, 0), (.vst 0 3 5 1, 1, 1), (.vld 0 3 5 8 0, 0, 0), (.vst 0 3 5 0, 8, 1)].all (fun x =>
      tHead (tVmem x.2.1 x.1 [if x.1 = .vgat 0 3 5 2 2 then 0x80002003 else 0x2000, 4]) 0 .vector (fun g e v => decide (e.instr = x.1) && (g.stream .vec).loads.isEmpty && (g.stream .vec).stores.isEmpty &&
        tResolves v x.2.2 [(0x2000, 4), (0x2004, 4)] && tActs v == 1)) = true ∧
    [(Instr.vld 0 3 5 8 0, (0 : BitVec 4)), (.vst 0 3 5 0, 8)].all (fun x => tHead (tVmem x.2 x.1 [0x2001]) 0 .vector (fun _ e v => decide (e.instr = x.1) && tActs v == 2)) = true ∧
    tHead (let s := tVmem 1 (.vld 0 3 5 1 1) [0x2000]
           match s.group 0 with
           | some g => s.setGroup 0 (g.setStream .vec { g.stream .vec with loads := List.replicate 16 { fpc := 0, va := 0, dest := .scalar 0 8 false, parts := [], after := 0, mark := 0, issued := 0 } })
           | none => s) 0 .vector (fun g _ v => decide (16 ≤ (g.stream .vec).loads.length) && tActs v == 3) = true := by decide +kernel

/-- A command that has started and holds work. -/
def tStarted (q : QueueId) (i : Instr) (w : Work) : Group :=
  (tQueued tGroup q .vec i [] []).setQueue q ((tQueued tGroup q .vec i [] []).queue q |>.map (fun e => { e with took := true, started := true, work := some w }))

theorem test_meets_EngineCompletionWritesTheRegisters : [
    { Work.none with vw := [(3, VReg.reset)] }, { Work.none with pw := [(0, 1#1024)] }, { Work.none with tw := [(3, TReg.reset)] },
    { Work.none with lines := [{ loc := .mem 0x2000, va := 0x2000, bytes := [(0, 1#8)], scales := [], poison := false, ef := false }] }].all (fun (w : Work) =>
    let g := tStarted .vector (.vtag 0 3 1 1) w
    match (g.queue .vector) with
    | [e] => e.started && !e.done && decide (e.work = some w) && e.elems.isEmpty && (elementCode e.instr).isNone && canPlace g e.stream e.instr.ring && w.copies.isEmpty
    | _ => false) = true ∧
    [false, true].all (fun first =>
      let g0 := tQueued (tQueued tGroup .vector .vec (.vtag 0 3 1 1) [] []) .vector .vec (.vtag 0 4 1 1) [] []
      let w : Work := { Work.none with vw := [(if first then 3 else 4, VReg.reset)] }
      let g := g0.setQueue .vector ((g0.queue .vector).zipIdx.map (fun x =>
        if x.2 = (if first then 0 else 1) then { x.1 with took := true, started := true, work := some w } else { x.1 with took := true, started := true, done := first }))
      match g.queue .vector with
      | [a, b] => a.id != b.id && (if first then !a.done && b.done else !a.done && !b.done) && decide ((if first then a else b).work = some w) && a.elems.isEmpty && b.elems.isEmpty &&
          canPlace g a.stream a.instr.ring && canPlace (postEv (placeTok g a.stream a.instr.ring []) a.instr.ev []) b.stream b.instr.ring
      | _ => false) = true := by decide +kernel

/-! ## Shapes, tiles and chains -/

/-- The hypotheses of a statement about an instruction of MXE that has waited with its tokens taken, and a condition. -/
def tGoesOn (s : State) (r : BitVec 4) (P : Group → Env → Bool) : Bool :=
  (s.group s.curPlace).any fun g =>
    decide (canIssue (s.slot s.curPlace) g s.curStream = true ∧ anyStream.contains s.curStream = true ∧ (s.here g).took.isSome = true ∧
      canPlace g s.curStream r = true ∧ P g (s.again g) = true)

theorem tGoesOn_ok {s : State} {r : BitVec 4} {P : Group → Env → Bool} (h : tGoesOn s r P = true) : ∃ g, CanGoOn s g anyStream r ∧ P g (s.again g) = true := by
  have ⟨g, bound, w⟩ := tSome h
  have ⟨issue, role, taken, place, holds⟩ := of_decide_eq_true w
  exact ⟨g, { bound, issue, role, taken, place }, holds⟩

/-- A SHLD of 0x2040 that has waited for eight cycles, a record standing there. -/
def tShld (rec : BitVec 512) : State :=
  let g := tRegs .mxe [(5, 0x2040)]
  let s := placeBytes (tWith .mxe (g.setStream .mxe { g.stream .mxe with took := some 0, waiting := some (.other, 0, 0) })) 0x2040 (leBytes 64 rec.toNat)
  s.setCore 0 { s.cores.get 0 with cycle := 8 }

/-- What the second try of a SHLD finds of its record: 0 poison, 1 a field's fault, 2 a record's, 3 none. -/
def tShldFinds (s : State) (n : Nat) : Bool :=
  tGoesOn s 0 (fun g e => (g.stream .mxe).isFull 5 && decide (8 ≤ ((s.cores.get 0).cycle - 0).toNat) && (match reach e 0x2040 0 false with
    | .ok s2 (.mem pa _) => loadTurn s2 e.p e.t && !(Loc.mem pa).locked s2 e.p 64 && (match readyPages s2 e.p e.g [.mem pa] with
        | .ready s3 =>
          let run := readRun s3 e.p e.g e.t e.t.storesIn (.mem pa) 64
          let v := BitVec.ofNat 512 (leNat run.bytes)
          (if !run.bad.isEmpty then 0 else if ([1, 2, 4, 16].findSome? (fun k => fieldFault k (shGet v k))).isSome then 1 else if (Shape.of v).recordOk then 3 else 2) == n
        | _ => false)
    | _ => false))

theorem test_meets_ShapeInstructions :
    [1, 8, 16, 20].all (fun f => shapeFieldOk f) = true ∧
    shValue 8 8 = some 8 ∧ fieldFault 8 8 = none ∧ shValue 1 16 = none ∧ shValue 1 13 = some 13 ∧ fieldFault 1 13 = some Cause.tagRsvd ∧
    tMeets (tS .mxe [(5, 0x2040), (6, 0x2041)]) anyStream 0 [5, 6, 9] (fun g e => (g.stream .mxe).waiting.isNone && !(e.s.slot e.p).cutNow &&
      decide (((g.stream .mxe).getX 6).toNat % 64 ≠ 0) && (match reach e 0x2040 0 false with
        | .ok s2 (.mem pa ht) => loadTurn s2 e.p e.t && !(Target.mem pa ht).loc.locked s2 e.p 64 && (s2.group 0).isSome
        | _ => false)) = true ∧
    (let s := tDcr .mxe [(5, 0x200000000)]; tMeets s anyStream 0 [5] (fun _ e => tReach e 0x200000000 0 false == 3)) = true ∧
    tShldFinds (tShld (tShape 0x2000)) 3 = true ∧ tShldFinds (tShld tBadShape) 2 = true ∧ tShldFinds (tShld 0) 1 = true ∧
    tShldFinds { tShld 0 with poison := [0x2040 / 128] } 0 = true := by decide +kernel

theorem test_meets_MatrixCommandsEnterTheirQueue :
    tMeets (tWith .mxe (let g := tRegs .mxe [(5, 0xFFFFF), (6, 0x1FFFFFFFFC00000), (7, 0x100000), (8, 0x2000)]; { g with h := (g.h.set 2 (tShape 0x2000)).set 3 tBadShape })) [.mxe] 0 [5, 6, 7, 8]
      (fun g _ => decide ((g.queue .matrix).length < 16) && (boxChecks (g.h.get 2) 0 0).isNone && (boxChecks (g.h.get 3) 0 0).isSome &&
        decide (((g.stream .mxe).getX 5).toNat < 2 ^ 20) && decide (¬ ((g.stream .mxe).getX 7).toNat < 2 ^ 20) && decide ((47 : BitVec 6).toNat ≤ 47) &&
        inWindow ((g.stream .mxe).getX 6) && !inWindow ((g.stream .mxe).getX 8) && decide (((g.stream .mxe).getX 6).toNat + 8192 + 512 ≤ 2 ^ 57) &&
        decide ((g.stream .mxe).getX 0 &&& 0xFFFFFFFFFFFF00FE#64 = 0 ∧ (g.stream .mxe).getX 7 &&& 0xFFFFFFFFFFFF00FE#64 ≠ 0)) = true ∧
    tMeets (tS .vec []) [.mxe, .vec] 0 [5] (fun g _ => decide ((g.queue .vector).length < 16) && decide ((5 : BitVec 3).toNat < 6 ∧ 6 ≤ (6 : BitVec 3).toNat)) = true := by
  decide +kernel

theorem test_meets_ChainCommandsEnterTheirQueue :
    tMeets (tWith .mxe (let g := tRegs .mxe [(5, 0x40), (6, 0x3FFFF), (7, 0x40000), (8, 0x100), (10, 0x1FFFFFFFFC00080), (11, 0xFFF), (12, 0x1000)];
      { g with h := (g.h.set 2 (tShape 0x2000)).set 3 tBadShape })) [.mxe] 0 [5, 6, 7, 8, 10, 11, 12] (fun g _ =>
        let X := (g.stream .mxe).getX
        decide ((g.queue .matrix).length < 16) && decide ((X 5).toNat % 64 = 0 ∧ (X 6).toNat % 64 ≠ 0) && decide ((X 5).toNat % 256 ≠ 0 ∧ (X 8).toNat % 256 = 0) &&
        (boxChecks (g.h.get 2) 0 0).isNone && (Shape.of (g.h.get 2)).tag == 12 && (boxChecks (g.h.get 3) 0 0).isSome &&
        decide ((X 6).toNat < 2 ^ 18 ∧ ¬ (X 7).toNat < 2 ^ 18) && decide ((X 0).extractLsb' 52 12 = 0 ∧ (X 0).extractLsb' 0 37 = 0) &&
        inWindow (X 10) && decide ((X 10).toNat % 128 = 0) && decide ((X 11).toNat < 2 ^ 12 ∧ 2 ^ 12 ≤ (X 12).toNat)) = true := by decide +kernel

/-- A chain of launch 1 with one link on core 0, in a state. -/
def tLink (st : LinkState) : Link :=
  { die := 0, core := 0, array := 0, fused := false, slot := 0, hop := 0, parent := 0, cslot := 0, decl := 2, slo := 0, scnt := 2, state := st, recv := 0, mask := 0,
    m := List.replicate 64 (List.replicate 64 0), e := List.replicate 64 0, ovr := 0, noded := false, flight := none, landed := false, reads := [], holders := [], lasting := 0 }
def tChain (owner : BitVec 64) (l : List Link) : Chain := { num := 90, born := 0, owner := owner, satok := false, tf := 0, level := 0, e0 := 0, links := l }

theorem test_meets_ChainHeads : [Instr.chstat 0 3 1, .chfree 0 1, .lset 0 0 1 2 7].all (fun i =>
    [(([] : List Chain)), [tChain 2 [tLink .built]], [tChain 1 [tLink .built]], [tChain 1 [tLink .open]], [tChain 1 [{ tLink .built with core := 1 }]]].all (fun cs =>
      tHead { tWith .mxe (tQueued (tRegs .mxe []) .matrix .mxe i [90, 3] []) with chains := cs } 0 .matrix (fun g e v =>
        decide (e.instr = i) && decide ((e.xops.get 0).extractLsb' 0 12 = 90#12) && decide (fieldOf (e.xops.get 0) 17 12 = 0) &&
        (match findChain v.s 90, cs with
          | none, [] => true
          | some c, [c'] => c.owner == c'.owner && (c.owner != g.lr.id || (c.links[0]?).isSome)
          | _, _ => false)))) = true := by decide +kernel

theorem test_meets_CopyScatterAndCollectiveCommands :
    tMeets (tWith .ldr (let g := tRegs .ldr [(5, 0x2000)]; { g with h := ((g.h.set 2 (tShape 0x2000)).set 3 (tShape 0x3000)).set 4 tBadShape })) [.ldr, .str] 0 [0, 5] (fun g _ =>
      let spec (x : BitVec 512) : CopySpec := { chan := 0, dst := .shape (g.h.get 2), src := .shape x, od := 0, os := 0, bar := none, flag := none }
      decide ((g.queue .loader).length < 16) && (copyTrap (spec (g.h.get 3))).isNone && (copyTrap (spec (g.h.get 4))).isSome &&
      (g.chans.get 0).nextid != BitVec.allOnes 48) = true ∧
    tMeets (tWith .str { tGroup with chans := tGroup.chans.set 7 { (tGroup.chans.get 7) with nextid := BitVec.allOnes 48 } }) [.ldr, .str] 0 [0] (fun g _ =>
      (g.chans.get 7).nextid == BitVec.allOnes 48) = true ∧
    tMeets (tS .vec [(5, 0x2004), (6, 0x2001)]) [.vec, .ctl] 0 [5, 6] (fun g _ => decide ((g.queue .scatter).length < 16) &&
      decide (((g.stream .vec).getX 5).toNat % baseWidth 1 = 0 ∧ ((g.stream .vec).getX 6).toNat % baseWidth 1 ≠ 0)) = true ∧
    tMeets (tS .ctl []) [.ctl] 0 [0] (fun g _ => decide ((g.queue .collective).length < 16)) = true ∧
    tMeets (tS .mxe []) anyStream 0 [9] (fun _ _ => true) = true := by decide +kernel

/-! ## Heads of the matrix, copy and scatter queues -/

/-- What a TLD at the head finds: its box planned, its frames there and poison met or not. -/
def tTld (s : State) (clean : Bool) : Bool := tHead s 0 .matrix (fun g e v =>
  let h := Shape.of (e.shops.get 0)
  let chunks := h.chunks (originOf (e.xops.get 0) (e.xops.get 1))
  decide (e.instr = .tld 0 0 1 2 0 0) && !chunks.isEmpty && decide (h.tag.toNat < 13) && (match planBox v v.s h chunks 0 with
    | .ok _ pl as _ => (match touchAll v.s 0 (as.map (fun x => (x.1, false))) with
      | some s3 => (badLines (engineTouch s3 g.lr.asid h.ef false (pl.map (fun x => (x.2.1, x.1.va)))) 0 v.g (h.sized pl)).isEmpty == clean
      | none => false)
    | _ => false))

theorem test_meets_TileHeads :
    (let s := tWith .mxe (tQueued tGroup .matrix .mxe (.tld 0 0 1 2 0 0) [0, 0] [tShape 0x2000])
     tTld s true && tTld { s with poison := [0x2000 / 128] } false) = true ∧
    tHead (tWith .mxe (tQueued tGroup .matrix .mxe (.tld 0 0 1 2 0 0) [0, 0] [tShape 0x2000 ||| (15#512 <<< 508)])) 0 .matrix (fun _ e _ =>
      decide (13 ≤ (Shape.of (e.shops.get 0)).tag.toNat)) = true ∧
    [(12 : BitVec 4), 0].all (fun tag =>
      tHead (tWith .mxe (tQueued { tGroup with t := tGroup.t.set 1 { TReg.reset with tag := tag } } .matrix .mxe (.tst 0 0 1 2 0 0) [0, 0] [tShape 0x2000])) 0 .matrix (fun g e v =>
        let h := Shape.of (e.shops.get 0)
        decide (e.instr = .tst 0 0 1 2 0 0) && ((g.t.get 1).tag == h.tag) == (tag == 12) && (match planBox v v.s h (h.chunks (originOf (e.xops.get 0) (e.xops.get 1))) 1 with
          | .ok s2 _ as _ => (match placed v s2 as (fun z => .start z Work.none) with | .start _ w => decide (w = Work.none) | _ => false)
          | _ => false))) = true := by decide +kernel

/-- A link with all its words, in a state of its life, on a core. -/
def tWhole (st : LinkState) (ovr : BitVec 64) (core : Fin 32) : Link := { tLink st with core := core, m := List.replicate 64 (List.replicate 128 1), e := List.replicate 64 5, ovr := ovr }

/-- A chain command of MXE at the head, among chains. -/
def tChainHead (i : Instr) (xs : List (BitVec 64)) (cs : List Chain) : State := { tWith .mxe (tQueued (tRegs .mxe []) .matrix .mxe i xs []) with chains := cs }

theorem test_meets_LinkHeads : [Instr.lnorm 0 0 1 2 9, .chrd 0 0 7 1 0 0 0, .chrd 0 0 7 1 0 1 31, .chrd 0 0 7 1 0 2 0].all (fun i =>
    [tWhole .built 0 0, tWhole .open 1 0, tWhole .done 0 0, { tWhole .built 0 0 with e := List.replicate 64 0x7FFF }, tWhole .built 0 1].all (fun l =>
      tHead (tChainHead i [90, 3] [tChain 1 [l]]) 0 .matrix (fun g e v => decide (e.instr = i) && (match findChain v.s 90 with
        | some c => c.owner == g.lr.id && decide (c.links[0]? = some l) && l.m.length == 64 && l.m.all (fun r => r.length == l.ncol) && l.e.length == 64
        | none => false)))) = true := by decide +kernel

/-- CHSPLICE: a frozen child, a spare that is free, taken or no spare, and a link that is not frozen. -/
theorem test_meets_ChspliceHeads : [(LinkState.frozen, 14, true, false), (.frozen, 15, true, true), (.frozen, 3, false, false), (.done, 14, true, false)].all (fun x =>
    let taken : List Chain := if x.2.2.2 then [{ tChain 1 [{ tLink .built with slot := 15 }] with num := 91 }] else []
    tHead (tChainHead (.chsplice 0 1 2) [90 + 0x1000, BitVec.ofNat 64 (x.2.1 * 2 ^ 37)] (tChain 1 [tLink .open, tLink x.1] :: taken)) 0 .matrix (fun g e v =>
      let spare := readLink (e.xops.get 1) 0
      decide (e.instr = .chsplice 0 1 2) && fieldOf (e.xops.get 0) 17 12 == 1 && (match findChain v.s 90 with
        | some c => c.owner == g.lr.id && (match c.links[1]? with
          | some l => (l.state == x.1) && decide (1 ≠ l.parent) && (decide (14 ≤ spare.slot) == x.2.2.1) && spare.fused == l.fused && dieLive v.s 0 &&
              spare.entries.all (fun z => !entryRetired v.s z) && (spare.entries.any (fun z => !entryFree v.s z) == x.2.2.2)
          | none => false)
        | none => false))) = true := by decide +kernel

/-- A record of a chain of one link at 0x2040. -/
def tChainRecord (w0 : BitVec 64) (die : Nat) : State :=
  tMem (tChainHead (.chbld 0 1) [0x2040] []) 0x2040 [w0, 5, 0, 0, 0, 0, 0, 0, BitVec.ofNat 64 (die * 2 ^ 48 + 1), 0x100000, 0, 0, 0, 0, 0, 0]

theorem test_meets_ChbldHeads : [(0x148433953#64, 0, true, true), (0x148433953#64, 3, true, false), (0#64, 0, false, false)].all (fun x =>
    tHead (tChainRecord x.1 x.2.1) 0 .matrix (fun g e v => decide (e.instr = .chbld 0 1) && !directoryAway v.s 0 && (match readStruct v v.s 0x2040 1 with
      | .ok s2 hd => headOk hd == x.2.2.1 && (match readStruct v s2 (0x2040 + 64) ((fieldOf (hd.getD 1 0) 21 16 + 2) / 2) with
        | .ok s3 ls => !x.2.2.1 || (match buildChain s3 g.lr.id hd ls with | .ok _ => x.2.2.2 | .error _ => !x.2.2.2)
        | _ => false)
      | _ => false))) = true ∧
    (let s := tChainRecord 0x148433953 0
     tHead { s with dawn := { s.dawn with directory := some 0, rebuilding := true } } 0 .matrix (fun _ _ v => directoryAway v.s 0)) = true := by decide +kernel

theorem test_meets_ChcloseHeads : [([] : List Chain), [tChain 2 [tWhole .done 0 0]], [tChain 1 [tWhole .done 0 1]], [tChain 1 [tWhole .done 0 0, tWhole .frozen 0 0]],
    [tChain 1 [tWhole .open 0 0]], [tChain 1 [tWhole .done 1 0]], [tChain 1 [tWhole .done 0 0]], [{ tChain 1 [tWhole .done 1 0] with satok := true }]].all (fun cs =>
    [(0 : BitVec 4), 3].all (fun d =>
      tHead (tChainHead (.chclose 0 0 d 1 2 0 0 90 3 0 0 0) [0x3F800000] cs) 0 .matrix (fun _ e v => decide (e.instr = .chclose 0 0 d 1 2 0 0 90 3 0 0 0) &&
        unitsFree v.s 0 v.e && (findChain v.s 90).isSome == !cs.isEmpty))) = true ∧
    (0 + Nat.max 1 ((tWhole .done 0 0).ncol * tagWidth 3 / 1024) ≤ 4 ∧ 4 < 3 + Nat.max 1 ((tWhole .done 0 0).ncol * tagWidth 3 / 1024)) := by decide +kernel

/-- What a copy at the head finds: a plan, its frames and the grant of its pages, or a cause. -/
def tCopy (s : State) (wide : BitVec 1) (x d : BitVec 4) (dk sk : BitVec 1) (goes : Bool) : Bool := tHead s 0 .loader (fun _ e v =>
  decide (e.instr = (if wide = 1 then .cpyw 0 0 d x 0 0 dk sk 0 0 6 7 else .cpy 0 0 d x 0 0 dk sk 0 0)) && (match planCopy v v.s (queuedCopy e d x 0 0 dk sk wide) e.tid with
    | .ok s2 ws rs _ => goes && (match touchAll s2 0 rs with
      | some s3 => (match placed v s3 ws (fun z => .start z Work.none) with | .start _ w => decide (w = Work.none) | _ => false)
      | none => false)
    | .no (.trapIn _ _) => !goes
    | _ => false))

/-- A copy at the head of the queue of LDR. -/
def tCopyHead (i : Instr) (hs : List (BitVec 512)) (flag : BitVec 64) : State := tWith .ldr (tQueued tGroup .loader .ldr i [0, 0, 0, flag, 1] hs)

theorem test_meets_CopyHeads :
    tCopy (tCopyHead (.cpy 0 0 3 2 0 0 0 0 0 0) [tShape 0x3000, tShape 0x2000] 0) 0 2 3 0 0 true = true ∧
    tCopy (tCopyHead (.cpyw 0 0 3 2 0 0 0 0 0 0 6 7) [tShape 0x3000, tShape 0x2000] 0x4000) 1 2 3 0 0 true = true ∧
    tCopy (tCopyHead (.cpy 0 0 1 2 0 0 1 0 0 0) [tShape 0x2000] 0) 0 2 1 1 0 true = true ∧
    tCopy (tCopyHead (.cpy 0 0 3 2 0 0 0 0 0 0) [tShape 0x3000, tShape 0x200000000] 0) 0 2 3 0 0 false = true := by decide +kernel

/-- A scatter command at the head, addresses of 4 GiB and above being those of the attic of die 0: v1 of a tag with values, v2 of a tag with indexes, p1 true in lanes 0 and 1, a frame in the pool. -/
def tScat (i : Instr) (vt it : BitVec 4) (base : BitVec 64) : State :=
  let g := (tTags [(1, vt), (2, it)]).setPred 1 15#1024
  let s := tWith .vec (tQueued { g with v := g.v.set 2 { g.v.get 2 with data := 0x400000002#16384 } } .scatter .vec i [base] [])
  let s := tMem s 0x300008 [0xF0000000007F]
  s.setDie 0 { s.dies.get 0 with poolBase := 2, poolCount := 1 }

theorem test_meets_ScatterHeads_places : [(Instr.saq 0 0 1 2 5 1 0 1, (1 : BitVec 4)), (.saq 0 0 1 2 5 1 0 3, 3), (.sahist 0 0 2 5 1 3, 0)].all (fun x =>
    tHead (tScat x.1 x.2 1 0x100000000) 0 .scatter (fun _ e v => decide (e.instr = x.1) &&
      (match scatPlaced 0 v.g v.s [0x100000008, 0x1FFFFFFFFC00010] with | (_, some b) => b | (_, none) => false))) = true := by decide +kernel

theorem test_meets_ScatterHeads_resolves : tHead (tScat (.saq 0 0 1 2 5 1 0 1) 1 1 0x100000000) 0 .scatter (fun _ _ v =>
    let accs := [0x100000008, 0x100000010].map (fun va => ({ va := va, n := 4, align := 1 } : ElemAcc))
    match resolveAll v v.s accs 1 with
    | .ok s2 ls => (match placed v s2 (aims ls accs) (fun z => .start z Work.none) with | .start _ w => decide (w = Work.none) | _ => false)
    | _ => false) = true := by decide +kernel

theorem test_meets_ScatterHeads_tags : [(Instr.saq 0 0 1 2 5 1 0 1, (1 : BitVec 4), (2 : BitVec 4)), (.saq 0 0 1 2 5 1 0 13, 1, 1), (.saq 0 0 1 2 5 1 0 1, 3, 1), (.sahist 0 0 2 5 1 3, 0, 3)].all (fun x =>
    tHead (tScat x.1 x.2.1 x.2.2 0x2000) 0 .scatter (fun _ e _ => decide (e.instr = x.1))) = true := by decide +kernel

theorem test_meets_ScatterHeads_targets : tHead (tScat (.saq 0 0 1 2 5 1 0 1) 1 1 0x2000) 0 .scatter (fun _ _ v =>
    (match scatPlaced 0 v.g v.s [0x2008] with | (_, some b) => !b | (_, none) => false)) = true := by decide +kernel

/-! ## States in which nothing tells the keys apart, for witnesses that write whole objects -/

/-- No line has been written under another key, none is poisoned, no watchpoint is set and no retention register is taken. -/
structure Quiet (s : State) : Prop where
  epochs : s.epochs = []
  poison : s.poison = []
  epoch  : ∀ d, s.dawn.epoch.get d = 0
  watch  : ∀ d, (s.dies.get d).watch = []
  regs   : ∀ d i, ((s.dies.get d).regs.get i).v = false

theorem Quiet.otherKey {s : State} (q : Quiet s) (a : Nat) : otherKey s a = false := by
  simp [Machine.otherKey, epochOf, q.epochs, epochNow, q.epoch]

/-- In such a state the byte at every address is settled. -/
theorem Quiet.settled {s : State} (q : Quiet s) (a : Nat) : keySettled s a := by
  intro _ _ _
  simp [epochOf, q.epochs, epochNow, q.epoch]

theorem Quiet.homeByte {s : State} (q : Quiet s) {a : Nat} (ha : a < 0x3000000000) : homeByte s a = readByte s.mem a := by
  unfold Machine.homeByte
  rw [if_neg (by omega), q.otherKey]
  rfl

theorem Quiet.refreshLine {s : State} (q : Quiet s) (l : Nat) : refreshLine s l = s := by
  unfold Machine.refreshLine
  simp [q.otherKey]

/-- Memory below an address is as it was; what the L2s hold and which saved streams are open may differ, and nothing else of the state does. -/
def Above (F : Nat) (s t : State) : Prop := ∃ (m : List Host.Cell) (ds : Vector Die 4) (o : List (BitVec 64 × BitVec 16 × StreamId × BitVec 64)),
  t = { s with mem := m, dies := ds, openPcs := o } ∧ (∀ a, a < F → readByte m a = readByte s.mem a) ∧
    ∀ d, ds.get d = { s.dies.get d with l2 := (ds.get d).l2 }

theorem Above.refl (F : Nat) (s : State) : Above F s s := ⟨s.mem, s.dies, s.openPcs, rfl, fun _ _ => rfl, fun _ => rfl⟩

theorem Above.trans {F : Nat} {s t u : State} (h1 : Above F s t) (h2 : Above F t u) : Above F s u := by
  obtain ⟨m, ds, o, rfl, h, k⟩ := h1
  obtain ⟨n, es, o', rfl, h', k'⟩ := h2
  refine ⟨n, es, o', rfl, fun a ha => (h' a ha).trans (h a ha), fun d => ?_⟩
  have e : es.get d = { ds.get d with l2 := (es.get d).l2 } := k' d
  rw [k d] at e
  exact e

theorem Above.quiet {F : Nat} {s t : State} (h : Above F s t) (q : Quiet s) : Quiet t := by
  obtain ⟨m, ds, o, rfl, _, k⟩ := h
  refine ⟨q.epochs, q.poison, q.epoch, fun d => ?_, fun d i => ?_⟩
  · show (ds.get d).watch = []
    rw [k d]
    exact q.watch d
  · show ((ds.get d).regs.get i).v = false
    rw [k d]
    exact q.regs d i

theorem Above.dies {F : Nat} {s t : State} (h : Above F s t) (d : DieId) : t.dies.get d = { s.dies.get d with l2 := (t.dies.get d).l2 } := by
  obtain ⟨m, ds, o, rfl, _, k⟩ := h
  exact k d

theorem State.die_setDie (s : State) (d : DieId) (x : Die) : (s.setDie d x).dies.get d = x := by
  simp [State.setDie, Vector.get_eq_getElem]

theorem State.die_setDie_ne (s : State) {d e : DieId} (x : Die) (h : e ≠ d) : (s.setDie d x).dies.get e = s.dies.get e := by
  have h' : d.val ≠ e.val := fun k => h (Fin.ext k.symm)
  simp [State.setDie, Vector.get_eq_getElem, h']

/-- A die of the state whose L2 alone changes. -/
theorem above_setL2 {F : Nat} {s : State} (d : DieId) (l : List L2Line) : Above F s (s.setDie d { s.dies.get d with l2 := l }) := by
  refine ⟨s.mem, (s.setDie d { s.dies.get d with l2 := l }).dies, s.openPcs, rfl, fun _ _ => rfl, fun e => ?_⟩
  by_cases h : e = d
  · subst h; rw [State.die_setDie]
  · rw [State.die_setDie_ne _ _ h]

theorem above_dirtyLine {F : Nat} (s : State) (a : Nat) : Above F s (dirtyLine s a) := by
  unfold dirtyLine
  split
  · exact above_setL2 _ _
  · exact Above.refl F s

/-- A request that no retention register tags changes the list of held lines only. -/
theorem l2Request_l2 {d : Die} (h : ∀ i, (d.regs.get i).v = false) (line : Nat) (tag : ReqTag) (ef w : Bool) : ∃ x, l2Request d line tag ef w = { d with l2 := x } := by
  have ht : tagReg d tag = none := by
    unfold tagReg
    split
    · rfl
    · simp [h]
  unfold l2Request normalFill
  simp only [ht, Option.isNone_none, Bool.and_true]
  repeat' split
  all_goals exact ⟨_, rfl⟩

/-- Where no line is poisoned, none that an L2 gives up was. -/
theorem shedPoison_none {s : State} {d : DieId} {old : List L2Line} (h : s.poison = []) : shedPoison s d old = s := by
  have e : ({ s with poison := [] } : State) = s := by rw [← h]
  simp only [shedPoison, h, List.filter_nil, e, ite_self]

theorem above_l2Touch {F : Nat} {s : State} (q : Quiet s) (a : Nat) (tag : ReqTag) (ef w : Bool) : Above F s (l2Touch s a tag ef w) := by
  unfold l2Touch
  split
  · rename_i d _
    simp only [q.refreshLine]
    obtain ⟨x, e⟩ := l2Request_l2 (q.regs d) (a / 128) tag ef w
    rw [e]
    have h0 : epochs0 (s.setDie d { s.dies.get d with l2 := x }) d = true := by
      show (s.dawn.epoch.get d == 0 && s.epochs.isEmpty) = true
      simp [q.epoch, q.epochs]
    unfold setL2 writtenBack
    dsimp only
    rw [if_pos h0, shedPoison_none (by exact q.poison)]
    exact above_setL2 _ _
  · exact Above.refl F s

theorem test_meets_settled_addresses : Quiet (tWith .ctl tGroup) ∧ ∀ a, keySettled (tWith .ctl tGroup) a :=
  have q : Quiet (tWith .ctl tGroup) := ⟨rfl, rfl, by decide +kernel, by decide +kernel, by decide +kernel⟩
  ⟨q, q.settled⟩

/-- A fold of steps that each stay above an address. -/
theorem above_foldl {F : Nat} {α : Type} {f : State → α → State} (l : List α) {s : State} (q : Quiet s)
    (hf : ∀ t x, x ∈ l → Quiet t → Above F s t → Above F t (f t x)) : Above F s (l.foldl f s) := by
  exact List.foldlRecOn l f (Above.refl F s) (fun t ht x hx => ht.trans (hf t x hx (ht.quiet q) ht))

theorem above_l2Run {F : Nat} {s : State} (q : Quiet s) (a n : Nat) (tag : ReqTag) (ef w : Bool) : Above F s (l2Run s a n tag ef w) :=
  above_foldl _ q (fun _ _ _ qt _ => above_l2Touch qt _ _ ef w)

theorem homeWrite_quiet {s : State} (q : Quiet s) (a : Nat) (bs : List Byte) : homeWrite s a bs = { dirtyLine s a with mem := splice s.mem a bs } := by
  have hm : (dirtyLine s a).mem = s.mem := by unfold dirtyLine; split <;> rfl
  have h2 : putHome s a bs = { dirtyLine s a with mem := splice s.mem a bs } := by
    have hp : (dirtyLine s a).poison = [] := ((above_dirtyLine (F := 0) s a).quiet q).poison
    unfold putHome
    simp only [q.refreshLine, hm, hp, List.filter_nil, ite_self]
  have hw : ∀ d, ((dirtyLine s a).dies.get d).watch = [] := ((above_dirtyLine (F := 0) s a).quiet q).watch
  rw [homeWrite, h2, watchTest]
  simp [hw]

/-- A write of bytes that leaves the memory below an address as it reads. -/
theorem above_homeWrite_of {F : Nat} {s : State} (q : Quiet s) {a : Nat} (bs : List Byte)
    (h : ∀ b, b < F → readByte (splice s.mem a bs) b = readByte s.mem b) : Above F s (homeWrite s a bs) := by
  rw [homeWrite_quiet q]
  obtain ⟨m, ds, o, e, _, k⟩ := above_dirtyLine (F := F) s a
  rw [e]
  exact ⟨splice s.mem a bs, ds, o, rfl, h, k⟩

theorem above_homeWrite {F : Nat} {s : State} (q : Quiet s) {a : Nat} (ha : F ≤ a) (bs : List Byte) : Above F s (homeWrite s a bs) :=
  above_homeWrite_of q bs (fun b hb => readByte_splice_outside s.mem bs (by omega))

theorem above_homeWriteRun {F : Nat} (n : Nat) {s : State} (q : Quiet s) {a : Nat} (ha : F ≤ a) (bs : List Byte) : Above F s (homeWriteRun n s a bs) := by
  induction n generalizing s a bs with
  | zero => exact Above.refl F s
  | succ n ih =>
    rw [homeWriteRun]
    split
    · exact Above.refl F s
    · have h1 := above_homeWrite q ha (bs.take (128 - a % 128))
      exact h1.trans (ih (h1.quiet q) (by omega) _)

theorem objAddr_objPages {F off : Nat} (h : off < 53 * 4096) : objAddr (objPages F) off = F + off := by
  have hk : off / 4096 < 53 := by omega
  simp only [objAddr, objPages, List.getD_eq_getElem?_getD, List.getElem?_map, List.getElem?_range hk, Option.map_some, Option.getD_some]
  have : F + 4096 * (off / 4096) + off % 4096 = F + off := by omega
  exact this

/-- A state that differs from another above an address only, seen from below it. -/
theorem homeByte_above {F : Nat} {v u : State} (h : Above F v u) (q : Quiet v) (hF : F ≤ 0x3000000000) {a : Nat} (ha : a < F) : homeByte u a = homeByte v a := by
  rw [(h.quiet q).homeByte (by omega), q.homeByte (by omega)]
  obtain ⟨m, ds, o, rfl, k, _⟩ := h
  exact k a ha

theorem homeDword_above {F : Nat} {v u : State} (h : Above F v u) (q : Quiet v) (hF : F ≤ 0x3000000000) {a : Nat} (ha : a + 8 ≤ F) : homeDword u a = homeDword v a := by
  unfold homeDword homeNat homeBytes
  rw [List.map_congr_left (fun i hi => homeByte_above h q hF (by have := List.mem_range.1 hi; omega))]

theorem objBytes_above {F : Nat} {v u : State} (h : Above F v u) (q : Quiet v) (hF : F ≤ 0x3000000000) (B : Nat) (hB : B + 53 * 4096 ≤ F) :
    objBytes u (objPages B) = objBytes v (objPages B) := by
  funext off n
  unfold objBytes
  refine List.map_congr_left (fun i _ => homeByte_above h q hF ?_)
  by_cases hi : off + i < 53 * 4096
  · rw [objAddr_objPages hi]; omega
  · have : (objPages B)[(off + i) / 4096]? = none := by
      rw [List.getElem?_eq_none]
      simp only [objPages, List.length_map, List.length_range]
      omega
    simp only [objAddr, List.getD_eq_getElem?_getD, this, Option.getD_none]
    omega

/-! ## Traps, cuts, debugging, continuations -/

/-- The launch of the group in slot 0, live. -/
def tLive (ending : Option (BitVec 10)) : Launch :=
  { lrec := placedLaunch, recPa := 0x9000, recVa := 0x9000, cls := 0, spent := 0, budget := 0, bound := 1, issued := 1, resumed := 0, ended := 0, sealed := [], index := 0, ending := ending }
def tLaunched (s : State) : State := { s with dawn := { s.dawn with launches := [tLive none] } }

/-- A cut in progress. -/
def tCut : Cut :=
  { hdl := false, async := false, isq := false, queue := 0, more := 0, cause2 := 0, stream := .ctl, cause := Cause.opRange, info0 := 0, lvl := 0, kind := 0, fpc := 0x1000,
    cycle := 0, who := 0 }

/-- The group in slot 0 stopped. -/
def tStopped (st : Stopping) : State :=
  let s := tLaunched (tWith .ctl { tGroup with stopping := st })
  s.setSlot 0 { s.slot 0 with state := .fencing }

theorem test_meets_RaisingACause : ((tWith .ctl tGroup).group 0).isSome = true ∧ ((tWith .ctl tGroup).slot 0).state = .running ∧ tGroup.stopping = .no ∧
    ((tWith .ctl tGroup).slot 0).dbg.att = false ∧ (tGroup.stream .vec).atSlice = false ∧ ((tStopped (.trap tCut)).slot 0).state ≠ .halted ∧
    ((tStopped (.trap tCut)).slot 0).cutNow = false ∧
    (let c := { tCut with cause2 := Cause.opRange, rank2 := 9 }
     ((tStopped (.trap c)).setSlot 0 { (tStopped (.trap c)).slot 0 with cutNow := true }).slot 0 |>.cutNow) = true ∧
    tCut.cause2 = 0 ∧ tCut.rank < causeRank true 0 .ctl ∧ causeRank false 7 .ctl < { tCut with stream := .vec }.rank ∧ causeRank true 0 .ctl < 9 ∧ ¬ causeRank true 1 .ctl < 9 := by decide +kernel

/-- A handler group that serves a trapped group whose frame lies at 0x600000. -/
def tHandler (g : Group) : Group := { g with trapped := some { frame := 0x600000, core := 0, dw0 := 0, gindex := 0, cause := Cause.opRange } }

/-- The first dwords of an object. -/
def tHeader (magic : BitVec 32) (stw : BitVec 64) : List (BitVec 64) :=
  [0#16 ++ 1#16 ++ magic, BitVec.ofNat 64 objLen, stw, 0, 0x400000, 1, 0, 0] ++ sectionTable.map (fun e => BitVec.ofNat 32 e.2 ++ BitVec.ofNat 32 e.1)

/-- An image whose own bytes are copied onto their place in memory, the frames of its pages holding the same bytes, leaves it as it reads. -/
theorem writeImage_above {s : State} (q : Quiet s) {p : Place} {g : Group} (f : Nat) (hc : (coreOf p).val = 0) (hs : s.sram = s.mem) (hp : s.spadPoison = [])
    (hf : ∀ k : Fin 64, 32 ≤ k.val → k.val < 36 → ∃ x, frameOf s p g k = some x ∧ x.filling = false ∧ 65536 * x.idx.val = f + 65536 * (k.val - 32))
    (hr : f + 0x40000 < 0x3000000000) (h87 : readByte s.mem (f + 0x87) &&& 0x7F#8 = readByte s.mem (f + 0x87)) :
    Above 0x3000000000 s (writeImage s p g f) := by
  have hpage : ∀ j, j < objLen → (pageOf (0x200000 + j)).val = 32 + j / 65536 := by
    intro j hj
    simp only [objLen] at hj
    simp only [pageOf]; omega
  refine above_foldl _ q (fun t i hi qt ht => ?_)
  have hi' : i < objLen / 128 := List.mem_range.1 hi
  have h1 := above_l2Touch (F := 0x3000000000) qt (f + 128 * i) none false true
  have q1 := h1.quiet qt
  have a1 := ht.trans h1
  dsimp only
  generalize l2Touch t (f + 128 * i) none false true = u at h1 q1 a1 ⊢
  have hframe : ∀ j, j < objLen → ∃ x, frameOf u p g (pageOf (0x200000 + j)) = some x ∧ x.filling = false ∧ sramAddr (coreOf p) x.idx (0x200000 + j) = f + j := by
    intro j hj
    have hv := hpage j hj
    simp only [objLen] at hj
    obtain ⟨x, h1, h2, h3⟩ := hf (pageOf (0x200000 + j)) (by omega) (by omega)
    refine ⟨x, ?_, h2, ?_⟩
    · rw [← h1]; unfold frameOf
      rw [show u.cores = s.cores by obtain ⟨m, ds, o, rfl, _, _⟩ := a1; rfl]
    · rw [hv] at h3
      simp only [sramAddr, hc, Nat.reducePow]
      omega
  have hmem : ∀ a, a < 0x3000000000 → readByte u.sram a = readByte u.mem a := by
    intro a ha
    obtain ⟨m, ds, o, rfl, k, _⟩ := a1
    show readByte s.sram a = readByte m a
    rw [hs, k a ha]
  have hspad : ∀ j, j < objLen → spadByte u p g (0x200000 + j) = readByte u.mem (f + j) := by
    intro j hj
    obtain ⟨x, h1, h2, h3⟩ := hframe j hj
    rw [spadByte, h1]
    simp only [h2, Bool.false_eq_true, if_false, h3]
    exact hmem _ (by simp only [objLen] at hj; omega)
  have hpoison : spadPoisoned u p g (0x200000 + 128 * i) = false := by
    obtain ⟨x, h1, h2, _⟩ := hframe (128 * i) (by simp only [objLen] at hi' ⊢; omega)
    have h4 : u.spadPoison = [] := by obtain ⟨m, ds, o, rfl, _, _⟩ := a1; exact hp
    rw [spadPoisoned, h1]
    simp [h2, h4]
  rw [hpoison]
  simp only [Bool.false_eq_true, if_false]
  refine h1.trans (above_homeWrite_of q1 _ (fun b hb' => ?_))
  have h87' : readByte u.mem (f + 0x87) &&& 0x7F#8 = readByte u.mem (f + 0x87) := by
    have e : readByte u.mem (f + 0x87) = readByte s.mem (f + 0x87) := by
      obtain ⟨m, ds, o, rfl, k, _⟩ := a1
      exact k _ (by omega)
    rw [e]; exact h87
  by_cases hin : f + 128 * i ≤ b ∧ b < f + 128 * i + 128
  · obtain ⟨k, rfl⟩ : ∃ k, b = f + 128 * i + k := ⟨b - (f + 128 * i), by omega⟩
    simp only [objLen] at hi'
    rw [readByte_splice_inside u.mem _ _ k (by simp; omega)]
    have h3 := hspad (128 * i + k) (by simp only [objLen]; omega)
    simp only [List.getElem_map, List.getElem_range]
    rw [← Nat.add_assoc] at h3
    rw [h3, ← Nat.add_assoc f]
    split
    · next h =>
      have e : f + 128 * i + k = f + 0x87 := by omega
      rw [e]; exact h87'
    · rfl
  · refine readByte_splice_outside u.mem _ ?_
    simp only [List.length_map, List.length_range]
    omega

/-- A handler whose image pages 32 to 35 have frames 40 to 43; they and the trapped group's frame at 0x280000 hold the same bytes: a header, or nothing. -/
def tImage (good : Bool) : State :=
  let pages := [32, 33, 34, 35].foldl (fun (v : Vector PageEntry 64) (k : Fin 64) => v.set k.val { back := BitVec.ofNat 36 (8 + k.val), alloc := true }) tGroup.pages
  let x : Trapped := { frame := 0x280000, core := 0, dw0 := 0, gindex := 0, cause := Cause.opRange }
  let s := placeBytes (tWith .ctl { tGroup with pages := pages, trapped := some x }) 0x280000 (if good then dwordBytes (tHeader magicSave 0) else [])
  ({ s with sram := s.mem } : State).setCore 0 { s.cores.get 0 with frames := [32, 33, 34, 35].map (fun (k : Fin 64) =>
    { idx := k + 8, lid := tGroup.lr.id, gindex := tGroup.gindex, hdl := true, page := k, pinned := true, filling := false, back := some (BitVec.ofNat 36 (8 + k.val)) }) }

/-- The machine as the TRET meets it, and what its pages come to. -/
def tImageEnv (good : Bool) : Env := (tImage good).env (match (tImage good).group 0 with | some g => g | none => tGroup) 0
def tImageReady (e : Env) : FrameRes := readyPages e.s e.p e.g ((List.range 4).map (fun i => .spad (0x200000 + 65536 * i)))
def tImageState (good : Bool) : State := match tImageReady (tImageEnv good) with | .ready s0 => s0 | .wait s0 => s0

theorem imageOk_bytes {v u : State} {m : List Nat} (h : objBytes u m = objBytes v m) : imageOk u m = imageOk v m := by
  unfold imageOk sectionsOk headReserved sectionReserved savedTagsOk zeroRun objDword objNat
  simp only [h]

theorem tImage_reads (good : Bool) : imageOk (writeImage (tImageState good) 0 (tImageEnv good).g 0x280000) (objPages 0x280000) =
    imageOk (tImageState good) (objPages 0x280000) := by
  have q : Quiet (tImageState good) := by cases good <;> exact ⟨by decide +kernel, by decide +kernel, by decide +kernel, by decide +kernel, by decide +kernel⟩
  have hf : (List.finRange 64).all (fun k => k.val < 32 || 36 ≤ k.val || (match frameOf (tImageState good) 0 (tImageEnv good).g k with
      | some x => !x.filling && 65536 * x.idx.val == 0x280000 + 65536 * (k.val - 32) | none => false)) = true := by cases good <;> decide +kernel
  refine imageOk_bytes (objBytes_above (F := 0x3000000000) (writeImage_above q 0x280000 rfl ?_ ?_ ?_ (by decide) ?_) q (by decide) _ (by decide))
  · cases good <;> decide +kernel
  · cases good <;> decide +kernel
  · intro k h1 h2
    have h := List.all_eq_true.1 hf k (List.mem_finRange k)
    rw [show decide (k.val < 32) = false from decide_eq_false (by omega), show decide (36 ≤ k.val) = false from decide_eq_false (by omega)] at h
    cases hx : frameOf (tImageState good) 0 (tImageEnv good).g k with
    | none => rw [hx] at h; simp at h
    | some x => rw [hx] at h; exact ⟨x, rfl, by simpa using h⟩
  · cases good <;> decide +kernel

theorem test_tret_reads_whole_and_broken_images : imageOk (writeImage (tImageState true) 0 (tImageEnv true).g 0x280000) (objPages 0x280000) = true ∧
    imageOk (writeImage (tImageState false) 0 (tImageEnv false).g 0x280000) (objPages 0x280000) = false := by
  rw [tImage_reads, tImage_reads]
  have h : sectionReserved (tImageState true) (objPages 0x280000) = true := by
    unfold sectionReserved
    iterate 5 refine Bool.and_eq_true_iff.2 ⟨?_, by decide +kernel⟩
    decide +kernel
  exact ⟨by unfold imageOk; rw [h]; decide +kernel, by decide +kernel⟩

/-- A store to the scratchpad that waits in a queue. -/
def tSpadStore : StoreReq := { fpc := 0, ht := false, parts := [{ loc := .spad 0, va := 0, op := .write [], scale := none }], entry := none, id := 0, before := 0, mark := 0, age := 0 }

/-- Whether a TRET has something to wait for: stores to the scratchpad, releases, locked banks or another trap of the cycle. -/
def tTretWaits (e : Env) : Bool :=
  (match e.g.stopping with | .trap _ => true | _ => false) || StreamId.all.any (fun st => (e.g.stream st).stores.any (fun q => q.parts.any (fun y => match y.loc with | .spad _ => true | .mem _ => false))) ||
    !releaseDone e.s e.p e.t 4 || bankLocked e.s e.p none 0x200000 objLen

/-- The handler with its pages 32 to 35 in no frame, one of them backed by a frame of a die given. -/
def tImageAway (die : Nat) : State :=
  let s := tImage true
  let s := s.setCore 0 { s.cores.get 0 with frames := [] }
  match s.group 0 with
  | some g => s.setGroup 0 { g with pages := g.pages.set 34 { back := BitVec.ofNat 36 (die * 2 ^ 32 + 42), alloc := true } }
  | none => s

theorem test_meets_TrapInstructions :
    tMeets (tWith .ctl tGroup) anyStream 0 [] (fun g _ => g.trapped.isNone) = true ∧
    [true, false].all (fun good => tMeets (tImage good) anyStream 0 [] (fun g e => (g.trapped.map (·.frame)) == some 0x280000 && !tTretWaits e && (imageDead e.s e.p e.g).isNone &&
      (match tImageReady e with | .ready _ => true | .wait _ => false) && g.stopping == .no && ((tImage good).slot 0).state == .running)) = true ∧
    [(0, false), (3, true)].all (fun x => tMeets (tImageAway x.1) anyStream 0 [] (fun _ e => !tTretWaits e && (imageDead e.s e.p e.g).isSome == x.2 && !((tImageAway x.1).slot 0).cutNow &&
      (match tImageReady e with | .ready _ => false | .wait _ => true))) = true ∧
    [tHandler (tCtl (fun t => { t with stores := [tSpadStore] })), { tHandler tGroup with stopping := .trap tCut }].all (fun h =>
      tMeets (let s := tWith .ctl h; s.setSlot 0 { s.slot 0 with cutNow := decide (h.stopping ≠ .no) }) anyStream 0 [] (fun g e =>
        g.trapped.isSome && tTretWaits e)) = true := by
  decide +kernel

/-- The group in slot 0 stopped by a trap, with its bind record's SAVE and the streams' access queues as given. -/
def tTrapped (att : Bool) (save : BitVec 64) (stores : List StoreReq) : State :=
  let s := tLaunched (tWith .ctl { tCtl (fun t => { t with stores := stores }) with stopping := .trap tCut })
  s.setSlot 0 { s.slot 0 with state := .fencing, latched := { BindRec.reset with save := save }, dbg := { Debug.reset with att := att } }

/-- A handler group whose TRET has retired. -/
def tReturned (stores : List StoreReq) : State :=
  tLaunched (tWith .ctl (tHandler { tCtl (fun t => { t with stores := stores }) with stopping := .tret }))

/-- Conditions on the group in slot 0 and its slot. -/
def tAt (s : State) (P : Group → Slot → Bool) : Bool := match s.group 0 with | some g => P g (s.slot 0) | none => false

theorem test_meets_CompleteCuts :
    tAt (tTrapped true 0x600000 []) (fun g sl => g.stopping == .trap tCut && isEnding (tTrapped true 0x600000 []) g == false && sl.dbg.att && !sl.pending && !sl.preempting &&
      streamsQuiet (tTrapped true 0x600000 []) 0 g) = true ∧
    tAt (tTrapped false 0x600000 [tSpadStore]) (fun g sl => isEnding (tTrapped false 0x600000 []) g == false && !sl.dbg.att &&
      !groupQuiet (tTrapped false 0x600000 [tSpadStore]) 0 g) = true ∧
    [0x600000, 0].all (fun save =>
      let s := tTrapped false save []
      let t := { s with dawn := { s.dawn with msplit := 0x1F } }
      tAt t (fun g sl => !isEnding t g && !sl.dbg.att && groupQuiet t 0 g && g.scat.isEmpty && g.trapped.isNone && g.lr.handler == 0 && msplitBit t 4 &&
        (sl.latched.savePa == 0) == (save == 0))) = true ∧
    tAt (tReturned []) (fun g _ => g.stopping == .tret && g.trapped.isSome && !isEnding (tReturned []) g && groupQuiet (tReturned []) 0 g) = true ∧
    tAt (tReturned [tSpadStore]) (fun g _ => !isEnding (tReturned [tSpadStore]) g && !groupQuiet (tReturned [tSpadStore]) 0 g) = true ∧
    [true, false].all (fun quiet =>
      let s := tWith .ctl { tCtl (fun t => { t with stores := if quiet then [] else [tSpadStore] }) with halt := .asked Cause.dbgHalt }
      tAt s (fun g _ => g.stopping == .no && g.halt == .asked Cause.dbgHalt && streamsQuiet s 0 g == quiet)) = true := by decide +kernel

/-- The group in slot 0 with the count of its watchdogs, or halted with STEP written. -/
def tWatched (n : Nat) : State :=
  tWith .ctl ((tCtl (fun t => { t with wdcnt := n })).setQueue .vector [{ tPending with headCnt := n }])
def tHalted (step : BitVec 5) : State :=
  let s := tWith .ctl { tGroup with stopping := .trap tCut }
  s.setSlot 0 { s.slot 0 with state := .halted, dbg := { Debug.reset with att := true, halted := true, step := step } }

theorem test_meets_WatchdogAndDebugEvents :
    [2 ^ 32, 2 ^ 32 - 1].all (fun n => tAt (tWatched n) (fun g sl =>
      let t := g.stream .ctl
      sl.state == .running && !t.ended && !t.raised && g.halt == .none && decide (t.limit ≤ t.wdcnt) == decide (n = 2 ^ 32) && g.stopping == .no && StreamId.all.all (fun st => !(g.stream st).atSlice) &&
      (match queueHead (g.queue .vector) with | some e => !e.raised && decide ((g.stream e.stream).limit ≤ e.headCnt) == decide (n = 2 ^ 32) | none => false))) = true ∧
    tAt ((tWatched 0).setSlot 0 { (tWatched 0).slot 0 with state := .held }) (fun g sl => sl.state == .held && g.stopping == .no && g.halt == .none) = true ∧
    (((tWatched 0).setSlot 1 { (tWatched 0).slot 1 with state := .binding }).slot 1).state = .binding ∧ (tWatched 0).group 1 = none ∧
    tAt ((tHalted 0).setSlot 0 { (tHalted 0).slot 0 with latched := { BindRec.reset with dw0 := 0x400000000000000 } }) (fun _ sl => sl.state == .halted && sl.latched.hold) = true ∧
    [0, 1, 8].all (fun step => tAt (tHalted step) (fun g sl => sl.state == .halted && StreamId.all.all (fun st => !(g.stream st).atSlice) &&
      (step == 0 || StreamId.all.any (fun st => sl.dbg.step.getLsbD st.toFin.val && !(g.stream st).ended)) && g.halt == .none &&
      StreamId.all.all (fun st => (g.stream st).faults.isEmpty && !(g.stream st).npcOpen))) = true := by decide +kernel

/-! ## Continuations -/

/-- The page tables of address space 0, which map the first 4 GiB onto themselves. -/
def tTables : List Host.Cell := cellsOf 0x100000 (leBytes 8 0x200001) ++ cellsOf 0x200000 (leBytes 8 0x300001) ++ cellsOf 0x300000 (leBytes 8 0x7F)

/-- The package with a continuation object at 0x400000 whose STATE dword is given, translated by a cached entry, and operands in x5 and x6. -/
def tObject (stw a b : BitVec 64) (gang : Bool) : State :=
  let g := tRegs .ctl [(5, a), (6, b)]
  let s := tLaunched (tWith .ctl { g with lr := { g.lr with gang := gang } })
  ({ s with mem := tTables ++ cellsOf 0x400000 (dwordBytes (tHeader magicCont stw)) } : State).setCore 0 { s.cores.get 0 with
    tlb := [{ asid := 0, va := 0x400000, logSize := 21, leaf := 0x40007F, pte := 0 }] }

/-- Whether a translation for a write hits an entry that needs no update. -/
def tSettled (s : State) (c : CoreId) (asid : BitVec 16) (va : BitVec 64) (pa : Nat) (e : BitVec 64) (pte lg : Nat) : Bool :=
  let k : TlbEntry := { asid := asid, va := va.toNat / 2 ^ lg * 2 ^ lg, logSize := lg, leaf := e ||| 0x20#64 ||| 0x40#64, pte := pte }
  decide ((tlbFind s c asid va.toNat).isSome = true ∧ permits e 1 false = true ∧ e ||| 0x20#64 ||| 0x40#64 = e ∧ leafAddr e lg va = pa ∧
    (s.cores.get c).tlb.contains k = true)

/-- A page that the core finds so, home in live HBM and not across a link that trains again. -/
def tHit (s : State) (c : CoreId) (asid : BitVec 16) (va : BitVec 64) (pa : Nat) : Bool :=
  match findLeaf s c asid va with
  | .bad _ _ => false
  | .leaf e pte lg => decide (farHeld s (dieOfCore c) pa = false ∧ (region s pa).isHbm = true ∧ tSettled s c asid va pa e pte lg)

theorem tHit_ok {s : State} {c : CoreId} {asid : BitVec 16} {va : BitVec 64} {pa : Nat} (h : tHit s c asid va pa = true) :
    ∃ x pte lg, findLeaf s c asid va = .leaf x pte lg ∧ farHeld s (dieOfCore c) pa = false ∧ (region s pa).isHbm = true ∧ tSettled s c asid va pa x pte lg = true := by
  revert h
  rw [tHit]
  cases findLeaf s c asid va with
  | bad _ _ => exact fun h => absurd h Bool.false_ne_true
  | leaf x pte lg => exact fun h => ⟨x, pte, lg, rfl, of_decide_eq_true h⟩

theorem setCore_self (s : State) (c : CoreId) : s.setCore c { s.cores.get c with tlb := (s.cores.get c).tlb } = s := by
  show { s with cores := s.cores.set c.val (s.cores.get c) c.isLt } = s
  rw [show s.cores.set c.val (s.cores.get c) c.isLt = s.cores from Vector.set_getElem_self c.isLt]

theorem placeFrom_hit {e : Env} {va : BitVec 64} {s : State} {f : Nat → Nat} (hh : e.g.trapped.isSome = false) (hn : (e.g.stream e.st).answer = none) (l : List Nat) (acc : List Nat)
    (h : l.all (fun i => !inWindow (va + BitVec.ofNat 64 (4096 * i)) && tHit s (coreOf e.p) e.g.lr.asid (va + BitVec.ofNat 64 (4096 * i)) (f i)) = true) :
    placeFrom e va l s acc = .ok s (acc.reverse ++ l.map f) := by
  induction l generalizing acc with
  | nil => simp [placeFrom]
  | cons i l ih =>
    simp only [List.all_cons, Bool.and_eq_true, Bool.not_eq_true'] at h
    obtain ⟨⟨hw, hi⟩, hl⟩ := h
    have ht : translate s (coreOf e.p) e.g.lr.asid (va + BitVec.ofNat 64 (4096 * i)) 1 true false =
        .ok s (f i) (match findLeaf s (coreOf e.p) e.g.lr.asid (va + BitVec.ofNat 64 (4096 * i)) with | .leaf x _ _ => x.getLsbD 11 | .bad _ _ => false) ∧
        (region s (f i)).isHbm = true := by
      have ⟨x, pte, lg, hf, hw, hr, hk⟩ := tHit_ok hi
      have ⟨ht, hp, hx, ha, hc⟩ := of_decide_eq_true hk
      refine ⟨?_, hr⟩
      · simp only [translate, ht, if_true, hf, hp, hx, ha, hw, setAD, Bool.not_true, Bool.false_and, bne_self_eq_false, Bool.or_self, Bool.false_eq_true, if_false, ne_eq,
          not_true_eq_false, false_and, Bool.true_eq_false]
        rw [hx] at hc
        rw [if_pos hc, setCore_self]
    have hx : placeFrom e va (i :: l) s acc = placeFrom e va l s (f i :: acc) := by
      rw [placeFrom]
      simp only [hw, Bool.false_eq_true, if_false, translateAs, hn, Option.bind_none, hh, ht.1, ht.2, if_true]
    rw [hx, ih _ (by simpa using hl)]
    simp

/-- The machine as an instruction meets it. -/
def tEnv (s : State) : Env := s.env (match s.group 0 with | some g => g | none => tGroup) 0

theorem test_objects_are_found (gang : Bool) : placeObj (tEnv (tObject 0xF00000000 0x400000 0 gang)) 0x400000 =
    .ok (tEnv (tObject 0xF00000000 0x400000 0 gang)).s (objPages 0x400000) := by
  have : placeObj (tEnv (tObject 0xF00000000 0x400000 0 gang)) 0x400000 =
      placeFrom (tEnv (tObject 0xF00000000 0x400000 0 gang)) 0x400000 (List.range 53) (tEnv (tObject 0xF00000000 0x400000 0 gang)).s [] := by
    rw [placeObj, if_neg (by decide)]
  rw [this, placeFrom_hit (f := fun i => 0x400000 + 4096 * i) (by cases gang <;> decide +kernel) (by cases gang <;> decide +kernel) _ _ (by cases gang <;> decide +kernel)]
  rfl

theorem test_meets_ContinuationOperandChecks :
    [(0x400001, 16, 16), (0x400001, 2 ^ 33, 16), (0x400001, 0, 0)].all (fun (x : Nat × Nat × Nat) =>
      tMeets (tObject 0xF00000000 (BitVec.ofNat 64 x.1) (BitVec.ofNat 64 x.2.1) false) [.ctl] 0 [5, 6] (fun g _ =>
        decide (((g.stream .ctl).getX 6).toNat / 16 = 0) == decide (x.2.2 = 0) && decide (((g.stream .ctl).getX 5).toNat % 4096 ≠ 0))) = true := by decide +kernel

theorem test_header_in_order :
    headerCheck (tEnv (tObject 0xF00000000 0x400000 0 false)).s (objPages 0x400000) 0 (fun k => k.getLsbD 2) 0 = none := by
  have h : sectionReserved (tEnv (tObject 0xF00000000 0x400000 0 false)).s (objPages 0x400000) = true := by
    unfold sectionReserved
    iterate 5 refine Bool.and_eq_true_iff.2 ⟨?_, by decide +kernel⟩
    decide +kernel
  unfold headerCheck
  rw [h]
  decide +kernel

/-- The same once the slice has had the request, and for a copy of an object with a page that the empty pool has no frame for. -/
theorem headerCheck_bytes {u v : State} {m : List Nat} (h : objBytes u m = objBytes v m) (asid : BitVec 16) (f : BitVec 4 → Bool) (r : BitVec 32) :
    headerCheck u m asid f r = headerCheck v m asid f r := by
  unfold headerCheck sectionsOk headReserved sectionReserved savedTagsOk zeroRun objDword objNat
  simp only [h]

theorem test_header_in_order_touched :
    (let s := tObject 0xF00000000 0x400000 0 false
     let e := tEnv s
     headerCheck (headTouch e.s e 0x400000 (objPages 0x400000) true) (objPages 0x400000) 0 (fun k => k.getLsbD 2) 0) = none := by
  have q : Quiet (tEnv (tObject 0xF00000000 0x400000 0 false)).s := ⟨rfl, rfl, by decide +kernel, by decide +kernel, by decide +kernel⟩
  have a : Above 0x3000000000 (tEnv (tObject 0xF00000000 0x400000 0 false)).s
      (headTouch (tEnv (tObject 0xF00000000 0x400000 0 false)).s (tEnv (tObject 0xF00000000 0x400000 0 false)) 0x400000 (objPages 0x400000) true) :=
    above_l2Run q _ _ _ false true
  exact (headerCheck_bytes (objBytes_above a q (by decide) 0x400000 (by decide)) _ _ _).trans test_header_in_order

theorem test_copied_object :
    (let s := placeBytes (placeBytes (tObject 0xF00000000 0x400000 0 false) 0x400020 [1]) 0x42D500 [1]
     let e := tEnv s
     let h2 := headTouch e.s e 0x400000 (objPages 0x400000) true
     objDword h2 (objPages 0x400000) 0x20 != 0x400000 && ((readPages h2 (objPages 0x400000)).toList.filter (fun x => x.alloc)).length == 1 &&
       (takeFrames 1 h2 0).isNone) = true := by decide +kernel

/-- The object found there is in order, or lacks a right; the launch is a gang or not; the group holds a link or not. -/
theorem test_meets_ContinuationInstructions :
    tMeets (tObject 0xF00000000 0x400000 0 true) [.ctl] 0 [5, 6] (fun g _ => g.lr.gang) = true ∧
    (let e := tEnv (tObject 0xF00000000 0x400000 0 false)
     e.s.group 0 == some e.g && (e.s.slot 0).gen == 0 && !(e.s.slot 0).cutNow && !holdsLink e.s 1 0 && holdsLink { e.s with chains := [tChain 1 [{ tLink .open with holders := [(1, 0)] }]] } 1 0) = true ∧
    (let s := tObject 0xF00000000 0x400000 0 false
     let e := tEnv s
     let m := objPages 0x400000
     tMeets s [.ctl] 0 [5, 6] (fun g _ => !g.lr.gang) && releaseDone e.s e.p e.t 4 && !headPoisoned e.s m && objDword e.s m 0x20 == 0x400000 &&
       (headerCheck { e.s with mem := [] } m 0 (fun k => k.getLsbD 2) 0).isSome &&
       (objDword e.s m 0x10).extractLsb' 32 4 == 15#4) = true := by decide +kernel

theorem headerCheck_rights {s : State} {m : List Nat} {asid : BitVec 16} {f h : BitVec 4 → Bool} {v : BitVec 32}
    (e : f ((objDword s m 0x10).extractLsb' 32 4) = h ((objDword s m 0x10).extractLsb' 32 4)) : headerCheck s m asid f v = headerCheck s m asid h v := by
  unfold headerCheck
  simp only [e]

/-- A group that a SUSPEND stops. -/
def tSuspended (stores : List StoreReq) : State :=
  tLaunched (tWith .ctl { tCtl (fun t => { t with stores := stores, took := some 0 }) with stopping := .suspend 0x400000 15 (objPages 0x400000) 0 })

theorem test_meets_SuspendSeal : [true, false].all (fun quiet => tAt (tSuspended (if quiet then [] else [tSpadStore])) (fun g _ =>
    g.stopping == .suspend 0x400000 15 (objPages 0x400000) 0 && groupQuiet (tSuspended (if quiet then [] else [tSpadStore])) 0 g == quiet && drained g .loader &&
    drained g .storer && drained g .scatter && g.scat.isEmpty && canPlace g .ctl 0)) = true := by decide +kernel

/-! ## Writes of the queues, the buffers and the engines -/

/-- A store of four bytes at the end of a line. -/
def tStoreReq : StoreReq :=
  { fpc := 0, ht := false, parts := [{ loc := .mem 0x207C, va := 0x207C, op := .write [1, 2, 3, 4], scale := none }], entry := none, id := 0, before := 0, mark := 0, age := 0 }

/-- An entry of the cluster's buffer. -/
def tBufEntry (line id : Nat) : BufEntry := { id := id, line := line, asid := 0, va := 128 * line, bytes := [(0, 9), (127, 8)], mates := [] }

/-- The cluster of slot 0 with a buffer. -/
def tBuffer (s : State) (buf : List BufEntry) : State := s.setCluster (clusterOfPlace 0) { Cluster.reset with buf := buf, nextId := 64 }

/-- Dies 0 and 1 live, with the link between them whole or being retrained. -/
def tLinked (s : State) (held : Bool) : State := { s with dawn := { s.dawn with live := 3, rel := 3, retraining := if held then [(0, 1)] else [] } }

/-- The lines and pages of the writes below are writable memory. -/
def tMemory (s : State) (pa : Nat) : Bool := (region s pa).isHbm || (region s pa).isAttic

/-- A line written by an engine. -/
def tLineWrite : LineWrite := { loc := .mem (128 * 64), va := 128 * 64, bytes := [(0, 1), (127, 2)], scales := [], poison := false, ef := false }

/-- A scatter update of a word. -/
def tScatUpd : ScatUpd := { cmd := 0, afterLd := 0, stream := .vec, fpc := 0, loc := .mem 0x2004, fmt := 1, op := 0, v := 5 }

/-- A frame of page 3 whose fill is in progress. -/
def tFilling : State :=
  let s := tWith .ctl { tGroup with pages := tGroup.pages.set 3 { back := 0x50, alloc := true } }
  s.setCore 0 { s.cores.get 0 with frames := [{ idx := 7, lid := 1, gindex := 0, hdl := false, page := 3, pinned := false, filling := true, back := some 0x50 }] }

theorem test_meets_WritesReachTheirHomePoints :
    [[], [tBufEntry 64 0], (List.range 64).map (fun k => tBufEntry (64 + k) k)].all (fun buf =>
      let s := tBuffer (tWith .ctl (tCtl (fun t => { t with stores := [tStoreReq] }))) buf
      tAt s (fun g _ =>
        let b := (s.clusters.get (clusterOfPlace 0)).buf
        decide ((g.stream .ctl).stores = [tStoreReq]) && decide (tStoreReq.before ≤ (g.stream .ctl).loadsDone) && tMemory s 0x207C && decide (0x207C % 128 + 4 ≤ 128) && markClear s 0 { g.stream .ctl with stores := [] } 0 &&
        decide (b.map (·.id)).Nodup && (decide (b.length < 64) || b.any (fun e => e.line == 0x207C / 128)))) = true ∧
    [(64, false), (2 ^ 41 + 64, false), (2 ^ 41 + 64, true)].all (fun x =>
      let s := tBuffer (tLinked (tWith .ctl tGroup) x.2) [tBufEntry x.1 0]
      (s.clusters.get (clusterOfPlace 0)).buf[0]? == some (tBufEntry x.1 0) && tMemory s (128 * x.1) && decide ((tBufEntry x.1 0).bytes.map (·.1)).Nodup && farHeld s 0 (128 * x.1) == x.2) = true ∧
    [(64, false), (2 ^ 41 + 64, true)].all (fun x =>
      let lw := { tLineWrite with loc := .mem (128 * x.1) }
      let s := tLinked (tWith .vec (tStarted .vector (.vtag 0 3 1 1) { Work.none with lines := [lw] })) x.2
      tAt s (fun g _ => match g.queue .vector with
        | [e] => e.started && !e.done && decide (e.afterLd ≤ (g.stream e.stream).loadsDone) && decide (e.work = some { Work.none with lines := [lw] }) && tMemory s (128 * x.1) &&
            farHeld s (dieOfPlace 0) (128 * x.1) == x.2
        | _ => false)) = true ∧
    (let s := tWith .vec { tGroup with scat := [tScatUpd] }
     tAt s (fun g _ => g.scat == [tScatUpd] && decide (tScatUpd.afterLd ≤ (g.stream tScatUpd.stream).loadsDone) && tMemory s 0x2004 && !poisoned s 0x2004 &&
       decide (0x2004 % scatBytes tScatUpd.fmt = 0) && !farHeld s (dieOfPlace 0) 0x2004)) = true ∧
    tAt tFilling (fun g _ => match frameOf tFilling 0 g 3 with
      | some f => f.filling && (g.pages.get 3).alloc && f.back == some (g.pages.get 3).back
      | none => false) = true := by decide +kernel

/-! ## Steps of chains -/

/-- A step of a link that stands in slot 0 of array 0. -/
def tStep (rerun : Option (BitVec 10)) : StepWork :=
  { chain := 90, born := 0, idx := 0, home := ((tLink .built).coreId, 0, 0), aData := 0, aSide := 0, aTag := 4, bTag := 4, slot := 0, arrays := 1, bOld := [], rerun := rerun, due := [],
    refused := none, self := none }

/-- Zero words of an array's columns. -/
def tWords : List (List (BitVec 48)) := List.replicate 64 (List.replicate 128 0)

/-- A started step of the matrix queue, for a link that declares a number of contributions. -/
def tStepping (st : LinkState) (rerun : Option (BitVec 10)) (decl : BitVec 20) (i : Instr) (xs : List (BitVec 64)) (old : List (List Byte)) : State :=
  let g := tQueued tGroup .matrix .mxe i xs []
  let w : Work := { Work.none with step := some { tStep rerun with bOld := old } }
  let s := tWith .mxe (g.setQueue .matrix ((g.queue .matrix).map (fun e => { e with took := true, started := true, work := some w })))
  { s with chains := [tChain 1 [{ tLink st with decl := decl, m := tWords }]] }

theorem test_meets_MatrixStepEvents :
    [(LinkState.built, none, 3), (.open, none, 1), (.open, some 1#10, 3), (.built, some 1#10, 1)].all (fun (x : LinkState × Option (BitVec 10) × BitVec 20) =>
      let s := tStepping x.1 x.2.1 x.2.2 (.lset 0 0 1 2 7) [] []
      match stepAt s 0 0 with
      | none => false
      | some (g, e, w) => decide (e.work = some { Work.none with step := some w }) && decide ((g.queue .matrix).map (·.id)).Nodup && w.self.isNone && w.refused.isNone && w.due.isEmpty &&
          w.rerun == x.2.1 && (List.finRange 2).all (fun m => !w.arrays.getLsbD m.val || (slotBad s (coreOf 0) m w.slot w.bTag).isEmpty) && g.stopping == .no &&
          (s.slot 0).state == .running && badSites w.arrays 1 != [] && badSites w.arrays 0x100 != [] && (rereadA s 0 g e w).isSome &&
          (match findChain s w.chain with
            | some c => c.born == w.born && (match c.links[w.idx]? with | some l => decide (l.home = w.home) && l.state == x.1 && (l.recv + 1 == l.decl) == (x.2.2 == 1) && !c.isTree l | none => false)
            | none => false)) = true ∧
    (let s := tStepping .open none 3 (.mmas 0 0 1 2 0 0 0 4 4) [0, BitVec.ofNat 64 windowBase] []
     let s := (match s.group 0 with | some g => s.setGroup 0 { g with pages := g.pages.set 0 { back := 0x50, alloc := true } } | none => s)
     let s := s.setCore 0 { s.cores.get 0 with frames := (List.finRange 64).map (fun k => { idx := k, lid := 9, gindex := 0, hdl := false, page := k, pinned := true, filling := true, back := none }) }
     match stepAt s 0 0 with
     | some (g, e, w) => (rereadA s 0 g e w).isNone
     | none => false) = true := by decide +kernel

/-- What array 0 of core 0 holds in slot 0. -/
def tSlot : List Byte := slotBytes (tWith .mxe tGroup) (coreOf 0) 0 0
def tStepped : State := tStepping .open none 3 (.lset 0 0 1 2 7) [] [tSlot]

/-- The step has taken what its slot still holds, none of it poisoned, and its link has all its words. -/
theorem test_meets_MatrixStepSums :
    (∀ x, stepAt tStepped 0 0 = some x → x.2.2.bOld = ((List.finRange 2).filter (fun m => x.2.2.arrays.getLsbD m.val)).map (fun m => slotBytes tStepped (coreOf 0) m x.2.2.slot)) ∧
    (stepAt tStepped 0 0).isSome = true ∧ tStepped.poison = [] ∧ tStepped.chains.all (fun c => c.links.all (fun l => l.m.length == 64 && l.m.all (fun r => r.length == l.ncol))) = true := by
  have q0 : Quiet (tWith .mxe tGroup) := ⟨rfl, rfl, by decide +kernel, by decide +kernel, by decide +kernel⟩
  have q1 : Quiet tStepped := ⟨rfl, rfl, by decide +kernel, by decide +kernel, by decide +kernel⟩
  have hb : ∀ a, homeByte tStepped a = homeByte (tWith .mxe tGroup) a := by
    intro a
    unfold homeByte
    rw [q0.otherKey, q1.otherKey]
    rfl
  have hs : slotBytes tStepped (coreOf 0) 0 0 = tSlot := by
    simp only [slotBytes, tSlot, homeBytes, hb]
  refine ⟨fun x hx => ?_, by decide +kernel, rfl, by decide +kernel⟩
  have h : (stepAt tStepped 0 0).map (fun x => (x.2.2.bOld, x.2.2.arrays, x.2.2.slot)) = some ([tSlot], 1, 0) := rfl
  rw [hx] at h
  simp only [Option.map_some, Option.some.injEq, Prod.mk.injEq] at h
  rw [h.1, h.2.1, h.2.2, show (List.finRange 2).filter (fun m => (1 : BitVec 2).getLsbD m.val) = [0] from by decide]
  simp only [List.map_cons, List.map_nil, hs]

/-- Strips under test: one of an array that spares none, or two, or one of an array that has spared one. -/
theorem test_meets_SelfTests : [([2#2], false), ([], false), ([1, 2], false), ([1], true)].all (fun x =>
    let h : Health := { Health.reset with test := true, under := x.1, spu := x.2 }
    let s := (tWith .ctl tGroup).setCore 0 { Core.reset with arrays := Vector.replicate 2 h }
    (healthOf s 0 0).test && (healthOf s 0 0).under == x.1 && (healthOf s 0 0).spu == x.2) = true := by decide +kernel

/-- Numbers whose sum and whose rounding fit in a word, and do not. -/
theorem test_meets_WordArithmetic :
    (0x7FFFFFFFFFFF#48 ≠ w48Nan ∧ (0x7FFFFFFFFFFF#48).toInt + (1#48).toInt > 2 ^ 47 - 1 ∧ (1#48).toInt + (2#48).toInt ≤ 2 ^ 47 - 1 ∧
      (0x800000000001#48).toInt + (0x800000000001#48).toInt < -(2 ^ 47 - 1)) ∧
    [Val.ofInt 3, Val.ofInt (-2)].all (·.isFin) = true ∧ Val.nan.isFin = false ∧
    (List.zipWith Val.mul [Val.ofInt 3, Val.ofInt (-2)] [Val.ofInt 1, Val.ofInt 5]).all (fun x => match x with | .fin _ m e => m != 0 && decide (log2Of m e ≤ 3) && decide (0 ≤ x.dyad.e) | _ => false) = true ∧
    (List.zipWith Val.mul [Val.ofInt 3, Val.ofInt (-2)] [Val.ofInt 1, Val.ofInt 5]).any (fun x => match x with | .fin _ m e => decide (log2Of m e = 3) | _ => false) = true := by decide +kernel

/-- A chain of a link with one child on another die, whose notice or forward is in flight. -/
def tFamily (tree : Bool) (parent : LinkState) (flight : Option Flight) (mask : BitVec 8) (decl : BitVec 20) : State :=
  let kid := { tLink .done with m := tWords, die := 1, core := 1, hop := 1, parent := 0, cslot := 1, flight := flight, noded := true }
  { tWith .ctl tGroup with chains := [{ tChain 1 [{ tLink parent with mask := mask, decl := decl, m := tWords }, kid] with tf := if tree then 1 else 0 }] }

theorem test_meets_LinkEvents :
    [true, false].all (fun tree => [LinkState.built, .open, .done, .frozen].all (fun st => [none, some ({ src := 0, dst := 0 } : Flight), some { src := 1, dst := 0 }].all (fun f =>
      [(0 : BitVec 8), 2].all (fun mask => [(1 : BitVec 20), 3].all (fun decl => [false, true].all (fun held =>
        let s := tLinked (tFamily tree st f mask decl) held
        match findChain s 90 with
        | none => false
        | some c => match c.links[1]?, c.links[0]? with
          | some l, some pr => l.parent == 0 && c.isTree l == tree && pr.state == st && l.flight == f && (pr.recv + 1 == pr.decl) == (decl == 1) && pr.mask.getLsbD l.cslot.toNat == (mask == 2) &&
              linkHeld s l.die pr.die == held && l.m.length == 64 && l.m.all (fun r => r.length == pr.ncol) && pr.m.length == 64 && pr.m.all (fun r => r.length == pr.ncol) && !pr.fused &&
              incOf s pr.die l.die == 0 && incOf s pr.die pr.die == 0 && l.noded && l.state == .done && !pr.noded && !pr.reads.any (fun x => x.1 == 1) && (s.dies.get pr.die).stale != BitVec.allOnes 32
          | _, _ => false)))))) = true ∧
    [({ src := 0, dst := 0 } : Flight), { src := 1, dst := 0 }].all (fun f =>
      let s := tFamily true .done none 0 3
      let s := { s with chains := s.chains.map (fun c => { c with links := c.links.map (fun l => { l with asks := [(1, some f)] }) }) }
      match findChain s 90 with
      | none => false
      | some c => match c.links[0]? with
        | some pr => pr.asks.find? (fun a => a.1 == 1) == some (1, some f) && pr.state == .done && !pr.noded && !pr.reads.any (fun x => x.1 == 1)
        | none => false) = true := by decide +kernel

/-! ## Collectives -/

/-- A graph of one path over port 3, with the operations given. -/
def tGraph (weight : Nat) (ops : List GOp) : Graph :=
  { count := 4, sig := 7, etype := 1, op := 0, fixw := true, logc := 12, nb := 2, ops := ops,
    paths := [{ weight := weight, ring := false, cred := 4, pieces := 1, ports := 8, n := 1, start := 0 }] }

/-- An operation on port 3. -/
def tOp (kind : BitVec 3) : GOp :=
  { kind := kind, port := 3, path := 0, piece := 0, base := 0, base2 := 0, tag := 0, dep := 0, succ0 := 0xFFFF, succ1 := 0xFFFF, ev := 0 }

/-- A context 2 of die 0 that its launch loads or has loaded for a level of a domain. -/
def tContext (domain : Nat) (phase : CtxPhase) (g : Graph) (rs : List Replay) : Ctx :=
  { owner := 1, level := 0, domain := domain, loader := 0, weights := [[4]], begun := 0, adapt := true, graph := g, phase := phase, lost := false, replays := rs }
def tCtx (g : Graph) (rs : List Replay) : State := setCtx (tWith .ctl tGroup) 0 2 (some (tContext 6 .loaded g rs))

/-- The package while context 2 of die 0 is being loaded; the launch has a context on die 1 or not, which is no member's. -/
def tLoading (fixw far : Bool) (weight : Nat) : State :=
  let s := tLinked (tWith .ctl tGroup) false
  let s := s.setDie 0 { s.dies.get 0 with loads := [(2, tContext 6 (.loading 0 5) { tGraph weight [] with fixw := fixw } [])] }
  if far then setCtx s 1 3 (some (tContext 6 .loaded (tGraph 4 []) [])) else s

/-- A replay at place 0 of a graph of one operation, its base 0 at an address. -/
def tReplay (split : Bool) (x : OpRun) (base : Nat) : Replay :=
  { place := 0, entry := 0, asid := 0, table := .mem 0, tva := 0, began := true, asked := true, aborted := false, bases := [BitVec.ofNat 64 base, 0x20000],
    pages := [some [base], some [0x20000]], split := split, ops := [x], failed := none, zeroed := true }
def tOpRun : OpRun := { cnt := 0, started := true, finished := false, sent := 1, acked := 0, got := [], folds := 0 }

/-- The load of a context whose weights are fixed or not, with a stranger's context on die 1 or not, meets the statement's cases. -/
def tLoads (fixw far : Bool) (weight : Nat) : Bool :=
  let s := tLoading fixw far weight
  (match loadingCtx s 0 with
    | some (i, c, id) => i == 2 && id == 5 && c.graph.fixw == fixw && (pathWeights s 0 i c false [7]).isNone == far &&
        (match pathWeights s 0 i c true [7] with | some ws => (splitPaths c.graph ws).isNone == decide (weight = 0) | none => false)
    | none => false) && !s.dawn.colReqs.any (fun y => y.2 == 0) && (s.dies.get 0).loads.all (fun y => decide (y.2.phase = .loading 0 5)) &&
  (let t := { s with dawn := { s.dawn with colReqs := [(9, 0)] } }
   (loadingCtx t 0).isSome && t.dawn.colReqs.any (fun y => y.2 == 0) && t.dawn.colReqs.find? (fun y => y.1 == 9) == some (9, 0))

theorem test_meets_CollectiveLoads :
    tLoads true false 0 = true ∧ tLoads true false 4 = true ∧ tLoads false false 4 = true ∧ tLoads false true 4 = true ∧
    [0, 4].all (fun weight =>
      let s := tCtx (tGraph weight []) [tReplay false tOpRun 0x10000]
      (loadingCtx s 0).isNone && (match ctxAt s 0 2 with
        | some c => c.replays == [tReplay false tOpRun 0x10000] && ((pathWeights s 0 2 c false []).bind (splitPaths c.graph)).isSome == decide (weight = 4) &&
            (pathWeights s 0 2 c false []).isSome && otherSig s 0 2 c [8] && !otherSig s 0 2 c [7]
        | none => false) &&
      (List.finRange 4).all (fun d => (List.finRange 64).all (fun i => (ctxAt s d i).isNone || (d == 0 && i == 2)))) = true :=
  ⟨by decide +kernel, by decide +kernel, by decide +kernel, by decide +kernel, by decide +kernel⟩

/-- A copy that owes bytes to a barrier of a die. -/
def tOwing (pa : Nat) (held poison cycle : Bool) : State :=
  let c : CopyRun := { chan := 0, tid := 1, lines := [], tile := none, barrier := some pa, barVa := 0x3000, owed := 100, flagw := none, status := 0, fin := false }
  let s := tLinked (tMem (tWith .str (tStarted .loader (.vtag 0 3 1 1) { Work.none with copies := [c] })) pa [1, 100, 0]) held
  { s with poison := if poison then [pa / 128] else [], inCycle := cycle }

theorem test_meets_BarrierPortionsAndPortWindows :
    [(0x3000, false, false, false), (0x3000, false, false, true), (0x3000, false, true, false), (2 ^ 48 + 0x3000, true, false, false)].all (fun x =>
      let s := tOwing x.1 x.2.1 x.2.2.1 x.2.2.2
      tAt s (fun g sl => sl.state == .running && g.stopping == .no && (match (g.queue .loader)[0]? with
        | some e => (match e.work with | some w => (match w.copies with | [c] => c.barrier == some x.1 && c.owed != 0 | _ => false) | none => false)
        | none => false) && farHeld s (dieOfPlace 0) x.1 == x.2.1 && poisoned s x.1 == x.2.2.1 && s.inCycle == x.2.2.2 &&
        (readBarrier (l2Touch { s with fresh := s.fresh + 1 } x.1 none false true) x.1).isSome)) = true ∧
    [0, 2 ^ 20].all (fun n =>
      let s := tWith .ctl tGroup
      let s := s.setDie 0 { s.dies.get 0 with cycle := BitVec.ofNat 64 n }
      decide ((s.dies.get (portDie 0)).cycle.toNat / 2 ^ 20 = (s.ports.get 0).window) == decide (n = 0)) = true := by decide +kernel

/-- A replay in progress of one operation on a message of four words at an address. -/
def tReplaying (kind : BitVec 3) (base : Nat) : State := tCtx { tGraph 4 [tOp kind] with logc := 0 } [tReplay true tOpRun base]
/-- The same of a send, one chunk of which has left: its slot is one of the graph's or of another. -/
def tLeft (live : Bool) : State :=
  let s := tReplaying 1 0x10000
  s.setDie 0 { s.dies.get 0 with outs := [{ ctx := 2, op := 0, port := 3, path := 0, place := 0, entry := 0, live := live }] }
/-- A part of a chunk in a cellar queue. -/
def tPart : Part := { addrs := (List.range 16).map (0x10000 + ·), bytes := List.replicate 16 1, die := 0, ctx := 2, op := 0 }

theorem test_meets_ArrivingChunks :
    [(2 : BitVec 3), 3].all (fun kind => [(7 : BitVec 32), 8].all (fun sig => [(0x10000, 0), (2 ^ 48 + 0x10000, 1), (2 ^ 49 + 0x10000, 2)].all (fun b =>
      let s := tLinked (tReplaying kind b.1) (b.2 == 1)
      match ctxAt s 0 2 with
      | none => false
      | some c => match c.replays, c.graph.ops with
        | [r], [o] => match r.ops with
          | [x] => o.kind == kind && x.started && !x.finished && r.failed.isNone && !x.got.contains 0 && (c.graph.pieceOf o).contains 0 && c.graph.chunkLen 0 == 16 &&
              (firstOnPath c.graph r o.path && sig != c.graph.sig) == decide (sig = 8) &&
              runHeld s 0 (r.addrs o.base (0 * c.graph.chunk) 16) == (b.2 == 1) && runGone s (r.addrs o.base (0 * c.graph.chunk) 16) == (b.2 == 2) &&
              (b.2 != 0 || (queueParts s (chunkParts c.graph r 0 2 0 o.base 0 (List.replicate 16 1))).isSome)
          | _ => false
        | _, _ => false))) = true ∧
    (let s := tReplaying 3 0x10000
     let s := s.setDie 0 { s.dies.get 0 with cellar := Vector.replicate 3 (List.replicate 64 tPart) }
     match ctxAt s 0 2 with
     | some c => (match c.replays, c.graph.ops with
       | [r], [o] => (queueParts s (chunkParts c.graph r 0 2 0 o.base 0 (List.replicate 16 1))).isNone
       | _, _ => false)
     | none => false) = true := by decide +kernel

theorem test_meets_CollectiveReplayEvents :
    (ctxAt (tWith .ctl tGroup) 0 2).isNone = true ∧
    (let s := tReplaying 3 0x10000
     let t := s.setDie 0 { s.dies.get 0 with cellar := (s.dies.get 0).cellar.set 0 [tPart] }
     let s1 := t.setDie 0 { t.dies.get 0 with cellar := (t.dies.get 0).cellar.set 0 [] }
     let s2 := ((tPart.addrs.map (· / 128)).dedup).foldl (fun t l => l2Clean t (128 * l) true) s1
     dieLive t 0 && (t.dies.get 0).cellar.get 0 == [tPart] && (ctxAt t 0 2).isSome && tPart.addrs.all (fun a => !poisoned s2 a)) = true ∧
    [true, false].all (fun live => match ctxAt (tLeft live) 0 2, (tLeft live).dies.get 0 with
      | some c, d => match c.replays, d.outs with
        | [r], [x] => r.ops == [tOpRun] && d.outs.find? (fun y => y.ctx == 2 && y.op == 0) == some x &&
            decide (x.place = r.place ∧ x.entry = r.entry ∧ x.live = true ∧ r.failed = none) == live
        | _, _ => false
      | none, _ => false) = true ∧
    (let s := setCtx (tLeft true) 0 2 none
     (ctxAt s 0 2).isNone && ((s.dies.get 0).outs.find? (fun y => y.ctx == 2 && y.op == 0)).isSome) = true := by decide +kernel

/-- Distinct bytes of a base lie at distinct addresses. -/
theorem test_meets_ReplayAddresses (j k a : Nat) (hj : (tReplay true tOpRun 0x10000).addr 0 (0 + j) = some a) (hk : (tReplay true tOpRun 0x10000).addr 0 (0 + k) = some a) : j = k := by
  have key : ∀ n a, (tReplay true tOpRun 0x10000).addr 0 (0 + n) = some a → n < 65536 ∧ a = 0x10000 + n := by
    intro n a h
    simp only [Replay.addr, tReplay, List.getD_cons_zero, Option.map_eq_some_iff] at h
    obtain ⟨pa, h1, h2⟩ := h
    have h3 := (List.getElem?_eq_some_iff.1 h1)
    obtain ⟨h4, h5⟩ := h3
    simp only [List.length_singleton, List.getElem_singleton] at h4 h5
    have : (BitVec.ofNat 64 65536).toNat = 65536 := rfl
    rw [this] at h2 h4
    subst h5
    omega
  have h1 := key _ _ hj
  have h2 := key _ _ hk
  omega

/-! ## Launches, binds and slots -/

/-- The twenty-four dwords of a launch record with an identifier, then the reserved ones. -/
def tRecord (id : BitVec 64) : List (BitVec 64) :=
  [0x1_53394C52, id, 0, 1, 0x1000, 0, 0, 0, 0, 0, 0, 0, 0, 0, 0, 0, 1, 0, 0, 0, 0, 0, 0, 0] ++ List.replicate 8 0

/-- The package at STAGE 3 with one record of its launch queue to consume. -/
def tLaunchQueue (ds : List (BitVec 64)) (poison : List Nat) (ls : List Launch) : State :=
  let s := tMem (tMem (tWith .ctl tGroup) 0x700000 [0x1_4555514C, 0x710000, 1, 1, 0, 0x720000, 0, 0]) 0x710000 ds
  { s with poison := poison, dawn := { s.dawn with lqaddr := 0x700000, launches := ls } }

/-- A launch of the package whose first group waits. -/
def tWaiting : State :=
  let s := tWith .ctl tGroup
  { s with dawn := { s.dawn with launches := [{ tLive none with bound := 0, issued := 0 }], waiting := [.fresh 1 0] } }

theorem test_meets_LaunchConsume : mayConsume (tWith .ctl tGroup) = false ∧
    [(tRecord 5, ([] : List Nat), ([] : List Launch)), (tRecord 5, [0x710000 / 128], []), (tRecord 0, [], []), (tRecord 1, [], [tLive none])].all (fun (x : List (BitVec 64) × List Nat × List Launch) =>
      let s := tLaunchQueue x.1 x.2.1 x.2.2
      let pa := fieldOf (lqDword s 8) 51 0 + 256 * ((lqDword s 0x20).toNat % lqSize s)
      let read := l2Touch (l2Run s pa 256 none false false) (s.dawn.lqaddr.toNat + 0x20) none false true
      let u : State := { homeWrite8 read (s.dawn.lqaddr.toNat + 0x20) (lqDword s 0x20 + 1) with fresh := s.fresh + 1 }
      mayConsume s && pa == 0x710000 && (poisoned s pa == !x.2.1.isEmpty) && !poisoned s (pa + 128) && (launchOk u (launchWords s pa) == decide (x.1 ≠ tRecord 0)) &&
        (findLaunch u (parseLaunch (launchWords s pa)).id).isSome == !x.2.2.isEmpty) = true := by decide +kernel

theorem test_meets_SchedulePick :
    (let t : Task := { dws := Vector.replicate 4 0, asid := 0, lid := 1, no := 0 }
     let s := tWith .ctl tGroup
     let s := { s with dawn := { s.dawn with msplit := 1, tasks := s.dawn.tasks.set 2 [t] } }
     s.dawn.stage == 3 && msplitBit s 0 && s.dawn.tasks.get 2 == [t] && (List.finRange 2).all (fun c => s.dawn.tasks.get ⟨c.val, by omega⟩ == [])) = true ∧
    (nextPlan (tWith .ctl tGroup)).isNone = true ∧
    (match nextPlan tWaiting with
      | some (.bind [.fresh lid gi] [(p, false)] false) => lid == 1 && gi == 0 && saveOk tWaiting p (.fresh lid gi) 0 && (tWaiting.slot p).state == .free
      | _ => false) = true := by decide +kernel

/-- A bind record of a kind. -/
def tBindRec (kind : Nat) (obj save : BitVec 64) : BindRec := { dw0 := BitVec.ofNat 64 (2 ^ 63 + kind * 2 ^ 60), lid := 1, obj := obj, save := save }

theorem test_meets_BindRecordWrites :
    [(1 : CoreId), 127].all (fun core => dieLive (tWith .ctl tGroup) (dieOfCore core) == decide (core.val < 32)) = true ∧
    [(0 : BitVec 64), 0x8000000000000000, 0x9000000000000000, 0xA000000000000000, 0xB000000000000000].all (fun v =>
      let s := tWith .ctl tGroup
      let r : BindRec := { (s.slot 1).brec with dw0 := v &&& ~~~(0x300000000F0000#64) }
      dieLive s (dieOfPlace 1) && (s.slot 1).state == .free && r.valid == decide (v ≠ 0) &&
        (r.kind == 1#3 || r.kind == 2#3 || r.kind == 3#3) == decide (0x8000000000000000 < v.toNat)) = true ∧
    (let s := tWith .ctl tGroup
     msplitBit s 0 == false && msplitBit { s with dawn := { s.dawn with msplit := 1 } } 0 && (tBindRec 1 0x9000 0).valid && (tBindRec 1 0x9000 0).kind == 1#3) = true := by decide +kernel

/-- Slot 1 of core 0 with a bind to make from a record, while the launch is live or not. -/
def tBinding (r : BindRec) (live : Bool) (words : List (BitVec 64)) : State :=
  let s := tMem (tWith .ctl tGroup) 0x400000 words
  let s := if live then tLaunched s else s
  s.setSlot 1 { Slot.reset with brec := r, latched := r, state := .binding }

/-- A whole saved object's first dwords with a launch's identifier. -/
def tSaved (magic : BitVec 32) : List (BitVec 64) := tHeader magic 0

theorem test_meets_Bind : [(1, true), (1, false), (2, true), (3, true), (3, false)].all (fun (x : Nat × Bool) =>
    let s := tBinding (tBindRec x.1 (if x.1 = 1 then 0x9000 else 0x400000) 0x600000) x.2 (tSaved (if x.1 = 3 then magicSave else magicCont))
    let sl := s.slot 1
    let r := sl.latched
    sl.state == .binding && dieLive s (dieOfPlace 1) && !sl.pending && !sl.dusk && (bindableLaunch s r.lid).isSome == x.2 && r.kind == BitVec.ofNat 3 x.1 &&
      (x.1 != 1 || (match bindableLaunch s r.lid with | some l => r.objPa == l.recPa | none => !x.2)) && (waitingResume s r).isNone && !objPoisoned s (objPages r.objPa) &&
      (x.1 != 3 || ((objDword s (objPages r.objPa) 0).extractLsb' 0 32 == magicSave && (objDword s (objPages r.objPa) 0x10).extractLsb' 62 2 == 0#2))) = true := by decide +kernel

/-- The tags of a frame read as before once its lines have been requested. -/
theorem test_meets_BindOfAFrame :
    (let s := tBinding (tBindRec 3 0x400000 0x600000) true (tSaved magicSave)
     savedTagsOk (objTouch s (objPages 0x400000) none false) (objPages 0x400000)) = true ∧
    ∀ a, keySettled (tBinding (tBindRec 3 0x400000 0x600000) true (tSaved magicSave)) a := by
  have q : Quiet (tBinding (tBindRec 3 0x400000 0x600000) true (tSaved magicSave)) := ⟨rfl, rfl, by decide +kernel, by decide +kernel, by decide +kernel⟩
  have a : Above 0x3000000000 (tBinding (tBindRec 3 0x400000 0x600000) true (tSaved magicSave))
      (objTouch (tBinding (tBindRec 3 0x400000 0x600000) true (tSaved magicSave)) (objPages 0x400000) none false) :=
    above_foldl _ q (fun _ _ _ qt _ => above_l2Run qt _ _ _ _ _)
  refine ⟨?_, q.settled⟩
  have h := objBytes_above a q (by decide) 0x400000 (by decide)
  dsimp only
  unfold savedTagsOk objNat
  simp only [h]
  have : savedTagsOk (tBinding (tBindRec 3 0x400000 0x600000) true (tSaved magicSave)) (objPages 0x400000) = true := by decide +kernel
  unfold savedTagsOk objNat at this
  exact this

/-- A slot with a halt asked for or not, its record with HALT, with HOLD, with both or with neither. -/
theorem test_meets_BindIntoAStop : [(false, 0), (false, 1), (false, 2), (false, 3), (true, 0), (true, 1)].all (fun (x : Bool × Nat) =>
    let r := { tBindRec 1 0x9000 0x600000 with dw0 := (tBindRec 1 0x9000 0x600000).dw0 ||| BitVec.ofNat 64 (x.2 * 2 ^ 57) }
    let s := tBinding r true []
    let s := s.setSlot 1 { s.slot 1 with dbg := { (s.slot 1).dbg with hreq := x.1 } }
    (s.slot 1).latched.halt == (x.2 % 2 == 1) && (s.slot 1).latched.hold == decide (2 ≤ x.2) && (s.slot 1).dbg.hreq == x.1) = true := by decide +kernel

/-- The group in slot 0 being switched, its slot in a state, of a gang or not, permitted or not. -/
def tSwitched (st : SlotState) (gang permit : Bool) : State :=
  let s := tLaunched (tWith .ctl { tGroup with lr := { tGroup.lr with gang := gang }, stopping := .preempt })
  s.setSlot 0 { s.slot 0 with state := st, permit := permit, latched := tBindRec 1 0x9000 0x600000 }

/-- The group in slot 0 at a slice end. -/
def tSlice (pending : Bool) (budget : Nat) : State :=
  let s := tWith .ctl tGroup
  let s := { s with dawn := { s.dawn with launches := [{ tLive none with budget := budget }] } }
  s.setSlot 0 { s.slot 0 with left := 0, sle := 9, sleMark := 4, pending := pending, latched := tBindRec 1 0x9000 0x600000 }

/-- A gang of one group in slot 0, named in the gang register of its die, each of its groups bound or one waiting. -/
def tGangOf (all : Bool) : State :=
  let s := tLaunched (tWith .ctl { tGroup with lr := { tGroup.lr with gang := true } })
  let s := s.setDie 0 { s.dies.get 0 with gangId := 1 }
  if all then s else { s with dawn := { s.dawn with waiting := [.fresh 1 1] } }

theorem test_meets_SlotEvents :
    [(false, false), (true, true), (true, false)].all (fun (x : Bool × Bool) =>
      let s := tSwitched .fencing x.1 x.2
      switched s 0 && (s.slot 0).state == .fencing && (s.slot 0).isGang == x.1 && (s.slot 0).permit == x.2) = true ∧
    [none, some Cause.opRange].all (fun ending =>
      let s := tSwitched .saving false false
      let s := { s with dawn := { s.dawn with launches := [tLive ending] } }
      tAt s (fun g sl => sl.state == .saving && g.scat.isEmpty && isEnding s g == ending.isSome && !sl.pending && !sl.dusk)) = true ∧
    [(false, 0), (true, 5), (false, 6)].all (fun (x : Bool × Nat) =>
      let s := tSlice x.1 x.2
      tAt s (fun g sl => sl.state == .running && sl.left == 0 && msplitBit s 0 == false && !(s.cores.get (coreOf 0)).standby.valid && sl.pending == x.1 && !sl.dusk && !sl.isGang &&
        sl.latched.savePa != 0 && g.stopping == .no && (match findLaunch s g.lr.id with
          | some l => l.budget == x.2 && decide (l.budget ≠ 0 ∧ l.budget ≤ l.spent + (sl.sle - sl.sleMark).toNat) == decide (x.2 = 5)
          | none => false))) = true ∧
    [0, 3].all (fun (d : DieId) => dieLive (tWith .ctl tGroup) d == decide (d = 0)) = true ∧
    [false, true].all (fun all =>
      let s := tGangOf all
      gangSeated s (s.dies.get 0).gangId == all && gangSwitched s (s.dies.get 0).gangId == false && (gangPlaces s 0).contains 0 && !(gangPlaces s 0).contains 1) = true ∧
    (let s := tSwitched .fencing true false
     let s := s.setDie 0 { s.dies.get 0 with gangId := 1 }
     gangSwitched s (s.dies.get 0).gangId && switched s 0) = true :=
  ⟨by decide +kernel, by decide +kernel, by decide +kernel, by decide +kernel, by decide +kernel, by decide +kernel⟩

/-! ## Translations, keys, boot, port frames -/

/-- Requests to the page-fault service of die 0, sent or not. -/
def tFault (page : Nat) : PageFault := { asid := 0, page := page, kind := 0, lvl := 0, cause := Cause.trInvalid, ans := none }
def tAsked (sent : Bool) (page : Nat) (rs : List PfRange) : State :=
  let s := tWith .ctl tGroup
  ({ s with dawn := { s.dawn with ranges := rs } } : State).setDie 0 { s.dies.get 0 with svc := [{ fault := tFault page, sent := sent, seq := 7 }] }

/-- A declaration of sixteen pages over a pool of frames. -/
def tRange : PfRange := { asid := 0, first := 0, last := 2 ^ 41 - 1, pool := 0x800, nframe := 16, perms := 0xE, given := 0 }

/-- The page tables of address space 0 with a fourth-level table that leads to an empty level-0 entry for page 0. -/
def tEmptyLeaf : State :=
  let s := tAsked false 0 [tRange]
  let t := s.setDie 0 { s.dies.get 0 with atabBase := 8, atabEn := true }
  tMem (tMem (tMem (tMem (tMem t 0x800000 [0x801001]) 0x801000 [0x802001]) 0x802000 [0x803001]) 0x803000 [0x804001]) 0x804000 [0x805001]

/-- A request that the host has answered with retry or not, while a stream's load of the page waits or not. -/
def tRetried (retry busy : Bool) : State :=
  let s := tWith .ctl (tCtl (fun t => { t with loads := if busy then [{ fpc := 0, va := 0x50000, dest := .scalar 9 8 false, parts := [{ loc := .mem 0x50000, va := 0x50000, n := 8, pos := 0 }], after := 0, mark := 0, issued := 0 }] else [] }))
  s.setDie 0 { s.dies.get 0 with svc := [{ fault := tFault 5, sent := true, seq := 7, retry := retry }] }

theorem test_meets_Retries : [true, false].all (fun retry => [true, false].all (fun busy =>
    let s := tRetried retry busy
    match (s.dies.get 0).svc[0]? with
    | some r => r.retry == retry && r.sent && pageBusy s r.fault == busy
    | none => false)) = true := by decide +kernel

/-- A body of PF_DECL. -/
def tDecl (first last pool n : BitVec 64) : Vector (BitVec 64) 6 := #v[0, first, last, pool, n, 0xE]

theorem test_meets_TranslationAndKeyEvents :
    [0, 3].all (fun (d : DieId) => dieLive (tWith .ctl tGroup) d == decide (d = 0)) = true ∧ (tWith .ctl tGroup).dawn.rekeyBusy = false ∧
    (let s := (tWith .ctl tGroup)
     let s := s.setDie 0 { s.dies.get 0 with invBusy := true, invAll := true }
     (s.dies.get 0).invBusy && !(s.dies.get 1).invBusy && !invPending s 0) = true ∧
    [true, false].all (fun sent => match (tAsked sent 5 []).dies.get 0 |>.svc[0]? with
      | some r => r.sent == sent && !r.retry && r.seq == 7 && (servingRange (tAsked sent 5 []) r.fault).isNone && (List.finRange 4).all (fun d => d == 0 || ((tAsked sent 5 []).dies.get d).svc.isEmpty)
      | none => false) = true ∧
    (match ((tAsked false 0x20000 [tRange]).dies.get 0).svc[0]? with
      | some r => servingRange (tAsked false 0x20000 [tRange]) r.fault == some tRange && !r.sent &&
          (fillEntry (({ tAsked false 0x20000 [tRange] with mem := [] } : State)) 0 r.fault).isNone
      | none => false) = true ∧
    (match (tEmptyLeaf.dies.get 0).svc[0]? with
      | some r => servingRange tEmptyLeaf r.fault == some tRange && (fillEntry tEmptyLeaf 0 r.fault).isSome
      | none => false) = true ∧
    [(tDecl 0 0 0 0, true), (tDecl 0x10000 0 0 0, false)].all (fun (x : Vector (BitVec 64) 6 × Bool) =>
      let r := declRange x.1
      r.nframe == 0 && [tRange].any (fun y => y.asid == r.asid && y.first == r.first) == x.2) = true ∧
    [(tDecl 0x10000 0x20000 0x8000000 4, true), (tDecl 0x20000 0x10000 0x8000000 4, false)].all (fun (x : Vector (BitVec 64) 6 × Bool) =>
      (declRange x.1).nframe == 4 && declOk (tWith .ctl tGroup) x.1 == x.2) = true := by decide +kernel

/-- The machine before its release, at a stage of boot. -/
def tBoot (stage : BitVec 4) (measured : Bool) (live rel : BitVec 4) (tried releasing : List DieId) : State :=
  let d : Dawn := { Dawn.reset with stage := stage, live := live, rel := rel, tried := tried, releasing := releasing }
  { State.reset with dawn := { d with powered := measured } }

/-- The header of a frame. -/
def tFrame (typ : BitVec 4) (n addr : Nat) : BitVec 128 := BitVec.ofNat 128 (typ.toNat * 2 ^ 124 + n * 2 ^ 112 + addr)

/-- The two branches of PF_ACK's answers, and of LQADDR: every die tried or not. -/
theorem test_meets_AnswersAndTheEndOfBoot :
    [((0x001 : BitVec 10), true), (0x3FF, false), (0x080, false)].all (fun (x : BitVec 10 × Bool) => trapCause x.1 == x.2) = true ∧
    [true, false].all (fun all =>
      let s := tBoot 2 true 3 1 (if all then [0, 1] else [0]) []
      (allTried s && s.dawn.rel != 0) == all) = true := by decide +kernel

theorem test_meets_BootEvents :
    [true, false].all (fun m => (tBoot 0 m 15 0 [] []).dawn.powered == m && atRom (tBoot 0 m 15 0 [] []) == m && atRom (tBoot 1 m 15 0 [] []) == false) = true ∧
    (mayRelease (tBoot 1 true 15 0 [] []) 0 && mayRelease (tBoot 2 true 15 1 [0] []) 1 && !mayRelease (tBoot 2 true 15 0 [] []) 1 && mayRelease (tBoot 3 true 15 7 [] []) 3) = true ∧
    [true, false].all (fun r => (tBoot 2 true 15 0 [] (if r then [1] else [])).dawn.releasing.contains 1 == r) = true := by decide +kernel

theorem test_meets_PortEvents :
    (let s := tWith .ctl tGroup
     [(tFrame 1 2 0x9000, true), (tFrame 1 2 0x9004, false), (tFrame 1 2 (dawnAddr 0x10000000), false)].all (fun (x : BitVec 128 × Bool) =>
      !frameBad x.1 && frameType x.1 == 1 && frameLen x.1 == 2 &&
        (frameAddr x.1 % 8 == 0 && (List.range 2).all (fun i => hostWritable s (frameAddr x.1 + 8 * i))) == x.2)) = true ∧
    (let s := tWith .ctl tGroup
     [(tFrame 2 2 0x9000, true), (tFrame 2 1 (dawnAddr 0x10000008), true), (tFrame 2 1 0xE00000002000, false)].all (fun (x : BitVec 128 × Bool) =>
      !frameBad x.1 && frameType x.1 == 2 &&
        (frameAddr x.1 % 8 == 0 && (List.range (frameLen x.1)).all (fun i => hostReadable s (frameAddr x.1 + 8 * i) && !poisoned s (frameAddr x.1 + 8 * i))) == x.2)) = true ∧
    [tFrame 0 0 0, tFrame 6 0 0, tFrame 1 513 0, tFrame 1 0 (2 ^ 52)].all frameBad = true ∧
    [(0x00#64, false), (trailerOf (tFrame 1 0 0) [], true), (trailerOf (tFrame 1 0 0) [] ||| 0x100000000, true)].all (fun (x : BitVec 64 × Bool) =>
      (x.1.extractLsb' 0 32 == (trailerOf (tFrame 1 0 0) []).extractLsb' 0 32) == x.2) = true ∧
    ([(0x01#8 ++ 0#24 ++ 7#32, true), (0x02#8 ++ 0#56, false), (0x01#8 ++ 1#24 ++ 0#32, false)].all (fun (x : BitVec 64 × Bool) =>
      decide (x.1.extractLsb' 32 24 = 0#24 ∧ fieldOf x.1 63 56 ∈ [1, 3, 5, 7, 10, 11]) == x.2)) = true ∧
    (let f : Forwarded := { seq := 3, grp := { frame := 0x600000, core := 0, dw0 := 0, gindex := 0, cause := Cause.opRange }, lid := 1 }
     ({ Dawn.reset with forwarded := [f] } : Dawn).forwarded.find? (fun x => x.seq == 3) == some f) = true ∧
    (dawnAddr 0x10000008 < 2 ^ 52 ∧ dawnAddr 0x10000008 % 8 = 0 ∧ 3 * 2 ^ 48 + 0xE00000002000 < 2 ^ 52 ∧ dieLive (tWith .ctl tGroup) 0 = true) := by decide +kernel

/-! ## Failures and SPDM -/

/-- Die 0 slowed or locked, with the cycles it has run so. -/
def tSlow (slow lock : Bool) (n : Nat) : State :=
  let s := tWith .ctl tGroup
  s.setDie 0 { s.dies.get 0 with slow := slow, lock := lock, slowRun := n }

theorem test_meets_FailureEvents :
    [(0 : DieId), 1].all (fun d => dieLive (tWith .ctl tGroup) d == decide (d = 0)) = true ∧
    [(true, false, 65536), (true, false, 65535), (true, true, 65536), (false, false, 65536)].all (fun (x : Bool × Bool × Nat) =>
      let d := (tSlow x.1 x.2.1 x.2.2).dies.get 0
      d.slow == x.1 && d.lock == x.2.1 && d.slowRun == x.2.2) = true ∧
    [locOn 0 (.mem 0x2000), !locOn 1 (.mem 0x2000)].all id = true ∧
    [((1 : BitVec 4), (0 : CoreId), (0x2000 : BitVec 64)), (3, 0, 0xF00000000000), (4, 31, 0), (5, 0, 0), (6, 0, 0)].all (fun (x : BitVec 4 × CoreId × BitVec 64) =>
      correctedAt (tWith .ctl tGroup) x.1 0 x.2.1 x.2.2 && (correctedSite (tWith .ctl tGroup) x.1 x.2.1 3 x.2.2).isNone == decide (x.1 = 5)) = true ∧
    [((4 : BitVec 4), (32 : CoreId), (0 : BitVec 64)), (7, 0, 0)].all (fun (x : BitVec 4 × CoreId × BitVec 64) => !correctedAt (tWith .ctl tGroup) x.1 0 x.2.1 x.2.2) = true ∧
    (let s := tWith .ctl tGroup
     let t : State := { s with dawn := { s.dawn with live := 3, rel := 3, retraining := [(0, 1)] } }
     dieLive t 0 && dieLive t 1 && t.dawn.retraining.contains (0, 1) && !s.dawn.retraining.contains (0, 1)) = true ∧
    [true, false].all (fun up =>
      let s := tWith .ctl tGroup
      let t := { s with ports := s.ports.set 3 { s.ports.get 3 with up := up } }
      (t.ports.get 3).up == up && dieLive t (portDie 3) && (List.finRange 4).all (fun d => (List.finRange 64).all (fun i => (ctxAt t d i).isNone))) = true := by decide +kernel

/-- A responder, its algorithms negotiated or not, with a large response to fetch. -/
def tResponder (negotiated : Bool) : State :=
  { State.reset with dawn := { Dawn.reset with powered := true, negotiated := negotiated, large := List.replicate 5000 1, handle := 2, chunks := [1, 2], chunkHandle := 5, chunkNext := 1 } }

theorem test_meets_SpdmRequests : responding State.reset = false ∧
    [true, false].all (fun n => responding (tResponder n) && (tResponder n).dawn.negotiated == n) = true ∧
    (let s := tResponder true
     [(0 : BitVec 16), 1, 2].all (fun seq =>
       let off := if seq = 0 then 0 else 4080 + 4084 * (seq.toNat - 1)
       let part := (s.dawn.large.drop off).take (if seq = 0 then 4080 else 4084)
       part.isEmpty == decide (seq = 2) && decide (off + part.length = s.dawn.large.length) == decide (seq = 1))) = true ∧
    [0, 1, 7, 0xFE].all (fun op => ((measBlocks (tResponder true)).filter (fun b => b.1 == op)).isEmpty == decide (op ≠ 1 ∧ op ≠ 7)) = true ∧
    (let s := tResponder true
     [((0 : BitVec 16), (9 : BitVec 8), true), (1, 5, true), (1, 6, false), (2, 5, false)].all (fun (x : BitVec 16 × BitVec 8 × Bool) =>
       decide (x.1 = 0 ∨ (x.1.toNat = s.dawn.chunkNext ∧ x.2.1 = s.dawn.chunkHandle)) == x.2.2)) = true := by decide +kernel

/-! ## Single steps and worked examples of the spec -/

/-- The value an instruction of two sources leaves in x9. -/
def tX9 (i : Instr) (a b v : BitVec 64) : Bool := tRun (exec i (tS .ctl [(5, a), (6, b)])) (tStream .ctl (fun t => t.getX 9 == v))

/-- R186, R187: wraps, shift amounts, the high halves, and the two fixed cases of division. -/
theorem test_integer_results : [
    (Instr.add 0 9 5 6, 0xFFFFFFFFFFFFFFFF, 2, 1), (.sub 0 9 5 6, 0, 1, 0xFFFFFFFFFFFFFFFF), (.shl 0 9 5 6, 1, 65, 2), (.sra 0 9 5 6, 0x8000000000000000, 63, 0xFFFFFFFFFFFFFFFF),
    (.mulh 0 9 5 6, 0xFFFFFFFFFFFFFFFF, 2, 0xFFFFFFFFFFFFFFFF), (.mulhu 0 9 5 6, 0xFFFFFFFFFFFFFFFF, 2, 1), (.div 0 9 5 6, 7, 0, 0xFFFFFFFFFFFFFFFF), (.rem 0 9 5 6, 7, 0, 7),
    (.div 0 9 5 6, 0x8000000000000000, 0xFFFFFFFFFFFFFFFF, 0x8000000000000000), (.rem 0 9 5 6, 0x8000000000000000, 0xFFFFFFFFFFFFFFFF, 0),
    (.div 0 9 5 6, 0xFFFFFFFFFFFFFFF9, 2, 0xFFFFFFFFFFFFFFFD), (.rem 0 9 5 6, 0xFFFFFFFFFFFFFFF9, 2, 0xFFFFFFFFFFFFFFFF), (.divu 0 9 5 6, 5, 0, 0xFFFFFFFFFFFFFFFF),
    (.max 0 9 5 6, 1, 0xFFFFFFFFFFFFFFFF, 1), (.minu 0 9 5 6, 1, 0xFFFFFFFFFFFFFFFF, 1), (.clz 0 9 5, 0, 0, 64), (.ctz 0 9 5, 8, 0, 3), (.brev 0 9 5, 1, 0, 0x8000000000000000)].all
    (fun (x : Instr × BitVec 64 × BitVec 64 × BitVec 64) => tX9 x.1 x.2.1 x.2.2.1 x.2.2.2) = true := by decide +kernel

/-- Example 1 of the scalar chapter: the two halves of 0xDEAD_BEEF_0123_4567. -/
theorem test_example_of_constants :
    tRun (exec (.liw 0 0 8 0x6EF0 0x1234567) (tS .ctl [])) (tStream .ctl (fun t => t.getX 8 == 0xFFFFFEEF01234567)) = true ∧
    tRun (exec (.lihi 0 0 8 0x1BD5B7) (tS .ctl [(8, 0xFFFFFEEF01234567)])) (tStream .ctl (fun t => t.getX 8 == 0xDEADBEEF01234567)) = true := by decide +kernel

/-- Example 3 of the scalar chapter: a LOOP counts the low 32 bits of its register; one of 0 leaves its pair inactive and goes past the body. -/
theorem test_example_of_trip_counts :
    [(0xFFFFFFFF00000002, 2), (0xFFFFFFFF, 0xFFFFFFFF)].all (fun (x : BitVec 64 × BitVec 32) =>
      tRun (exec (.loop 0 1 3 3) (tS .ctl [(3, x.1)])) (tStream .ctl (fun t => (t.loops.get 1).act && (t.loops.get 1).count == x.2 && t.pc == 0x1004))) = true ∧
    tRun (exec (.loopi 0 0 0 3 0) (tS .ctl [])) (tStream .ctl (fun t => !(t.loops.get 0).act && t.pc == 0x1014)) = true := by decide +kernel

/-- Example 1 of the number formats: the two seeds' directions of 1 + 2^-9 in BF16 under DSR. -/
theorem test_example_of_dsr : [((0 : BitVec 32), 0x3F81), (0xED345605, 0x3F80)].all (fun (x : BitVec 32 × Nat) =>
    FFmt.bf16.round { mode := 5, ovf := 0, hash := x.1 } (.fin false 513 (-9)) == x.2) = true := by decide +kernel

/-- Example 2 of the number formats: narrowing to E4M3 in RNE, with each value of ovf. -/
theorem test_example_of_narrowing : [
    (Val.fin false 1 (-10), 0x00, 0x00), (.fin false 464 0, 0x7E, 0x7E), (.fin false 470 0, 0x7E, 0x7F), (.fin true 1000 0, 0xFE, 0x7F), (.inf false, 0x7E, 0x7F), (.nan, 0x7F, 0x7F)].all
    (fun (x : Val × Nat × Nat) => FFmt.e4m3.round { mode := 0, ovf := 0, hash := 0 } x.1 == x.2.1 && FFmt.e4m3.round { mode := 0, ovf := 1, hash := 0 } x.1 == x.2.2) = true := by
  decide +kernel

/-- Example 1 of the package, and of the memory hierarchy: the parts of an address. -/
theorem test_examples_of_addresses : dieOf 0x2F00001200040 = 2 ∧ atticCore 0x2F00001200040 = 1 ∧ dieOf 0x1000000001840 = 1 ∧ stackOf 0x1000000001840 = 3 ∧
    stackOf 0x10000043ABCDE = 3 ∧ [(4, 0x123), (3, 0x456), (2, 7), (1, 0x44), (0, 0x1A)].all (fun (x : Nat × Nat) => vaIndex 0x00123456789ABCDE x.1 == x.2) = true := by
  decide +kernel

/-- Example 1 of the failures chapter: a window that has run out starts again. -/
theorem test_example_of_a_window :
    (let s := State.reset
     let at_ (s : State) (n : Nat) : State := s.setDie 0 { s.dies.get 0 with cycle := BitVec.ofNat 64 n }
     let a := countSite (at_ s 1000000) 7 0 0 (2 ^ 24) 2
     let b := countSite (at_ a.1 20000000) 7 0 0 (2 ^ 24) 2
     let c := countSite (at_ b.1 30000000) 7 0 0 (2 ^ 24) 2
     [a.2, b.2, c.2]) = [(1, false), (1, false), (2, true)] := by decide +kernel

/-- R390: TRAP raises TRAP_INSN with its number; R209: NOP only goes on; an access of an odd address raises MEM_ALIGN. -/
theorem test_single_steps :
    tRun (exec (.trap 0 77) (tS .ctl [])) (fun t => tCause Cause.trapInsn t && tAt t (fun g sl => sl.state == .fencing && sl.gen == 1 &&
      (match g.stopping with | .trap c => c.info0 == 77 | _ => false))) = true ∧
    tRun (exec (.nop 0) (tS .ctl [])) (tStream .ctl (fun t => t.pc == 0x1004 && t.npc == 0x1008 && t.seq == 1)) = true ∧
    tRun (exec (.ldW 0 9 5 0) (tS .ctl [(5, 0x2001)])) (tCause Cause.memAlign) = true := by decide +kernel

/-! ## A trap delivered to a handler -/

theorem above_objWrite {F : Nat} (n : Nat) {s : State} (q : Quiet s) {off : Nat} (bs : List Byte) (h : off + bs.length ≤ 53 * 4096) :
    Above F s (objWrite n s (objPages F) off bs) := by
  induction n generalizing s off bs with
  | zero => exact Above.refl F s
  | succ n ih =>
    rw [objWrite]
    split
    · exact Above.refl F s
    · rename_i hb
      have hl : 0 < bs.length := by cases bs <;> simp_all
      have h1 := above_homeWriteRun (F := F) 34 q (a := objAddr (objPages F) off) (by rw [objAddr_objPages (by omega)]; omega) (bs.take (4096 - off % 4096))
      by_cases hd : bs.drop (4096 - off % 4096) = []
      · have h0 : ∀ (n : Nat) (u : State) (o : Nat), objWrite n u (objPages F) o [] = u := fun n u o => by cases n <;> simp [objWrite]
        simp only [hd, h0]
        exact h1
      · have hx : 4096 - off % 4096 < bs.length := by
          rw [List.drop_eq_nil_iff] at hd
          omega
        refine h1.trans (ih (h1.quiet q) _ ?_)
        rw [List.length_drop]
        omega

theorem Vector.get_set_die (ds : Vector Die 4) (d e : DieId) (x : Die) : (ds.set d.val x d.isLt).get e = if e = d then x else ds.get e := by
  by_cases h : e = d
  · subst h; simp [Vector.get_eq_getElem]
  · have h' : d.val ≠ e.val := fun k => h (Fin.ext k.symm)
    simp [h, Vector.get_eq_getElem, h']

theorem above_dropLoads {F : Nat} {s t : State} (p : Place) (h : Above F s t) : Above F (dropLoads s p) (dropLoads t p) := by
  obtain ⟨m, ds, o, rfl, hm, k⟩ := h
  refine ⟨m, (dropLoads { s with mem := m, dies := ds, openPcs := o } p).dies, o, rfl, hm, fun e => ?_⟩
  unfold dropLoads State.setDie
  dsimp only
  rw [Vector.get_set_die, Vector.get_set_die]
  split
  · rw [k (dieOfPlace p)]
  · exact k e

theorem above_forgetReleases {F : Nat} {s t : State} (p : Place) (h : Above F s t) : Above F (forgetReleases s p) (forgetReleases t p) := by
  obtain ⟨m, ds, o, rfl, hm, k⟩ := h
  exact ⟨m, ds, o, rfl, hm, k⟩

theorem above_mapSlot {F : Nat} {s t : State} (p : Place) (f : Slot → Slot) (h : Above F s t) :
    Above F (s.setSlot p (f (s.slot p))) (t.setSlot p (f (t.slot p))) := by
  obtain ⟨m, ds, o, rfl, hm, k⟩ := h
  exact ⟨m, ds, o, rfl, hm, k⟩

theorem slot_forget (s : State) (p : Place) : (forgetReleases (dropLoads s p) p).slot p = s.slot p := rfl

theorem Above.slot {F : Nat} {s t : State} (h : Above F s t) (p : Place) : t.slot p = s.slot p := by obtain ⟨m, ds, o, rfl, _, _⟩ := h; rfl

/-- A slot with no dusk turn and no waiting record, made free. -/
def freedSlot (sl : Slot) : Slot :=
  { sl with
    group := none, state := .free, left := 0, debt := 0, permit := false, dusk := false, preempting := false, cutNow := false, brec := sl.brec,
    dbg := { sl.dbg with att := false, halted := false, stepping := false, hreq := false } }

theorem freeSlot_eq {u : State} {p : Place} (h1 : (u.slot p).dusk = false) (h2 : (u.slot p).pending = false) : freeSlot u p =
    (let u := forgetReleases (dropLoads u p) p
     let u := u.setSlot p (freedSlot (u.slot p))
     u.setSlot p { u.slot p with pending := false }) := by
  unfold freeSlot
  dsimp only
  simp only [slot_forget, h1, h2, Bool.false_and, Bool.or_self, Bool.false_eq_true, if_false, State.slot_setSlot, freedSlot]

/-- A slot becomes free alike in states that agree below an address. -/
theorem above_freeSlot {F : Nat} {s t : State} {p : Place} (h : Above F s t) (h1 : (s.slot p).dusk = false) (h2 : (s.slot p).pending = false) :
    Above F (freeSlot s p) (freeSlot t p) := by
  rw [freeSlot_eq h1 h2, freeSlot_eq (by rw [h.slot, h1]) (by rw [h.slot, h2])]
  exact above_mapSlot p (fun sl => { sl with pending := false }) (above_mapSlot p freedSlot (above_forgetReleases p (above_dropLoads p h)))

/-- The header of a save frame. -/
def frameHead (s : State) (p : Place) (g : Group) (F : Nat) (r : Option (Vector (BitVec 64) 16)) : ObjHead :=
  { magic := magicSave, st := 3, rights := 0, rver := 0, asid := g.lr.asid, origin := BitVec.ofNat 64 F, lid := g.lr.id, cls := g.cls,
    gindex := g.gindex, debt := (s.slot p).debt, record := r }

/-- The frame of a group is written above its address, and the group's pages are unpinned. -/
theorem writeFrame_above {s : State} (q : Quiet s) (p : Place) (g : Group) (F : Nat) (r : Option (Vector (BitVec 64) 16))
    (hb : (dwordBytes (frameHead s p g F r).dwords ++ groupImage (repaired (settleGroup s p g))).length ≤ 53 * 4096) :
    Above F (unpin s (coreOf p) g.lr.id g.gindex g.trapped.isSome) (writeFrame s p g F r) := by
  have h0 : Above F s (objTouch s (objPages F) none true) := above_foldl _ q (fun _ _ _ qt _ => above_l2Run qt _ _ _ _ _)
  have h1 := h0.trans (above_objWrite (F := F) 54 (h0.quiet q) (off := 0) _ (by rw [Nat.zero_add]; exact hb))
  unfold writeFrame writeObject
  dsimp only
  obtain ⟨m, ds, o, hm, hr, k⟩ := h1
  unfold frameHead at hm
  rw [hm]
  have h2 : ∀ o', Above F (unpin s (coreOf p) g.lr.id g.gindex g.trapped.isSome)
      (unpin { s with mem := m, dies := ds, openPcs := o' } (coreOf p) g.lr.id g.gindex g.trapped.isSome) := fun o' => ⟨m, ds, o', rfl, hr, k⟩
  have q1 : Quiet (unpin s (coreOf p) g.lr.id g.gindex g.trapped.isSome) := ⟨q.epochs, q.poison, q.epoch, q.watch, q.regs⟩
  refine (h2 _).trans (above_homeWrite ((h2 _).quiet q1) ?_ _)
  rw [objAddr_objPages (by decide)]
  omega

/-- Whether a walk reads HBM below an address. -/
def walkBelow (s : State) (va F : Nat) : List Nat → Nat → Bool
  | [], _ => true
  | n :: rest, base =>
    let pa := base + 8 * vaIndex va n
    decide (pa + 8 ≤ F) && (region s pa).isHbm && ((homeDword s pa).getLsbD 4 || walkBelow s va F rest (fieldOf (homeDword s pa) 51 12 * 4096))

theorem Above.region {F : Nat} {v u : State} (h : Above F v u) (a : Nat) : region u a = region v a := by obtain ⟨m, ds, o, rfl, _, _⟩ := h; rfl
theorem Above.poisoned {F : Nat} {v u : State} (h : Above F v u) (a : Nat) : poisoned u a = poisoned v a := by obtain ⟨m, ds, o, rfl, _, _⟩ := h; rfl

theorem walkDword_above {F : Nat} {v u : State} (h : Above F v u) (q : Quiet v) (hF : F ≤ 0x3000000000) {a : Nat} (ha : a + 8 ≤ F) (hr : (region v a).isHbm = true) :
    walkDword u a = walkDword v a := by
  unfold walkDword
  rw [h.region, homeDword_above h q hF ha]
  cases hx : region v a <;> simp_all [Region.isHbm]

theorem walkDword_hbm {v : State} {a : Nat} (hr : (region v a).isHbm = true) : walkDword v a = some (homeDword v a) := by
  unfold walkDword
  cases hx : region v a <;> simp_all [Region.isHbm]

theorem walkFrom_above {F : Nat} {v u : State} (h : Above F v u) (q : Quiet v) (hF : F ≤ 0x3000000000) {va : Nat} (ls : List Nat) {base : Nat}
    (hb : walkBelow v va F ls base = true) : walkFrom u va ls base = walkFrom v va ls base := by
  induction ls generalizing base with
  | nil => rfl
  | cons n ls ih =>
    simp only [walkBelow, Bool.and_eq_true, decide_eq_true_eq, Bool.or_eq_true] at hb
    obtain ⟨⟨hb, hr⟩, h4⟩ := hb
    rw [walkFrom, walkFrom]
    simp only [walkDword_above h q hF hb hr, walkDword_hbm hr, h.poisoned]
    rcases h4 with h4 | h4
    · simp only [h4, if_true]
    · rw [ih h4]

theorem walkDie_above {F E : Nat} {v u : State} (h : Above F v u) (q : Quiet v) (hF : F ≤ 0x3000000000) (va : Nat) (ls : List Nat)
    (he : E + 8 ≤ F) (hr : (region v E).isHbm = true) (hb : walkBelow v va F ls (fieldOf (homeDword v E) 51 12 * 4096) = true) :
    (match walkDword u E with
      | none => WalkRes.bad Cause.paNodie 7
      | some e => if poisoned u E then .bad Cause.mcEcc 7 else if e.getLsbD 0 = false then .bad Cause.trInvalid 7 else walkFrom u va ls (fieldOf e 51 12 * 4096)) =
    (match walkDword v E with
      | none => WalkRes.bad Cause.paNodie 7
      | some e => if poisoned v E then .bad Cause.mcEcc 7 else if e.getLsbD 0 = false then .bad Cause.trInvalid 7 else walkFrom v va ls (fieldOf e 51 12 * 4096)) := by
  rw [walkDword_above h q hF he hr, walkDword_hbm hr]
  dsimp only
  rw [h.poisoned, walkFrom_above h q hF _ hb]

theorem walk_above {F : Nat} {v u : State} (h : Above F v u) (q : Quiet v) (hF : F ≤ 0x3000000000) {d : DieId} {asid : BitVec 16} {va : BitVec 64}
    (he : (v.dies.get d).atabBase.toNat * 2 ^ 20 + 16 * asid.toNat + 8 ≤ F) (hr : (region v ((v.dies.get d).atabBase.toNat * 2 ^ 20 + 16 * asid.toNat)).isHbm = true)
    (hb : walkBelow v va.toNat F [4, 3, 2, 1, 0] (fieldOf (homeDword v ((v.dies.get d).atabBase.toNat * 2 ^ 20 + 16 * asid.toNat)) 51 12 * 4096) = true) :
    walk u d asid va = walk v d asid va := by
  have hd : (u.dies.get d).atabBase = (v.dies.get d).atabBase ∧ (u.dies.get d).atabEn = (v.dies.get d).atabEn := by rw [h.dies d]; exact ⟨rfl, rfl⟩
  unfold walk
  dsimp only
  rw [hd.1, hd.2]
  split
  · rfl
  · split
    · rfl
    · exact walkDie_above h q hF _ _ he hr hb

/-- Whether a pool has some frames left. -/
def poolRun : Nat → Die → Bool
  | 0, _ => true
  | n + 1, d => match poolFree d with | none => false | some i => poolRun n { d with poolTaken := i :: d.poolTaken }

theorem poolRun_l2 (n : Nat) (d : Die) (l : List L2Line) : poolRun n { d with l2 := l } = poolRun n d := by
  induction n generalizing d with
  | zero => rfl
  | succ n ih =>
    rw [poolRun, poolRun]
    have h : poolFree { d with l2 := l } = poolFree d := rfl
    rw [h]
    cases poolFree d with
    | none => rfl
    | some i => exact ih { d with poolTaken := i :: d.poolTaken }

theorem takeFrames_some (n : Nat) {s : State} (q : Quiet s) {d : DieId} (h : poolRun n (s.dies.get d) = true) : ∃ fs t, takeFrames n s d = some (fs, t) := by
  induction n generalizing s with
  | zero => exact ⟨[], s, rfl⟩
  | succ n ih =>
    rw [poolRun] at h
    split at h
    · simp at h
    · rename_i i hi
      have same : ∀ e, (s.setDie d { s.dies.get d with poolTaken := i :: (s.dies.get d).poolTaken }).dies.get e =
          { s.dies.get e with poolTaken := if e = d then i :: (s.dies.get d).poolTaken else (s.dies.get e).poolTaken } := by
        intro e
        by_cases he : e = d
        · subst he; rw [State.die_setDie, if_pos rfl]
        · rw [State.die_setDie_ne _ _ he, if_neg he]
      have qd : Quiet (s.setDie d { s.dies.get d with poolTaken := i :: (s.dies.get d).poolTaken }) :=
        ⟨q.epochs, q.poison, q.epoch, fun e => by rw [same]; exact q.watch e, fun e k => by rw [same]; exact q.regs e k⟩
      have B := above_l2Run (F := 0) qd (((s.dies.get d).poolBase.toNat + i) * 2 ^ 16) 65536 none false true
      have A := B.trans (above_homeWriteRun 513 (B.quiet qd) (Nat.zero_le (((s.dies.get d).poolBase.toNat + i) * 2 ^ 16)) (List.replicate 65536 0#8))
      have ht : takePool s d = some (BitVec.ofNat 36 ((s.dies.get d).poolBase.toNat + i),
          homeWriteRun 513 (l2Run (s.setDie d { s.dies.get d with poolTaken := i :: (s.dies.get d).poolTaken }) (((s.dies.get d).poolBase.toNat + i) * 2 ^ 16) 65536 none false true)
            (((s.dies.get d).poolBase.toNat + i) * 2 ^ 16) (List.replicate 65536 0#8)) := by
        unfold takePool
        rw [hi]
      obtain ⟨fs, t, e⟩ := ih (A.quiet qd) (by rw [A.dies d, poolRun_l2, State.die_setDie]; exact h)
      refine ⟨(BitVec.ofNat 36 ((s.dies.get d).poolBase.toNat + i)).toNat :: fs, t, ?_⟩
      rw [takeFrames, ht]
      simp only [e, Option.map_some]

/-- A group stopped by a trap whose launch has the handler object at 0x400000, with a frame at 0x600000 and frames in the pool of its die. -/
def tDeliverGroup : Group := { tGroup with lr := { tGroup.lr with handler := 0x400000 }, stopping := .trap tCut }
def tDeliver : State :=
  let s := tLaunched (tWith .ctl tDeliverGroup)
  let s := s.setSlot 0 { s.slot 0 with state := .fencing, latched := { BindRec.reset with save := 0x600000 } }
  let s := s.setDie 0 { s.dies.get 0 with poolBase := 0x10000, poolCount := 16 }
  { s with mem := tTables ++ cellsOf 0x400000 (dwordBytes (tHeader magicCont 0xF00000000)) }

/-- The machine once the slot is free, but for the bytes of the frame. -/
def tDelivered : State := freeSlot (unpin tDeliver 0 tDeliverGroup.lr.id tDeliverGroup.gindex false) 0

theorem tDeliver_quiet : Quiet tDeliver := ⟨rfl, rfl, by decide +kernel, by decide +kernel, by decide +kernel⟩
theorem tDelivered_quiet : Quiet tDelivered := ⟨rfl, rfl, by decide +kernel, by decide +kernel, by decide +kernel⟩

theorem length_flatten_map {α : Type} (f : α → List Byte) (n : Nat) (h : ∀ a, (f a).length = n) (l : List α) : (l.map f).flatten.length = l.length * n := by
  induction l with
  | nil => simp
  | cons a l ih => simp only [List.map_cons, List.flatten_cons, List.length_append, h, ih, List.length_cons]; rw [Nat.succ_mul, Nat.add_comm]

theorem length_bvBytes {w : Nat} (n : Nat) (v : BitVec w) : (bvBytes n v).length = n := by
  have h : ∀ (n k : Nat), (leBytes n k).length = n := by
    intro n
    induction n with
    | zero => exact fun _ => rfl
    | succ n ih => exact fun k => by rw [leBytes, List.length_cons, ih]
  exact h n v.toNat

theorem length_padBytes (n : Nat) (bs : List Byte) : (padBytes n bs).length = max n bs.length := by
  simp only [padBytes, List.length_append, List.length_replicate]
  omega

theorem length_streamRecord (t : Stream) : (streamRecord t).length = 0x400 := by
  simp only [streamRecord, length_padBytes, List.length_append, length_bvBytes, Vector.length_toList,
    length_flatten_map (fun v : BitVec 64 => bvBytes 8 v) 8 (fun _ => length_bvBytes 8 _),
    length_flatten_map (fun v : BitVec 57 => bvBytes 8 v) 8 (fun _ => length_bvBytes 8 _),
    length_flatten_map (fun l : LoopPair => bvBytes 8 l.ctl ++ bvBytes 8 l.start) 16 (fun _ => by simp [length_bvBytes])]
  rfl

theorem length_section2 (g : Group) : (section2 g).length = 0x1000 := by
  simp only [section2, RState.bytes, length_padBytes, List.length_append, length_bvBytes, Vector.length_toList, List.length_range,
    length_flatten_map (fun i : Nat => bvBytes 128 (g.pred (BitVec.ofNat 3 i))) 128 (fun _ => length_bvBytes 128 _),
    length_flatten_map (fun v : BitVec 512 => bvBytes 64 v) 64 (fun _ => length_bvBytes 64 _)]
  rfl

theorem length_section3 (g : Group) : (section3 g).length = 0x2B000 := by
  simp only [section3, length_padBytes, List.length_append, length_bvBytes, Vector.length_toList, List.length_map,
    length_flatten_map (fun r : VReg => bvBytes 2048 r.data) 2048 (fun _ => length_bvBytes _ _),
    length_flatten_map (fun r : VReg => bvBytes 128 r.side) 128 (fun _ => length_bvBytes _ _),
    length_flatten_map (fun r : TReg => bvBytes 8192 r.data) 8192 (fun _ => length_bvBytes _ _),
    length_flatten_map (fun r : TReg => bvBytes 512 r.side) 512 (fun _ => length_bvBytes _ _)]
  rfl

theorem length_section4 (g : Group) : (section4 g).length = 0x600 := by
  simp only [section4, List.length_append, length_bvBytes, Vector.length_toList,
    length_flatten_map (fun e : PageEntry => bvBytes 8 e.dword) 8 (fun _ => length_bvBytes _ _)]

theorem tDeliver_settled : settleGroup tDeliver 0 tDeliverGroup = tDeliverGroup := by
  have h : ∀ st, st ∈ StreamId.all → (match lengthAt tDeliver 0 tDeliverGroup (tDeliverGroup.stream st) (tDeliverGroup.stream st).pc with
      | some n => tDeliverGroup.setStream st ((tDeliverGroup.stream st).settle n)
      | none => tDeliverGroup) = tDeliverGroup := by decide +kernel
  have hf : ∀ l : List StreamId, (∀ st ∈ l, st ∈ StreamId.all) → l.foldl (fun g st =>
      match lengthAt tDeliver 0 g (g.stream st) (g.stream st).pc with
      | some n => g.setStream st ((g.stream st).settle n)
      | none => g) tDeliverGroup = tDeliverGroup := by
    intro l
    induction l with
    | nil => exact fun _ => rfl
    | cons st l ih =>
      intro hl
      rw [List.foldl_cons, h st (hl st List.mem_cons_self)]
      exact ih (fun x hx => hl x (List.mem_cons_of_mem _ hx))
  exact hf _ (fun _ h => h)

theorem tDeliver_image : (dwordBytes (frameHead tDeliver 0 tDeliverGroup 0x600000 (some (trapRecord tDeliverGroup tCut))).dwords ++
    groupImage (repaired (settleGroup tDeliver 0 tDeliverGroup))).length ≤ 53 * 4096 := by
  have h0 : (dwordBytes (frameHead tDeliver 0 tDeliverGroup 0x600000 (some (trapRecord tDeliverGroup tCut))).dwords).length = 0x100 := by decide +kernel
  have h5 : (section5 tDeliverGroup).length = 0x6100 := by decide +kernel
  have h6 : (section6 tDeliverGroup).length = 0x400 := by decide +kernel
  have h7 : (section7 tDeliverGroup).length = 0x200 := by decide +kernel
  have hr : repaired tDeliverGroup = tDeliverGroup := rfl
  rw [tDeliver_settled, hr, List.length_append, h0]
  simp only [groupImage, List.length_append, h5, h6, h7, length_section2, length_section3, length_section4, Vector.length_toList,
    length_flatten_map streamRecord 0x400 length_streamRecord]
  decide

theorem tDelivered_above : Above 0x600000 tDelivered
    (freeSlot (writeFrame tDeliver 0 tDeliverGroup 0x600000 (some (trapRecord tDeliverGroup tCut))) 0) :=
  above_freeSlot (writeFrame_above tDeliver_quiet 0 tDeliverGroup 0x600000 (some (trapRecord tDeliverGroup tCut)) tDeliver_image) (by decide +kernel) (by decide +kernel)

/-- An access of the management core through a leaf that needs no update leaves memory as it reads. -/
theorem coreAccess_above {F : Nat} {v u : State} (h : Above F v u) (q : Quiet v) (hF : F ≤ 0x3000000000) {d : DieId} {asid : BitVec 16} {va : BitVec 64} {kind : BitVec 2}
    {e : BitVec 64} {pte lg : Nat} (hv : inWindow va = false)
    (he : (v.dies.get d).atabBase.toNat * 2 ^ 20 + 16 * asid.toNat + 8 ≤ F) (hr : (region v ((v.dies.get d).atabBase.toNat * 2 ^ 20 + 16 * asid.toNat)).isHbm = true)
    (hb : walkBelow v va.toNat F [4, 3, 2, 1, 0] (fieldOf (homeDword v ((v.dies.get d).atabBase.toNat * 2 ^ 20 + 16 * asid.toNat)) 51 12 * 4096) = true)
    (hw : walk v d asid va = .leaf e pte lg) (hp : permits e kind true = true) (ha : e ||| 0x20#64 ||| (if kind = 1#2 then 0x40#64 else 0#64) = e) :
    ∃ t, Above F v t ∧ coreAccess u d asid va kind = (t, some (leafAddr e lg va)) := by
  have A : Above F u (walkTouch u d asid va) := above_foldl _ (h.quiet q) (fun _ _ _ qt _ => above_l2Touch qt _ _ _ _)
  refine ⟨walkTouch u d asid va, h.trans A, ?_⟩
  unfold coreAccess
  simp only [hv, Bool.false_eq_true, if_false, walk_above (h.trans A) q hF he hr hb, hw, hp, if_true, ha, setAD]

/-- The pages of an object, found page by page. -/
theorem coreObject_above {F : Nat} {v u : State} (h : Above F v u) (q : Quiet v) (hF : F ≤ 0x3000000000) {d : DieId} {asid : BitVec 16} {va : BitVec 64} {kind : BitVec 2}
    (hva : va.toNat % 4096 = 0) (he : (v.dies.get d).atabBase.toNat * 2 ^ 20 + 16 * asid.toNat + 8 ≤ F)
    (hr : (region v ((v.dies.get d).atabBase.toNat * 2 ^ 20 + 16 * asid.toNat)).isHbm = true) {f : Nat → Nat}
    (hi : (List.range 53).all (fun i =>
      let a := va + BitVec.ofNat 64 (4096 * i)
      !inWindow a && walkBelow v a.toNat F [4, 3, 2, 1, 0] (fieldOf (homeDword v ((v.dies.get d).atabBase.toNat * 2 ^ 20 + 16 * asid.toNat)) 51 12 * 4096) &&
      (match walk v d asid a with
       | .leaf e _ lg => decide (permits e kind true = true ∧ e ||| 0x20#64 ||| (if kind = 1#2 then 0x40#64 else 0#64) = e ∧ leafAddr e lg a = f i ∧ (region v (f i)).isHbm = true)
       | .bad _ _ => false)) = true) :
    ∃ t, Above F v t ∧ coreObject u d asid va kind = (t, some ((List.range 53).map f)) := by
  have hf : ∀ (l : List Nat) (t : State) (acc : List Nat), (∀ i ∈ l, i ∈ List.range 53) → Above F v t → ∃ t', Above F v t' ∧
      l.foldl (fun (acc : State × Option (List Nat)) i =>
        match acc with
        | (s, none) => (s, none)
        | (s, some l) =>
          match coreAccess s d asid (va + BitVec.ofNat 64 (4096 * i)) kind with
          | (s, some pa) => (s, if (region s pa).isHbm then some (l ++ [pa]) else none)
          | (s, none) => (s, none)) (t, some acc) = (t', some (acc ++ l.map f)) := by
    intro l
    induction l with
    | nil => exact fun t acc _ ht => ⟨t, ht, by simp⟩
    | cons i l ih =>
      intro t acc hl ht
      have hx := List.all_eq_true.1 hi i (hl i List.mem_cons_self)
      simp only [Bool.and_eq_true, Bool.not_eq_true'] at hx
      obtain ⟨⟨hv, hb⟩, hw⟩ := hx
      split at hw
      · rename_i e pte lg hwk
        have ⟨hp, ha, hfi, hre⟩ := of_decide_eq_true hw
        obtain ⟨t1, h1, e1⟩ := coreAccess_above ht q hF hv he hr hb hwk hp ha
        rw [List.foldl_cons]
        simp only [e1, hfi, h1.region, hre, if_true]
        obtain ⟨t2, h2, e2⟩ := ih t1 (acc ++ [f i]) (fun j hj => hl j (List.mem_cons_of_mem _ hj)) h1
        exact ⟨t2, h2, by simpa using e2⟩
      · simp at hw
  obtain ⟨t, ht, e⟩ := hf (List.range 53) u [] (fun _ h => h) h
  refine ⟨t, ht, ?_⟩
  unfold coreObject
  rw [if_neg (by simp [hva])]
  exact e

theorem tDelivered_header : headerCheck tDelivered (objPages 0x400000) 0 (fun r => r.getLsbD 0 && r.getLsbD 1)
    ((objDword tDelivered (objPages 0x400000) 0x10).extractLsb' 0 32) = none := by
  have hr : (objDword tDelivered (objPages 0x400000) 0x10) = 0xF00000000#64 := by decide +kernel
  rw [headerCheck_rights (h := fun k => k.getLsbD 2) (by rw [hr]; decide), hr]
  have q : Quiet (tEnv (tObject 0xF00000000 0x400000 0 false)).s := ⟨rfl, rfl, by decide +kernel, by decide +kernel, by decide +kernel⟩
  refine (headerCheck_bytes ?_ _ _ _).trans test_header_in_order
  funext off n
  unfold objBytes
  refine List.map_congr_left (fun i _ => ?_)
  have ha : objAddr (objPages 0x400000) (off + i) < 0x3000000000 := by
    by_cases hi : off + i < 53 * 4096
    · rw [objAddr_objPages hi]; omega
    · have : (objPages 0x400000)[(off + i) / 4096]? = none := by
        rw [List.getElem?_eq_none]
        simp only [objPages, List.length_map, List.length_range]
        omega
      simp only [objAddr, List.getD_eq_getElem?_getD, this, Option.getD_none]
      omega
  rw [tDelivered_quiet.homeByte ha, q.homeByte ha]
  rfl

/-- The handler path of a completed cut runs: the object is found in order once the frame is written, and the pool of the die has the frames. -/
theorem test_meets_CompleteCutsAreDelivered_handler :
    tDeliver.group 0 = some tDeliverGroup ∧ tDeliverGroup.stopping = .trap tCut ∧ isEnding tDeliver tDeliverGroup = false ∧ (tDeliver.slot 0).dbg.att = false ∧
    groupQuiet tDeliver 0 tDeliverGroup = true ∧ tDeliverGroup.scat = [] ∧ tDeliverGroup.trapped = none ∧ tDeliverGroup.lr.handler ≠ 0 ∧
    (tDeliver.slot 0).latched.savePa = 0x600000 ∧
    (let w := freeSlot (writeFrame tDeliver 0 tDeliverGroup 0x600000 (some (trapRecord tDeliverGroup tCut))) 0
     ∃ u fs u2, coreObject w (dieOfCore (coreOf 0)) tDeliverGroup.lr.asid tDeliverGroup.lr.handler 0 = (u, some (objPages 0x400000)) ∧ headPoisoned u (objPages 0x400000) = false ∧
     headerCheck u (objPages 0x400000) tDeliverGroup.lr.asid (fun r => r.getLsbD 0 && r.getLsbD 1)
       ((objDword u (objPages 0x400000) 0x10).extractLsb' 0 32) = none ∧
     takeFrames (((readPages u (objPages 0x400000)).toList.zipIdx.filter (fun e => e.1.alloc && !imagePage e.2)).length + 4) u
       (dieOfCore (coreOf 0)) = some (fs, u2)) := by
  repeat refine And.intro (by decide +kernel) ?_
  have A := tDelivered_above
  generalize freeSlot (writeFrame tDeliver 0 tDeliverGroup 0x600000 (some (trapRecord tDeliverGroup tCut))) 0 = w at A
  obtain ⟨u, B, e⟩ := coreObject_above (d := dieOfCore (coreOf 0)) (asid := tDeliverGroup.lr.asid) (va := tDeliverGroup.lr.handler) (kind := 0) (f := fun i => 0x400000 + 4096 * i)
    A tDelivered_quiet (by decide) (by decide +kernel) (by decide +kernel) (by decide +kernel) (by decide +kernel)
  have hb := objBytes_above B tDelivered_quiet (by decide) 0x400000 (by decide)
  have hq := B.quiet tDelivered_quiet
  have hd : ∀ o, objDword u (objPages 0x400000) o = objDword tDelivered (objPages 0x400000) o := by
    intro o
    unfold objDword objNat
    rw [hb]
  have hp : readPages u (objPages 0x400000) = readPages tDelivered (objPages 0x400000) := by
    unfold readPages
    simp only [hd]
  have hn : ((readPages tDelivered (objPages 0x400000)).toList.zipIdx.filter (fun e => e.1.alloc && !imagePage e.2)).length = 0 := by decide +kernel
  obtain ⟨fs, u2, ef⟩ := takeFrames_some 4 hq (d := dieOfCore (coreOf 0)) (by rw [B.dies, poolRun_l2]; decide +kernel)
  refine ⟨u, fs, u2, e, ?_, ?_, by rw [hp, hn]; exact ef⟩
  · unfold headPoisoned poisoned
    simp [hq.poison]
  · rw [headerCheck_bytes hb, hd]
    exact tDelivered_header

end Sys2Proof.Machine
end

section
/-! PROOFS. A byte of HBM that has been written reads back, whatever else is written afterwards (R86, R368, R369, R413). -/

namespace Sys2Proof.Machine

open Sys2Proof

/-! ## Folds -/

/-- A fold over a list that holds an element which brings a property about, and no other element that destroys it, ends with the property. -/
theorem foldl_brings_about {α β : Type} {f : β → α → β} {P : β → Prop} {l : List α} {e : α} (he : e ∈ l) (hb : ∀ b, P (f b e))
    (hk : ∀ b, ∀ x ∈ l, x ≠ e → P b → P (f b x)) (b : β) : P (l.foldl f b) := by
  obtain ⟨l1, l2, rfl⟩ := List.append_of_mem he
  rw [List.foldl_append, List.foldl_cons]
  refine List.foldlRecOn l2 f (hb _) (fun c hc x hx => ?_)
  by_cases hxe : x = e
  · rw [hxe]; exact hb c
  · exact hk c x (by simp [hx]) hxe hc

/-! ## Key epochs -/

/-- Dropping entries of other lines does not change which entry a line has. -/
theorem find_filter_of_key {es : List (Nat × Nat)} {k : Nat} {q : Nat × Nat → Bool} (h : ∀ e, e.1 = k → q e = true) :
    (es.filter q).find? (fun e => e.1 == k) = es.find? (fun e => e.1 == k) := by
  rw [List.find?_filter]
  congr 1
  funext e
  by_cases he : e.1 = k <;> simp [he, h e]

/-- When all entries of a line are dropped it has none. -/
theorem find_filter_none {es : List (Nat × Nat)} {k : Nat} {q : Nat × Nat → Bool} (h : ∀ e, e.1 = k → q e = false) :
    (es.filter q).find? (fun e => e.1 == k) = none := by
  simp only [List.find?_eq_none, List.mem_filter, beq_iff_eq]
  exact fun e ⟨_, hq⟩ he => by simp [h e he] at hq

@[simp] theorem epochOf_setEpoch_self (s : State) (m : List Host.Cell) (l ep : Nat) :
    epochOf { s with mem := m, epochs := setEpoch s.epochs l ep } l = ep := by
  have below : (s.epochs.filter (fun e => e.1 < l)).find? (fun e => e.1 == l) = none := find_filter_none (fun e he => decide_eq_false (by omega))
  have above : (s.epochs.filter (fun e => l < e.1)).find? (fun e => e.1 == l) = none := find_filter_none (fun e he => decide_eq_false (by omega))
  by_cases h : ep = 0 <;> simp [epochOf, setEpoch, List.find?_append, below, above, h]

theorem epochOf_setEpoch_ne (s : State) (m : List Host.Cell) {l k : Nat} (ep : Nat) (h : k ≠ l) :
    epochOf { s with mem := m, epochs := setEpoch s.epochs l ep } k = epochOf s k := by
  have mid : (if ep = 0 then [] else [(l, ep)]).find? (fun e : Nat × Nat => e.1 == k) = none := by
    split
    · rfl
    · simp [h.symm]
  have key : (setEpoch s.epochs l ep).find? (fun e => e.1 == k) = s.epochs.find? (fun e => e.1 == k) := by
    simp only [setEpoch, List.find?_append, mid, Option.or_none]
    rcases Nat.lt_or_gt_of_ne h with hk | hk
    · rw [find_filter_of_key (fun e he => decide_eq_true (he ▸ hk)), find_filter_none (fun e he => decide_eq_false (by omega)), Option.or_none]
    · rw [find_filter_none (fun e he => decide_eq_false (by omega)), find_filter_of_key (fun e he => decide_eq_true (he ▸ hk)), Option.none_or]
  simp only [epochOf, key]

/-- Which key a byte is read through is its line's. -/
theorem otherKey_lineStart (s : State) (a : Nat) : otherKey s (a / 128 * 128) = otherKey s a := by
  have hd : a / 128 * 128 / 2 ^ 48 = a / 2 ^ 48 := by omega
  have hl : a / 128 * 128 / 128 = a / 128 := by omega
  have hr : (a / 128 * 128 % 2 ^ 48 < 0x3000000000) ↔ (a % 2 ^ 48 < 0x3000000000) := by omega
  simp only [otherKey, inL2, epochNow, dieOf, hd, hl, hr]

/-! ## A byte that stands in memory -/

/-- The byte at an address stands in memory as x, under the key through which it is read. -/
def StandsAs (s : State) (a : Nat) (x : Byte) : Prop := otherKey s a = false ∧ readByte s.mem a = x

/-- What stands in memory outside the Dawn window is what a read at the home point gives (R86). -/
theorem StandsAs.homeByte_eq {s : State} {a : Nat} {x : Byte} (h : StandsAs s a x) (ha : a / 2 ^ 48 ≠ 8) : homeByte s a = x := by
  obtain ⟨hk, hm⟩ := h
  rw [homeByte, if_neg (fun e => ha e.1), hk, if_neg Bool.false_ne_true, hm]

/-- It stands as before in a state with the same memory, key epochs and lines in the L2. -/
theorem StandsAs.of_eq {s t : State} {a : Nat} {x : Byte} (h : StandsAs s a x) (hm : t.mem = s.mem) (he : t.epochs = s.epochs)
    (hd : t.dawn.epoch = s.dawn.epoch) (hl : inL2 t a = inL2 s a) : StandsAs t a x := by
  obtain ⟨hk, hx⟩ := h
  exact ⟨by rw [← hk]; simp only [otherKey, epochOf, epochNow, he, hd, hl], by rw [hm]; exact hx⟩

theorem otherKey_refreshLine_self (s : State) (a : Nat) : otherKey (refreshLine s (a / 128)) a = false := by
  unfold refreshLine
  dsimp only
  split
  · rw [otherKey, epochOf_setEpoch_self]
    have hd : dieOf (a / 128 * 128) = dieOf a := by simp only [dieOf, Fin.mk.injEq]; omega
    simp [epochNow, hd]
  · rename_i h
    rw [← otherKey_lineStart]
    simpa using h

/-- Only a line that is read through another key is written anew, so what stands in memory stays. -/
theorem StandsAs.refreshLine {s : State} {a : Nat} {x : Byte} (h : StandsAs s a x) (line : Nat) : StandsAs (refreshLine s line) a x := by
  unfold Machine.refreshLine
  dsimp only
  split
  · rename_i hl
    obtain ⟨hk, hx⟩ := h
    have hne : a / 128 ≠ line := by
      intro e
      rw [← e, otherKey_lineStart, hk] at hl
      exact Bool.false_ne_true hl
    refine ⟨?_, ?_⟩
    · rw [← hk, otherKey, epochOf_setEpoch_ne _ _ _ hne]
      rfl
    · rw [← hx]
      exact readByte_splice_outside _ _ (by simp only [homeBytes, List.length_map, List.length_range]; omega)
  · exact h

/-- Marking a line dirty leaves in an L2 the lines that it holds. -/
theorem inL2_dirtyLine (s : State) (pa a : Nat) : inL2 (dirtyLine s pa) a = inL2 s a := by
  unfold dirtyLine
  split
  · by_cases hd : dieOf a = dieOf pa
    · simp only [inL2, hd, Vector.get_eq_getElem, Vector.getElem_set_self, List.any_map]
      congr 1
      funext y
      simp only [Function.comp]
      split <;> rfl
    · have hd' : (dieOf pa).val ≠ (dieOf a).val := fun e => hd (Fin.ext e.symm)
      simp [inL2, Vector.get_eq_getElem, hd']
  · rfl

theorem StandsAs.dirtyLine {s : State} {a : Nat} {x : Byte} (h : StandsAs s a x) (pa : Nat) : StandsAs (dirtyLine s pa) a x := by
  refine h.of_eq ?_ ?_ ?_ (inL2_dirtyLine s pa a) <;> · unfold Machine.dirtyLine; split <;> rfl

theorem StandsAs.putHome_outside {s : State} {a : Nat} {x : Byte} (h : StandsAs s a x) {pa : Nat} {bs : List Byte} (ho : a < pa ∨ pa + bs.length ≤ a) :
    StandsAs (putHome s pa bs) a x := by
  obtain ⟨hk, hx⟩ := (h.refreshLine (pa / 128)).dirtyLine pa
  exact ⟨hk, (readByte_splice_outside _ _ ho).trans hx⟩

theorem standsAs_putHome_self (s : State) (a : Nat) (x : Byte) : StandsAs (putHome s a [x]) a x := by
  have h : StandsAs (Machine.refreshLine s (a / 128)) a _ := ⟨otherKey_refreshLine_self s a, rfl⟩
  obtain ⟨hk, -⟩ := h.dirtyLine a
  exact ⟨hk, readByte_splice_inside _ a [x] 0 (by simp)⟩

/-! ## Records and watchpoints write elsewhere -/

/-- An error record is written in the Dawn window, or sent: a byte below it stays. -/
theorem StandsAs.logErr {s : State} {a : Nat} {x : Byte} (h : StandsAs s a x) (ha : a < 8 * 2 ^ 48) (e : ErrRec) : StandsAs (logErr s e) a x := by
  unfold Machine.logErr
  generalize e.dwords = ds
  unfold logDwords
  split
  · exact h.of_eq rfl rfl rfl rfl
  · dsimp only
    have h1 : StandsAs (putHome s (dawnAddr (0x20000000 + 0x40 + 64 * (s.dawn.logNext.toNat % 16383))) (dwordBytes ds)) a x :=
      h.putHome_outside (.inl (by unfold dawnAddr; omega))
    generalize putHome s _ (dwordBytes ds) = u at h1 ⊢
    have h2 : StandsAs (putHome u (dawnAddr 0x20000008) (leBytes 8 (u.dawn.logNext + 1).toNat)) a x :=
      h1.putHome_outside (.inl (by unfold dawnAddr; omega))
    exact h2.of_eq rfl rfl rfl rfl

theorem StandsAs.watchFill {s : State} {a : Nat} {x : Byte} (h : StandsAs s a x) (ha : a < 8 * 2 ^ 48) (w : Watch) (touched : Nat → Bool) :
    StandsAs (watchFill s w touched) a x := by
  unfold Machine.watchFill
  dsimp only
  split
  · unfold recordZeroRead
    have h1 : StandsAs { s with fresh := s.fresh + 1 } a x := h.of_eq rfl rfl rfl rfl
    exact h1.logErr ha _
  · exact h

theorem StandsAs.pushTask {s : State} {a : Nat} {x : Byte} (h : StandsAs s a x) (t : Task) : StandsAs (pushTask s t) a x := by
  unfold Machine.pushTask
  split <;> exact h.of_eq rfl rfl rfl rfl

theorem StandsAs.watchHits {s : State} {a : Nat} {x : Byte} (h : StandsAs s a x) (ha : a < 8 * 2 ^ 48) (d : DieId) (touched : Nat → Bool) :
    StandsAs (watchHits s d touched) a x := by
  unfold Machine.watchHits
  dsimp only
  have h1 : StandsAs ((s.dies.get d).watch.foldl (fun s w => Machine.watchFill s w touched) s) a x :=
    List.foldlRecOn (motive := fun s => StandsAs s a x) _ _ h (fun _ ht w _ => StandsAs.watchFill ht ha w touched)
  have h2 : StandsAs (((s.dies.get d).watch.filter (fun w => watchMatch s w touched)).foldl
      (fun s w => Machine.pushTask s { dws := w.task, asid := w.asid, lid := w.owner, no := 0 })
      ((s.dies.get d).watch.foldl (fun s w => Machine.watchFill s w touched) s)) a x :=
    List.foldlRecOn (motive := fun s => StandsAs s a x) _ _ h1 (fun _ ht _ _ => StandsAs.pushTask ht _)
  generalize List.foldl _ (List.foldl _ s _) _ = u at h2 ⊢
  refine h2.of_eq rfl rfl rfl ?_
  by_cases hd : dieOf a = d
  · simp [inL2, hd, Vector.get_eq_getElem]
  · have hd' : d.val ≠ (dieOf a).val := fun e => hd (Fin.ext e.symm)
    simp [inL2, Vector.get_eq_getElem, hd']

theorem StandsAs.watchTest {s : State} {a : Nat} {x : Byte} (h : StandsAs s a x) (ha : a < 8 * 2 ^ 48) (pa : Nat) (touched : Nat → Bool) :
    StandsAs (watchTest s pa touched) a x := by
  unfold Machine.watchTest
  split
  · split
    · exact h
    · exact h.watchHits ha _ _
  · exact h

/-! ## Lines and cells -/

/-- What a write of a line makes of its bytes once they have been put: whatever becomes of its poison, and whichever watchpoint it meets. -/
theorem StandsAs.homeWriteLine_of_put {s : State} {a : Nat} {x : Byte} {line : Nat} {bs : List (Nat × Byte)} (ha : a < 8 * 2 ^ 48)
    (h : StandsAs (bs.foldl (fun s b => putHome s (128 * line + b.1) [b.2]) s) a x) : StandsAs (homeWriteLine s line bs) a x := by
  unfold homeWriteLine
  refine StandsAs.watchTest ?_ ha _ _
  generalize bs.foldl (fun s b => putHome s (128 * line + b.1) [b.2]) s = u at h ⊢
  split
  · exact h.of_eq rfl rfl rfl rfl
  · exact h

theorem StandsAs.homeWriteLine_outside {s : State} {a : Nat} {x : Byte} (h : StandsAs s a x) (ha : a < 8 * 2 ^ 48) {line : Nat} {bs : List (Nat × Byte)}
    (ho : ∀ b ∈ bs, 128 * line + b.1 ≠ a) : StandsAs (homeWriteLine s line bs) a x :=
  .homeWriteLine_of_put ha (List.foldlRecOn (motive := fun s => StandsAs s a x) bs _ h (fun _ ht b hb =>
    StandsAs.putHome_outside ht (by have := ho b hb; simp only [List.length_singleton]; omega)))

/-- A byte that a write of a line names stands in memory afterwards, if the write gives it no second value. -/
theorem standsAs_homeWriteLine (s : State) {a : Nat} {x : Byte} (ha : a < 8 * 2 ^ 48) {bs : List (Nat × Byte)} (hx : (a % 128, x) ∈ bs)
    (hu : ∀ b ∈ bs, b.1 = a % 128 → b.2 = x) : StandsAs (homeWriteLine s (a / 128) bs) a x := by
  refine .homeWriteLine_of_put ha (foldl_brings_about (P := fun s => StandsAs s a x) hx (fun b => ?_) (fun t b hb hne ht => ?_) s)
  · have e : 128 * (a / 128) + a % 128 = a := Nat.div_add_mod a 128
    simp only [e]
    exact standsAs_putHome_self b a x
  · have hp : b.1 ≠ a % 128 := fun e => hne (Prod.ext e (hu b hb e))
    exact ht.putHome_outside (by simp only [List.length_singleton]; omega)

/-- Cells written line by line: a cell stands in memory afterwards, if no other cell has its address. -/
theorem standsAs_writeCells (s : State) {a : Nat} {x : Byte} (ha : a < 8 * 2 ^ 48) {cells : List (Nat × Byte)} (hx : (a, x) ∈ cells)
    (hu : ∀ c ∈ cells, c.1 = a → c.2 = x) : StandsAs (writeCells s cells) a x := by
  refine foldl_brings_about (P := fun s => StandsAs s a x) (e := a / 128) ?_ (fun t => ?_) (fun t l _ hne ht => ?_) s
  · exact List.mem_dedup.2 (List.mem_map.2 ⟨_, hx, rfl⟩)
  · refine standsAs_homeWriteLine t ha (List.mem_map.2 ⟨(a, x), by simp [hx], rfl⟩) (fun b hb e => ?_)
    obtain ⟨c, hc, rfl⟩ := List.mem_map.1 hb
    simp only [List.mem_filter, decide_eq_true_eq] at hc
    exact hu c hc.1 (by simp only at e; omega)
  · refine ht.homeWriteLine_outside ha (fun b hb => ?_)
    obtain ⟨c, hc, rfl⟩ := List.mem_map.1 hb
    simp only [List.mem_filter, decide_eq_true_eq] at hc
    simp only
    omega

end Sys2Proof.Machine
end

section
/-! PROOFS. The events that move the replay in progress on a context on (R26, R338, R345 to R348, R432). -/

namespace Sys2Proof.Machine

open Sys2Proof

/-! ## Contexts -/

@[simp] theorem ctxAt_setCtx (s : State) (d : DieId) (i : Fin 64) (c : Option Ctx) : ctxAt (setCtx s d i c) d i = c := by
  simp [ctxAt, setCtx, State.setDie, Vector.get_eq_getElem]

/-- A die replaced by one with the same contexts changes no context. -/
theorem ctxAt_setDie (s : State) {e : DieId} {x : Die} (h : x.ctxs = (s.dies.get e).ctxs) (d : DieId) (i : Fin 64) :
    ctxAt (s.setDie e x) d i = ctxAt s d i := by
  by_cases hd : d = e
  · subst hd
    simp only [ctxAt, State.setDie, Vector.get_eq_getElem, Vector.getElem_set_self, h]
  · have hd' : e.val ≠ d.val := fun h => hd (Fin.ext h.symm)
    simp [ctxAt, State.setDie, Vector.get_eq_getElem, hd']

/-! ## The replay in progress -/

/-- The state in which the bytes of an arriving chunk have been counted at the port of its operation (R338). -/
def chunkCounted (s : State) (o : GOp) (n : Nat) : State :=
  let q : Fin 18 := ⟨o.port % 18, Nat.mod_lt _ (by decide)⟩
  { s with ports := s.ports.set q.val { s.ports.get q with rxb := (s.ports.get q).rxb + BitVec.ofNat 64 n } }

section
variable {s : State} {d : DieId} {i : Fin 64} {c : Ctx} {r : Replay} {rest : List Replay} (hc : ctxAt s d i = some c) (hr : c.replays = r :: rest)
include hc hr

theorem failReplay_of_replay (cause : BitVec 10) :
    failReplay s d i cause = advanceCtx (setReplay s d i (r.fail cause r.step)) d i := by
  simp only [failReplay, hc, hr]

theorem execColAbort_of_replay (cause : BitVec 10) :
    execColAbort d i cause s = .next (advanceCtx (setReplay s d i { r.fail cause r.step with aborted := true }) d i) := by
  simp only [execColAbort, hc, hr]

theorem execReservationLost_of_replay : execReservationLost d i s =
    .next (advanceCtx (setReplay (setCtx s d i (some { c with lost := true })) d i (r.fail Cause.colPort r.step)) d i) := by
  simp only [execReservationLost, hc]
  exact congrArg _ (failReplay_of_replay (c := { c with lost := true }) (ctxAt_setCtx s d i _) hr Cause.colPort)

/-- A chunk of a started, unfinished receive that has not come yet (R345 to R348): it waits for a link, fails the replay by its signature or by a die that is
gone, or reaches its base as its operation says. -/
theorem execColChunkArrive_of_due {op k : Nat} {sig : BitVec 32} {bs : List Byte} {o : GOp} {x : OpRun} (ho : c.graph.ops[op]? = some o)
    (hx : r.ops[op]? = some x) (hs : x.started = true) (hf : x.finished = false) (hn : r.failed = none) (hg : x.got.contains k = false)
    (hp : (c.graph.pieceOf o).contains k = true) (hl : bs.length = c.graph.chunkLen k) (hk : o.receives = true)
    {places : List Nat} (hplaces : places = r.addrs o.base (k * c.graph.chunk) bs.length) {counted : State} (hcounted : counted = chunkCounted s o bs.length) :
    execColChunkArrive d i op k sig bs s =
      if runHeld s d places then .next s
      else if firstOnPath c.graph r o.path = true ∧ sig ≠ c.graph.sig then .next (advanceCtx (setReplay counted d i (r.fail Cause.colSig op)) d i)
      else if runGone s places then .next (advanceCtx (setReplay counted d i (r.fail Cause.mcDie r.step)) d i)
      else if o.kind = 2 then
        .next (advanceCtx (setReplay (writeChunk counted r o.base (k * c.graph.chunk) bs) d i
          ((r.setOp op (fun y => { y with got := y.got ++ [k] })).settleReceive c.graph op)) d i)
      else
        match queueParts counted (chunkParts c.graph r d i op o.base k bs) with
        | none => .next s
        | some u => .next (advanceCtx (setReplay u d i ((r.setOp op (fun y =>
            { y with got := y.got ++ [k], folds := y.folds + (chunkParts c.graph r d i op o.base k bs).length })).settleReceive c.graph op)) d i) := by
  subst hplaces hcounted
  simp only [execColChunkArrive, hc, hr, ho, hx, hs, hf, hn, hg, hp, hl, hk, Option.isSome_none, Bool.not_true, Bool.false_or, bne_self_eq_false]
  rfl

end

/-! ## Cellar queues -/

/-- The first part of a cellar queue of a live die, taken from it. -/
def withoutPart (s : State) (die : DieId) (k : Fin 3) (more : List Part) : State :=
  s.setDie die { s.dies.get die with cellar := (s.dies.get die).cellar.set k.val more }

theorem ctxAt_withoutPart (s : State) (die : DieId) (k : Fin 3) (more : List Part) (d : DieId) (i : Fin 64) :
    ctxAt (withoutPart s die k more) d i = ctxAt s d i :=
  ctxAt_setDie s (x := { s.dies.get die with cellar := (s.dies.get die).cellar.set k.val more }) rfl d i

/-- The home L2s drop their copies of the lines of a part (R348). -/
def dropCopies (s : State) (x : Part) : State := ((x.addrs.map (· / 128)).dedup).foldl (fun t l => l2Clean t (128 * l) true) s

section
variable {s : State} {die : DieId} {k : Fin 3} {x : Part} {more : List Part} {c : Ctx} {r : Replay} {rest : List Replay}
  (hd : dieLive s die = true) (hq : (s.dies.get die).cellar.get k = x :: more) (hc : ctxAt s x.die x.ctx = some c) (hr : c.replays = r :: rest)
include hd hq hc hr

/-- An adder that folds a part without a poisoned byte writes the element results at the part's bytes. -/
theorem execCellarFold_ok (hp : ∀ a ∈ x.addrs, poisoned (dropCopies (withoutPart s die k more) x) a = false) :
    let u := dropCopies (withoutPart s die k more) x
    execCellarFold die k true s = .next (foldDone (writeCells u (x.addrs.zip (foldPart c.graph (x.addrs.map (homeByte u)) x.bytes))) x false) := by
  have hc' := (ctxAt_withoutPart s die k more x.die x.ctx).trans hc
  have hbad : x.addrs.filter (poisoned (dropCopies (withoutPart s die k more) x)) = [] :=
    List.filter_eq_nil_iff.2 (fun a ha => by simp [hp a ha])
  have hold : x.addrs.map (fun a => if poisoned (dropCopies (withoutPart s die k more) x) a then 0#8 else homeByte (dropCopies (withoutPart s die k more) x) a) =
      x.addrs.map (homeByte (dropCopies (withoutPart s die k more) x)) :=
    List.map_congr_left (fun a ha => by simp [hp a ha])
  simp only [withoutPart, dropCopies] at hc' hbad
  simp only [execCellarFold, hd, if_true, hq, hc', hr, hbad, Bool.true_eq_false, if_false, ne_eq, not_true_eq_false, false_and, List.isEmpty_nil, Bool.not_true]
  exact congrArg (fun old => Host.Outcome.next (foldDone (writeCells (dropCopies (withoutPart s die k more) x) (x.addrs.zip (foldPart c.graph old x.bytes))) x false)) hold

/-- An adder that faults fails the replay with MC_ADDER (R432). -/
theorem execCellarFold_fault :
    ∃ u, execCellarFold die k false s = .next (advanceCtx (setReplay u x.die x.ctx (r.fail Cause.mcAdder r.step)) x.die x.ctx) := by
  have hc' := (ctxAt_withoutPart s die k more x.die x.ctx).trans hc
  simp only [withoutPart] at hc'
  simp only [execCellarFold, hd, if_true, hq, hc', hr]
  exact ⟨_, rfl⟩

end

/-! ## Notices -/

@[simp] theorem Replay.setOp_self (r : Replay) (i : Nat) (f : OpRun → OpRun) : (r.setOp i f).ops[i]? = r.ops[i]?.map f := by
  simp [Replay.setOp]

/-- A counter that falls changes nothing else of an operation. -/
theorem finishOp_op (r : Replay) (g : Graph) (i : Nat) {x : OpRun} (hx : r.ops[i]? = some x) :
    ∃ y, (r.finishOp g i).ops[i]? = some y ∧ y.acked = x.acked ∧ y.finished = true := by
  unfold Replay.finishOp
  dsimp only
  refine List.foldlRecOn (motive := fun (t : Replay) => ∃ y, t.ops[i]? = some y ∧ y.acked = x.acked ∧ y.finished = true) _ _
    ⟨{ x with finished := true }, by simp [hx], rfl, rfl⟩ ?_
  rintro t ⟨y, hy, ha, hf⟩ k -
  by_cases hk : k = i
  · subst hk
    exact ⟨{ y with cnt := y.cnt - 1 }, by rw [Replay.setOp_self, hy]; rfl, ha, hf⟩
  · exact ⟨y, by simp [Replay.setOp, hk, hy], ha, hf⟩

/-- The chunk is one that the replay itself has sent and that holds its credit still, and the replay goes on (R346). -/
def sentBy (r : Replay) (out : OutChunk) : Prop := out.place = r.place ∧ out.entry = r.entry ∧ out.live = true ∧ r.failed = none

/-- A notice of a chunk that is not the replay's own leaves the replay as it is. -/
theorem notice_of_not_sentBy {r : Replay} {out : OutChunk} (g : Graph) (h : ¬ sentBy r out) : r.notice g out = r := by
  refine if_pos ?_
  by_contra hn
  simp only [not_or, not_not, Bool.not_eq_false, Bool.not_eq_true, Option.isSome_eq_false_iff, Option.isNone_iff_eq_none] at hn
  obtain ⟨hp, he, hl, hf⟩ := hn
  exact h ⟨hp.symm, he.symm, hl, hf⟩

theorem notice_of_sentBy {r : Replay} {out : OutChunk} (g : Graph) (h : sentBy r out) {x : OpRun} (hx : r.ops[out.op]? = some x) :
    ∃ y, (r.notice g out).ops[out.op]? = some y ∧ y.acked = x.acked + 1 ∧
      ∀ o, g.ops[out.op]? = some o → x.acked + 1 = (g.pieceOf o).length → y.finished = true := by
  obtain ⟨hp, he, hl, hf⟩ := h
  have hx' : (r.setOp out.op (fun o => { o with acked := o.acked + 1 })).ops[out.op]? = some { x with acked := x.acked + 1 } := by simp [hx]
  unfold Replay.notice
  rw [if_neg (by simp [hp, he, hl, hf])]
  dsimp only
  rw [hx']
  cases hg : g.ops[out.op]? with
  | none => exact ⟨_, hx', rfl, by simp⟩
  | some o =>
    dsimp only
    split
    · obtain ⟨y, hy, ha, hd⟩ := finishOp_op _ g out.op hx'
      exact ⟨y, hy, ha, fun _ _ _ => hd⟩
    · rename_i hne
      refine ⟨_, hx', rfl, ?_⟩
      rintro _ ⟨⟩ h
      exact absurd h hne

/-- The state in which the notice of a chunk has been counted at the chunk's port and its credit has returned (R338, R346). -/
def noticeCounted (s : State) (d : DieId) (i : Fin 64) (op : Nat) (out : OutChunk) : State :=
  let q : Fin 18 := ⟨out.port % 18, Nat.mod_lt _ (by decide)⟩
  { s.setDie d { s.dies.get d with outs := (s.dies.get d).outs.eraseP (fun y => y.ctx == i && y.op == op) } with
    ports := s.ports.set q.val { s.ports.get q with notices := (s.ports.get q).notices + 1 } }

theorem ctxAt_noticeCounted (s : State) (d : DieId) (i : Fin 64) (op : Nat) (out : OutChunk) : ctxAt (noticeCounted s d i op out) d i = ctxAt s d i :=
  ctxAt_setDie s (x := { s.dies.get d with outs := (s.dies.get d).outs.eraseP (fun y => y.ctx == i && y.op == op) }) rfl d i

section
variable {s : State} {d : DieId} {i : Fin 64} {op : Nat} {out : OutChunk} (ho : (s.dies.get d).outs.find? (fun y => y.ctx == i && y.op == op) = some out)
include ho

theorem execSlotFreeNotice_of_replay {c : Ctx} {r : Replay} {rest : List Replay} (hc : ctxAt s d i = some c) (hr : c.replays = r :: rest) :
    execSlotFreeNotice d i op s = .next (advanceCtx (setReplay (noticeCounted s d i op out) d i (r.notice c.graph out)) d i) := by
  have hc' := (ctxAt_noticeCounted s d i op out).trans hc
  simp only [noticeCounted] at hc' ⊢
  simp only [execSlotFreeNotice, ho, hc', hr]

theorem execSlotFreeNotice_of_no_ctx (hc : ctxAt s d i = none) : execSlotFreeNotice d i op s = .next (noticeCounted s d i op out) := by
  have hc' := (ctxAt_noticeCounted s d i op out).trans hc
  simp only [noticeCounted] at hc' ⊢
  simp only [execSlotFreeNotice, ho, hc']

end

/-! ## The bytes of a chunk -/

/-- A byte of a chunk stands at its address once the chunk is written, where the base gives each byte an address of its own (R345). -/
theorem homeByte_writeChunk (r : Replay) (b off : Nat) (bs : List Byte) (u : State)
    (hinj : ∀ j k a, r.addr b (off + j) = some a → r.addr b (off + k) = some a → j = k) {j a : Nat} {x : Byte}
    (hx : bs[j]? = some x) (ha : r.addr b (off + j) = some a) (hlt : a < 8 * 2 ^ 48) : homeByte (writeChunk u r b off bs) a = x := by
  refine (standsAs_writeCells _ hlt ?_ ?_).homeByte_eq (by omega)
  · exact List.mem_filterMap.2 ⟨(x, j), List.mem_zipIdx_iff_getElem?.2 hx, by simp [ha]⟩
  · intro e he hea
    obtain ⟨⟨y, k⟩, hm, hy⟩ := List.mem_filterMap.1 he
    simp only [Option.map_eq_some_iff] at hy
    obtain ⟨a', ha', rfl⟩ := hy
    obtain rfl : a' = a := hea
    obtain rfl : j = k := hinj j k a' ha ha'
    exact Option.some.inj ((List.mem_zipIdx_iff_getElem?.1 hm).symm.trans hx)

/-- HBM lies below the Dawn window (R18, R19). -/
theorem lt_dawn_of_isHbm {s : State} {a : Nat} (h : (region s a).isHbm = true) : a < 8 * 2 ^ 48 := by
  unfold region at h
  dsimp only at h
  split at h
  · omega
  · exfalso
    split at h
    · split at h <;> exact Bool.false_ne_true h
    · exact Bool.false_ne_true h

end Sys2Proof.Machine
end

section
/-! PROOFS. The obligation on the events of a replay in progress. -/

namespace Sys2Proof.Machine

open Sys2Proof

/-- Settles O54: each event is its own function's answer for the replay in progress on the context, and a chunk's bytes are written at addresses of their own. -/
theorem collectiveReplayEventsComplete : Obligations.CollectiveReplayEventsComplete := by
  unfold Obligations.CollectiveReplayEventsComplete
  intro s d i
  refine ⟨fun hc cause => ⟨?_, ?_⟩, fun c r rest hc hr => ⟨fun cause => execColAbort_of_replay hc hr cause, execReservationLost_of_replay hc hr, ?_, ?_, ?_⟩,
    fun op out hc ho => execSlotFreeNotice_of_no_ctx ho hc, ?_⟩
  · show execColAbort d i cause s = _
    simp only [execColAbort, hc]
  · show execReservationLost d i s = _
    simp only [execReservationLost, hc]
  · intro op k sig bs o x ho hx hs hf hn hg hp hl hkind 
    have hk : o.receives = true := by rcases hkind with h | h <;> simp [GOp.receives, h]
    intro places q counted wrong run clear
    have hrun : run = _ := execColChunkArrive_of_due hc hr (sig := sig) ho hx hs hf hn hg hp hl hk (places := places) rfl (counted := counted) rfl
    have h23 : o.kind = 3 → ¬ o.kind = 2 := fun h => by rw [h]; decide
    refine ⟨fun hh => ?_, fun hh hw => ?_, fun hh hw hgone => ?_, fun h2 ⟨hh, hw, hgone⟩ => ?_, fun h3 ⟨hh, hw, hgone⟩ hq => ?_,
      fun h3 ⟨hh, hw, hgone⟩ u hq => ?_⟩ <;> rw [hrun]
    · rw [if_pos hh]
    · rw [if_neg (Bool.eq_false_iff.1 hh), if_pos hw]
    · rw [if_neg (Bool.eq_false_iff.1 hh), if_neg hw, if_pos hgone]
    · rw [if_neg (Bool.eq_false_iff.1 hh), if_neg hw, if_neg (Bool.eq_false_iff.1 hgone), if_pos h2]
    · rw [if_neg (Bool.eq_false_iff.1 hh), if_neg hw, if_neg (Bool.eq_false_iff.1 hgone), if_neg (h23 h3), hq]
    · rw [if_neg (Bool.eq_false_iff.1 hh), if_neg hw, if_neg (Bool.eq_false_iff.1 hgone), if_neg (h23 h3), hq]
  · intro die k x more hd hq hxd hxi
    subst hxd hxi
    exact ⟨execCellarFold_ok hd hq hc hr, execCellarFold_fault hd hq hc hr⟩
  · intro op out ho
    have hop : out.op = op := by
      have := List.find?_some ho
      simp only [Bool.and_eq_true, beq_iff_eq] at this
      exact this.2
    subst hop
    exact ⟨execSlotFreeNotice_of_replay ho hc hr, notice_of_not_sentBy c.graph, fun h x hx => notice_of_sentBy c.graph h hx⟩
  · intro r b off bs u _ hinj j a x hx ha hm
    exact homeByte_writeChunk r b off bs u hinj hx ha (lt_dawn_of_isHbm hm)

end Sys2Proof.Machine
end

section
/-! PROOFS. The obligation on failure events: an error record touches the L2 of die 0 where that holds a line of the error log. -/

namespace Sys2Proof.Machine

open Sys2Proof

/-- Die 1 is live, and the L2 of die 0 holds, clean, the line of the error log's header. No step brings a line of the Dawn window into an L2 (R22), but a state
is plain data and may hold one. -/
def logLineInL2 : State :=
  { State.reset with
    dawn := { Dawn.reset with live := 2, rel := 2 }
    dies := State.reset.dies.set 0 { Die.reset with
      l2 := [{ line := dawnAddr 0x20000000 / 128, way := 0, dirty := false, reg := none, vpage := 0, bad := false }] } }

/-- A sag trip of die 1 writes its record to the error log, which marks that line of die 0 dirty (R75, R410). -/
theorem sagTrip_dirties_logLine :
    (match exec (.sagTrip 1) logLineInL2 with
     | .next t => (t.dies.get 0).l2.any (·.dirty)
     | _ => false) = true := by decide +kernel

/-- Refutes O59: a sag trip does not leave every other die as it was. In the state logLineInL2 the record of a trip of die 1 changes the L2 of die 0. -/
theorem not_failureEventsComplete : ¬ Obligations.FailureEventsComplete := by
  unfold Obligations.FailureEventsComplete
  intro h
  obtain ⟨hsag, -⟩ := h logLineInL2
  obtain ⟨-, hlive, -⟩ := hsag 1
  obtain ⟨-, t, ht, -, -, -, -, -, hothers, -⟩ := hlive (by decide)
  have hdirty := sagTrip_dirties_logLine
  rw [ht] at hdirty
  have hclean : (logLineInL2.dies.get 0).l2.any (·.dirty) = false := by decide
  have hsame : t.dies.get 0 = logLineInL2.dies.get 0 := hothers 0 (by decide)
  rw [← hsame] at hclean
  exact Bool.false_ne_true (hclean.symm.trans hdirty)

end Sys2Proof.Machine
end

section
/-! PROOFS. Retirement: what the tokens, the event post and the PC pair leave of a group (R44 to R46, R49, R185, R387). -/

namespace Sys2Proof.Machine

open Sys2Proof

/-- Placing tokens changes the token queues alone. -/
theorem placeTok_eq (g : Group) (st : StreamId) (r : BitVec 4) (x : List Nat) :
    placeTok g st r x = { g with tokens := (placeTok g st r x).tokens, tokSets := (placeTok g st r x).tokSets } := by
  unfold placeTok
  split <;> split <;> rfl

/-- The tokens that are placed do not depend on the set they carry. -/
theorem placeTok_tokens (g h : Group) (st : StreamId) (r : BitVec 4) (x y : List Nat) (e : g.tokens = h.tokens) :
    (placeTok g st r x).tokens = (placeTok h st r y).tokens := by
  unfold placeTok
  split <;> split <;> simp only [Group.pushTok, Group.setTok, e]

/-- An event post changes the counts of events alone. -/
theorem postEv_eq (g : Group) (ev : BitVec 4) (x : List Nat) :
    postEv g ev x = { g with ev := (postEv g ev x).ev, evstat := (postEv g ev x).evstat, evSets := (postEv g ev x).evSets } := by
  unfold postEv postEvent
  split
  · rfl
  · dsimp only; split <;> rfl

@[simp] theorem placeTok_stream (g : Group) (st o : StreamId) (r : BitVec 4) (x : List Nat) : (placeTok g st r x).stream o = g.stream o := by
  rw [placeTok_eq]; rfl
@[simp] theorem placeTok_ev (g : Group) (st : StreamId) (r : BitVec 4) (x : List Nat) : (placeTok g st r x).ev = g.ev := by rw [placeTok_eq]
@[simp] theorem postEv_stream (g : Group) (o : StreamId) (ev : BitVec 4) (x : List Nat) : (postEv g ev x).stream o = g.stream o := by rw [postEv_eq]; rfl
@[simp] theorem postEv_tokens (g : Group) (ev : BitVec 4) (x : List Nat) : (postEv g ev x).tokens = g.tokens := by rw [postEv_eq]

/-- A post to an event at its limit sets its SAT bit (R49). -/
theorem postEvent_of_limit {g : Group} {e : BitVec 5} (h : g.ev.get e.toFin = 0xFFFF) (x : List Nat) :
    postEvent g e x = { g with evstat := g.evstat ||| (1#32 <<< e.toNat) } := if_pos h

/-- A post to an event below its limit raises its count (R49). -/
theorem postEvent_of_room {g : Group} {e : BitVec 5} (h : g.ev.get e.toFin ≠ 0xFFFF) (x : List Nat) : postEvent g e x =
    { g with ev := g.ev.set e.toNat (g.ev.get e.toFin + 1) e.isLt, evSets := g.evSets.set e.toNat (g.evSets.get e.toFin ++ [x]) e.isLt } := if_neg h

/-- What a post to an event does to the count of each event (R49). -/
theorem postEvent_ev (g : Group) (e i : BitVec 5) (x : List Nat) : (postEvent g e x).ev.get i.toFin =
    if i = e ∧ g.ev.get i.toFin ≠ 0xFFFF then g.ev.get i.toFin + 1 else g.ev.get i.toFin := by
  by_cases hsat : g.ev.get e.toFin = 0xFFFF
  · have hno : ¬ (i = e ∧ g.ev.get i.toFin ≠ 0xFFFF) := fun h => h.2 (h.1 ▸ hsat)
    rw [postEvent_of_limit hsat, if_neg hno]
  · rw [postEvent_of_room hsat]
    by_cases he : i = e
    · subst he
      rw [if_pos ⟨rfl, hsat⟩]
      simp [Vector.get_eq_getElem, BitVec.val_toFin]
    · have hne : e.toNat ≠ i.toNat := fun h => he (BitVec.eq_of_toNat_eq h.symm)
      rw [if_neg (fun h => he h.1)]
      simp [Vector.get_eq_getElem, BitVec.val_toFin, hne]

/-- The event post of a completion raises the count of its event (R46, R49). -/
theorem postEv_ev (g : Group) (ev : BitVec 4) (i : BitVec 5) (x : List Nat) : (postEv g ev x).ev.get i.toFin =
    if ev ≠ 0 ∧ i = ev.zeroExtend 5 ∧ g.ev.get i.toFin ≠ 0xFFFF then g.ev.get i.toFin + 1 else g.ev.get i.toFin := by
  by_cases h : ev = 0#4
  · rw [postEv, if_pos h, if_neg (fun k => k.1 h)]
  · rw [postEv, if_neg h, postEvent_ev]
    simp [h]

/-- With no loop active the end of an instruction ends no body (R206). -/
theorem loopBack_of_no_loop {t : Stream} (h : t.loops.toList.all (fun l => !l.act) = true) (len : Nat) (is : List (Fin 2)) :
    loopBack t len is = (t, none) := by
  induction is with
  | nil => rfl
  | cons i rest ih =>
    have hact : (t.loops.get i).act = false := by
      have := List.all_eq_true.1 h (t.loops.get i) (by simp [Vector.get_eq_getElem])
      simpa using this
    simp only [loopBack, LoopPair.endsIn, hact, Bool.false_and, Bool.false_eq_true, if_false, ih]

/-- Outside any loop PC becomes NPC, and NPC the address after the instruction there (R185). -/
theorem advance_of_no_loop {s : State} {p : Place} {g : Group} {t : Stream} {len : Nat} (h : t.loops.toList.all (fun l => !l.act) = true)
    (hlen : lengthAt s p g t.land t.npc = some len) :
    advance s p g t = { t.land with pc := t.npc, npc := t.npc + BitVec.ofNat 64 len, npcOpen := false } := by
  rw [advance, loopBack_of_no_loop h]
  simp only [Stream.goAt, hlen, Stream.goto]

/-- Outside a step the end of an instruction halts nothing (R405). -/
theorem stepHalt_of_not_stepping {s : State} {p : Place} (h : (s.slot p).dbg.stepping = false) : stepHalt s p = s := by
  unfold stepHalt
  dsimp only
  split
  · rfl
  · split
    · rw [h, Bool.and_false, Bool.false_and, if_neg Bool.false_ne_true]
    · rfl

/-- What retirement makes of a group whose stream has set its PC pair: the counts, the places and the event post (R45, R46, R387). -/
def retiredGroup (g : Group) (st : StreamId) (r ev : BitVec 4) (t : Stream) : Group :=
  let h := g.setStream st t.retireCounts
  postEv (placeTok { h with evwait := h.evwait.filter (fun w => w.1 ≠ st) } st r t.fenced) ev t.fenced

/-- Retirement of an instruction of a group that stands in the state. -/
theorem retire_setGroup (s : State) (p : Place) (g : Group) (st : StreamId) (r ev : BitVec 4) (t : Stream) :
    retire (s.setGroup p (g.setStream st t)) p st r ev = s.setGroup p (retiredGroup g st r ev t) := by
  simp only [retire, State.group_setGroup, State.setGroup_setGroup, Group.stream_setStream, Group.setStream_setStream]
  simp [retiredGroup, Stream.retireCounts, Group.stream, Group.setStream, Vector.get_eq_getElem]

/-- Retirement of an instruction in a slot that is not being stepped. -/
theorem retireAt_of_not_stepping {s : State} {p : Place} {g : Group} {st : StreamId} {r ev : BitVec 4} {pcs : Group → Stream}
    (hg : s.group p = some g) (h : (s.slot p).dbg.stepping = false) :
    s.retireAt p st r ev pcs = s.setGroup p (retiredGroup g st r ev (pcs g)) := by
  simp only [State.retireAt, hg]
  rw [retire_setGroup, stepHalt_of_not_stepping (by rw [State.slot_setGroup]; exact h)]

@[simp] theorem retiredGroup_stream (g : Group) (st : StreamId) (r ev : BitVec 4) (t : Stream) : (retiredGroup g st r ev t).stream st = t.retireCounts := by
  simp only [retiredGroup, postEv_stream, placeTok_stream]
  exact Group.stream_setStream g st _

theorem retiredGroup_stream_ne (g : Group) {st o : StreamId} (r ev : BitVec 4) (t : Stream) (h : o ≠ st) :
    (retiredGroup g st r ev t).stream o = g.stream o := by
  simp only [retiredGroup, postEv_stream, placeTok_stream]
  exact Group.stream_setStream_ne g _ h

theorem retiredGroup_tokens (g : Group) (st : StreamId) (r ev : BitVec 4) (t : Stream) :
    (retiredGroup g st r ev t).tokens = (placeTok g st r []).tokens := by
  rw [retiredGroup, postEv_tokens]
  exact placeTok_tokens _ _ _ _ _ _ rfl

theorem retiredGroup_ev (g : Group) (st : StreamId) (r ev : BitVec 4) (t : Stream) (i : BitVec 5) : (retiredGroup g st r ev t).ev.get i.toFin =
    if ev ≠ 0 ∧ i = ev.zeroExtend 5 ∧ g.ev.get i.toFin ≠ 0xFFFF then g.ev.get i.toFin + 1 else g.ev.get i.toFin := by
  rw [retiredGroup, postEv_ev, placeTok_ev]
  rfl

/-- Settles O8: outside a loop and a step retirement sets the PC pair, and the counts, tokens and event post follow from the retired group. -/
theorem retirementMovesTheCounts : Obligations.RetirementMovesTheCounts := by
  unfold Obligations.RetirementMovesTheCounts
  intro s g r ev len t hg ht hloops hstep hlen
  subst ht
  have hgroup : (s.finishAt s.curPlace s.curStream r ev).group s.curPlace =
      some (retiredGroup g s.curStream r ev (advance s s.curPlace g (g.stream s.curStream))) := by
    rw [State.finishAt, retireAt_of_not_stepping hg hstep, State.group_setGroup]
  rw [show advance s s.curPlace g (g.stream s.curStream) = _ from advance_of_no_loop hloops hlen] at hgroup
  refine ⟨_, hgroup, ?_, ?_, ?_, ?_, ?_, ?_, fun i => ?_, ?_, retiredGroup_tokens .., fun e => retiredGroup_ev .., fun st h => retiredGroup_stream_ne g r ev _ h⟩ <;>
    rw [State.here, retiredGroup_stream] <;> rfl

end Sys2Proof.Machine
end

section
/-! PROOFS. What leaves the slots as they are: writes at home points, requests at an L2, messages, completion entries and the end of a launch. -/

namespace Sys2Proof.Machine

open Sys2Proof

theorem slots_foldl {α : Type} {f : State → α → State} (hf : ∀ s x, (f s x).slots = s.slots) (l : List α) (s : State) : (l.foldl f s).slots = s.slots := by
  induction l generalizing s with
  | nil => rfl
  | cons x l ih => rw [List.foldl_cons, ih, hf]

@[simp] theorem slots_refreshLine (s : State) (line : Nat) : (refreshLine s line).slots = s.slots := by
  unfold refreshLine; dsimp only; split <;> rfl

@[simp] theorem slots_dirtyLine (s : State) (pa : Nat) : (dirtyLine s pa).slots = s.slots := by
  unfold dirtyLine; split <;> rfl

@[simp] theorem slots_putHome (s : State) (pa : Nat) (bs : List Byte) : (putHome s pa bs).slots = s.slots := by
  show (dirtyLine (refreshLine s (pa / 128)) pa).slots = _
  rw [slots_dirtyLine, slots_refreshLine]

@[simp] theorem slots_logErr (s : State) (e : ErrRec) : (logErr s e).slots = s.slots := by
  unfold logErr
  generalize e.dwords = ds
  unfold logDwords
  split
  · rfl
  · dsimp only
    generalize dawnAddr (0x20000000 + 0x40 + 64 * _) = a
    generalize dawnAddr 0x20000008 = b
    rw [slots_putHome, slots_putHome]

@[simp] theorem slots_watchFill (s : State) (w : Watch) (touched : Nat → Bool) : (watchFill s w touched).slots = s.slots := by
  unfold watchFill
  dsimp only
  split
  · exact slots_logErr _ _
  · rfl

@[simp] theorem slots_pushTask (s : State) (t : Task) : (pushTask s t).slots = s.slots := by
  unfold pushTask; split <;> rfl

@[simp] theorem slots_watchHits (s : State) (d : DieId) (touched : Nat → Bool) : (watchHits s d touched).slots = s.slots := by
  show (List.foldl _ (List.foldl _ s _) _).slots = _
  rw [slots_foldl (fun _ _ => slots_pushTask _ _), slots_foldl (fun _ _ => slots_watchFill _ _ _)]

@[simp] theorem slots_watchTest (s : State) (pa : Nat) (touched : Nat → Bool) : (watchTest s pa touched).slots = s.slots := by
  unfold watchTest
  split
  · split
    · rfl
    · exact slots_watchHits _ _ _
  · rfl

@[simp] theorem slots_homeWrite (s : State) (pa : Nat) (bs : List Byte) : (homeWrite s pa bs).slots = s.slots := by
  rw [homeWrite, slots_watchTest, slots_putHome]

@[simp] theorem slots_homeWrite8 (s : State) (pa : Nat) (v : BitVec 64) : (homeWrite8 s pa v).slots = s.slots := slots_homeWrite _ _ _

@[simp] theorem slots_setL2 (s : State) (d : DieId) (die : Die) : (setL2 s d die).slots = s.slots := by
  have h : (writtenBack (s.setDie d die) d (s.dies.get d).l2).slots = s.slots := by
    unfold writtenBack; split <;> rfl
  unfold setL2 shedPoison
  dsimp only
  split <;> exact h

@[simp] theorem slots_l2Touch (s : State) (pa : Nat) (tag : ReqTag) (ef write : Bool) : (l2Touch s pa tag ef write).slots = s.slots := by
  unfold l2Touch
  split
  · rw [slots_setL2, slots_refreshLine]
  · rfl

@[simp] theorem slots_schedEvt (s : State) (body : List (BitVec 64)) : (schedEvt s body).slots = s.slots := by
  unfold schedEvt; split <;> rfl

@[simp] theorem slots_writeCpl (s : State) (c : Completion) : (writeCpl s c).slots = s.slots := by
  unfold writeCpl
  dsimp only
  split <;> simp only [slots_schedEvt, slots_homeWrite8, slots_l2Touch]

@[simp] theorem slots_flushCpl (fuel : Nat) (s : State) : (flushCpl fuel s).slots = s.slots := by
  induction fuel generalizing s with
  | zero => rfl
  | succ n ih =>
    unfold flushCpl
    split
    · rfl
    · split
      · rw [ih, slots_writeCpl]
      · rfl

@[simp] theorem slots_pushCpl (s : State) (c : Completion) : (pushCpl s c).slots = s.slots := slots_flushCpl _ _

theorem slots_retireEntries (s : State) (l : Link) : (retireEntries s l).slots = s.slots :=
  slots_foldl (fun _ _ => by split <;> rfl) _ _

@[simp] theorem slots_freeChain (s : State) (n : BitVec 12) : (freeChain s n).slots = s.slots := by
  unfold freeChain
  split
  · rfl
  · exact slots_foldl slots_retireEntries _ _

theorem slots_freeLaunchState (s : State) (lid : BitVec 64) : (freeLaunchState s lid).slots = s.slots := by
  unfold freeLaunchState
  dsimp only
  refine (slots_foldl ?_ _ _).trans ((slots_foldl ?_ _ _).trans (slots_foldl ?_ _ _))
  · intro _ _; exact State.setDie_slots _ _ _
  · intro _ _
    refine slots_foldl ?_ _ _
    intro _ _
    split <;> rfl
  · intro _ _; exact slots_freeChain _ _

@[simp] theorem slots_launchEnd (s : State) (lid : BitVec 64) : (launchEnd s lid).slots = s.slots := by
  unfold launchEnd
  split
  · rfl
  · split
    · have h := slots_freeLaunchState s lid
      generalize freeLaunchState s lid = u at h ⊢
      exact (slots_pushCpl _ _).trans h
    · rfl

@[simp] theorem slots_returnPages (s : State) (ps : List PageEntry) : (returnPages s ps).slots = s.slots :=
  slots_foldl (fun _ _ => by split <;> rfl) _ _

@[simp] theorem slots_groupEvt (s : State) (lid : BitVec 64) (cls : BitVec 3) : (groupEvt s lid cls).slots = s.slots := slots_schedEvt _ _

@[simp] theorem slots_setLaunch (s : State) (l : Launch) : (setLaunch s l).slots = s.slots := by rw [setLaunch]

@[simp] theorem slots_dropFrames (s : State) (c : CoreId) (lid : BitVec 64) (gi : BitVec 16) (hdl : Bool) : (dropFrames s c lid gi hdl).slots = s.slots := by
  unfold dropFrames; exact State.setCore_slots _ _ _

@[simp] theorem slots_dropSaved (s : State) (lid : BitVec 64) (gi : BitVec 16) (frame : Nat) (c : CoreId) : (dropSaved s lid gi frame c).slots = s.slots := by
  -- Unfolded under a projection, its match on the launch found would be evaluated: it is unfolded as a function, in an equation.
  obtain ⟨f, hf⟩ : ∃ f, f = @dropSaved := ⟨_, rfl⟩
  obtain ⟨t, ht⟩ : ∃ t, t = f s lid gi frame c := ⟨_, rfl⟩
  rw [← hf, ← ht]
  delta dropSaved at hf
  subst hf
  dsimp only at ht
  generalize (homeDword s (frame + 0x30)).extractLsb' 16 3 = cls at ht
  generalize (readPages s (objPages frame)).toList = ps at ht
  have hu : (groupEvt (returnPages (dropFrames s c lid gi false) ps) lid cls).slots = s.slots := by
    rw [slots_groupEvt, slots_returnPages, slots_dropFrames]
  generalize groupEvt (returnPages (dropFrames s c lid gi false) ps) lid cls = u at ht hu
  split at ht
  · rw [ht, slots_launchEnd, slots_setLaunch, hu]
  · rw [ht, hu]

end Sys2Proof.Machine
end

section
/-! PROOFS. NOP, YIELD, IFENCE, QMARK and ENDG (R37, R91, R203, R209), and the freeing of a slot. -/

namespace Sys2Proof.Machine

open Sys2Proof

theorem group_of_slots {s t : State} (h : t.slots = s.slots) (p : Place) : t.group p = s.group p := by rw [State.group, State.group, h]

/-- A slot that becomes free holds no group, whether or not a record binds in it next (R323, R331). -/
theorem freeSlot_group (s : State) (p : Place) : (freeSlot s p).group p = none := by
  have bound {u : State} {x : Slot} (h : x.group = none) : (u.setSlot p x).group p = none := by
    show ((u.setSlot p x).slot p).group = none
    rw [State.slot_setSlot]; exact h
  unfold freeSlot
  dsimp only
  split
  · exact bound (by simp)
  · split
    · exact bound (by simp)
    · exact bound (by simp)

/-- A group that ends leaves its slot (R37, R69). -/
theorem endGroup_group (s : State) (p : Place) : (endGroup s p).group p = none := by
  unfold endGroup
  split
  · assumption
  · rename_i g _
    have h : (groupEvt (vacate s p g) g.lr.id g.cls).group p = none := by
      rw [group_of_slots (slots_groupEvt _ _ _)]; exact freeSlot_group _ p
    dsimp only
    split
    · rw [group_of_slots (slots_dropSaved _ _ _ _ _)]; exact h
    · split
      · rw [group_of_slots (slots_launchEnd _ _)]; exact h
      · exact h

/-- The streams of a group apart from the current one do not see its instruction take its tokens. -/
theorem stream_taken_ne (s : State) (g : Group) (r : BitVec 4) {o : StreamId} (h : o ≠ s.curStream) : (s.taken g r).stream o = g.stream o :=
  Group.stream_setStream_ne (takeTok g s.curStream r) _ h

/-- A loop-back changes only the loop pairs (R206). -/
theorem loopBack_eq (t : Stream) (len : Nat) (is : List (Fin 2)) : (loopBack t len is).1 = { t with loops := (loopBack t len is).1.loops } := by
  induction is generalizing t with
  | nil => rfl
  | cons i rest ih =>
    unfold loopBack
    dsimp only
    split
    · split
      · rfl
      · exact ih _
    · exact ih t

/-- The update of the PC pair leaves SEQ as it was (R185). -/
theorem advance_seq (s : State) (p : Place) (g : Group) (t : Stream) : (advance s p g t).seq = t.seq := by
  have hgo : ∀ (u : Stream) (a : BitVec 64), (Stream.goAt s p g u a).seq = u.seq := fun u a => by
    unfold Stream.goAt Stream.goto; split <;> rfl
  have hl : (loopBack t t.len (loopOrder t.late)).1.seq = t.seq := by rw [loopBack_eq]
  unfold advance
  split <;> (rename_i u _ heq; rw [heq] at hl; rw [hgo]; exact hl)

/-- An instruction whose body takes effect, and what follows its retirement. -/
theorem plainThen_finish {s : State} {g h : Group} {roles : List StreamId} {r ev : BitVec 4} {body : Env → Act State} {after : Env → State → State}
    (hc : CanRun s g roles r) (hb : body (s.env g r) = .done (s.setGroup s.curPlace h)) :
    plainThen roles r ev body after s = .next (stepHalt (after (s.env g r) (s.setGroup s.curPlace
      (retiredGroup h s.curStream r ev (advance (s.setGroup s.curPlace h) s.curPlace h (h.stream s.curStream))))) s.curPlace) := by
  rw [plainThen_run hc, hb]
  have hroom : canPlace (s.env g r).g (s.env g r).st r = true := hc.place
  have hgroup : (s.setGroup s.curPlace h).group (s.env g r).p = some h := State.group_setGroup s s.curPlace h
  simp only [settleAct, hroom, if_true, retireIn, hgroup]
  show Host.Outcome.next (stepHalt (after _ (retire ((s.setGroup s.curPlace h).setGroup s.curPlace (h.setStream s.curStream _)) s.curPlace s.curStream r ev)) s.curPlace) = _
  rw [State.setGroup_setGroup, retire_setGroup]
  rfl

/-- A stream that ends while another runs on (R37). -/
theorem endStream_of_running {s : State} {e : Env} {g : Group} (hg : s.group e.p = some g) {o : StreamId} (ho : o ≠ e.st) (hr : (g.stream o).ended = false) :
    endStream e s = s.setGroup e.p (g.setStream e.st { g.stream e.st with ended := true }) := by
  have hall : StreamId.all.all (fun st => ((g.setStream e.st { g.stream e.st with ended := true }).stream st).ended) = false := by
    refine List.all_eq_false.2 ⟨o, by cases o <;> decide, ?_⟩
    rw [Group.stream_setStream_ne _ _ ho, hr]; decide
  simp only [endStream, hg, hall, Bool.false_eq_true, if_false]

/-- With its last stream the group ends (R37). -/
theorem endStream_of_last {s : State} {e : Env} {g : Group} (hg : s.group e.p = some g) (hr : ∀ o, o ≠ e.st → (g.stream o).ended = true) :
    endStream e s = endGroup (s.setGroup e.p (g.setStream e.st { g.stream e.st with ended := true })) e.p := by
  have hall : StreamId.all.all (fun st => ((g.setStream e.st { g.stream e.st with ended := true }).stream st).ended) = true := by
    refine List.all_eq_true.2 (fun o _ => ?_)
    by_cases ho : o = e.st
    · rw [ho, Group.stream_setStream]
    · rw [Group.stream_setStream_ne _ _ ho]; exact hr o ho
  simp only [endStream, hg, hall, if_true]

/-- The group of an ENDG as its retirement leaves it, its stream not yet ended. -/
def endgRetired (s : State) (g : Group) (r : BitVec 4) : Group :=
  retiredGroup (s.taken g r) s.curStream r 0 (advance (s.began g r) s.curPlace (s.taken g r) (s.here (s.taken g r)))

/-- The same group with the stream ended. -/
def endgEnded (s : State) (g : Group) (r : BitVec 4) : Group :=
  (endgRetired s g r).setStream s.curStream { (endgRetired s g r).stream s.curStream with ended := true }

/-- Taking its tokens keeps a stream from nothing that ENDG waits for. -/
theorem mayEnd_taken (s : State) (g : Group) (r : BitVec 4) : mayEnd (s.taken g r) s.curStream = mayEnd g s.curStream := by
  have hended : ∀ o, ((s.taken g r).stream o).ended = (g.stream o).ended := fun o => by
    by_cases ho : o = s.curStream
    · rw [ho]; exact (congrArg Stream.ended (here_taken s g r)).trans rfl
    · rw [stream_taken_ne s g r ho]
  have hself : (s.taken g r).stream s.curStream = { s.here g with took := some r, tookSets := takenSets g s.curStream r } := here_taken s g r
  simp only [mayEnd, hended, hself]
  rfl

/-- A slot without a group is not halted by a step (R405). -/
theorem stepHalt_of_none {s : State} {p : Place} (h : s.group p = none) : stepHalt s p = s := by
  unfold stepHalt
  dsimp only
  rw [show (s.slot p).group = none from h]

/-- ENDG of a stream that may end retires, and ends its stream. -/
theorem execEndg_of_mayEnd {s : State} {g : Group} {r : BitVec 4} (hc : CanRun s g anyStream r) (hm : mayEnd g s.curStream = true) :
    execEndg r s = .next (stepHalt (endStream (s.env g r) (s.setGroup s.curPlace (endgRetired s g r))) s.curPlace) :=
  plainThen_finish hc (if_pos ((mayEnd_taken s g r).trans hm))

/-- The other streams stand in the retired group as they were. -/
theorem endgRetired_stream_ne (s : State) (g : Group) (r : BitVec 4) {o : StreamId} (h : o ≠ s.curStream) :
    (endgRetired s g r).stream o = g.stream o := (retiredGroup_stream_ne _ _ _ _ h).trans (stream_taken_ne s g r h)

theorem endgRetired_seq (s : State) (g : Group) (r : BitVec 4) : (s.here (endgRetired s g r)).seq = (s.here g).seq + 1 := by
  rw [State.here, endgRetired, retiredGroup_stream, Stream.retireCounts, advance_seq, here_taken]

/-- What IFENCE waits for is the same with its tokens taken. -/
theorem ownPending_began (s : State) (g : Group) (r : BitVec 4) :
    ownPending (s.began g r) s.curPlace (s.here (s.taken g r)) = ownPending s s.curPlace (s.here g) := by rw [here_taken]; rfl

/-- Settles O19: each of the five completes with its effect, and ENDG by whether another stream of the group still runs. -/
theorem controlInstructionsComplete : Obligations.ControlInstructionsComplete := by
  unfold Obligations.ControlInstructionsComplete
  intro s g r hc
  have hgroup : ∀ h, (s.setGroup s.curPlace h).group s.curPlace = some h := fun h => State.group_setGroup s s.curPlace h
  refine ⟨onStream_done hc rfl, ?_, onStream_done hc rfl, fun hl hs ho => ?_, fun hm ⟨o, ho, hrun⟩ hstep => ?_, fun hm hall => ?_⟩
  · show execYield r s = _
    exact plain_finish hc rfl
  · show execIfence r s = _
    refine plain_done hc (f := fun h => h.setStream s.curStream { h.stream s.curStream with prepd := 0, pre := [], mark := (h.stream s.curStream).mark + 1 }) ?_
    have hready : ((s.env g r).t.loads.isEmpty && (s.env g r).t.stores.isEmpty && !ownPending (s.env g r).s (s.env g r).p (s.env g r).t) = true := by
      show ((s.here (s.taken g r)).loads.isEmpty && (s.here (s.taken g r)).stores.isEmpty && !ownPending (s.began g r) s.curPlace (s.here (s.taken g r))) = true
      rw [ownPending_began, ho, here_taken]
      simp only [hl, hs, List.isEmpty_nil, Bool.and_self, Bool.not_false]
    rw [if_pos hready]
    show Act.done ((s.began g r).setGroup s.curPlace _) = _
    rw [State.began, State.setGroup_setGroup]
    rfl
  · have hslot : ∀ h, ((s.setGroup s.curPlace h).slot s.curPlace).dbg.stepping = false := fun h => by rw [State.slot_setGroup]; exact hstep
    refine ⟨s.setGroup s.curPlace (endgEnded s g r), endgEnded s g r, (execEndg_of_mayEnd hc hm).trans ?_, hgroup _, ?_, ?_, ?_, fun _ => rfl⟩
    · rw [endStream_of_running (hgroup _) ho (by rw [endgRetired_stream_ne s g r ho]; exact hrun)]
      have htwice : (s.setGroup s.curPlace (endgRetired s g r)).setGroup s.curPlace (endgEnded s g r) = s.setGroup s.curPlace (endgEnded s g r) :=
        State.setGroup_setGroup ..
      show Host.Outcome.next (stepHalt ((s.setGroup s.curPlace (endgRetired s g r)).setGroup s.curPlace (endgEnded s g r)) s.curPlace) = _
      rw [htwice, stepHalt_of_not_stepping (hslot _)]
    · rw [State.here, endgEnded, Group.stream_setStream]
    · rw [State.here, endgEnded, Group.stream_setStream]
      exact endgRetired_seq s g r
    · intro st hst
      rw [endgEnded, Group.stream_setStream_ne _ _ hst, endgRetired_stream_ne s g r hst]
  · refine ⟨_, execEndg_of_mayEnd hc hm, ?_⟩
    rw [endStream_of_last (hgroup _) (fun o ho => by rw [endgRetired_stream_ne s g r ho]; exact hall o ho)]
    have hnone := endGroup_group ((s.setGroup s.curPlace (endgRetired s g r)).setGroup s.curPlace (endgEnded s g r)) s.curPlace
    exact (congrArg (State.group · s.curPlace) (stepHalt_of_none hnone)).trans hnone

end Sys2Proof.Machine
end

section
/-! PROOFS. EVPOST, EVPOST.g and EVWAIT (R49 to R52, R225). -/

namespace Sys2Proof.Machine

open Sys2Proof

/-- The operands of an instruction that are full are full still once its tokens are taken. -/
theorem fulls_env {s : State} {g : Group} {r : BitVec 4} {rs : List (BitVec 6)} (h : (s.here g).fulls rs) : (s.env g r).t.fulls rs := by
  have hfun : (s.env g r).t.isFull = (s.here g).isFull := funext (isFull_taken s g r)
  rw [Stream.fulls, hfun]; exact h

/-- An instruction whose scalar operands are full reads them (R65). -/
theorem reads_of_fulls {α : Type} {t : Stream} {rs : List (BitVec 6)} (h : t.fulls rs) (k : Act α) : t.reads rs k = k := if_pos h

theorem fulls_singleton {t : Stream} {a : BitVec 6} (h : t.isFull a = true) : t.fulls [a] := by
  simp only [Stream.fulls, List.all_cons, List.all_nil, h, Bool.and_true]

/-- EVPOST whose release is complete posts to its event with the set of the release (R52). -/
theorem evpost_posts {e : Env} {v : BitVec 5} (h : releaseDone e.s e.p e.t 0 = true) :
    evpost v e = .done (e.s.setGroup e.p (postEvent e.g v (liveSet e.s e.p e.t))) := if_pos h

theorem evpost_waits {e : Env} {v : BitVec 5} (h : releaseDone e.s e.p e.t 0 = false) : evpost v e = .wait e.s :=
  if_neg (by rw [h]; exact Bool.false_ne_true)

section
variable {e : Env} {v : BitVec 5} {a : BitVec 6} (hf : e.t.fulls [a])
include hf

/-- EVPOST.g of the group's own index is EVPOST (R225). -/
theorem evpostG_own (h : e.t.getX a = e.g.gindex.zeroExtend 64) : evpostG v a e = evpost v e := by
  rw [evpostG, reads_of_fulls hf]; exact if_pos h

theorem evpostG_outside_gang (h : e.t.getX a ≠ e.g.gindex.zeroExtend 64) (hg : e.g.lr.gang = false) : evpostG v a e = .trap (.plain Cause.evRemote) := by
  rw [evpostG, reads_of_fulls hf]; dsimp only; rw [if_neg h, if_pos hg]

theorem evpostG_no_such_group (h : e.t.getX a ≠ e.g.gindex.zeroExtend 64) (hg : e.g.lr.gang = true) (hx : e.g.lr.g ≤ (e.t.getX a).toNat) :
    evpostG v a e = .trap (.plain Cause.evNogrp) := by
  rw [evpostG, reads_of_fulls hf]; dsimp only; rw [if_neg h, if_neg (by rw [hg]; decide), if_pos hx]

/-- EVPOST.g posts in another group where that is bound (R51). -/
theorem evpostG_bound {q : Place} {k : Group} (h : e.t.getX a ≠ e.g.gindex.zeroExtend 64) (hg : e.g.lr.gang = true) (hx : (e.t.getX a).toNat < e.g.lr.g)
    (hd : releaseDone e.s e.p e.t 4 = true) (hq : boundAt e.s e.g.lr.id ((e.t.getX a).extractLsb' 0 16) = some q) (hk : e.s.group q = some k)
    (hl : linkHeld e.s (dieOfPlace e.p) (dieOfPlace q) = false) : evpostG v a e = .done (e.s.setGroup q (postEvent k v [])) := by
  rw [evpostG, reads_of_fulls hf]
  dsimp only
  rw [if_neg h, if_neg (by rw [hg]; decide), if_neg (by omega), if_neg (by rw [hd]; decide)]
  simp only [hq, hk, hl, Bool.false_eq_true, if_false]

end

/-- The streams that wait for an event once a stream's EVWAIT of it has joined them (R50). -/
def evwaiters (g : Group) (st : StreamId) (v : BitVec 5) : List (StreamId × BitVec 5) :=
  if g.evwait.contains (st, v) then g.evwait else g.evwait ++ [(st, v)]

theorem mem_evwaiters (g : Group) (st : StreamId) (v : BitVec 5) : (st, v) ∈ evwaiters g st v := by
  unfold evwaiters
  split
  · next h => exact List.contains_iff_mem.1 h
  · exact List.mem_append_right _ (List.mem_singleton.2 rfl)

/-- With no earlier stream waiting for the event, the first waiter is the stream itself (R50). -/
theorem first_evwaiter {g : Group} {st : StreamId} {v : BitVec 5} (h : g.evwait.all (fun w => w.2 ≠ v ∨ w.1 = st) = true) :
    (evwaiters g st v).find? (fun w => w.2 == v) = some (st, v) := by
  have hall : ∀ w ∈ evwaiters g st v, w.2 = v → w.1 = st := by
    intro w hw hv
    have hold : ∀ w ∈ g.evwait, w.2 = v → w.1 = st := fun w hm hv => by
      have := of_decide_eq_true (List.all_eq_true.1 h w hm)
      exact this.resolve_left (fun hne => hne hv)
    unfold evwaiters at hw
    split at hw
    · exact hold w hw hv
    · rcases List.mem_append.1 hw with hw | hw
      · exact hold w hw hv
      · rw [List.mem_singleton.1 hw]
  cases hf : (evwaiters g st v).find? (fun w => w.2 == v) with
  | none => exact absurd (List.find?_eq_none.1 hf _ (mem_evwaiters g st v)) (by simp)
  | some w =>
    have hv : w.2 = v := by simpa using List.find?_some hf
    exact congrArg some (Prod.ext (hall w (List.mem_of_find?_eq_some hf) hv) hv)

/-- An EVWAIT of a non-zero count with no earlier waiter takes one from it (R50). -/
theorem evwait_takes {e : Env} {v : BitVec 5} (hn : e.g.ev.get v.toFin ≠ 0) (hw : e.g.evwait.all (fun w => w.2 ≠ v ∨ w.1 = e.st) = true) :
    let n := (e.g.ev.get v.toFin).toNat
    let sets := e.g.evSets.get v.toFin
    evwait v e = .done (e.s.setGroup e.p ({ e.g with
      ev := e.g.ev.set v.toNat (e.g.ev.get v.toFin - 1) v.isLt, evSets := e.g.evSets.set v.toNat (dropSet n sets) v.isLt,
      evwait := (evwaiters e.g e.st v).filter (· ≠ (e.st, v)) }.setStream e.st
        { e.t with cum := e.t.cum ++ headSet n sets, acq := e.t.acq ++ headSet n sets })) := by
  have hfind := first_evwaiter hw
  have hcount : (e.g.ev.get v.toFin != 0#16) = true := bne_iff_ne.2 hn
  unfold evwaiters at hfind
  unfold evwait
  dsimp only
  rw [hfind, hcount, if_pos (by simp)]
  rfl

/-- An EVWAIT of a count of 0 joins those that wait (R50). -/
theorem evwait_waits {e : Env} {v : BitVec 5} (hn : e.g.ev.get v.toFin = 0) :
    evwait v e = .wait (e.s.setGroup e.p { e.g with evwait := evwaiters e.g e.st v }) := by
  have hcount : (e.g.ev.get v.toFin != 0#16) = false := bne_eq_false_iff_eq.2 hn
  unfold evwait
  dsimp only
  rw [hcount, if_neg (by simp)]
  rfl

/-- A post to an event sets its SAT bit at the limit, and no other bit that a test of it reads (R49). -/
theorem postEvent_evstat (h : Group) (n : BitVec 5) (l : List Nat) :
    (postEvent h n l).evstat.getLsbD n.toNat = (h.evstat.getLsbD n.toNat || decide (h.ev.get n.toFin = 0xFFFF)) := by
  by_cases hsat : h.ev.get n.toFin = 0xFFFF#16
  · have hn : n.toNat < 32 := n.isLt
    rw [postEvent_of_limit hsat]
    simp [hsat, hn]
  · rw [postEvent_of_room hsat]
    simp [hsat]

/-- Settles O28: the posts by whether the release is complete and by the index, the wait by the count and the earlier waiters. -/
theorem eventInstructionsComplete : Obligations.EventInstructionsComplete := by
  unfold Obligations.EventInstructionsComplete
  intro s g r v a hc hfull e A posts waits
  have hf : e.t.fulls [a] := fulls_env (fulls_singleton hfull)
  have hA : e.t.getX a = A := getX_taken s g r a
  refine ⟨fun hd => ⟨plain_finish hc (evpost_posts hd), fun hown => ?_⟩, fun hd hcut => plain_wait hc hcut (evpost_waits hd), fun hne hg => ?_,
    fun hne hg hx => ?_, fun q h hne hg hx hd hq hh hl => ?_, fun hn hw => ?_, fun hn => ?_, fun h n l => ⟨?_, postEvent_evstat h n l⟩⟩
  · exact plain_finish hc ((evpostG_own hf (hA.trans hown)).trans (evpost_posts hd))
  · exact plain_trap hc (evpostG_outside_gang hf (by rw [hA]; exact hne) hg)
  · exact plain_trap hc (evpostG_no_such_group hf (by rw [hA]; exact hne) hg (by rw [hA]; exact hx))
  · exact plain_finish hc (evpostG_bound hf (by rw [hA]; exact hne) hg (by rw [hA]; exact hx) hd (by rw [hA]; exact hq) hh hl)
  · intro n sets ev evSets t'
    exact ⟨(evwaiters e.g e.st v).filter (· ≠ (e.st, v)), plain_finish hc (evwait_takes hn hw), by simp [e, State.env]⟩
  · refine ⟨evwaiters e.g e.st v, fun hcut => ?_, mem_evwaiters e.g e.st v⟩
    exact plain_wait hc hcut (evwait_waits hn)
  · rw [postEvent_ev]
    by_cases hs : h.ev.get n.toFin = 0xFFFF
    · rw [if_pos hs, if_neg (fun k => k.2 hs), hs]
    · rw [if_neg hs, if_pos ⟨rfl, hs⟩]

end Sys2Proof.Machine
end

section
/-! PROOFS. JOBNX, JOBGO and TQADD (R57, R233 to R236, R328). -/

namespace Sys2Proof.Machine

open Sys2Proof

/-- An instruction whose body raises a cause after a part of its effect. -/
theorem plain_trapIn {s s2 : State} {g : Group} {roles : List StreamId} {r ev : BitVec 4} {body : Env → Act State} {x : Trap}
    (h : CanRun s g roles r) (hb : body (s.env g r) = .trapIn s2 x) : plain roles r ev body s = .next (s.trapsIn s2 g x) := by
  rw [plain, plainThen_run h, hb, State.trapsIn]
  show _ = Host.Outcome.next (raise s2 s.curPlace _ x)
  rw [show (s.here g).pc = (s.here (s.taken g r)).pc by rw [here_taken]]
  rfl

/-- An instruction that writes a full register does not wait for it (R65). -/
theorem writes_of_full {α : Type} {t : Stream} {d : BitVec 6} (h : t.isFull d = true) (k : Act α) : t.writes d k = k := if_pos h

/-- A record whose queue has room is accepted (R236). -/
theorem placeTask_of_room {e : Env} {s : State} {t : Vector (BitVec 64) 4} (h : queueRoom s (taskClass t) = true) :
    placeTask e s t = .done (acceptTask s { dws := t, asid := e.g.lr.asid, lid := e.g.lr.id, no := 0 }) := by
  rw [placeTask, h, pushTask, if_pos h]
  rfl

theorem placeTask_of_full {e : Env} {s : State} {t : Vector (BitVec 64) 4} (h : queueRoom s (taskClass t) = false) : placeTask e s t = .wait s := by
  rw [placeTask, h]
  rfl

/-- What the placement of a record comes to once an instruction's body has come down to it. -/
theorem plain_placeTask {s t : State} {g : Group} {roles : List StreamId} {r : BitVec 4} {body : Env → Act State} {x : Vector (BitVec 64) 4}
    (hc : CanRun s g roles r) (hb : body (s.env g r) = placeTask (s.env g r) t x) :
    (queueRoom t (taskClass x) = true → plain roles r 0 body s =
      .next ((acceptTask t { dws := x, asid := g.lr.asid, lid := g.lr.id, no := 0 }).finishAt s.curPlace s.curStream r 0)) ∧
    (queueRoom t (taskClass x) = false → (s.slot s.curPlace).cutNow = false → plain roles r 0 body s = .next t) :=
  ⟨fun hroom => plain_finish hc (hb.trans (placeTask_of_room hroom)), fun hfull hcut => plain_wait hc hcut (hb.trans (placeTask_of_full hfull))⟩

/-- The check of a card that is reached and well formed (R234). -/
theorem checkCard_of_card {e : Env} {s s2 : State} {va : BitVec 64} {own : BitVec 10} {k : State → Act State} {pa : Nat} {c : Card}
    (ho : object { e with s := s } va 64 64 0 own = .ok s2 pa) (hr : readCard s2 pa = some c) :
    checkCard e s va own k = if c.launch = 0 then .trapIn s2 (.plain own) else k s2 := by
  simp only [checkCard, ho, hr]

/-- The state once the lines of a record that was reached have been asked for at the L2 (R75). -/
def Target.asked (tgt : Target) (s : State) (asid : BitVec 16) (va : BitVec 64) (n : Nat) : State :=
  match tgt with
  | .mem pa _ => l2Run s pa n (some (asid, va.toNat)) false false
  | _ => s

/-- A record that an instruction reaches and reads whole. -/
theorem recordAt_of_whole {e : Env} {va : BitVec 64} {n : Nat} {k : State → List Byte → Act State} {s2 s3 : State} {tgt : Target}
    (hr : reach e va 0 false = .ok s2 tgt) (hd : ∀ die off, tgt ≠ .dcr die off) (hl : tgt.loc.locked s2 e.p n = false)
    (hp : readyPages s2 e.p e.g [tgt.loc] = .ready s3) (hb : (readRun s3 e.p e.g e.t e.t.storesIn tgt.loc n).bad = []) :
    recordAt e va n k = k (tgt.asked s3 e.g.lr.asid va n) (readRun s3 e.p e.g e.t e.t.storesIn tgt.loc n).bytes := by
  unfold recordAt
  rw [hr]
  cases tgt with
  | dcr die off => exact absurd rfl (hd die off)
  | spad off => simp only [hl, hp, hb, Bool.false_eq_true, if_false, ne_eq, not_true_eq_false, Target.asked]
  | mem pa ht => simp only [hl, hp, hb, Bool.false_eq_true, if_false, ne_eq, not_true_eq_false, Target.asked]

section
variable {e : Env} {u v : State} {va : BitVec 64} {k : State → Act State}

/-- A record of KIND 2 whose object lies in the scratchpad window or cannot be read is not looked at further (log 36). -/
theorem refuseFrame_in_window (h : inWindow va = true) : refuseFrame e u va k = k u := if_pos h

theorem refuseFrame_unreadable {c : BitVec 10} {l : BitVec 3} (h : inWindow va = false)
    (hx : translate u (coreOf e.p) e.g.lr.asid va 0 false e.g.trapped.isSome = .bad v c l) : refuseFrame e u va k = k v := by
  rw [refuseFrame, if_neg (by rw [h]; decide), hx]

/-- A record of KIND 2 whose object is found is refused where it is a save frame in HBM (R312, R328). -/
theorem refuseFrame_found {p' : Nat} {ht : Bool} (h : inWindow va = false)
    (hx : translate u (coreOf e.p) e.g.lr.asid va 0 false e.g.trapped.isSome = .ok v p' ht) : refuseFrame e u va k =
      if (region v p').isHbm = false then k v
      else if homeNat (l2Touch v p' (some (e.g.lr.asid, va.toNat)) false false) p' 4 = magicSave.toNat then
        .trapIn (l2Touch v p' (some (e.g.lr.asid, va.toNat)) false false) (.plain Cause.coDesc)
      else k (l2Touch v p' (some (e.g.lr.asid, va.toNat)) false false) := by
  rw [refuseFrame, if_neg (by rw [h]; decide), hx]

end

/-- JOBNX of a card that is reached, its registers full. -/
theorem jobnx_of_object {e : Env} {d a : BitVec 6} {s2 : State} {pa : Nat} (hf : e.t.fulls [a]) (hd : e.t.isFull d = true)
    (ho : object e (e.t.getX a) 64 64 1 Cause.jobDesc = .ok s2 pa) :
    (readCard s2 pa = none → jobnx d a e = .trapIn s2 (.plain Cause.jobDesc)) ∧
    ∀ c, readCard s2 pa = some c →
      let k := dealChunk c (Nat.max 1 (boundGroups s2 e.g.lr.id))
      jobnx d a e = .done ((homeWrite s2 (pa + 0x18) (dwordBytes [BitVec.ofNat 64 ((c.next + k) % 2 ^ 40), BitVec.ofNat 64 (c.rem - k)])).setGroup e.p
        (e.g.setStream e.st (e.t.arrive d (BitVec.ofNat 64 (c.next * 2 ^ 24 + k))))) := by
  rw [jobnx, reads_of_fulls hf, writes_of_full hd]
  simp only [ho]
  exact ⟨fun h => by rw [h], fun c h => by rw [h]⟩

/-- JOBGO of a number of groups in range over a card that names a launch record, its release complete. -/
theorem jobgo_of_card {e : Env} {a b : BitVec 6} {s2 : State} {pa : Nat} {c : Card} (hf : e.t.fulls [a, b])
    (h1 : 1 ≤ (e.t.getX b).toNat) (h2 : (e.t.getX b).toNat ≤ 65536) (ho : object e (e.t.getX a) 64 64 0 Cause.jobDesc = .ok s2 pa)
    (hr : readCard s2 pa = some c) (hl : c.launch ≠ 0) (hd : releaseDone s2 e.p e.t 4 = true) :
    jobgo a b e = placeTask e s2 (jobTask e.g.cls (e.t.getX a) (e.t.getX b).toNat) := by
  rw [jobgo, reads_of_fulls hf]
  dsimp only
  rw [if_neg (by omega), checkCard_of_card ho hr, if_neg hl, if_neg (by rw [hd]; decide)]

/-- TQADD of an aligned record, its release complete, comes to what the record says. -/
theorem tqadd_of_aligned {e : Env} {a : BitVec 6} (hf : e.t.fulls [a]) (ha : (e.t.getX a).toNat % 32 = 0) (hd : releaseDone e.s e.p e.t 4 = true) :
    tqadd a e = recordAt e (e.t.getX a) 32 (fun s bs =>
      if taskOk (taskOf bs) = false then .trapIn s (.plain Cause.tqDesc)
      else if (taskOf bs)[0].extractLsb' 60 4 = 1#4 then checkCard e s (taskOf bs)[1] Cause.jobDesc (fun s => placeTask e s (taskForClass (taskOf bs) e.g.cls))
      else refuseFrame e s (taskOf bs)[1] (fun s => placeTask e s (taskForClass (taskOf bs) e.g.cls))) := by
  rw [tqadd, reads_of_fulls hf]
  dsimp only
  rw [if_neg (by rw [ha]; decide), if_neg (by rw [hd]; decide)]

/-- Settles O32: the body of each instruction comes down to a cause, a deal or the placement of a record. -/
theorem jobAndTaskInstructionsComplete : Obligations.JobAndTaskInstructionsComplete := by
  unfold Obligations.JobAndTaskInstructionsComplete
  intro s s2 s3 s4 g r d a b pa c hc hfull e A n active k dealt places
  have hall := fulls_env (r := r) hfull
  simp only [Stream.fulls, List.all_cons, List.all_nil, Bool.and_true, Bool.and_eq_true] at hall
  obtain ⟨hfa, hfb, hfd⟩ := hall
  have hf : e.t.fulls [a] := fulls_singleton hfa
  have hab : e.t.fulls [a, b] := by simp only [Stream.fulls, List.all_cons, List.all_nil, Bool.and_true, Bool.and_eq_true]; exact ⟨hfa, hfb⟩
  have hA : e.t.getX a = A := getX_taken s g r a
  have hB : e.t.getX b = (s.here g).getX b := getX_taken s g r b
  have ho' : object e A 64 64 1 Cause.jobDesc = .ok s2 pa → object e (e.t.getX a) 64 64 1 Cause.jobDesc = .ok s2 pa := fun h => by rw [hA]; exact h
  refine ⟨?_, ?_, ?_, ?_, ?_, ?_⟩
  · intro ho hr
    obtain ⟨-, hb⟩ := jobnx_of_object (e := e) hf hfd (ho' ho)
    show execJobnx r d a s = _
    exact plain_finish hc (hb c hr)
  · intro ho hr
    obtain ⟨hb, -⟩ := jobnx_of_object (e := e) hf hfd (ho' ho)
    exact plain_trapIn hc (hb hr)
  · intro hn
    refine plain_trap hc ?_
    show jobgo a b e = _
    rw [jobgo, reads_of_fulls hab]
    dsimp only
    rw [hB, if_pos hn]
  · intro h1 h2 ho hr hl hd
    have hb := jobgo_of_card hab (by rw [hB]; exact h1) (by rw [hB]; exact h2) (by rw [hA]; exact ho) hr hl hd
    rw [hA, hB] at hb
    exact plain_placeTask hc hb
  · intro ha
    refine plain_trap hc ?_
    show tqadd a e = _
    rw [tqadd, reads_of_fulls hf]
    dsimp only
    rw [hA, if_pos ha]
  · intro tgt ha hd hreach hdcr hlock hpages hbad
    have ha' : (e.t.getX a).toNat % 32 = 0 := by rw [hA]; exact ha
    have hrec := tqadd_of_aligned (e := e) hf ha' hd
    rw [hA, recordAt_of_whole hreach hdcr hlock hpages hbad] at hrec
    intro u t
    have hu : tgt.asked s3 e.g.lr.asid A 32 = u := by cases tgt <;> rfl
    rw [hu] at hrec
    replace hrec : tqadd a e = if taskOk t = false then .trapIn u (.plain Cause.tqDesc)
      else if t[0].extractLsb' 60 4 = 1#4 then checkCard e u t[1] Cause.jobDesc (fun s => placeTask e s (taskForClass t e.g.cls))
      else refuseFrame e u t[1] (fun s => placeTask e s (taskForClass t e.g.cls)) := hrec
    refine ⟨fun hbad => plain_trapIn hc (hrec.trans (if_pos hbad)), fun hok hkind => ?_, fun hok hkind ho hr => ?_⟩
    · rw [if_neg (by rw [hok]; decide), if_neg (by rw [hkind]; decide)] at hrec
      intro looked placed
      refine ⟨fun hw => plain_placeTask hc (hrec.trans (refuseFrame_in_window hw)), fun v c l hw hl => plain_placeTask hc (hrec.trans (refuseFrame_unreadable hw hl)),
        fun v p' ht hw hl => ?_⟩
      rw [refuseFrame_found hw hl] at hrec
      intro w
      refine ⟨fun hh => plain_placeTask hc (hrec.trans (if_pos hh)), fun hh hm => ?_, fun hh hm => ?_⟩
      · rw [if_neg (by rw [hh]; decide)] at hrec
        exact plain_trapIn hc (hrec.trans (if_pos hm))
      · rw [if_neg (by rw [hh]; decide)] at hrec
        exact plain_placeTask hc (hrec.trans (if_neg hm))
    · rw [if_neg (by rw [hok]; decide), if_pos hkind, checkCard_of_card ho hr] at hrec
      exact ⟨fun hz => plain_trapIn hc (hrec.trans (if_pos hz)), fun hz => plain_placeTask hc (hrec.trans (if_neg hz))⟩

end Sys2Proof.Machine
end

section
/-! PROOFS. The tag by which DCNT rises at acceptance: the command's own take counts among those that the vector queue must make (R246; log 40). -/

namespace Sys2Proof.Machine

open Sys2Proof

/-- A group in DSR with an FP32 v(1), and a CHRD waiting in the matrix queue that will write v(1) and place a token for the vector stream when it completes. -/
def chrdAhead : Group :=
  let g := tQueued (tTags [(1, 3)]) .matrix .mxe (.chrd 1 0 1 2 0 0 0) [0] []
  { g with vrs := { g.vrs with mode := 5 } }

/-- A VADD that takes that token. -/
def vaddAfterChrd : Instr := .vadd 8 3 1 2 0

/-- DCNT of the group in slot 0. -/
def dcntAt (s : State) : Option (BitVec 32) := (s.group 0).map (·.vrs.dcnt)

/-- The CHRD comes before the VADD, so that v(1) holds raw bits when the VADD starts and DCNT does not rise. -/
theorem vaddAfterChrd_keeps_dcnt : tRun (exec vaddAfterChrd (tWith .vec chrdAhead)) (fun t => dcntAt t == some 0) = true := by decide +kernel

/-- Refutes O34: the statement looks for the tag in the group as it was before the acceptance, where nothing takes the token of the CHRD. -/
theorem not_vectorCommandsEnterTheirQueue : ¬ Obligations.VectorCommandsEnterTheirQueue := by
  unfold Obligations.VectorCommandsEnterTheirQueue
  intro h
  obtain ⟨hrun, hfull⟩ := tReady_ok (st := .vec) (g := chrdAhead) (roles := [.vec]) (r := 0) (rs := [1, 2]) (by decide +kernel)
  obtain ⟨-, -, -, -, -, -, hadd, -⟩ := h (tWith .vec chrdAhead) chrdAhead 8 0 0 3 1 2 0 0 0 0 0 0 0 0 0 0 0 0 hrun hfull
  have hkeeps := vaddAfterChrd_keeps_dcnt
  rw [vaddAfterChrd, hadd.1 (by decide +kernel)] at hkeeps
  exact absurd hkeeps (by decide +kernel)

end Sys2Proof.Machine
end

section
/-! PROOFS. CHBLD, CHCLOSE, CHSTAT, CHFREE, CHSPLICE, CHRD, LNORM and LSET at acceptance (R40, R132, R139, R276 to R283). -/

namespace Sys2Proof.Machine

open Sys2Proof

/-- A command whose acceptance check fails raises its cause (R40). -/
theorem command_trap {s : State} {g : Group} {q : QueueId} {roles : List StreamId} {i : Instr} {rs : List (BitVec 6)}
    {cap : Env → Except Trap Capture} {upd : Group → Group} {x : Trap} (h : CanRun s g roles 0) (hr : (s.here g).fulls rs)
    (hq : (g.queue q).length < 16) (hc : cap (s.env g 0) = .error x) : command q roles i rs cap upd s = .next (s.traps g x) := by
  refine plain_trap h ?_
  have hlen : ¬ 16 ≤ ((s.env g 0).g.queue q).length := Nat.not_le.2 hq
  rw [reads_of_fulls (fulls_env hr), if_neg hlen, hc]

/-- The scalar operands that a command captures are those of its stream (R40). -/
theorem capX_env (s : State) (g : Group) (rs : List (BitVec 6)) : capX rs (s.env g 0) = .ok { xs := rs.map (s.here g).getX, hs := [], tid := 0 } := by
  rw [capX, show (s.env g 0).t.getX = (s.here g).getX from funext (getX_taken s g 0)]

/-- A command that captures scalar operands alone. -/
theorem command_capX {s : State} {g : Group} {q : QueueId} {roles : List StreamId} {i : Instr} {rs ks : List (BitVec 6)}
    {cap : Env → Except Trap Capture} {upd : Group → Group} (h : CanRun s g roles 0) (hr : (s.here g).fulls rs)
    (hq : (g.queue q).length < 16) (hc : cap (s.env g 0) = capX ks (s.env g 0)) :
    command q roles i rs cap upd s = .next (s.queued g q i (ks.map (s.here g).getX) [] 0 upd) :=
  command_run h hr hq (hc.trans (capX_env s g ks))

theorem fulls_of_subset {t : Stream} {rs ks : List (BitVec 6)} (h : t.fulls rs) (hs : ks ⊆ rs) : t.fulls ks :=
  List.all_eq_true.2 (fun k hk => List.all_eq_true.1 h k (hs hk))

/-- The upper bits of a word are 0 where the word is small. -/
theorem extractLsb'_upper_eq_zero_iff {k m : Nat} (x : BitVec (k + m)) : x.extractLsb' k m = 0#m ↔ x.toNat < 2 ^ k := by
  have hx : x.toNat < 2 ^ (k + m) := x.isLt
  have hpos : 0 < 2 ^ k := Nat.two_pow_pos k
  have hlt : x.toNat / 2 ^ k < 2 ^ m := by rw [Nat.div_lt_iff_lt_mul hpos, ← pow_add, Nat.add_comm m k]; exact hx
  rw [← BitVec.toNat_inj, BitVec.extractLsb'_toNat, Nat.shiftRight_eq_div_pow, Nat.mod_eq_of_lt hlt, BitVec.toNat_zero, Nat.div_eq_zero_iff_lt hpos]

/-- A selector names a chain and a link by its low 18 bits (R132). -/
theorem selectorOk_iff (x : BitVec 64) : selectorOk x = true ↔ x.toNat < 2 ^ 18 := by
  rw [selectorOk, beq_iff_eq]
  exact extractLsb'_upper_eq_zero_iff (k := 18) (m := 46) x

section
variable {s : State} {g : Group} {a : BitVec 6} {rs : List (BitVec 6)} {ok : Env → Bool}

/-- A command of a selector that names a link captures its operands (R276). -/
theorem capSel_of_named (h : ((s.here g).getX a).toNat < 2 ^ 18) (hok : ok (s.env g 0) = true) :
    capSel rs a ok (s.env g 0) = capX rs (s.env g 0) := by
  have hsel : selectorOk ((s.env g 0).t.getX a) = true := by rw [show (s.env g 0).t.getX a = _ from getX_taken s g 0 a, selectorOk_iff]; exact h
  rw [capSel, hsel, hok]
  rfl

theorem capSel_of_unnamed (h : ¬ ((s.here g).getX a).toNat < 2 ^ 18) : capSel rs a ok (s.env g 0) = .error (.plain Cause.opRange) := by
  have hsel : selectorOk ((s.env g 0).t.getX a) = false := by
    rw [show (s.env g 0).t.getX a = _ from getX_taken s g 0 a, ← Bool.not_eq_true, selectorOk_iff]; exact h
  rw [capSel, hsel]
  rfl

end

/-- The issue of a CHSTAT, whose capture succeeds or fails. -/
theorem execChstat_run {s : State} {g : Group} {r : BitVec 4} {d a : BitVec 6} (hc : CanRun s g [.mxe] 0) (ha : (s.here g).fulls [a])
    (hd : (s.here g).isFull d = true) (hq : (g.queue .matrix).length < 16) :
    (((s.here g).getX a).toNat < 2 ^ 18 → execChstat r d a s = .next (s.queued g .matrix (.chstat r d a) [(s.here g).getX a] [] 0
      (fun h => h.setStream s.curStream ((h.stream s.curStream).markEmpty d)))) ∧
    (¬ ((s.here g).getX a).toNat < 2 ^ 18 → execChstat r d a s = .next (s.traps g (.plain Cause.opRange))) := by
  have hlen : ¬ 16 ≤ ((s.env g 0).g.queue .matrix).length := Nat.not_le.2 hq
  have hd' : (s.env g 0).t.isFull d = true := (isFull_taken s g 0 d).trans hd
  refine ⟨fun h => plain_done hc (f := fun h => (accept h .matrix s.curStream _ _).setStream s.curStream (((accept h .matrix s.curStream _ _).stream s.curStream).markEmpty d)) ?_,
    fun h => plain_trap hc ?_⟩
  · rw [reads_of_fulls (fulls_env ha), writes_of_full hd', if_neg hlen, capSel_of_named h rfl, capX_env]
    show Act.done ((s.began g 0).setGroup s.curPlace _) = _
    rw [State.began, State.setGroup_setGroup]
    rfl
  · rw [reads_of_fulls (fulls_env ha), writes_of_full hd', if_neg hlen, capSel_of_unnamed h]

/-- The acceptance of a CHCLOSE to memory or to tiles follows its checks (R283). -/
theorem execChclose_run {s : State} {g : Group} {r ev d4 out : BitVec 4} {a b c : BitVec 6} {keep : BitVec 1} {chain : BitVec 12} {smode qt : BitVec 2}
    (hc : CanRun s g [.mxe] 0) (hf : (s.here g).fulls [a, b, c]) (hq : (g.queue .matrix).length < 16) (dst : BitVec 1) :
    (∀ x, closeChecks (s.env g 0) d4 a b c dst out smode = some x → execChclose r ev d4 a b keep dst chain out smode qt c s = .next (s.traps g x)) ∧
    (closeChecks (s.env g 0) d4 a b c dst out smode = none → execChclose r ev d4 a b keep dst chain out smode qt c s =
      .next (s.queued g .matrix (.chclose r ev d4 a b keep dst chain out smode qt c) ((if dst = 1#1 then [a, b, c] else [a]).map (s.here g).getX)
        (if dst = 1#1 then [g.h.get d4.toFin] else []) 0 id)) := by
  have hrs : (s.here g).fulls (if dst = 1#1 then [a, b, c] else [a]) := by
    split
    · exact hf
    · exact fulls_of_subset hf (by simp)
  have hX : (s.env g 0).t.getX = (s.here g).getX := funext (getX_taken s g 0)
  exact ⟨fun x hx => command_trap hc hrs hq (by rw [hx]), fun hn => command_run hc hrs hq (by rw [hn, hX]; rfl)⟩

section
variable {s : State} {g : Group} {d4 out : BitVec 4} {a b c : BitVec 6} {smode : BitVec 2}

/-- The checks of CHCLOSE on its tag and scale mode come first (R283). -/
theorem closeChecks_of_range (h : out = 0 ∨ out = 11 ∨ smode = 3) (dst : BitVec 1) :
    closeChecks (s.env g 0) d4 a b c dst out smode = some (.plain Cause.opRange) := if_pos h

theorem closeChecks_of_rsvd (h : ¬ (out = 0 ∨ out = 11 ∨ smode = 3)) (ht : 13 ≤ out.toNat) (dst : BitVec 1) :
    closeChecks (s.env g 0) d4 a b c dst out smode = some (.plain Cause.tagRsvd) :=
  (if_neg h).trans (if_pos (decide_eq_true ht))

/-- What CHCLOSE checks of the box of a close to memory (R283). -/
def closeBox (s : State) (g : Group) (d4 out : BitVec 4) (b c : BitVec 6) (dst : BitVec 1) : Option (BitVec 10) :=
  if dst = 1#1 then
    match boxChecks (g.h.get d4.toFin) ((s.here g).getX b) ((s.here g).getX c) with
    | some x => some x
    | none => if (Shape.of (g.h.get d4.toFin)).tag ≠ out then some Cause.tagMismatch else none
  else none

/-- With its tag and scale mode in range CHCLOSE checks the box, then the alignment of the scales (R283). -/
theorem closeChecks_of_tag (h : ¬ (out = 0 ∨ out = 11 ∨ smode = 3)) (ht : out.toNat < 13) (dst : BitVec 1) :
    closeChecks (s.env g 0) d4 a b c dst out smode =
      match closeBox s g d4 out b c dst with
      | some x => some (.plain x)
      | none => if smode ≠ 0 ∧ ((s.here g).getX a).toNat % 256 ≠ 0 then some (Trap.at Cause.tlAlign ((s.here g).getX a) 0) else none := by
  have hX : (s.env g 0).t.getX = (s.here g).getX := funext (getX_taken s g 0)
  have hr : ¬ tagRsvd out = true := fun k => absurd (of_decide_eq_true k) (by omega)
  refine (if_neg h).trans ((if_neg hr).trans ?_)
  rw [hX]
  rfl

theorem closeBox_tiles : closeBox s g d4 out b c 0 = none := rfl

theorem closeBox_of_fault {y : BitVec 10} (h : boxChecks (g.h.get d4.toFin) ((s.here g).getX b) ((s.here g).getX c) = some y) :
    closeBox s g d4 out b c 1 = some y := by
  rw [closeBox, if_pos (show (1 : BitVec 1) = 1#1 from rfl), h]

theorem closeBox_of_whole (h : boxChecks (g.h.get d4.toFin) ((s.here g).getX b) ((s.here g).getX c) = none) :
    closeBox s g d4 out b c 1 = if (Shape.of (g.h.get d4.toFin)).tag ≠ out then some Cause.tagMismatch else none := by
  rw [closeBox, if_pos (show (1 : BitVec 1) = 1#1 from rfl), h]

end

/-- CHRD of a selector that names no link. -/
theorem execChrd_unnamed {s : State} {g : Group} {r ev : BitVec 4} {d a : BitVec 6} {pl : BitVec 2} {part : BitVec 5} (hc : CanRun s g [.mxe] 0)
    (hf : (s.here g).fulls [d, a]) (hq : (g.queue .matrix).length < 16) (h : ¬ ((s.here g).getX a).toNat < 2 ^ 18) (sp : BitVec 1) :
    execChrd r ev d a sp pl part s = .next (s.traps g (.plain Cause.opRange)) := by
  have hrs : (s.here g).fulls (if sp = 1#1 then [d, a] else [a]) := by
    split
    · exact hf
    · exact fulls_of_subset hf (by simp)
  have hsel : selectorOk ((s.env g 0).t.getX a) = false := by
    rw [show (s.env g 0).t.getX a = _ from getX_taken s g 0 a, ← Bool.not_eq_true, selectorOk_iff]; exact h
  exact command_trap hc hrs hq (by rw [hsel]; rfl)

/-- CHRD of a selector that names a link, to a vector register or to the scratchpad window (R279). -/
theorem execChrd_named {s : State} {g : Group} {r ev : BitVec 4} {d a : BitVec 6} {pl : BitVec 2} (hc : CanRun s g [.mxe] 0)
    (hf : (s.here g).fulls [d, a]) (hq : (g.queue .matrix).length < 16) (h : ((s.here g).getX a).toNat < 2 ^ 18) :
    (∀ part, execChrd r ev d a 0 pl part s = .next (s.queued g .matrix (.chrd r ev d a 0 pl part) [(s.here g).getX a] [] 0 id)) ∧
    (¬ (inWindow ((s.here g).getX d) = false ∨ ((s.here g).getX d).toNat % 128 ≠ 0) →
      execChrd r ev d a 1 pl 0 s = .next (s.queued g .matrix (.chrd r ev d a 1 pl 0) [(s.here g).getX d, (s.here g).getX a] [] 0 id)) ∧
    ((inWindow ((s.here g).getX d) = false ∨ ((s.here g).getX d).toNat % 128 ≠ 0) →
      execChrd r ev d a 1 pl 0 s = .next (s.traps g (Trap.at Cause.tlAlign ((s.here g).getX d) 1))) := by
  have hX : (s.env g 0).t.getX = (s.here g).getX := funext (getX_taken s g 0)
  have hsel : selectorOk ((s.here g).getX a) = true := (selectorOk_iff _).2 h
  refine ⟨fun part => command_capX (ks := [a]) hc (fulls_of_subset hf (by simp)) hq ?_, fun hd => command_capX (ks := [d, a]) hc hf hq ?_, fun hd => command_trap hc hf hq ?_⟩
  · rw [hX, hsel]; rfl
  · rw [hX, hsel]; exact (if_neg (by decide)).trans (if_neg (fun k => hd k.2))
  · rw [hX, hsel]; exact (if_neg (by decide)).trans (if_pos ⟨rfl, hd⟩)

section
variable {s : State} {g : Group} {r ev : BitVec 4} {a b k : BitVec 6} {xp : BitVec 16}

/-- LNORM, LSET and CHSPLICE of a selector that names a link capture both operands. -/
theorem execLinkCommands_of_named (hc : CanRun s g [.mxe] 0) (hf : (s.here g).fulls [a, b]) (hq : (g.queue .matrix).length < 16)
    (hn : ((s.here g).getX a).toNat < 2 ^ 18) :
    (k ≠ 0 → execLnorm r ev a b k s = .next (s.queued g .matrix (.lnorm r ev a b k) [(s.here g).getX a, (s.here g).getX b] [] 0 id)) ∧
    execLset r ev a b xp s = .next (s.queued g .matrix (.lset r ev a b xp) [(s.here g).getX a, (s.here g).getX b] [] 0 id) ∧
    (((s.here g).getX b).extractLsb' 52 12 = 0 ∧ ((s.here g).getX b).extractLsb' 0 37 = 0 →
      execChsplice r a b s = .next (s.queued g .matrix (.chsplice r a b) [(s.here g).getX a, (s.here g).getX b] [] 0 id)) := by
  have hsel : ∀ ok : Env → Bool, ok (s.env g 0) = true → capSel [a, b] a ok (s.env g 0) = capX [a, b] (s.env g 0) := fun ok h => capSel_of_named hn h
  have hB : (s.env g 0).t.getX b = (s.here g).getX b := getX_taken s g 0 b
  refine ⟨fun hk => ?_, ?_, fun hb => ?_⟩
  · have h := hsel (fun _ => k != 0#6) (bne_iff_ne.2 hk)
    exact command_capX (ks := [a, b]) hc hf hq h
  · have h := hsel (fun _ => true) rfl
    exact command_capX (ks := [a, b]) hc hf hq h
  · have h := hsel (fun e => (e.t.getX b).extractLsb' 52 12 == 0#12 && (e.t.getX b).extractLsb' 0 37 == 0#37)
      (by rw [hB, Bool.and_eq_true, beq_iff_eq, beq_iff_eq]; exact hb)
    exact command_capX (ks := [a, b]) hc hf hq h

theorem execLinkCommands_of_unnamed (hc : CanRun s g [.mxe] 0) (hf : (s.here g).fulls [a, b]) (hq : (g.queue .matrix).length < 16)
    (hn : ¬ ((s.here g).getX a).toNat < 2 ^ 18) :
    execLnorm r ev a b k s = .next (s.traps g (.plain Cause.opRange)) ∧ execLset r ev a b xp s = .next (s.traps g (.plain Cause.opRange)) ∧
    execChsplice r a b s = .next (s.traps g (.plain Cause.opRange)) := by
  have hsel : ∀ ok : Env → Bool, capSel [a, b] a ok (s.env g 0) = .error (.plain Cause.opRange) := fun _ => capSel_of_unnamed hn
  exact ⟨command_trap hc hf hq (hsel _), command_trap hc hf hq (hsel _), command_trap hc hf hq (hsel _)⟩

/-- CHBLD asks for a record on a 64-byte boundary (R276). -/
theorem execChbld_run (hc : CanRun s g [.mxe] 0) (hf : (s.here g).fulls [a]) (hq : (g.queue .matrix).length < 16) :
    (((s.here g).getX a).toNat % 64 = 0 → execChbld r a s = .next (s.queued g .matrix (.chbld r a) [(s.here g).getX a] [] 0 id)) ∧
    (((s.here g).getX a).toNat % 64 ≠ 0 → execChbld r a s = .next (s.traps g (.plain Cause.chDesc))) := by
  have hA : (s.env g 0).t.getX a = (s.here g).getX a := getX_taken s g 0 a
  refine ⟨fun h => command_capX (ks := [a]) hc hf hq (if_neg ?_), fun h => command_trap hc hf hq (if_pos ?_)⟩
  · rw [hA]; exact not_not.2 h
  · rw [hA]; exact h

/-- CHFREE asks for a chain number (R278). -/
theorem execChfree_run (hc : CanRun s g [.mxe] 0) (hf : (s.here g).fulls [a]) (hq : (g.queue .matrix).length < 16) :
    (((s.here g).getX a).toNat < 2 ^ 12 → execChfree r a s = .next (s.queued g .matrix (.chfree r a) [(s.here g).getX a] [] 0 id)) ∧
    (2 ^ 12 ≤ ((s.here g).getX a).toNat → execChfree r a s = .next (s.traps g (.plain Cause.opRange))) := by
  have hA : (s.env g 0).t.getX a = (s.here g).getX a := getX_taken s g 0 a
  have hupper := extractLsb'_upper_eq_zero_iff (k := 12) (m := 52) ((s.here g).getX a)
  refine ⟨fun h => command_capX (ks := [a]) hc hf hq (if_neg ?_), fun h => command_trap hc hf hq (if_pos ?_)⟩
  · rw [hA]; exact not_not.2 (hupper.2 h)
  · rw [hA]; exact fun hz => absurd (hupper.1 hz) (Nat.not_lt.2 h)

end

section
variable {s : State} {g : Group} {r ev d4 out : BitVec 4} {a b c : BitVec 6} {keep : BitVec 1} {chain : BitVec 12} {smode qt : BitVec 2}

/-- CHCLOSE of a tag and scale mode in range: the box, its tag, then the scales decide (R283). -/
theorem execChclose_of_tag (hc : CanRun s g [.mxe] 0) (hf : (s.here g).fulls [a, b, c]) (hq : (g.queue .matrix).length < 16)
    (hrange : ¬ (out = 0 ∨ out = 11 ∨ smode = 3)) (ht : out.toNat < 13) (dst : BitVec 1) :
    (∀ y, closeBox s g d4 out b c dst = some y → execChclose r ev d4 a b keep dst chain out smode qt c s = .next (s.traps g (.plain y))) ∧
    (closeBox s g d4 out b c dst = none → (smode ≠ 0 ∧ ((s.here g).getX a).toNat % 256 ≠ 0) →
      execChclose r ev d4 a b keep dst chain out smode qt c s = .next (s.traps g (Trap.at Cause.tlAlign ((s.here g).getX a) 0))) ∧
    (closeBox s g d4 out b c dst = none → ¬ (smode ≠ 0 ∧ ((s.here g).getX a).toNat % 256 ≠ 0) →
      execChclose r ev d4 a b keep dst chain out smode qt c s =
        .next (s.queued g .matrix (.chclose r ev d4 a b keep dst chain out smode qt c) ((if dst = 1#1 then [a, b, c] else [a]).map (s.here g).getX)
          (if dst = 1#1 then [g.h.get d4.toFin] else []) 0 id)) := by
  have hchecks := closeChecks_of_tag (s := s) (g := g) (d4 := d4) (a := a) (b := b) (c := c) hrange ht dst
  obtain ⟨hbad, hgood⟩ := execChclose_run (r := r) (ev := ev) (d4 := d4) (out := out) (keep := keep) (chain := chain) (smode := smode) (qt := qt) hc hf hq dst
  refine ⟨fun y hy => hbad _ ?_, fun hn hm => hbad _ ?_, fun hn hm => hgood ?_⟩
  · rw [hchecks, hy]
  · rw [hchecks, hn]; exact if_pos hm
  · rw [hchecks, hn]; exact if_neg hm

end

/-- Settles O42: each command's capture succeeds or fails by its checks. -/
theorem chainCommandsEnterTheirQueue : Obligations.ChainCommandsEnterTheirQueue := by
  unfold Obligations.ChainCommandsEnterTheirQueue
  intro s g r ev d4 out d a b c k keep sp chain smode qt pl part xp hc hfull hq X H traps gives named
  have hfa : (s.here g).fulls [a] := fulls_of_subset hfull (by simp)
  have hfab : (s.here g).fulls [a, b] := fulls_of_subset hfull (by simp)
  have hfabc : (s.here g).fulls [a, b, c] := fulls_of_subset hfull (by simp)
  have hfda : (s.here g).fulls [d, a] := fulls_of_subset hfull (by simp)
  have hd : (s.here g).isFull d = true := List.all_eq_true.1 hfull d (by simp)
  have hbld := execChbld_run (r := r) hc hfa hq
  have hfree := execChfree_run (r := r) hc hfa hq
  have hstat := execChstat_run (r := r) hc hfa hd hq
  have hclose := execChclose_run (r := r) (ev := ev) (d4 := d4) (out := out) (keep := keep) (chain := chain) (smode := smode) (qt := qt) hc hfabc hq
  refine ⟨hbld.1, hbld.2, ⟨fun h dst => (hclose dst).1 _ (closeChecks_of_range h dst), fun h0 h11 h3 => ?_⟩, fun hn => ?_, fun hn => ?_, hfree.1, hfree.2⟩
  · have hrange : ¬ (out = 0 ∨ out = 11 ∨ smode = 3) := by simp only [not_or]; exact ⟨h0, h11, h3⟩
    refine ⟨fun ht dst => (hclose dst).1 _ (closeChecks_of_rsvd hrange ht dst), fun ht => ?_⟩
    have hrun := execChclose_of_tag (r := r) (ev := ev) (d4 := d4) (keep := keep) (chain := chain) (qt := qt) hc hfabc hq hrange ht
    have hbox : boxChecks H (X b) (X c) = none → (Shape.of H).tag = out → closeBox s g d4 out b c 1 = none := fun hb htag =>
      (closeBox_of_whole hb).trans (if_neg (not_not.2 htag))
    exact ⟨fun hm => ⟨(hrun 0).2.1 closeBox_tiles hm, fun hb htag => (hrun 1).2.1 (hbox hb htag) hm⟩,
      fun hm => ⟨(hrun 0).2.2 closeBox_tiles hm, fun hb htag => (hrun 1).2.2 (hbox hb htag) hm⟩,
      fun y hb => (hrun 1).1 y (closeBox_of_fault hb), fun hb htag => (hrun 1).1 _ ((closeBox_of_whole hb).trans (if_pos htag))⟩
  · obtain ⟨hreg, hspad, halign⟩ := execChrd_named (r := r) (ev := ev) (pl := pl) hc hfda hq hn
    obtain ⟨hlnorm, hlset, hsplice⟩ := execLinkCommands_of_named (r := r) (ev := ev) (k := k) (xp := xp) hc hfab hq hn
    refine ⟨hstat.1 hn, hlnorm, hlset, hsplice, hreg part, fun hw hm => hspad ?_, halign⟩
    rw [not_or, not_not, Bool.not_eq_false]
    exact ⟨hw, hm⟩
  · obtain ⟨hlnorm, hlset, hsplice⟩ := execLinkCommands_of_unnamed (r := r) (ev := ev) (k := k) (xp := xp) hc hfab hq hn
    exact ⟨hstat.2 hn, hlnorm, hlset, hsplice, execChrd_unnamed hc hfda hq hn sp⟩

end Sys2Proof.Machine
end

section
/-! PROOFS. What the write of CONS can record: a watchpoint that reads a poisoned line of the launch queue header under policy 1 (R238, R318, R415). -/

namespace Sys2Proof.Machine

open Sys2Proof

/-- A live launch of ECC policy 1 watches the CONS dword of the launch queue header, which begins at 0x700060 and whose second line is poisoned; the record to
consume has no identifier, and error records go to the host. -/
def watchedQueue : State :=
  let s := tMem (tMem (tWith .ctl tGroup) 0x700060 [0x1_4555514C, 0x710000, 1, 1, 0, 0x720000, 0, 0]) 0x710000 (tRecord 0)
  let live := tLive none
  let w : Watch := { slice := sliceOf 0x700080, entry := 0, lo := 0x700080, hi := 0x700087, mask := 0, value := 1, task := Vector.replicate 4 0, once := false, owner := 1, asid := 0 }
  { s.setDie 0 { s.dies.get 0 with watch := [w] } with
    poison := [0x700080 / 128]
    dawn := { s.dawn with msplit := 8, lqaddr := 0x700060, launches := [{ live with lrec := { live.lrec with ecc := 1 } }] } }

/-- The number of values drawn so far in the state that an outcome goes on to. -/
def freshOf : Host.Outcome State Fault Refusal → Option Nat
  | .next s => some s.fresh
  | _ => none

theorem mayConsume_watchedQueue : mayConsume watchedQueue = true := by decide +kernel

/-- The write of CONS draws the syndrome of the zero read that the watchpoint makes, and the record's address is drawn after it. -/
theorem launchConsume_watchedQueue : freshOf (exec .launchConsume watchedQueue) = some 2 := by decide +kernel

/-- Refutes O55: the statement counts one value drawn, as if the write of CONS drew none. -/
theorem not_launchesAndBindRecordsComplete : ¬ Obligations.LaunchesAndBindRecordsComplete := by
  unfold Obligations.LaunchesAndBindRecordsComplete
  intro h
  obtain ⟨-, hconsume, -⟩ := h watchedQueue
  obtain ⟨-, hbad, -⟩ := hconsume mayConsume_watchedQueue
  have hrun := hbad (by decide +kernel) (by decide +kernel)
  have hdrawn := launchConsume_watchedQueue
  rw [hrun] at hdrawn
  exact absurd hdrawn (by decide +kernel)

end Sys2Proof.Machine
end

section
/-! PROOFS. ENGINE_COMPLETION: the registers that a completed command writes, and the signals that the front of its queue delivers (R41, R45, R46, R64). -/

namespace Sys2Proof.Machine

open Sys2Proof

/-! ## Registers -/

theorem writeV_get (g : Group) (d i : BitVec 6) (x : VReg) : (g.writeV d x).v.get i.toFin = if i = d then x else g.v.get i.toFin := by
  by_cases h : i = d
  · subst h; simp [Group.writeV, Vector.get_eq_getElem, BitVec.val_toFin]
  · have hne : d.toNat ≠ i.toNat := fun k => h (BitVec.eq_of_toNat_eq k.symm)
    simp [Group.writeV, Vector.get_eq_getElem, BitVec.val_toFin, h, hne]

theorem writeT_get (g : Group) (d i : BitVec 2) (x : TReg) : (g.writeT d x).t.get i.toFin = if i = d then x else g.t.get i.toFin := by
  by_cases h : i = d
  · subst h; simp [Group.writeT, Vector.get_eq_getElem, BitVec.val_toFin]
  · have hne : d.toNat ≠ i.toNat := fun k => h (BitVec.eq_of_toNat_eq k.symm)
    simp [Group.writeT, Vector.get_eq_getElem, BitVec.val_toFin, h, hne]

/-- A write of p0 is discarded (R64). -/
theorem writeP_pred (g : Group) (d i : BitVec 3) (x : BitVec 1024) :
    (g.writeP d x).pred i = if i = d then (if d = 0 then BitVec.allOnes 1024 else x) else g.pred i := by
  by_cases h : i = d
  · subst h
    by_cases hz : i = 0#3
    · simp [Group.pred, hz]
    · simp [Group.writeP, Group.pred, Vector.get_eq_getElem, BitVec.val_toFin, hz]
  · have hne : d.toNat ≠ i.toNat := fun k => h (BitVec.eq_of_toNat_eq k.symm)
    by_cases hz : d = 0#3
    · subst hz; simp [Group.writeP, Group.pred, h]
    · simp [Group.writeP, Group.pred, Vector.get_eq_getElem, BitVec.val_toFin, h, hz, hne]

/-- What every step of a fold keeps, the fold keeps. -/
theorem foldl_keeps {σ α β : Type} {f : σ → α → σ} (π : σ → β) (h : ∀ g x, π (f g x) = π g) (l : List α) (g : σ) : π (l.foldl f g) = π g := by
  induction l generalizing g with
  | nil => rfl
  | cons x l ih => rw [List.foldl_cons, ih, h]

/-- What the steps of a fold over a list keep, the fold keeps. -/
theorem foldl_keeps_of_mem {σ α β : Type} {f : σ → α → σ} (π : σ → β) (l : List α) (h : ∀ g, ∀ x ∈ l, π (f g x) = π g) (g : σ) : π (l.foldl f g) = π g := by
  induction l generalizing g with
  | nil => rfl
  | cons x l ih => rw [List.foldl_cons, ih (fun g y hy => h g y (List.mem_cons_of_mem x hy)), h g x List.mem_cons_self]

/-- The register writes of a work without a scalar result. -/
theorem writeRegs_of_no_scalar {w : Work} (h : w.xw = none) (g : Group) (st : StreamId) : writeRegs g st w =
    w.pw.foldl (fun g x => g.writeP x.1 x.2) (w.tw.foldl (fun g x => g.writeT x.1 x.2) (w.vw.foldl (fun g x => g.writeV x.1 x.2) g)) := by
  rw [writeRegs, h]

/-- Register writes keep whatever a write of each kind of register keeps. -/
theorem writeRegs_keeps {β : Type} (π : Group → β) {w : Work} (hx : w.xw = none) (hv : ∀ g, ∀ x ∈ w.vw, π (g.writeV x.1 x.2) = π g)
    (ht : ∀ g, ∀ x ∈ w.tw, π (g.writeT x.1 x.2) = π g) (hp : ∀ g, ∀ x ∈ w.pw, π (g.writeP x.1 x.2) = π g) (g : Group) (st : StreamId) :
    π (writeRegs g st w) = π g := by
  rw [writeRegs_of_no_scalar hx, foldl_keeps_of_mem π _ hp, foldl_keeps_of_mem π _ ht, foldl_keeps_of_mem π _ hv]

/-- A group that holds the registers of another. -/
structure SameRegs (g h : Group) : Prop where
  v : h.v = g.v
  t : h.t = g.t
  p : h.p = g.p
  shapes : h.h = g.h
  x : ∀ st, (h.stream st).x = (g.stream st).x

theorem SameRegs.pred {g h : Group} (k : SameRegs g h) (d : BitVec 3) : h.pred d = g.pred d := by rw [Group.pred, Group.pred, k.p]

theorem SameRegs.trans {g h k : Group} (a : SameRegs g h) (b : SameRegs h k) : SameRegs g k :=
  ⟨b.v.trans a.v, b.t.trans a.t, b.p.trans a.p, b.shapes.trans a.shapes, fun st => (b.x st).trans (a.x st)⟩

/-- The registers of a group after the writes of a work: each register written alone in its kind has its value, every other the old one. -/
theorem regs_of_writeRegs {g k : Group} {st : StreamId} {w : Work} (hx : w.xw = none) (hk : SameRegs (writeRegs g st w) k) :
    (∀ d x, w.vw = [(d, x)] → k.v.get d.toFin = x) ∧ (∀ d, (∀ x ∈ w.vw, x.1 ≠ d) → k.v.get d.toFin = g.v.get d.toFin) ∧
    (∀ d x, w.tw = [(d, x)] → k.t.get d.toFin = x) ∧ (∀ d, (∀ x ∈ w.tw, x.1 ≠ d) → k.t.get d.toFin = g.t.get d.toFin) ∧
    (∀ d x, w.pw = [(d, x)] → k.pred d = if d = 0 then BitVec.allOnes 1024 else x) ∧ (∀ d, (∀ x ∈ w.pw, x.1 ≠ d) → k.pred d = g.pred d) ∧
    (k.stream st).x = (g.stream st).x ∧ k.h = g.h := by
  have hpv : ∀ l : List (BitVec 3 × BitVec 1024), ∀ u : Group, (l.foldl (fun g x => g.writeP x.1 x.2) u).v = u.v := fun l u => foldl_keeps (f := fun g x => Group.writeP g x.1 x.2) Group.v (fun _ _ => rfl) l u
  have htv : ∀ l : List (BitVec 2 × TReg), ∀ u : Group, (l.foldl (fun g x => g.writeT x.1 x.2) u).v = u.v := fun l u => foldl_keeps (f := fun g x => Group.writeT g x.1 x.2) Group.v (fun _ _ => rfl) l u
  have hpt : ∀ l : List (BitVec 3 × BitVec 1024), ∀ u : Group, (l.foldl (fun g x => g.writeP x.1 x.2) u).t = u.t := fun l u => foldl_keeps (f := fun g x => Group.writeP g x.1 x.2) Group.t (fun _ _ => rfl) l u
  refine ⟨fun d x h => ?_, fun d h => ?_, fun d x h => ?_, fun d h => ?_, fun d x h => ?_, fun d h => ?_, ?_, ?_⟩
  · rw [hk.v, writeRegs_of_no_scalar hx, hpv, htv, h, List.foldl_cons, List.foldl_nil, writeV_get, if_pos rfl]
  · rw [hk.v]
    exact writeRegs_keeps (fun g => g.v.get d.toFin) hx (fun g x m => (writeV_get g x.1 d x.2).trans (if_neg (Ne.symm (h x m)))) (fun _ _ _ => rfl) (fun _ _ _ => rfl) g st
  · rw [hk.t, writeRegs_of_no_scalar hx, hpt, h, List.foldl_cons, List.foldl_nil, writeT_get, if_pos rfl]
  · rw [hk.t]
    exact writeRegs_keeps (fun g => g.t.get d.toFin) hx (fun _ _ _ => rfl) (fun g x m => (writeT_get g x.1 d x.2).trans (if_neg (Ne.symm (h x m)))) (fun _ _ _ => rfl) g st
  · rw [hk.pred, writeRegs_of_no_scalar hx, h, List.foldl_cons, List.foldl_nil, writeP_pred, if_pos rfl]
  · rw [hk.pred]
    exact writeRegs_keeps (fun g => g.pred d) hx (fun _ _ _ => rfl) (fun _ _ _ => rfl) (fun g x m => (writeP_pred g x.1 d x.2).trans (if_neg (Ne.symm (h x m)))) g st
  · rw [hk.x]
    exact writeRegs_keeps (fun g => (g.stream st).x) hx (fun _ _ _ => rfl) (fun _ _ _ => rfl) (fun _ _ _ => rfl) g st
  · rw [hk.shapes]
    exact writeRegs_keeps Group.h hx (fun _ _ _ => rfl) (fun _ _ _ => rfl) (fun _ _ _ => rfl) g st

/-! ## Signals -/

/-- Groups with the same tokens and event counts. -/
structure SameSignals (g h : Group) : Prop where
  tokens : h.tokens = g.tokens
  ev : h.ev = g.ev
  evstat : h.evstat = g.evstat

/-- A completion signal of a command: its tokens, then its event post (R45, R46). -/
def signalled (g : Group) (e : QEntry) (x : List Nat) : Group := postEv (placeTok g e.stream e.instr.ring x) e.instr.ev x

/-- A post changes the counts alike whatever it carries. -/
theorem postEv_counts {g h : Group} (hev : h.ev = g.ev) (hstat : h.evstat = g.evstat) (ev : BitVec 4) (x y : List Nat) :
    (postEv h ev x).ev = (postEv g ev y).ev ∧ (postEv h ev x).evstat = (postEv g ev y).evstat := by
  unfold postEv
  split
  · exact ⟨hev, hstat⟩
  · unfold postEvent
    dsimp only
    rw [hev, hstat]
    split <;> exact ⟨rfl, rfl⟩

/-- What a signal changes depends neither on the registers nor on the sets that its tokens carry. -/
theorem SameSignals.signalled {g h : Group} (k : SameSignals g h) (e : QEntry) (x y : List Nat) : SameSignals (signalled g e y) (signalled h e x) := by
  have hev : ∀ (u : Group) (z : List Nat), (placeTok u e.stream e.instr.ring z).ev = u.ev ∧ (placeTok u e.stream e.instr.ring z).evstat = u.evstat := fun u z => by
    rw [placeTok_eq]; exact ⟨rfl, rfl⟩
  have hcounts := postEv_counts (g := placeTok g e.stream e.instr.ring y) (h := placeTok h e.stream e.instr.ring x)
    (((hev h x).1.trans k.ev).trans (hev g y).1.symm) (((hev h x).2.trans k.evstat).trans (hev g y).2.symm) e.instr.ev x y
  refine ⟨?_, hcounts.1, hcounts.2⟩
  rw [Machine.signalled, Machine.signalled, postEv_tokens, postEv_tokens]
  exact placeTok_tokens h g e.stream e.instr.ring x y k.tokens

theorem SameSignals.canPlace {g h : Group} (k : SameSignals g h) (st : StreamId) (r : BitVec 4) : canPlace h st r = canPlace g st r := by
  rw [Machine.canPlace, Machine.canPlace, k.tokens]

/-- A signal changes tokens and event counts alone. -/
theorem signalled_eq (g : Group) (e : QEntry) (x : List Nat) : signalled g e x =
    { g with tokens := (signalled g e x).tokens, tokSets := (signalled g e x).tokSets, ev := (signalled g e x).ev, evstat := (signalled g e x).evstat,
             evSets := (signalled g e x).evSets } := by
  unfold signalled
  rw [postEv_eq, placeTok_eq]

/-! ## The front of a queue -/

/-- The group once the front command of a queue has delivered its signals. -/
def delivered (q : QueueId) (g : Group) (e : QEntry) (rest : List QEntry) : Group :=
  let g := signalled (g.setQueue q rest) e e.wrote
  let g := { g with qdone := g.qdone.set q.toFin.val (g.qdone.get q.toFin + 1) }
  g.setStream e.stream { g.stream e.stream with wdcnt := 0 }

section
variable {q : QueueId} {g : Group} {e : QEntry} {rest : List QEntry}

theorem deliverFront_of_nil (h : g.queue q = []) (n : Nat) : deliverFront q n g = g := by
  cases n with
  | zero => rfl
  | succ n => rw [deliverFront, h]

/-- A front command that is not done holds the signals of its queue back (R46). -/
theorem deliverFront_of_undone (h : g.queue q = e :: rest) (hel : e.elems = []) (hd : e.done = false) (n : Nat) :
    deliverFront q (n + 1) g = g.setQueue q (e :: rest) := by
  obtain ⟨⟩ := e
  subst hel hd
  rw [deliverFront, h]
  rfl

/-- A front command that is done and has room for its places delivers its signals (R46). -/
theorem deliverFront_of_done (h : g.queue q = e :: rest) (hel : e.elems = []) (hd : e.done = true) (hroom : canPlace g e.stream e.instr.ring = true) (n : Nat) :
    deliverFront q (n + 1) g = deliverFront q n (delivered q g e rest) := by
  rw [deliverFront, h]
  dsimp only
  rw [hel, pushElems]
  simp only [hd, hroom, Bool.not_true, List.isEmpty_nil, Bool.or_self, Bool.false_eq_true, if_false]
  rfl

theorem delivered_queue : (delivered q g e rest).queue q = rest := by
  unfold delivered
  rw [signalled_eq, Group.queue_setStream]
  exact Group.queue_setQueue g q rest

theorem delivered_signals : SameSignals (signalled g e e.wrote) (delivered q g e rest) := by
  have h : SameSignals g (g.setQueue q rest) := ⟨rfl, rfl, rfl⟩
  obtain ⟨ht, he, hs⟩ := h.signalled e e.wrote e.wrote
  exact ⟨ht, he, hs⟩

theorem delivered_qdone : (delivered q g e rest).qdone.get q.toFin = g.qdone.get q.toFin + 1 := by
  unfold delivered
  rw [signalled_eq]
  simp [Vector.get_eq_getElem]

theorem delivered_wdcnt : ((delivered q g e rest).stream e.stream).wdcnt = 0 := by
  unfold delivered
  rw [Group.stream_setStream]

theorem delivered_stream_ne {st : StreamId} (h : st ≠ e.stream) : (delivered q g e rest).stream st = g.stream st := by
  unfold delivered
  rw [Group.stream_setStream_ne _ _ h, signalled_eq]
  rfl

theorem delivered_regs : SameRegs g (delivered q g e rest) := by
  refine ⟨?_, ?_, ?_, ?_, fun st => ?_⟩
  · unfold delivered; rw [signalled_eq]; rfl
  · unfold delivered; rw [signalled_eq]; rfl
  · unfold delivered; rw [signalled_eq]; rfl
  · unfold delivered; rw [signalled_eq]; rfl
  · by_cases h : st = e.stream
    · subst h
      unfold delivered
      rw [Group.stream_setStream, signalled_eq]
      rfl
    · rw [delivered_stream_ne h]

end

/-! ## Completion -/

/-- What the statement asks of a work that completes: nothing left to perform, and no scalar result. -/
structure WholeWork (w : Work) : Prop where
  lines : w.lines = []
  step : w.step = none
  close : w.close = none
  copies : w.copies = []
  cause : w.cause = none
  access : w.access = false
  flush : w.flush = false
  ctx : w.ctx = none
  splice : w.splice = none
  await : w.await = none
  xw : w.xw = none

/-- An entry as its completion leaves it. -/
def QEntry.finished (e : QEntry) : QEntry := { e with work := none, done := true }

/-- The group in which a command has completed: its registers written, its entry done. -/
def completedIn (g : Group) (q : QueueId) (e : QEntry) (w : Work) : Group := (writeRegs g e.stream w).mapEntry q e.id (fun _ => e.finished)

section
variable {s : State} {p : Place} {q : QueueId} {g : Group} {e : QEntry} {w : Work} {k : Nat}

/-- Without a replay and a wait for one, the event completes the entry and delivers what is due. -/
theorem engineCompletion_run (hg : s.group p = some g) (he : (g.queue q)[k]? = some e) (hw : e.work = some w) (hctx : w.ctx = none) (hawait : w.await = none) :
    exec (.engineCompletion p q k) s = .next (deliverSignals (completeEntry s p q k) p q) := by
  have hat : workAt s p q k = some w := by rw [workAt, hg, Option.bind_some, he, Option.bind_some, hw]
  show Host.Outcome.next _ = _
  rw [hat, Option.bind_some, hctx]
  dsimp only
  rw [endWait, hat, hg, Option.bind_some, hawait]

/-- A command without copies and elements has no element to give as it completes. -/
theorem settleCopies_of_none (hc : w.copies = []) (hel : e.elems = []) : settleCopies g q e w = (g, e, w) := by
  obtain ⟨⟩ := e
  obtain ⟨⟩ := w
  subst hc hel
  rfl

theorem completeEntry_of_whole (hg : s.group p = some g) (he : (g.queue q)[k]? = some e) (hw : e.work = some w) (hstart : e.started = true) (hdone : e.done = false)
    (hel : e.elems = []) (hcode : elementCode e.instr = none) (h : WholeWork w) : completeEntry s p q k = s.setGroup p (completedIn g q e w) := by
  have hready : workReady s p g e w = true := by
    rw [workReady, h.lines, h.step, h.access, h.await, h.ctx, h.splice, h.flush]; rfl
  have hnum : numberElement g e.instr w.status = (g, []) := by rw [numberElement, hcode]
  rw [completeEntry, hg]
  dsimp only
  rw [he]
  dsimp only
  rw [hw]
  dsimp only
  rw [hstart, hdone, settleCopies_of_none h.copies hel]
  simp only [hready, h.copies, hnum, h.close, h.cause, Bool.not_true, Bool.or_self, List.isEmpty_nil, Bool.false_eq_true, if_false]
  rw [completedIn, QEntry.finished, hel]
  rfl

/-- A command with lines to perform stays as it is. -/
theorem completeEntry_of_lines (hg : s.group p = some g) (he : (g.queue q)[k]? = some e) (hw : e.work = some w) (hstart : e.started = true) (hdone : e.done = false)
    (hel : e.elems = []) (hl : w.lines ≠ []) (hc : w.copies = []) : completeEntry s p q k = s.setGroup p (g.mapEntry q e.id (fun _ => e)) := by
  have hready : workReady s p g e w = false := by
    rw [workReady, List.isEmpty_eq_false_iff.2 hl]; simp only [Bool.false_and]
  have hsame : { e with work := some w } = e := by rw [← hw]
  rw [completeEntry, hg]
  dsimp only
  rw [he]
  dsimp only
  rw [hw]
  dsimp only
  rw [hstart, hdone, settleCopies_of_none hc hel]
  simp only [hready, Bool.not_false, Bool.not_true, Bool.or_self, Bool.true_or, Bool.false_eq_true, if_false, if_true]
  rw [hsame]

theorem deliverSignals_setGroup (s : State) (p : Place) (q : QueueId) (h : Group) : deliverSignals (s.setGroup p h) p q = s.setGroup p (deliverFront q 17 h) := by
  rw [deliverSignals, State.group_setGroup]
  dsimp only
  rw [State.setGroup_setGroup]

theorem completedIn_regs (g : Group) (q : QueueId) (e : QEntry) (w : Work) : SameRegs (writeRegs g e.stream w) (completedIn g q e w) := ⟨rfl, rfl, rfl, rfl, fun _ => rfl⟩

theorem completedIn_keeps {β : Type} (π : Group → β) (hx : w.xw = none) (hv : ∀ g d x, π (Group.writeV g d x) = π g) (ht : ∀ g d x, π (Group.writeT g d x) = π g)
    (hp : ∀ g d x, π (Group.writeP g d x) = π g) (hq : ∀ g l, π (Group.setQueue g q l) = π g) : π (completedIn g q e w) = π g :=
  (hq _ _).trans (writeRegs_keeps π hx (fun g x _ => hv g x.1 x.2) (fun g x _ => ht g x.1 x.2) (fun g x _ => hp g x.1 x.2) g e.stream)

theorem completedIn_signals (hx : w.xw = none) : SameSignals g (completedIn g q e w) :=
  ⟨completedIn_keeps Group.tokens hx (fun _ _ _ => rfl) (fun _ _ _ => rfl) (fun _ _ _ => rfl) (fun _ _ => rfl),
   completedIn_keeps Group.ev hx (fun _ _ _ => rfl) (fun _ _ _ => rfl) (fun _ _ _ => rfl) (fun _ _ => rfl),
   completedIn_keeps Group.evstat hx (fun _ _ _ => rfl) (fun _ _ _ => rfl) (fun _ _ _ => rfl) (fun _ _ => rfl)⟩

theorem completedIn_stream (hx : w.xw = none) (st : StreamId) : (completedIn g q e w).stream st = g.stream st :=
  completedIn_keeps (fun g => g.stream st) hx (fun _ _ _ => rfl) (fun _ _ _ => rfl) (fun _ _ _ => rfl) (fun _ _ => rfl)

theorem completedIn_qdone (hx : w.xw = none) : (completedIn g q e w).qdone = g.qdone :=
  completedIn_keeps Group.qdone hx (fun _ _ _ => rfl) (fun _ _ _ => rfl) (fun _ _ _ => rfl) (fun _ _ => rfl)

theorem completedIn_queue (hx : w.xw = none) : (completedIn g q e w).queue q = (g.queue q).map (fun x => if x.id = e.id then e.finished else x) := by
  have hq : (writeRegs g e.stream w).queue q = g.queue q :=
    writeRegs_keeps (fun g => g.queue q) hx (fun _ _ _ => rfl) (fun _ _ _ => rfl) (fun _ _ _ => rfl) g e.stream
  rw [completedIn, Group.mapEntry, Group.queue_setQueue, hq]

end

/-- Settles O39: a command at the front of its queue delivers, one behind an unfinished command does not, and the older of two delivers both. -/
theorem engineCompletionWritesTheRegisters : Obligations.EngineCompletionWritesTheRegisters := by
  unfold Obligations.EngineCompletionWritesTheRegisters
  intro s p q g e w hg hstart hdone hw hel hcode complete written run placed
  have whole : complete → WholeWork w := fun ⟨lines, step, close, copies, cause, access, flush, ctx, splice, await, xw⟩ =>
    ⟨lines, step, close, copies, cause, access, flush, ctx, splice, await, xw⟩
  have hrun : ∀ k, (g.queue q)[k]? = some e → complete →
      exec (.engineCompletion p q k) s = .next (s.setGroup p (deliverFront q 17 (completedIn g q e w))) := fun k he hc => by
    have h := whole hc
    rw [engineCompletion_run hg he hw h.ctx h.await, completeEntry_of_whole hg he hw hstart hdone hel hcode h, deliverSignals_setGroup]
  have hwritten : complete → ∀ k, SameRegs (completedIn g q e w) k → written (s.setGroup p k) k := fun hc k hk =>
    ⟨rfl, rfl, regs_of_writeRegs (whole hc).xw ((completedIn_regs g q e w).trans hk)⟩
  have hroom : complete → ∀ (h : canPlace g e.stream e.instr.ring = true), canPlace (completedIn g q e w) e.finished.stream e.finished.instr.ring = true := fun hc h =>
    ((completedIn_signals (whole hc).xw).canPlace _ _).trans h
  refine ⟨fun hq hc hplace => ?_, fun older hq hid hold hoel hc => ?_, fun later hq hid hlate hlel hc hplace hplace2 => ?_, fun hq hl hcop hctx hawait => ?_⟩
  · have hx := (whole hc).xw
    have hqueue : (completedIn g q e w).queue q = [e.finished] := by rw [completedIn_queue hx, hq]; simp
    have hfront : deliverFront q 17 (completedIn g q e w) = delivered q (completedIn g q e w) e.finished [] := by
      rw [deliverFront_of_done hqueue hel rfl (hroom hc hplace), deliverFront_of_nil delivered_queue]
    have hsig : SameSignals (placed g e) (delivered q (completedIn g q e w) e.finished []) := by
      obtain ⟨ht, hev, hst⟩ := (completedIn_signals (q := q) (g := g) (e := e) hx).signalled e.finished e.finished.wrote []
      obtain ⟨ht', hev', hst'⟩ := delivered_signals (q := q) (g := completedIn g q e w) (e := e.finished) (rest := [])
      exact ⟨ht'.trans ht, hev'.trans hev, hst'.trans hst⟩
    refine ⟨_, delivered q (completedIn g q e w) e.finished [], (hrun 0 (by rw [hq]; rfl) hc).trans (by rw [hfront]), State.group_setGroup _ _ _, hwritten hc _ delivered_regs,
      delivered_queue, hsig.tokens, hsig.ev, hsig.evstat, ?_, delivered_wdcnt, fun st hst => ?_⟩
    · rw [delivered_qdone, completedIn_qdone hx]
    · exact (delivered_stream_ne (e := e.finished) hst).trans (completedIn_stream hx st)
  · have hx := (whole hc).xw
    have hqueue : (completedIn g q e w).queue q = [older, e.finished] := by rw [completedIn_queue hx, hq]; simp [hid]
    have hsig := completedIn_signals (q := q) (g := g) (e := e) hx
    refine ⟨_, (completedIn g q e w).setQueue q [older, e.finished], (hrun 1 (by rw [hq]; rfl) hc).trans (by rw [deliverFront_of_undone hqueue hoel hold]),
      State.group_setGroup _ _ _, hwritten hc _ ⟨rfl, rfl, rfl, rfl, fun _ => rfl⟩, hsig.tokens, hsig.ev, hsig.evstat, completedIn_qdone (q := q) (e := e) hx,
      fun st => completedIn_stream (q := q) hx st, e.finished, Group.queue_setQueue _ _ _, rfl, rfl, rfl, rfl, rfl⟩
  · have hx := (whole hc).xw
    have hqueue : (completedIn g q e w).queue q = [e.finished, later] := by rw [completedIn_queue hx, hq]; simp [hid]
    have hsig1 : SameSignals (placed g e) (delivered q (completedIn g q e w) e.finished [later]) := by
      obtain ⟨ht, hev, hst⟩ := (completedIn_signals (q := q) (g := g) (e := e) hx).signalled e.finished e.finished.wrote []
      obtain ⟨ht', hev', hst'⟩ := delivered_signals (q := q) (g := completedIn g q e w) (e := e.finished) (rest := [later])
      exact ⟨ht'.trans ht, hev'.trans hev, hst'.trans hst⟩
    have hfront : deliverFront q 17 (completedIn g q e w) = delivered q (delivered q (completedIn g q e w) e.finished [later]) later [] := by
      rw [deliverFront_of_done hqueue hel rfl (hroom hc hplace),
        deliverFront_of_done delivered_queue hlel hlate ((hsig1.canPlace _ _).trans hplace2), deliverFront_of_nil delivered_queue]
    obtain ⟨ht, hev, -⟩ := hsig1.signalled later later.wrote []
    obtain ⟨ht', hev', -⟩ := delivered_signals (q := q) (g := delivered q (completedIn g q e w) e.finished [later]) (e := later) (rest := [])
    refine ⟨_, _, (hrun 0 (by rw [hq]; rfl) hc).trans (by rw [hfront]), State.group_setGroup _ _ _, hwritten hc _ (delivered_regs.trans delivered_regs),
      delivered_queue, ht'.trans ht, hev'.trans hev, ?_⟩
    rw [delivered_qdone, delivered_qdone, completedIn_qdone hx, add_assoc]
    rfl
  · have he : (g.queue q)[0]? = some e := by rw [hq]; rfl
    have hmap : (g.mapEntry q e.id (fun _ => e)).queue q = [e] := by rw [Group.mapEntry, Group.queue_setQueue, hq]; simp
    refine ⟨_, (g.mapEntry q e.id (fun _ => e)).setQueue q [e], (engineCompletion_run hg he hw hctx hawait).trans ?_, State.group_setGroup _ _ _, rfl,
      Group.queue_setQueue _ _ _, rfl, rfl, rfl, rfl, rfl⟩
    rw [completeEntry_of_lines hg he hw hstart hdone hel hl hcop, deliverSignals_setGroup, deliverFront_of_undone hmap hel hdone]

end Sys2Proof.Machine
end

section
/-! PROOFS. ENGINE_HEAD_START at a head that is ready: what it comes to is what its command answers (R41, R42, R45). -/

namespace Sys2Proof.Machine

open Sys2Proof

/-- What the event makes of the answer of a command at a head whose turn has come. -/
def headOutcome (p : Place) (q : QueueId) (v : QEnv) : QAct → Host.Outcome State Fault Refusal
  | .wait u => .next u
  | .trap x => .next (raiseHead v.s p q v.e x)
  | .trapIn u x => .next (raiseHead u p q v.e x)
  | .start u w => .next (began u p q v.e w)

/-- A command that finds nothing to wait for answers as its instruction says. -/
theorem headAct_of_clear {v : QEnv} (h : HeadClear v) (hr : v.e.refused = none) : headAct v = startCommand v := by
  have hfull : ((v.q == .vector || v.q == .scatter) && !readsFull v.g (regUse v.e.instr)) = false := by
    by_cases hq : v.q = .vector ∨ v.q = .scatter
    · rw [h.reads hq]; simp
    · obtain ⟨h1, h2⟩ := not_or.1 hq
      rw [beq_false_of_ne h1, beq_false_of_ne h2]; rfl
  have hwrites : (v.q == .vector && !writesFull v.g (regUse v.e.instr)) = false := by
    by_cases hq : v.q = .vector
    · rw [h.writes hq]; simp
    · rw [beq_false_of_ne hq]; rfl
  have horder : ((v.q == .vector || v.q == .matrix) && hazard v.s (v.g.queue v.q) v.e) = false := by
    by_cases hq : v.q = .vector ∨ v.q = .matrix
    · rw [h.order hq]; simp
    · obtain ⟨h1, h2⟩ := not_or.1 hq
      rw [beq_false_of_ne h1, beq_false_of_ne h2]; rfl
  have hunits : (v.q == .matrix && (tileHazard v.s (v.g.queue v.q) v.e || (usesTileUnit v.e.instr && !unitsFree v.s v.p v.e))) = false := by
    by_cases hq : v.q = .matrix
    · rw [(h.units hq).1, (h.units hq).2]; simp
    · rw [beq_false_of_ne hq]; rfl
  unfold headAct
  dsimp only
  rw [hr]
  dsimp only
  rw [h.kind, h.pushed.1, h.pushed.2, hfull, hwrites, horder, hunits, h.whole]
  rfl

section
variable {s : State} {p : Place} {q : QueueId} {g : Group} {e : QEntry}

/-- The head that the event finds is the ready one, its tokens taken. -/
theorem actingHead_of_ready (h : HeadReady s p q g e) : actingHead s p q = some (headEnv s p q g e) := by
  obtain ⟨htook, hraised, hfaults, href⟩ := h.fresh
  have hawaits : e.awaits = false := by rw [QEntry.awaits, hfaults]; rfl
  rw [actingHead, h.bound]
  dsimp only
  rw [h.head]
  dsimp only
  rw [hraised, h.may, hawaits, htook, h.take]
  rw [headEnv, headGroup]
  simp [hfaults, hraised, href]

/-- The event answers as the command at a ready head does. -/
theorem engineHeadStart_run (h : HeadReady s p q g e) :
    exec (.engineHeadStart p q) s = headOutcome p q (headEnv s p q g e) (startCommand (headEnv s p q g e)) := by
  have hawaits : (headEnv s p q g e).e.awaits = false := by
    have hf : (headEnv s p q g e).e.faults = [] := h.fresh.2.2.1
    rw [QEntry.awaits, hf]; rfl
  show execEngineHeadStart p q s = _
  rw [execEngineHeadStart, actingHead_of_ready h]
  dsimp only
  rw [headAct_of_clear h.clear h.fresh.2.2.2, h.nocut, hawaits, h.turn]
  cases startCommand (headEnv s p q g e) <;> rfl

/-- A command that starts at a ready head. -/
theorem engineHeadStart_start (h : HeadReady s p q g e) {u : State} {w : Work} (hs : startCommand (headEnv s p q g e) = .start u w) :
    exec (.engineHeadStart p q) s = .next (began u p q (headEnv s p q g e).e w) := by rw [engineHeadStart_run h, hs]; rfl

/-- A command that raises a cause at a ready head. -/
theorem engineHeadStart_trap (h : HeadReady s p q g e) {x : Trap} (hs : startCommand (headEnv s p q g e) = .trap x) :
    exec (.engineHeadStart p q) s = .next (raiseHead (headEnv s p q g e).s p q (headEnv s p q g e).e x) := by rw [engineHeadStart_run h, hs]; rfl

/-- A command that raises a cause at a ready head, with a part of its entry before it. -/
theorem engineHeadStart_trapIn (h : HeadReady s p q g e) {u : State} {x : Trap} (hs : startCommand (headEnv s p q g e) = .trapIn u x) :
    exec (.engineHeadStart p q) s = .next (raiseHead u p q (headEnv s p q g e).e x) := by rw [engineHeadStart_run h, hs]; rfl

/-- A command that waits at a ready head. -/
theorem engineHeadStart_wait (h : HeadReady s p q g e) {u : State} (hs : startCommand (headEnv s p q g e) = .wait u) :
    exec (.engineHeadStart p q) s = .next u := by rw [engineHeadStart_run h, hs]; rfl

end

/-- A command whose pages are granted goes on from the state that granted them. -/
theorem granted_of_start {v : QEnv} {s s' : State} {ws : List Aim} (h : granted v s ws (fun z => .start z Work.none) = .start s' Work.none) (k : State → QAct) :
    granted v s ws k = k s' := by
  unfold granted at h ⊢
  cases hg : s.group v.p with
  | none => rw [hg] at h; cases h
  | some g =>
    rw [hg] at h
    dsimp only at h ⊢
    cases ha : allocPages s v.p g (pagesTouched (ws.map (fun w => (w.1, false)))) with
    | none => rw [ha] at h; cases h
    | some x => rw [ha] at h; cases h; rfl

/-- A command whose pages have their frames goes on. -/
theorem touched_of_start {s s' : State} {p : Place} {ls : List (Loc × Bool)} (h : touched s p ls (fun z => .start z Work.none) = .start s' Work.none)
    (k : State → QAct) : touched s p ls k = k s' := by
  unfold touched at h ⊢
  cases ht : touchAll s p ls with
  | none => rw [ht] at h; cases h
  | some x => rw [ht] at h; cases h; rfl

theorem touched_of_all {s s' : State} {p : Place} {ls : List (Loc × Bool)} (h : touchAll s p ls = some s') (k : State → QAct) : touched s p ls k = k s' := by
  rw [touched, h]

/-- A command that has the pages and frames of its writes goes on from the state that gave them. -/
theorem placed_of_start {v : QEnv} {s s' : State} {ws : List Aim} (h : placed v s ws (fun z => .start z Work.none) = .start s' Work.none) (k : State → QAct) :
    placed v s ws k = k s' := by
  unfold placed at h ⊢
  unfold granted at h ⊢
  cases hg : s.group v.p with
  | none => rw [hg] at h; cases h
  | some g =>
    rw [hg] at h
    dsimp only at h ⊢
    cases ha : allocPages s v.p g (pagesTouched (ws.map (fun w => (w.1, false)))) with
    | none => rw [ha] at h; cases h
    | some x => rw [ha] at h; exact touched_of_start h k

end Sys2Proof.Machine
end

section
/-! PROOFS. VLD, VLDS, VGAT and VST at a ready head (R242, R260, R261), and the group of a command that has started (R41). -/

namespace Sys2Proof.Machine

open Sys2Proof

/-- The group of a command that has started, other than COLGO: its entry carries the work. -/
theorem began_group {u : State} {p : Place} {q : QueueId} {e : QEntry} {w : Work} {h : Group} (hu : u.group p = some h)
    (hc : ∀ a b c, e.instr ≠ .colgo a b c) : (began u p q e w).group p =
      some ((joinOrdered h e).mapEntry q e.id (fun e => { e with took := true, started := true, work := some w, faults := [], refused := none })) := by
  unfold began
  rw [hu]
  dsimp only
  split
  · rename_i a b c _ hi _
    exact absurd hi (hc a b c)
  · exact State.group_setGroup _ _ _

theorem joinOrdered_tokens (g : Group) (e : QEntry) : (joinOrdered g e).tokens = g.tokens := by
  unfold joinOrdered; split <;> rfl

/-- Every entry that a map by identifier leaves under the identifier is its function's value. -/
theorem mapEntry_of_mem {g : Group} {q : QueueId} {id : Nat} {f : QEntry → QEntry} {x : QEntry}
    (hx : x ∈ (g.mapEntry q id f).queue q) (hi : x.id = id) : ∃ y, x = f y := by
  rw [Group.mapEntry, Group.queue_setQueue, List.mem_map] at hx
  obtain ⟨y, -, hy⟩ := hx
  by_cases h : y.id = id
  · rw [if_pos h] at hy; exact ⟨y, hy.symm⟩
  · rw [if_neg h] at hy; exact absurd (hy ▸ hi) h

/-! ## Loads -/

/-- The parts of a vector load, from its accesses, their locations and their positions in the register. -/
def loadPartsOf (ls : List (Loc × Bool)) (accs : List ElemAcc) (poss : List Nat) : List LoadPart :=
  ((ls.zip accs).zip poss).map (fun x => { loc := x.1.1.1, va := x.1.2.va.toNat, n := x.1.2.n, pos := x.2 })

/-- The entry of a vector load. -/
def loadReqOf (v : QEnv) (u : State) (d : BitVec 6) (tag : BitVec 4) (ls : List (Loc × Bool)) (accs : List ElemAcc) (poss : List Nat) : LoadReq :=
  { fpc := v.e.fpc, va := v.x 0, dest := .vector d (tagWidth tag) v.e.id, parts := loadPartsOf ls accs poss, after := (v.g.stream .vec).storesIn,
    mark := (v.g.stream .vec).mark, issued := (u.cores.get (coreOf v.p)).cycle }

/-- The group of a vector load with its entry placed and v(d) left empty. -/
def loadPlaced (v : QEnv) (d : BitVec 6) (tag : BitVec 4) (r : LoadReq) : Group :=
  { v.g with v := v.g.v.set d.toNat { v.v d with tag := tag, full := false, side := 0 } d.isLt }.setStream .vec
    { v.g.stream .vec with loads := (v.g.stream .vec).loads ++ [r], loadsIn := (v.g.stream .vec).loadsIn + 1 }

/-- A vector load whose elements resolve places its entry. -/
theorem placeLoad_of_resolved {v : QEnv} {d : BitVec 6} {tag : BitVec 4} {accs : List ElemAcc} {poss : List Nat} {u : State} {ls : List (Loc × Bool)}
    (hroom : (v.g.stream .vec).loads.length < 16) (hr : resolveAll v v.s accs 0 = .ok u ls) : placeLoad v d tag accs poss =
      .start (u.setGroup v.p (loadPlaced v d tag (loadReqOf v u d tag ls accs poss))) { Work.none with access := true } := by
  rw [placeLoad]
  dsimp only
  rw [if_neg (Nat.not_le.2 hroom), hr]
  rfl

/-- What the statement says of a vector load at a ready head: it waits for room, and with room places its entry. -/
def LoadStarts (s : State) (p : Place) (g : Group) (e : QEntry) (d : BitVec 6) (tag : BitVec 4) (accs : List ElemAcc) (poss : List Nat) : Prop :=
  let v := headEnv s p .vector g e
  (16 ≤ (g.stream .vec).loads.length → exec (.engineHeadStart p .vector) s = .next v.s) ∧
  ((g.stream .vec).loads.length < 16 → ∀ s2 ls, resolveAll v v.s accs 0 = .ok s2 ls → ∃ u h q,
    exec (.engineHeadStart p .vector) s = .next (began u p .vector v.e { Work.none with access := true }) ∧ u.group p = some h ∧
    (h.stream .vec).loads = (g.stream .vec).loads ++ [q] ∧ q.dest = .vector d (tagWidth tag) e.id ∧
    q.parts = List.zipWith (fun y k => ({ loc := y.1.1, va := y.2.va.toNat, n := y.2.n, pos := k } : LoadPart)) (ls.zip accs) poss ∧
    h.v.get d.toFin = { g.v.get d.toFin with tag := tag, full := false, side := 0 } ∧ (∀ k : BitVec 6, k ≠ d → h.v.get k.toFin = g.v.get k.toFin) ∧ u.mem = s2.mem)

theorem loadStarts_of_placeLoad {s : State} {p : Place} {g : Group} {e : QEntry} {d : BitVec 6} {tag : BitVec 4} {accs : List ElemAcc} {poss : List Nat}
    (h : HeadReady s p .vector g e) (hs : startCommand (headEnv s p .vector g e) = placeLoad (headEnv s p .vector g e) d tag accs poss) :
    LoadStarts s p g e d tag accs poss := by
  refine ⟨fun hfull => engineHeadStart_wait h (hs.trans (if_pos hfull)), fun hroom s2 ls hr => ?_⟩
  refine ⟨_, _, loadReqOf (headEnv s p .vector g e) s2 d tag ls accs poss, engineHeadStart_start h (hs.trans (placeLoad_of_resolved hroom hr)), State.group_setGroup _ _ _,
    ?_, rfl, List.map_zip_eq_zipWith, ?_, fun k hk => ?_, rfl⟩
  · rw [loadPlaced, Group.stream_setStream]; rfl
  · simp only [loadPlaced, Group.setStream_v, Vector.get_eq_getElem, BitVec.val_toFin, Vector.getElem_set_self]; rfl
  · have hne : d.toNat ≠ k.toNat := fun h => hk (BitVec.eq_of_toNat_eq h.symm)
    simp only [loadPlaced, Group.setStream_v, Vector.get_eq_getElem, BitVec.val_toFin, Vector.getElem_set_ne _ _ hne]; rfl

/-- An element whose tag is no block has whole bytes. -/
theorem tagWidth_bytes {t : BitVec 4} (h : tagBlock t = false) : 8 * (tagWidth t / 8) = tagWidth t := by
  revert t; decide

section
variable {v : QEnv} {r t : BitVec 4} {d a b : BitVec 6} {pr : BitVec 3}

/-- VLD of a tag without blocks loads its active elements one after another (R261). -/
theorem startVld_of_elements (hr : t.toNat ≤ 12) (h11 : t ≠ 11) (hb : tagBlock t = false) : startVld v d t pr =
    placeLoad v d t ((activeElems (v.pr pr) (tagWidth t)).map (fun k => { va := v.x 0 + BitVec.ofNat 64 (tagWidth t / 8 * k), n := tagWidth t / 8, align := tagWidth t / 8 }))
      ((activeElems (v.pr pr) (tagWidth t)).map (tagWidth t / 8 * ·)) := by
  have hrsvd : tagRsvd t = false := decide_eq_false (by omega)
  unfold startVld
  dsimp only
  rw [hrsvd, hb, if_neg Bool.false_ne_true, if_neg (show ¬ t = 11#4 from h11), if_neg (fun k => Bool.false_ne_true k.2), if_neg Bool.false_ne_true]

/-- VLD of a block tag loads each block and its scale byte, from a 64-byte boundary (R261). -/
theorem startVld_of_blocks (hb : tagBlock t = true) : startVld v d t 0 =
    if (v.x 0).toNat % 64 ≠ 0 then .trap (Trap.at Cause.memAlign (v.x 0) 0) else placeLoad v d t (blockAccs (v.x 0) t) (blockPos t) := by
  have hrsvd : tagRsvd t = false := by revert hb; revert t; decide
  have h11 : t ≠ 11 := fun h => by subst h; exact absurd hb (by decide)
  unfold startVld
  dsimp only
  rw [hrsvd, hb, if_neg Bool.false_ne_true, if_neg (show ¬ t = 11#4 from h11), if_neg (fun k => k.1 rfl), if_pos rfl]

theorem startVlds_of_elements (hb : tagBlock (v.v d).tag = false) (h11 : (v.v d).tag ≠ 11) : startVlds v d pr =
    placeLoad v d (v.v d).tag ((activeElems (v.pr pr) (tagWidth (v.v d).tag)).map (fun k =>
        { va := v.x 0 + BitVec.ofNat 64 k * v.x 1, n := tagWidth (v.v d).tag / 8, align := tagWidth (v.v d).tag / 8 }))
      ((activeElems (v.pr pr) (tagWidth (v.v d).tag)).map (tagWidth (v.v d).tag / 8 * ·)) := by
  unfold startVlds
  dsimp only
  rw [hb, show ((v.v d).tag == 11#4) = false from beq_false_of_ne h11, Bool.or_false, if_neg Bool.false_ne_true]

theorem startVgat_of_words (ht : (v.v d).tag = 0 ∨ (v.v d).tag = 1 ∨ (v.v d).tag = 3) (hi : (v.v b).tag = 1) : startVgat v d b pr =
    placeLoad v d (v.v d).tag ((activeElems (v.pr pr) 32).map (fun k =>
        { va := v.x 0 + (BitVec.ofNat 32 (elemAt (v.v b).data 32 k)).signExtend 64, n := 4, align := 4 })) ((activeElems (v.pr pr) 32).map (4 * ·)) := by
  have hok : ((v.v d).tag == 0#4 || (v.v d).tag == 1#4 || (v.v d).tag == 3#4) = true := by
    rcases ht with h | h | h <;> rw [h] <;> decide
  unfold startVgat
  dsimp only
  rw [hok, hi]
  rfl

/-! ## Stores -/

/-- The accesses of a VST. -/
def vstAccs (v : QEnv) (x : BitVec 6) (pr : BitVec 3) : List ElemAcc :=
  if tagBlock (v.v x).tag then blockAccs (v.x 0) (v.v x).tag
  else (activeElems (v.pr pr) (tagWidth (v.v x).tag)).map (fun k =>
    { va := v.x 0 + BitVec.ofNat 64 (tagWidth (v.v x).tag / 8 * k), n := tagWidth (v.v x).tag / 8, align := tagWidth (v.v x).tag / 8 })

/-- The positions in the register of the accesses of a VST. -/
def vstPoss (v : QEnv) (x : BitVec 6) (pr : BitVec 3) : List Nat :=
  if tagBlock (v.v x).tag then blockPos (v.v x).tag else (activeElems (v.pr pr) (tagWidth (v.v x).tag)).map (tagWidth (v.v x).tag / 8 * ·)

/-- The entry of a VST. -/
def storeReqOf (v : QEnv) (x : BitVec 6) (pr : BitVec 3) (ls : List (Loc × Bool)) (u : State) (t : Stream) : StoreReq :=
  { fpc := v.e.fpc, ht := ls.any (·.2), parts := storeParts (tagBlock (v.v x).tag) (v.v x) (ls.zip ((vstAccs v x pr).zip (vstPoss v x pr))), entry := some v.e.id, id := t.storesIn,
    before := if ls.any (·.2) then t.loadsIn else v.e.afterLd, mark := t.mark, age := u.now }

/-- The group of a VST with its entry placed. -/
def storePlaced (g : Group) (r : StoreReq) : Group :=
  g.setStream .vec { g.stream .vec with stores := (g.stream .vec).stores ++ [r], storesIn := (g.stream .vec).storesIn + 1 }

/-- A VST that passes its checks waits for room in the store queue. -/
theorem startVst_of_full {x : BitVec 6} (hp : ¬ (pr ≠ 0#3 ∧ tagBlock (v.v x).tag = true)) (ha : ¬ (tagBlock (v.v x).tag = true ∧ (v.x 0).toNat % 64 ≠ 0))
    (hfull : 16 ≤ (v.g.stream .vec).stores.length) : startVst v x pr = .wait v.s := by
  unfold startVst
  dsimp only
  rw [if_neg hp, if_neg ha, if_pos hfull]

/-- A VST that passes its checks, with room, its elements resolved and its pages granted, places its entry (R260). -/
theorem startVst_of_granted {x : BitVec 6} {s2 s3 : State} {ls : List (Loc × Bool)} {h : Group}
    (hp : ¬ (pr ≠ 0#3 ∧ tagBlock (v.v x).tag = true)) (ha : ¬ (tagBlock (v.v x).tag = true ∧ (v.x 0).toNat % 64 ≠ 0))
    (hroom : (v.g.stream .vec).stores.length < 16) (hr : resolveAll v v.s (vstAccs v x pr) 1 = .ok s2 ls)
    (hgr : granted v s2 (aims ls (vstAccs v x pr)) (fun z => .start z Work.none) = .start s3 Work.none) (hh : s3.group v.p = some h) :
    startVst v x pr = .start (s3.setGroup v.p (storePlaced h (storeReqOf v x pr ls s3 (h.stream .vec)))) { Work.none with access := true } := by
  unfold startVst
  dsimp only
  rw [if_neg hp, if_neg ha, if_neg (Nat.not_le.2 hroom)]
  rw [show (if tagBlock (v.v x).tag = true then blockAccs (v.x 0) (v.v x).tag else _) = vstAccs v x pr from rfl, hr]
  dsimp only
  rw [granted_of_start hgr, hh]
  rfl

/-- The parts of a store without blocks, one for each access. -/
theorem storeParts_of_elements (x : VReg) (l : List ((Loc × Bool) × ElemAcc × Nat)) : storeParts false x l =
    l.map (fun y => { loc := y.1.1, va := y.2.1.va.toNat, op := .write (x.bytesAt y.2.2 y.2.1.n), scale := none, ht := y.1.2 }) := by
  induction l with
  | nil => rfl
  | cons y l ih =>
    cases l with
    | nil => rfl
    | cons z l => rw [List.map_cons, ← ih]; rfl

/-- The bytes of element k of a register of whole bytes. -/
theorem bytesAt_elem (x : VReg) {n k : Nat} (h : n * k < 2048) : x.bytesAt (n * k) n = leBytes n (elemAt x.data (8 * n) k) := by
  rw [VReg.bytesAt, if_pos h, elemAt, Nat.mul_assoc]

/-- The parts of a store of elements hold the bytes of the elements. -/
theorem storeParts_elems (x : VReg) {n : Nat} (f : Nat → ElemAcc) (hf : ∀ k, (f k).n = n) (es : List Nat) (h : ∀ k ∈ es, n * k < 2048) (ls : List (Loc × Bool)) :
    storeParts false x (ls.zip ((es.map f).zip (es.map (n * ·)))) = List.zipWith (fun y k =>
      { loc := y.1.1, va := y.2.va.toNat, op := .write (leBytes n (elemAt x.data (8 * n) k)), scale := none, ht := y.1.2 }) (ls.zip (es.map f)) es := by
  rw [storeParts_of_elements]
  induction es generalizing ls with
  | nil => simp
  | cons k es ih =>
    cases ls with
    | nil => rfl
    | cons l ls =>
      simp only [List.map_cons, List.zip_cons_cons, List.zipWith_cons_cons]
      rw [ih (fun j hj => h j (List.mem_cons_of_mem k hj)), hf k, bytesAt_elem x (h k List.mem_cons_self)]

end

/-- The elements that an access of a tag covers lie in the register's data. -/
theorem activeElems_bound {P : BitVec 1024} {w n k : Nat} (hw : 8 * n = w) (hk : k ∈ activeElems P w) : n * k < 2048 := by
  have hlt : k < 16384 / w := List.mem_range.1 (List.mem_filter.1 hk).1
  subst hw
  by_cases hn : n = 0
  · subst hn; omega
  · have h1 : (k + 1) * (8 * n) ≤ 16384 := (Nat.le_div_iff_mul_le (by omega)).1 hlt
    have h2 : (k + 1) * (8 * n) = 8 * (n * k) + 8 * n := by ring
    omega

/-- What the statement says of a VST at a ready head: it waits for room, and with room and its pages granted places its entry. -/
def StoreStarts (s : State) (p : Place) (g : Group) (e : QEntry) (accs : List ElemAcc) (parts : List (Loc × Bool) → List StorePart) : Prop :=
  let v := headEnv s p .vector g e
  (16 ≤ (g.stream .vec).stores.length → exec (.engineHeadStart p .vector) s = .next v.s) ∧
  ((g.stream .vec).stores.length < 16 → ∀ s2 ls s3 h, resolveAll v v.s accs 1 = .ok s2 ls →
    granted v s2 (aims ls accs) (fun z => .start z Work.none) = .start s3 Work.none → s3.group p = some h → ∃ u h' q,
      exec (.engineHeadStart p .vector) s = .next (began u p .vector v.e { Work.none with access := true }) ∧ u.group p = some h' ∧
      (h'.stream .vec).stores = (h.stream .vec).stores ++ [q] ∧ q.entry = some e.id ∧ q.parts = parts ls ∧ h'.v = h.v ∧ u.mem = s3.mem)

theorem storeStarts_of_startVst {s : State} {p : Place} {g : Group} {e : QEntry} {x : BitVec 6} {pr : BitVec 3} {accs : List ElemAcc} {parts : List (Loc × Bool) → List StorePart}
    (h : HeadReady s p .vector g e) (hs : startCommand (headEnv s p .vector g e) = startVst (headEnv s p .vector g e) x pr)
    (hp : ¬ (pr ≠ 0#3 ∧ tagBlock (g.v.get x.toFin).tag = true)) (ha : ¬ (tagBlock (g.v.get x.toFin).tag = true ∧ ((headEnv s p .vector g e).x 0).toNat % 64 ≠ 0))
    (haccs : vstAccs (headEnv s p .vector g e) x pr = accs)
    (hparts : ∀ ls, storeParts (tagBlock (g.v.get x.toFin).tag) (g.v.get x.toFin) (ls.zip (accs.zip (vstPoss (headEnv s p .vector g e) x pr))) = parts ls) :
    StoreStarts s p g e accs parts := by
  subst haccs
  refine ⟨fun hfull => engineHeadStart_wait h (hs.trans (startVst_of_full hp ha hfull)), fun hroom s2 ls s3 k hr hgr hk => ?_⟩
  refine ⟨_, _, storeReqOf (headEnv s p .vector g e) x pr ls s3 (k.stream .vec), engineHeadStart_start h (hs.trans (startVst_of_granted hp ha hroom hr hgr hk)),
    State.group_setGroup _ _ _, ?_, rfl, hparts ls, rfl, rfl⟩
  rw [storePlaced, Group.stream_setStream]

/-- The accesses of the blocks of a register, each block before its scale byte. -/
theorem blockAccs_eq (x : BitVec 64) (t : BitVec 4) : blockAccs x t =
    ((List.range (2048 / (if t = 8 then 16 else 32))).flatMap (fun j =>
      [(x + BitVec.ofNat 64 ((if t = 8 then 16 else 32) * j), if t = 8 then 16 else 32), (x + BitVec.ofNat 64 (2048 + j), 1)])).map
      (fun y => ({ va := y.1, n := y.2, align := 1 } : ElemAcc)) := by
  rw [List.map_flatMap]; rfl

/-- A start, whatever the command: its tokens stay taken and its entry carries the work. -/
theorem began_entry {u : State} {p : Place} {q : QueueId} {e : QEntry} {w : Work} {h : Group} (hu : u.group p = some h) (hc : ∀ a b c, e.instr ≠ .colgo a b c) :
    ∃ h', (began u p q e w).group p = some h' ∧ h'.tokens = h.tokens ∧ ∀ x ∈ h'.queue q, x.id = e.id → x.started = true ∧ x.work = some w := by
  refine ⟨_, began_group hu hc, joinOrdered_tokens h e, fun x hx hi => ?_⟩
  obtain ⟨y, hy⟩ := mapEntry_of_mem hx hi
  rw [hy]; exact ⟨rfl, rfl⟩

section
variable {v : QEnv} {r t : BitVec 4} {d a b : BitVec 6} {pr : BitVec 3}

theorem startCommand_vld (h : v.e.instr = .vld r d a t pr) : startCommand v = startVld v d t pr := by simp only [startCommand, startVector, h]
theorem startCommand_vlds (h : v.e.instr = .vlds r d a b pr) : startCommand v = startVlds v d pr := by simp only [startCommand, startVector, h]
theorem startCommand_vgat (h : v.e.instr = .vgat r d a b pr) : startCommand v = startVgat v d b pr := by simp only [startCommand, startVector, h]
theorem startCommand_vst (h : v.e.instr = .vst r d a pr) : startCommand v = startVst v d pr := by simp only [startCommand, startVector, h]

end

/-- The part of a store that element k of a register of n-byte elements makes. -/
def elemPart (x : VReg) (n : Nat) (y : (Loc × Bool) × ElemAcc) (k : Nat) : StorePart :=
  { loc := y.1.1, va := y.2.va.toNat, op := .write (leBytes n (elemAt x.data (8 * n) k)), scale := none, ht := y.1.2 }

section
variable {s : State} {p : Place} {g : Group} {e : QEntry} {r t : BitVec 4} {d a b : BitVec 6} {pr : BitVec 3}

/-- VST of a tag without blocks stores its active elements. -/
theorem vst_stores_elements (h : HeadReady s p .vector g e) (hi : e.instr = .vst r d a pr) (hb : tagBlock (g.v.get d.toFin).tag = false) :
    StoreStarts s p g e (vstAccs (headEnv s p .vector g e) d pr) (fun ls => List.zipWith (elemPart (g.v.get d.toFin) (tagWidth (g.v.get d.toFin).tag / 8))
      (ls.zip (vstAccs (headEnv s p .vector g e) d pr)) (activeElems (g.pred pr) (tagWidth (g.v.get d.toFin).tag))) := by
  have hnb : ¬ tagBlock (g.v.get d.toFin).tag = true := by rw [hb]; exact Bool.false_ne_true
  refine storeStarts_of_startVst h (startCommand_vst hi) (fun k => hnb k.2) (fun k => hnb k.1) rfl (fun ls => ?_)
  have haccs : vstAccs (headEnv s p .vector g e) d pr = _ := if_neg hnb
  have hposs : vstPoss (headEnv s p .vector g e) d pr = _ := if_neg hnb
  rw [hposs, haccs, hb]
  exact storeParts_elems (g.v.get d.toFin) (n := tagWidth (g.v.get d.toFin).tag / 8) _ (fun _ => rfl) _ (fun k hk => activeElems_bound (tagWidth_bytes hb) hk) ls

/-- VST of a block tag stores its blocks with their scale bytes. -/
theorem vst_stores_blocks (h : HeadReady s p .vector g e) (hi : e.instr = .vst r d a 0) (hb : tagBlock (g.v.get d.toFin).tag = true)
    (ha : ((headEnv s p .vector g e).x 0).toNat % 64 = 0) :
    StoreStarts s p g e (blockAccs ((headEnv s p .vector g e).x 0) (g.v.get d.toFin).tag) (fun ls => storeParts true (g.v.get d.toFin)
      (ls.zip ((blockAccs ((headEnv s p .vector g e).x 0) (g.v.get d.toFin).tag).zip (blockPos (g.v.get d.toFin).tag)))) := by
  refine storeStarts_of_startVst h (startCommand_vst hi) (fun k => k.1 rfl) (fun k => k.2 ha) (if_pos hb) (fun ls => ?_)
  have hposs : vstPoss (headEnv s p .vector g e) d 0 = _ := if_pos hb
  rw [hposs, hb]
  rfl

/-- VST of a block tag at an address that is no multiple of 64 raises MEM_ALIGN. -/
theorem vst_misaligned (h : HeadReady s p .vector g e) (hi : e.instr = .vst r d a 0) (hb : tagBlock (g.v.get d.toFin).tag = true)
    (ha : ((headEnv s p .vector g e).x 0).toNat % 64 ≠ 0) : exec (.engineHeadStart p .vector) s =
      .next (raiseHead (headEnv s p .vector g e).s p .vector (headEnv s p .vector g e).e (Trap.at Cause.memAlign ((headEnv s p .vector g e).x 0) 1)) :=
  engineHeadStart_trap h ((startCommand_vst hi).trans ((if_neg (fun k => k.1 rfl)).trans (if_pos ⟨hb, ha⟩)))

end

/-- Settles O35: the event answers as the command at the ready head does, and each of the four accesses places its entry where its checks pass. -/
theorem engineHeadStartsTheReadyCommand : Obligations.EngineHeadStartsTheReadyCommand := by
  unfold Obligations.EngineHeadStartsTheReadyCommand
  refine ⟨fun s p q g e h => ⟨fun u w => engineHeadStart_start h, fun x => engineHeadStart_trap h, fun u x => engineHeadStart_trapIn h, fun u => engineHeadStart_wait h,
    fun u w k _ hk hc => began_entry hk hc⟩, ?_⟩
  intro s p g e r tg d a b pr h v t old idx x starts els loads elements blocks blockVas blockAt size accsOf
  have hels : ∀ tag : BitVec 4, tagBlock tag = false → els (8 * (tagWidth tag / 8)) = activeElems (g.pred pr) (tagWidth tag) := fun tag hb => by
    rw [tagWidth_bytes hb]; rfl
  have hload : ∀ tag accs poss, LoadStarts s p g e d tag accs poss → loads tag accs poss := fun _ _ _ k => k
  have helem : ∀ (tag : BitVec 4) (va : Nat → BitVec 64), tagBlock tag = false →
      startCommand v = placeLoad v d tag ((activeElems (g.pred pr) (tagWidth tag)).map (fun k => { va := va k, n := tagWidth tag / 8, align := tagWidth tag / 8 }))
        ((activeElems (g.pred pr) (tagWidth tag)).map (tagWidth tag / 8 * ·)) → elements tag va := fun tag va hb hs => by
    refine hload _ _ _ ?_
    rw [hels tag hb]
    exact loadStarts_of_placeLoad h hs
  have hblocks : ∀ tag, accsOf (blockVas (size tag)) = blockAccs (x 0) tag := fun tag => (blockAccs_eq (x 0) tag).symm
  refine ⟨fun hi hr h11 hb => ?_, fun hi hb hp ha => ?_, fun hi hb hp ha => ?_, fun hi hb h11 => ?_, fun hi ht hidx => ?_, fun hi => ?_⟩
  · exact helem tg _ hb ((startCommand_vld hi).trans (startVld_of_elements hr h11 hb))
  · subst hp
    rw [hblocks]
    exact hload _ _ _ (loadStarts_of_placeLoad h ((startCommand_vld hi).trans ((startVld_of_blocks hb).trans (if_neg (not_not.2 ha)))))
  · subst hp
    exact engineHeadStart_trap h ((startCommand_vld hi).trans ((startVld_of_blocks hb).trans (if_pos ha)))
  · exact helem old.tag _ hb ((startCommand_vlds hi).trans (startVlds_of_elements hb h11))
  · have hw : tagWidth old.tag = 32 := by rcases ht with k | k | k <;> rw [k] <;> rfl
    have hb : tagBlock old.tag = false := by rcases ht with k | k | k <;> rw [k] <;> rfl
    refine helem old.tag _ hb ((startCommand_vgat hi).trans ?_)
    rw [hw]
    exact startVgat_of_words ht hidx
  · intro n accs stores
    refine ⟨fun hb => ?_, fun hb hp ha => ?_, fun hb hp ha => ?_⟩
    · have hnb : ¬ tagBlock old.tag = true := by rw [hb]; exact Bool.false_ne_true
      have haccs : vstAccs v d pr = accs := (if_neg hnb).trans (congrArg (List.map _) (hels old.tag hb).symm)
      have hstores := vst_stores_elements h hi hb
      rw [haccs, ← hels old.tag hb] at hstores
      exact hstores
    · subst hp
      rw [hblocks]
      exact vst_stores_blocks h hi hb ha
    · subst hp
      exact vst_misaligned h hi hb ha

end Sys2Proof.Machine
end

section
/-! PROOFS. TLD, TST, MMA, MMAW, MMAS, MSELF and RMODE at acceptance (R40, R124, R271, R275, R285, R286), and TLD and TST at the head (R272, R415, R416). -/

namespace Sys2Proof.Machine

open Sys2Proof

section
variable {s : State} {g : Group} {r ev h bt at' : BitVec 4} {x a b c slot : BitVec 6} {t : BitVec 2} {m : BitVec 1} {chain : BitVec 12}

theorem captureBox_of_fault {y : BitVec 10} (hb : boxChecks (g.h.get h.toFin) ((s.here g).getX b) ((s.here g).getX c) = some y) :
    captureBox h b c (s.env g 0) = .error (.plain y) := by
  have hX : (s.env g 0).t.getX = (s.here g).getX := funext (getX_taken s g 0)
  have hbox : boxChecks ((s.env g 0).g.h.get h.toFin) ((s.env g 0).t.getX b) ((s.env g 0).t.getX c) = some y := by rw [hX]; exact hb
  rw [captureBox, hbox]

theorem captureBox_of_whole (hb : boxChecks (g.h.get h.toFin) ((s.here g).getX b) ((s.here g).getX c) = none) :
    captureBox h b c (s.env g 0) = .ok { xs := [(s.here g).getX b, (s.here g).getX c], hs := [g.h.get h.toFin], tid := 0 } := by
  have hX : (s.env g 0).t.getX = (s.here g).getX := funext (getX_taken s g 0)
  have hbox : boxChecks ((s.env g 0).g.h.get h.toFin) ((s.env g 0).t.getX b) ((s.env g 0).t.getX c) = none := by rw [hX]; exact hb
  rw [captureBox, hbox, hX]
  rfl

/-- TLD and TST of a box that passes the checks of R271 capture its origin and its shape register. -/
theorem execBox_of_whole (hc : CanRun s g [.mxe] 0) (hf : (s.here g).fulls [b, c]) (hq : (g.queue .matrix).length < 16)
    (hb : boxChecks (g.h.get h.toFin) ((s.here g).getX b) ((s.here g).getX c) = none) :
    execTld r ev t h b c s = .next (s.queued g .matrix (.tld r ev t h b c) [(s.here g).getX b, (s.here g).getX c] [g.h.get h.toFin] 0 id) ∧
    execTst r ev t h b c s = .next (s.queued g .matrix (.tst r ev t h b c) [(s.here g).getX b, (s.here g).getX c] [g.h.get h.toFin] 0 id) := by
  have hcap := captureBox_of_whole hb
  exact ⟨command_run hc hf hq hcap, command_run hc hf hq hcap⟩

theorem execBox_of_fault {y : BitVec 10} (hc : CanRun s g [.mxe] 0) (hf : (s.here g).fulls [b, c]) (hq : (g.queue .matrix).length < 16)
    (hb : boxChecks (g.h.get h.toFin) ((s.here g).getX b) ((s.here g).getX c) = some y) :
    execTld r ev t h b c s = .next (s.traps g (.plain y)) ∧ execTst r ev t h b c s = .next (s.traps g (.plain y)) := by
  have hcap := captureBox_of_fault hb
  exact ⟨command_trap hc hf hq hcap, command_trap hc hf hq hcap⟩

/-- A step index and a B slot pass when they lie below their limits (R275). -/
theorem stepOperandsOk_iff (y : BitVec 64) (slot : BitVec 6) : stepOperandsOk y slot = true ↔ y.toNat < 2 ^ 20 ∧ slot.toNat ≤ 47 := by
  rw [stepOperandsOk, Bool.and_eq_true, beq_iff_eq, decide_eq_true_iff]
  exact and_congr (extractLsb'_upper_eq_zero_iff (k := 20) (m := 44) y) Iff.rfl

/-- MMA and MMAW of a step within the limits capture its index; MMAS checks the place of its A too (R275). -/
theorem execSteps_of_ok (hc : CanRun s g [.mxe] 0) (hf : (s.here g).fulls [x, a]) (hq : (g.queue .matrix).length < 16)
    (hs : ((s.here g).getX x).toNat < 2 ^ 20 ∧ slot.toNat ≤ 47) :
    execMma r ev x t slot m chain bt s = .next (s.queued g .matrix (.mma r ev x t slot m chain bt) [(s.here g).getX x] [] 0 id) ∧
    execMmaw r ev x t slot chain bt s = .next (s.queued g .matrix (.mmaw r ev x t slot chain bt) [(s.here g).getX x] [] 0 id) ∧
    (¬ (inWindow ((s.here g).getX a) = false ∨ ((s.here g).getX a).toNat % 128 ≠ 0 ∨ 2 ^ 57 < ((s.here g).getX a).toNat + 8192 + sideBytes at') →
      execMmas r ev x a slot m chain bt at' s = .next (s.queued g .matrix (.mmas r ev x a slot m chain bt at') [(s.here g).getX x, (s.here g).getX a] [] 0 id)) ∧
    ((inWindow ((s.here g).getX a) = false ∨ ((s.here g).getX a).toNat % 128 ≠ 0 ∨ 2 ^ 57 < ((s.here g).getX a).toNat + 8192 + sideBytes at') →
      execMmas r ev x a slot m chain bt at' s = .next (s.traps g (Trap.at Cause.tlAlign ((s.here g).getX a) 0))) := by
  have hX : (s.env g 0).t.getX = (s.here g).getX := funext (getX_taken s g 0)
  have hok : stepOperandsOk ((s.env g 0).t.getX x) slot = true := by rw [hX]; exact (stepOperandsOk_iff _ _).2 hs
  have hno : ¬ (!stepOperandsOk ((s.env g 0).t.getX x) slot) = true := by rw [hok]; exact Bool.false_ne_true
  have hfx : (s.here g).fulls [x] := fulls_of_subset hf (by simp)
  refine ⟨command_capX (ks := [x]) hc hfx hq (if_pos hok), command_capX (ks := [x]) hc hfx hq (if_pos hok), fun hin => ?_, fun hin => ?_⟩
  · exact command_capX (ks := [x, a]) hc hf hq ((if_neg hno).trans (if_neg (by rw [hX]; exact hin)))
  · refine command_trap hc hf hq ((if_neg hno).trans ((if_pos (by rw [hX]; exact hin)).trans ?_))
    rw [hX]

theorem execSteps_of_range (hc : CanRun s g [.mxe] 0) (hf : (s.here g).fulls [x, a]) (hq : (g.queue .matrix).length < 16)
    (hs : ¬ (((s.here g).getX x).toNat < 2 ^ 20 ∧ slot.toNat ≤ 47)) :
    execMma r ev x t slot m chain bt s = .next (s.traps g (.plain Cause.opRange)) ∧ execMmaw r ev x t slot chain bt s = .next (s.traps g (.plain Cause.opRange)) ∧
    execMmas r ev x a slot m chain bt at' s = .next (s.traps g (.plain Cause.opRange)) := by
  have hX : (s.env g 0).t.getX x = (s.here g).getX x := getX_taken s g 0 x
  have hno : ¬ stepOperandsOk ((s.env g 0).t.getX x) slot = true := by rw [hX]; exact fun k => hs ((stepOperandsOk_iff _ _).1 k)
  have hyes : (!stepOperandsOk ((s.env g 0).t.getX x) slot) = true := by rw [Bool.eq_false_iff.2 hno]; rfl
  have hfx : (s.here g).fulls [x] := fulls_of_subset hf (by simp)
  exact ⟨command_trap hc hfx hq (if_neg hno), command_trap hc hfx hq (if_neg hno), command_trap hc hf hq (if_pos hyes)⟩

/-- MSELF has only its unit and its seed in its operand (R286). -/
theorem execMself_run (hc : CanRun s g [.mxe] 0) (hf : (s.here g).fulls [a]) (hq : (g.queue .matrix).length < 16) :
    ((s.here g).getX a &&& ~~~0xFF01#64 = 0 → execMself r t a s = .next (s.queued g .matrix (.mself r t a) [(s.here g).getX a] [] 0 id)) ∧
    ((s.here g).getX a &&& ~~~0xFF01#64 ≠ 0 → execMself r t a s = .next (s.traps g (.plain Cause.opRange))) := by
  have hX : (s.env g 0).t.getX a = (s.here g).getX a := getX_taken s g 0 a
  refine ⟨fun h => command_capX (ks := [a]) hc hf hq (if_neg ?_), fun h => command_trap hc hf hq (if_pos ?_)⟩
  · rw [hX]; exact not_not.2 h
  · rw [hX]; exact h

end

section
variable {s : State} {g : Group} {r : BitVec 4} {a : BitVec 6} {o : BitVec 1} {md : BitVec 3}

/-- RMODE of a mode below 6 sets the rounding state of its stream's queue (R285). -/
theorem execRmode_run (hc : CanRun s g [.mxe, .vec] 0) (hq : (g.queue (rmodeQueue s)).length < 16) :
    (md.toNat < 6 → execRmode r o md s = .next (s.queued g (rmodeQueue s) (.rmode r o md) [] [] 0 (fun k => setRState k (rmodeQueue s) (fun y => { y with ovf := o, mode := md })))) ∧
    (6 ≤ md.toNat → execRmode r o md s = .next (s.traps g (.plain Cause.rmRsvd))) := by
  have hf : (s.here g).fulls [] := rfl
  have hrun : execRmode r o md s = command (rmodeQueue s) [.mxe, .vec] (.rmode r o md) [] (fun e => if 6 ≤ md.toNat then .error (.plain Cause.rmRsvd) else capX [] e)
    (fun k => setRState k (rmodeQueue s) (fun y => { y with ovf := o, mode := md })) s := rfl
  rw [hrun]
  exact ⟨fun h => command_capX (ks := []) hc hf hq (if_neg (Nat.not_le.2 h)), fun h => command_trap hc hf hq (if_pos h)⟩

/-- RMODE with a seed sets it too, and DCNT in the vector queue (R285). -/
theorem execRmodeSeed_run (hc : CanRun s g [.mxe, .vec] 0) (hf : (s.here g).fulls [a]) (hq : (g.queue (rmodeQueue s)).length < 16) :
    (md.toNat < 6 → execRmodeSeed r o md a s = .next (s.queued g (rmodeQueue s) (.rmodeSeed r o md a) [(s.here g).getX a] [] 0 (fun k => setRState k (rmodeQueue s) (fun y =>
      { y with ovf := o, mode := md, seed := ((s.here g).getX a).extractLsb' 0 32, dcnt := if rmodeQueue s = .vector then 0 else y.dcnt })))) ∧
    (6 ≤ md.toNat → execRmodeSeed r o md a s = .next (s.traps g (.plain Cause.rmRsvd))) := by
  have hX : (s.env g 0).t.getX a = (s.here g).getX a := getX_taken s g 0 a
  have hlen : ¬ 16 ≤ ((s.env g 0).g.queue (rmodeQueue (s.env g 0).s)).length := Nat.not_le.2 hq
  refine ⟨fun h => plain_done hc (f := fun k => setRState (accept k (rmodeQueue s) s.curStream (.rmodeSeed r o md a) { xs := [(s.here g).getX a], hs := [], tid := 0 }) (rmodeQueue s)
    (fun y => { y with ovf := o, mode := md, seed := ((s.here g).getX a).extractLsb' 0 32, dcnt := if rmodeQueue s = .vector then 0 else y.dcnt })) ?_, fun h => plain_trap hc ?_⟩
  · dsimp only
    rw [reads_of_fulls (fulls_env hf), if_neg hlen, if_neg (Nat.not_le.2 h), hX]
    show Act.done ((s.began g 0).setGroup s.curPlace _) = _
    rw [State.began, State.setGroup_setGroup]
    rfl
  · dsimp only
    rw [reads_of_fulls (fulls_env hf), if_neg hlen, if_pos h]

end

/-! ## Boxes at the head -/

/-- The operands and the shape registers that an entry holds, by their numbers. -/
theorem toList_getD_get {α : Type} {n : Nat} (v : Vector α n) (i : Fin n) (y : α) : v.toList.getD i y = v.get i := by
  simp [Vector.get_eq_getElem]

theorem QEnv.x_eq_get (v : QEnv) (k : Fin 6) : v.x k = v.e.xops.get k := toList_getD_get _ k 0

theorem QEnv.shape_eq_of_get (v : QEnv) (k : Fin 2) : v.shape k = Shape.of (v.e.shops.get k) := congrArg Shape.of (toList_getD_get _ k 0)

/-- The chunks of a box lie in its rows, begin at an element of the box, and are not empty (R271, R272). -/
theorem Shape.mem_chunks {h : Shape} {o : List Nat} {x : Chunk} (hx : x ∈ h.chunks o) :
    x.va = (h.elem o x.row x.i0).1 ∧ 0 < x.n ∧ x.row < h.rows ∧ x.i0 < h.boxAt 0 := by
  unfold Shape.chunks at hx
  obtain ⟨r, hr, hx⟩ := List.mem_flatMap.1 hx
  obtain ⟨j, -, hx⟩ := List.mem_filterMap.1 hx
  dsimp only at hx
  split at hx
  · cases hx
  · rename_i hn
    cases hx
    obtain ⟨i, hi⟩ := List.exists_mem_of_length_pos (Nat.pos_of_ne_zero hn)
    have hin := (List.mem_filter.1 hi).2
    rw [Bool.and_eq_true, decide_eq_true_iff] at hin
    exact ⟨rfl, Nat.pos_of_ne_zero hn, List.mem_range.1 hr, lt_of_le_of_lt (Nat.le_add_right _ _) hin.1⟩

/-- A list of accesses that resolves without a fault has a location for each. -/
theorem resolveList_length {v : QEnv} {kind : BitVec 2} {setD any : Bool} {accs : List ElemAcc} {s s' : State} {ls ls' : List (Loc × Bool)}
    {fs : List (BitVec 64 × BitVec 2 × BitVec 10 × BitVec 3)} (h : resolveList v kind setD any s accs ls fs = (s', some (ls', []))) :
    fs = [] ∧ ls'.length = ls.length + accs.length := by
  induction accs generalizing s ls fs with
  | nil =>
    rw [resolveList] at h
    simp only [Prod.mk.injEq, Option.some.injEq, List.reverse_eq_nil_iff] at h
    obtain ⟨-, rfl, rfl⟩ := h
    exact ⟨rfl, List.length_reverse⟩
  | cons a rest ih =>
    rw [resolveList] at h
    cases hr : resolveOne v s a kind setD any with
    | wait u => rw [hr] at h; cases h
    | ok u l ht =>
      rw [hr] at h
      obtain ⟨hf, hl⟩ := ih h
      exact ⟨hf, by rw [hl, List.length_cons, List.length_cons]; omega⟩
    | bad u c lvl =>
      rw [hr] at h
      dsimp only at h
      split at h
      · exact absurd (ih h).1 (List.cons_ne_nil _ _)
      · simp at h

/-- Accesses that resolve have a location each. -/
theorem resolveAll_length {v : QEnv} {s s' : State} {accs : List ElemAcc} {kind : BitVec 2} {ls : List (Loc × Bool)} (h : resolveAll v s accs kind = .ok s' ls) :
    ls.length = accs.length := by
  unfold resolveAll resolvedOf at h
  split at h
  · cases h
  · rename_i u l hl
    cases h
    exact (resolveList_length hl).2.trans (Nat.zero_add _)
  · cases h

/-- A box whose accesses resolve keeps its chunks in their order. -/
theorem Shape.map_fst_pairs {h : Shape} {cs : List Chunk} {ls : List (Loc × Bool)} (hl : ls.length = (h.accesses cs).length) : (h.pairs cs ls).map (·.1) = cs := by
  induction cs generalizing ls with
  | nil => rfl
  | cons c cs ih =>
    rw [Shape.accesses, List.flatMap_cons, List.length_append, ← Shape.accesses] at hl
    cases ls with
    | nil => simp only [List.length_cons, List.length_nil] at hl; omega
    | cons x rest =>
      rw [Shape.pairs]
      by_cases hs : h.hasScale c = true
      · rw [if_pos hs] at hl ⊢
        rw [List.map_cons, ih (by rw [List.length_drop]; simp only [List.length_cons, List.length_nil] at hl; omega)]
      · rw [if_neg hs] at hl ⊢
        rw [List.map_cons, ih (by simp only [List.length_cons, List.length_nil] at hl; omega)]

/-- The way to a box that is free places its chunks where its accesses resolve (R271, R272). -/
theorem planBox_ok {v : QEnv} {s s' : State} {h : Shape} {cs : List Chunk} {kind : BitVec 2} {pl : List PlacedChunk} {as : List Aim} {locks : List (Nat × Nat)}
    (hp : planBox v s h cs kind = .ok s' pl as locks) : ∃ ls, resolveAll { v with s := s } s (h.accesses cs) kind = .ok s' ls ∧ pl = h.pairs cs ls ∧
      as = aims ls (h.accesses cs) ∧ locks = spadRegions (h.sized pl) := by
  unfold planBox at hp
  split at hp
  · cases hp
  · rename_i u ls hr
    dsimp only at hp
    split at hp
    · cases hp
    · cases hp; exact ⟨ls, hr, rfl, rfl, rfl⟩

theorem planBox_chunks {v : QEnv} {s s' : State} {h : Shape} {cs : List Chunk} {kind : BitVec 2} {pl : List PlacedChunk} {as : List Aim} {locks : List (Nat × Nat)}
    (hp : planBox v s h cs kind = .ok s' pl as locks) : pl.map (·.1) = cs := by
  obtain ⟨ls, hr, rfl, -, -⟩ := planBox_ok hp
  exact Shape.map_fst_pairs (resolveAll_length hr)

/-! ## What an engine reads -/

theorem firstOfLines_ne_nil {l : List Loc} (h : l ≠ []) : firstOfLines l ≠ [] := by
  have hkeep : ∀ (l acc : List Loc), acc ≠ [] → l.foldl (fun acc x => if acc.any (fun y => y.sameLine x) then acc else acc ++ [x]) acc ≠ [] := by
    intro l
    induction l with
    | nil => exact fun _ h => h
    | cons x l ih => exact fun acc h => ih _ (by dsimp only; split <;> simp [h])
  cases l with
  | nil => exact absurd rfl h
  | cons x l => exact hkeep l _ (by simp)

/-- Reads that find no poisoned line give the bytes at the home points (R96, R415). -/
theorem engineRead_of_whole {s : State} {p : Place} {g : Group} {ls : List (Loc × Nat)} (hbad : badLines s p g ls = []) {l : Loc} {n : Nat} (hl : (l, n) ∈ ls) :
    (engineRead s p g l n).1 = (List.range n).map (fun k => locByte s p g (l.plus k)) := by
  have hnil := not_imp_not.1 firstOfLines_ne_nil hbad
  have hclean : ∀ k ∈ List.range n, locPoisoned s p g (l.plus k) ≠ true := fun k hk =>
    List.filter_eq_nil_iff.1 (List.flatMap_eq_nil_iff.1 hnil _ hl) _ (List.mem_map_of_mem hk)
  rw [engineRead, List.map_map]
  exact List.map_congr_left (fun k hk => if_neg (hclean k hk))

/-- The data and the scale byte of a placed chunk are among the reads of its box. -/
theorem Shape.mem_sized {h : Shape} {pl : List PlacedChunk} {x : PlacedChunk} (hx : x ∈ pl) :
    (x.2.1, h.chunkBytes x.1) ∈ h.sized pl ∧ ∀ l, x.2.2 = some l → (l, 1) ∈ h.sized pl :=
  ⟨List.mem_flatMap.2 ⟨x, hx, List.mem_cons_self⟩, fun l hl => List.mem_flatMap.2 ⟨x, hx, List.mem_cons_of_mem _ (by rw [hl]; exact List.mem_cons_self)⟩⟩

/-- The state in which a box is read, its requests at the L2 slices made. -/
def boxTouched (s : State) (g : Group) (h : Shape) (pl : List PlacedChunk) : State :=
  engineTouch s g.lr.asid h.ef false (pl.map (fun x => (x.2.1, x.1.va)) ++ pl.filterMap (fun x => x.2.2.map (fun l => (l, h.scaleAddr x.1.va))))

/-- The rows of a tile that a box without poison gives: the bytes of each chunk at its row and its first element. -/
theorem readBox_data {s : State} {p : Place} {g : Group} {h : Shape} {pl : List PlacedChunk} (hbad : badLines (boxTouched s g h pl) p g (h.sized pl) = []) :
    (readBox s p g h pl).data = tileOfBytes (pl.map (fun x => (128 * x.1.row + x.1.i0 * boxWidth h.tag / 8,
      (List.range (h.chunkBytes x.1)).map (fun k => locByte (boxTouched s g h pl) p g (x.2.1.plus k))))) :=
  congrArg tileOfBytes (List.map_congr_left (fun _ hx => congrArg (Prod.mk _) (engineRead_of_whole hbad (Shape.mem_sized hx).1)))

/-- The sideband of a tile that a box without poison gives: the scale byte of each block at the block's number. -/
theorem readBox_side {s : State} {p : Place} {g : Group} {h : Shape} {pl : List PlacedChunk} (hbad : badLines (boxTouched s g h pl) p g (h.sized pl) = []) :
    (readBox s p g h pl).side = (pl.filterMap (fun x => x.2.2.map (fun l => ((x.1.row * (1024 / boxWidth h.tag) + x.1.i0) / 32,
      (List.range 1).map (fun k => locByte (boxTouched s g h pl) p g (l.plus k)))))).foldl (fun acc y => overlay acc y.1 y.2) 0 := by
  rw [List.foldl_filterMap]
  refine List.foldl_ext _ _ _ (fun acc x hx => ?_)
  rcases hsc : x.2.2 with - | l
  · rfl
  · exact congrArg (overlay acc _) (engineRead_of_whole hbad ((Shape.mem_sized hx).2 l hsc))

theorem emptyTile_full {s : State} {p : Place} {t : BitVec 2} {k : Group} (hk : (emptyTile s p [t]).group p = some k) : (k.t.get t.toFin).full = false := by
  unfold emptyTile at hk
  split at hk
  · rename_i hn; rw [hn] at hk; cases hk
  · rw [State.group_setGroup, Option.some.injEq] at hk
    subst hk
    simp [Vector.get_eq_getElem]

/-! ## TLD and TST at the head (R111, R272, R415, R416) -/

section
variable {v : QEnv} {r ev h4 : BitVec 4} {t : BitVec 2} {b c : BitVec 6}

theorem startCommand_tld (h : v.e.instr = .tld r ev t h4 b c) : startCommand v = startTld v t := by simp only [startCommand, h]
theorem startCommand_tst (h : v.e.instr = .tst r ev t h4 b c) : startCommand v = startTst v t := by simp only [startCommand, h]

theorem startTld_of_reserved (h : 13 ≤ (v.shape 0).tag.toNat) : startTld v t = .trap (.plain Cause.tagRsvd) := if_pos (decide_eq_true h)

section
variable {s2 s3 : State} {h : Shape} {o : List Nat} {pl : List PlacedChunk} {as : List Aim} {locks : List (Nat × Nat)} (hh : v.shape 0 = h) (ho : originOf (v.x 0) (v.x 1) = o)

section
variable (ht : h.tag.toNat < 13) (hp : planBox v v.s h (h.chunks o) 0 = .ok s2 pl as locks) (h3 : touchAll s2 v.p (as.map (fun x => (x.1, false))) = some s3)
include hh ho ht hp h3

/-- TLD reads its box once its pages have their frames, the register empty meanwhile. -/
theorem startTld_eq : startTld v t =
    let x := readBox s3 v.p v.g h pl
    let s := emptyTile x.s v.p [t]
    if x.bad ≠ [] ∧ v.g.lr.ecc ≠ 1#2 then .start s { Work.none with locks := locks, cause := some Cause.mcEcc }
    else .start (x.bad.foldl (fun s l => recordZeroFill v.s s v.p v.g l) s)
      { Work.none with tw := [(t, { data := x.data, tag := h.tag, full := true, side := x.side })], locks := locks } := by
  unfold startTld
  dsimp only
  rw [hh, ho, if_neg (show ¬ tagRsvd h.tag = true from fun k => absurd (of_decide_eq_true k) (by omega)), hp]
  dsimp only
  rw [touched_of_all h3]

theorem startTld_of_whole (hbad : badLines (boxTouched s3 v.g h pl) v.p v.g (h.sized pl) = []) : startTld v t =
    .start (emptyTile (boxTouched s3 v.g h pl) v.p [t]) { Work.none with locks := locks, tw := [(t,
      { data := (readBox s3 v.p v.g h pl).data, tag := h.tag, full := true, side := (readBox s3 v.p v.g h pl).side })] } := by
  have hb : (readBox s3 v.p v.g h pl).bad = [] := hbad
  rw [startTld_eq hh ho ht hp h3]
  dsimp only
  rw [hb, if_neg (fun k => k.1 rfl)]
  rfl

theorem startTld_of_poison (hbad : badLines (boxTouched s3 v.g h pl) v.p v.g (h.sized pl) ≠ []) (hecc : v.g.lr.ecc ≠ 1#2) : startTld v t =
    .start (emptyTile (boxTouched s3 v.g h pl) v.p [t]) { Work.none with locks := locks, cause := some Cause.mcEcc } := by
  rw [startTld_eq hh ho ht hp h3]
  exact if_pos ⟨hbad, hecc⟩

end

include hh in
theorem startTst_of_mismatch (ht : (v.t t).tag ≠ h.tag) : startTst v t = .trap (.plain Cause.tagMismatch) := by
  subst hh; exact if_pos ht

include hh ho in
/-- TST writes its box from the register once its pages are granted. -/
theorem startTst_of_placed (ht : (v.t t).tag = h.tag) (hp : planBox v v.s h (h.chunks o) 1 = .ok s2 pl as locks)
    (h3 : placed v s2 as (fun z => .start z Work.none) = .start s3 Work.none) : startTst v t =
      .start s3 { Work.none with lines := writeBox h pl ((v.t t).chunkBytes h) ((v.t t).chunkScale h), locks := locks } := by
  unfold startTst
  dsimp only
  rw [hh, ho, if_neg (not_not.2 ht), hp]
  dsimp only
  rw [placed_of_start h3]

end

end

/-! ## The statement -/

theorem sideBytes_eq (t : BitVec 4) : sideBytes t = if t = 8 then 512 else if t = 9 ∨ t = 10 then 256 else 0 := by revert t; decide

/-- The queue of RMODE is that of its stream. -/
theorem rmodeQueue_eq (s : State) : rmodeQueue s = if s.curStream = .vec then QueueId.vector else .matrix := rfl

theorem rmodeQueue_vector_iff (s : State) : rmodeQueue s = .vector ↔ s.curStream = .vec := by
  rw [rmodeQueue_eq]; split <;> simp [*]

/-- Settles O41: each command captures its operands when its checks pass, and at the head the box goes chunk by chunk through the places that it resolves to. -/
theorem matrixCommandsEnterTheirQueue : Obligations.MatrixCommandsEnterTheirQueue := by
  unfold Obligations.MatrixCommandsEnterTheirQueue
  refine ⟨fun s g r ev h bt at' x a b c slot t m o chain md roles hc hf => ?_, fun s s2 p g e r ev h4 t b c pl as locks hr => ?_⟩
  · intro X q traps gives stepOk side inside
    refine ⟨fun hro hq => ?_, fun hro hq => ?_⟩
    · subst hro
      have hbc : (s.here g).fulls [b, c] := fulls_of_subset hf (by simp)
      have hxa : (s.here g).fulls [x, a] := fulls_of_subset hf (by simp)
      have ha : (s.here g).fulls [a] := fulls_of_subset hf (by simp)
      have hinside : ¬ inside ↔ (inWindow (X a) = false ∨ (X a).toNat % 128 ≠ 0 ∨ 2 ^ 57 < (X a).toNat + 8192 + sideBytes at') := by
        rw [sideBytes_eq, not_and_or, not_and_or, Bool.not_eq_true, Nat.not_le]
      have hself := execMself_run (r := r) (t := t) hc ha hq
      refine ⟨execBox_of_whole hc hbc hq, fun y => execBox_of_fault hc hbc hq, fun hs => ?_, execSteps_of_range hc hxa hq, hself⟩
      obtain ⟨hmma, hmmaw, hin, hout⟩ := execSteps_of_ok (r := r) (ev := ev) (t := t) (m := m) (chain := chain) (bt := bt) (at' := at') hc hxa hq hs
      exact ⟨hmma, hmmaw, fun k => hin (fun j => hinside.2 j k), fun k => hout (hinside.1 k)⟩
    · subst hro
      have ha : (s.here g).fulls [a] := fulls_of_subset hf (by simp)
      obtain ⟨hset, hrsvd⟩ := execRmode_run (r := r) (o := o) (md := md) hc hq
      obtain ⟨hseed, hrsvd'⟩ := execRmodeSeed_run (r := r) (o := o) (md := md) hc ha hq
      refine ⟨fun hm => ⟨hset hm, ?_⟩, fun hm => ⟨hrsvd hm, hrsvd' hm⟩⟩
      have := hseed hm
      simp only [rmodeQueue_vector_iff] at this
      exact this
  · intro v h chunks starts raises
    have hx0 : v.x 0 = e.xops.get 0 := QEnv.x_eq_get v 0
    have hx1 : v.x 1 = e.xops.get 1 := QEnv.x_eq_get v 1
    have hh : v.shape 0 = h := QEnv.shape_eq_of_get v 0
    have ho : originOf (v.x 0) (v.x 1) = originOf (e.xops.get 0) (e.xops.get 1) := by rw [hx0, hx1]
    refine ⟨fun x => Shape.mem_chunks, fun hi => ⟨fun ht => ?_, fun ht hp => ⟨planBox_chunks hp, fun s3 h3 => ?_⟩⟩, fun hi => ⟨fun ht => ?_, fun ht hp s3 h3 => ?_⟩⟩
    · exact engineHeadStart_trap hr ((startCommand_tld hi).trans (startTld_of_reserved (hh ▸ ht)))
    · intro reads bytes bad
      refine ⟨fun hbad => ?_, fun hbad hecc => ?_⟩
      · have hdata := readBox_data (p := p) (g := v.g) hbad
        have hside := readBox_side (p := p) (g := v.g) hbad
        exact ⟨_, _, engineHeadStart_start hr ((startCommand_tld hi).trans (startTld_of_whole hh ho ht hp h3 hbad)), rfl, rfl, hdata, hside, fun k hk => emptyTile_full hk⟩
      · exact ⟨_, engineHeadStart_start hr ((startCommand_tld hi).trans (startTld_of_poison hh ho ht hp h3 hbad hecc)), fun k hk => emptyTile_full hk⟩
    · exact engineHeadStart_trap hr ((startCommand_tst hi).trans (startTst_of_mismatch hh ht))
    · exact engineHeadStart_start hr ((startCommand_tst hi).trans (startTst_of_placed hh ho ht hp h3))

end Sys2Proof.Machine
end

section
/-! PROOFS. CPY, CPYW, STGNX, the scatter commands and the collective commands at acceptance, and CPSTAT (R40, R288, R290, R293, R294, R296, R297). -/

namespace Sys2Proof.Machine

open Sys2Proof

section
variable {s : State} {g : Group} {r ev d x fmt ring : BitVec 4} {a b c fa fv rd : BitVec 6} {ch p : BitVec 3} {dk sk k : BitVec 1} {op : BitVec 2} {lim : BitVec 12}

/-- The copy that a CPY or a CPYW of the current stream asks for (R289). -/
def askedCopy (s : State) (g : Group) (ch : BitVec 3) (dk sk : BitVec 1) (d x : BitVec 4) (od os : BitVec 6) (flag : Option (BitVec 64 × BitVec 64)) : CopySpec :=
  { chan := ch, dst := sideAt g dk d, src := sideAt g sk x, od := (s.here g).getX od, os := (s.here g).getX os, bar := none, flag := flag }

/-- The shape registers that a copy names, the destination's first. -/
theorem askedCopy_shapes (od os : BitVec 6) (flag : Option (BitVec 64 × BitVec 64)) : (askedCopy s g ch dk sk d x od os flag).shapes =
    (if dk = 0#1 then [g.h.get d.toFin] else []) ++ (if sk = 0#1 then [g.h.get x.toFin] else []) := by
  rw [CopySpec.shapes, askedCopy, sideAt, sideAt]
  by_cases hd : dk = 0#1 <;> by_cases hs : sk = 0#1 <;> simp only [hd, hs, if_true, if_false]

/-- The outcome of a copy command i at its acceptance: a failing check raises its cause, a channel whose identifiers are spent OP_RANGE, and else the entry takes
the channel's NEXTID, which rises by one (R288, R290). -/
def CopyAccepted (s : State) (g : Group) (i : Instr) (z : CopySpec) (xs : List (BitVec 64)) (o : Host.Outcome State Fault Refusal) : Prop :=
  let nid := (g.chans.get z.chan.toFin).nextid
  (∀ y, copyTrap z = some y → o = .next (s.traps g y)) ∧
  (copyTrap z = none → nid = BitVec.allOnes 48 → o = .next (s.traps g (.plain Cause.opRange))) ∧
  (copyTrap z = none → nid ≠ BitVec.allOnes 48 → o = .next (s.queued g (copyQueue s) i xs z.shapes nid
    (fun h => { h with chans := h.chans.set z.chan.toNat { h.chans.get z.chan.toFin with nextid := nid + 1 } z.chan.isLt })))

theorem copyCommand_run {i : Instr} {rs : List (BitVec 6)} {cap : Env → Except Trap Capture} {z : CopySpec} {xs : List (BitVec 64)}
    (hc : CanRun s g [.ldr, .str] 0) (hf : (s.here g).fulls rs) (hq : (g.queue (copyQueue s)).length < 16) (hcap : cap (s.env g 0) = captureCopy z xs (s.env g 0)) :
    CopyAccepted s g i z xs (command (copyQueue s) [.ldr, .str] i rs cap (nextTid z.chan) s) := by
  refine ⟨fun y hy => command_trap hc hf hq ?_, fun hn ht => command_trap hc hf hq ?_, fun hn ht => ?_⟩
  · rw [hcap, captureCopy, hy]
  · rw [hcap, captureCopy, hn]; exact if_pos ht
  · have hok : cap (s.env g 0) = .ok { xs := xs, hs := z.shapes, tid := (g.chans.get z.chan.toFin).nextid } := by
      rw [hcap, captureCopy, hn]; exact if_neg ht
    rw [command_run hc hf hq hok]
    rfl

/-- CPY captures its operands in field order (R289). -/
theorem execCpy_run (hc : CanRun s g [.ldr, .str] 0) (hf : (s.here g).fulls [a, b, c]) (hq : (g.queue (copyQueue s)).length < 16) :
    CopyAccepted s g (.cpy r ev d x a ch dk sk b c) (askedCopy s g ch dk sk d x b c none) ([a, b, c].map (s.here g).getX) (execCpy r ev d x a ch dk sk b c s) := by
  have hX : (s.env g 0).t.getX = (s.here g).getX := funext (getX_taken s g 0)
  rw [execCpy]
  refine copyCommand_run (z := askedCopy s g ch dk sk d x b c none) hc hf hq ?_
  rw [hX]; rfl

/-- CPYW captures its flag's address and value after them (R289). -/
theorem execCpyw_run (hc : CanRun s g [.ldr, .str] 0) (hf : (s.here g).fulls [a, b, c, fa, fv]) (hq : (g.queue (copyQueue s)).length < 16) :
    CopyAccepted s g (.cpyw r ev d x a ch dk sk b c fa fv) (askedCopy s g ch dk sk d x b c (some ((s.here g).getX fa, (s.here g).getX fv)))
      ([a, b, c, fa, fv].map (s.here g).getX) (execCpyw r ev d x a ch dk sk b c fa fv s) := by
  have hX : (s.env g 0).t.getX = (s.here g).getX := funext (getX_taken s g 0)
  rw [execCpyw]
  refine copyCommand_run (z := askedCopy s g ch dk sk d x b c (some ((s.here g).getX fa, (s.here g).getX fv))) hc hf hq ?_
  rw [hX]; rfl

/-- SAQ and SAHIST check the alignment of their base (R297). -/
theorem baseCommand_run {i : Instr} {n : Nat} (hc : CanRun s g [.vec, .ctl] 0) (hf : (s.here g).fulls [b]) (hq : (g.queue .scatter).length < 16) :
    (((s.here g).getX b).toNat % n = 0 → command .scatter [.vec, .ctl] i [b] (captureBase b n) id s = .next (s.queued g .scatter i [(s.here g).getX b] [] 0 id)) ∧
    (((s.here g).getX b).toNat % n ≠ 0 → command .scatter [.vec, .ctl] i [b] (captureBase b n) id s = .next (s.traps g (Trap.at Cause.memAlign ((s.here g).getX b) 1))) := by
  have hX : (s.env g 0).t.getX b = (s.here g).getX b := getX_taken s g 0 b
  refine ⟨fun h => command_capX (ks := [b]) hc hf hq (if_neg (by rw [hX]; exact not_not.2 h)), fun h => command_trap hc hf hq ((if_pos (by rw [hX]; exact h)).trans ?_)⟩
  rw [hX]

theorem execSaq_run (hc : CanRun s g [.vec, .ctl] 0) (hf : (s.here g).fulls [b]) (hq : (g.queue .scatter).length < 16) :
    (((s.here g).getX b).toNat % baseWidth fmt = 0 → execSaq r ev a c b p op fmt s = .next (s.queued g .scatter (.saq r ev a c b p op fmt) [(s.here g).getX b] [] 0 id)) ∧
    (((s.here g).getX b).toNat % baseWidth fmt ≠ 0 → execSaq r ev a c b p op fmt s = .next (s.traps g (Trap.at Cause.memAlign ((s.here g).getX b) 1))) :=
  baseCommand_run hc hf hq

theorem execSahist_run (hc : CanRun s g [.vec, .ctl] 0) (hf : (s.here g).fulls [b]) (hq : (g.queue .scatter).length < 16) :
    (((s.here g).getX b).toNat % 4 = 0 → execSahist r ev c b p lim s = .next (s.queued g .scatter (.sahist r ev c b p lim) [(s.here g).getX b] [] 0 id)) ∧
    (((s.here g).getX b).toNat % 4 ≠ 0 → execSahist r ev c b p lim s = .next (s.traps g (Trap.at Cause.memAlign ((s.here g).getX b) 1))) :=
  baseCommand_run hc hf hq

/-- CPSTAT reads a counter of a channel (R293). -/
theorem execCpstat_run (hc : CanRun s g anyStream ring) (hf : (s.here g).fulls [rd]) : execCpstat ring rd k ch s =
    .next (s.after g ring 0 (fun t => t.setX rd ((if k = 1#1 then (g.chans.get ch.toFin).nextid else (g.chans.get ch.toFin).wm).zeroExtend 64))) := by
  have hfull : (s.env g ring).t.isFull rd = true := (isFull_taken s g ring rd).trans (List.all_eq_true.1 hf rd List.mem_cons_self)
  have hget : (s.env g ring).g.chans = g.chans := rfl
  rw [execCpstat]
  refine plain_done hc ?_
  dsimp only
  rw [hget]
  show Act.map _ (Stream.writes _ rd _) = _
  rw [writes_of_full hfull]
  show Act.done ((s.began g ring).setGroup s.curPlace _) = _
  rw [State.began, State.setGroup_setGroup]
  rfl

section
variable (hf : (s.here g).fulls [a, b])
include hf

/-- STGNX, SAFL, SALAT and the commands of the collective engine capture their scalar operands and check nothing. -/
theorem execStgnx_run (hc : CanRun s g [.ldr, .str] 0) (hq : (g.queue (copyQueue s)).length < 16) :
    execStgnx r a s = .next (s.queued g (copyQueue s) (.stgnx r a) [(s.here g).getX a] [] 0 id) :=
  command_capX (ks := [a]) hc (fulls_of_subset hf (by simp)) hq rfl

theorem execScatterEnds_run (hc : CanRun s g [.vec, .ctl] 0) (hq : (g.queue .scatter).length < 16) :
    execSafl r s = .next (s.queued g .scatter (.safl r) [] [] 0 id) ∧ execSalat r a s = .next (s.queued g .scatter (.salat r a) [(s.here g).getX a] [] 0 id) :=
  ⟨command_capX (ks := []) (rs := []) hc rfl hq rfl, command_capX (ks := [a]) hc (fulls_of_subset hf (by simp)) hq rfl⟩

theorem execCollectives_run (hc : CanRun s g [.ctl] 0) (hq : (g.queue .collective).length < 16) :
    execColld r a b s = .next (s.queued g .collective (.colld r a b) [(s.here g).getX a, (s.here g).getX b] [] 0 id) ∧
    execColgo r a b s = .next (s.queued g .collective (.colgo r a b) [(s.here g).getX a, (s.here g).getX b] [] 0 id) ∧
    execColwait r a s = .next (s.queued g .collective (.colwait r a) [(s.here g).getX a] [] 0 id) :=
  ⟨command_capX (ks := [a, b]) hc hf hq rfl, command_capX (ks := [a, b]) hc hf hq rfl, command_capX (ks := [a]) hc (fulls_of_subset hf (by simp)) hq rfl⟩

end

end

/-! ## Copies at the head (R290, R291, R415, R416) -/

/-- A copy with nothing of its payload, its flag and its barrier filled in. -/
def freshRun (c : CopySpec) (tid : BitVec 48) : CopyRun :=
  { chan := c.chan, tid := tid, lines := [], tile := none, barrier := none, owed := 0, flagw := none, status := 0, fin := false }

/-- The plan of a copy's payload, by its sides. -/
def copyPayload (v : QEnv) (s : State) (c : CopySpec) (run : CopyRun) : CopyPlan :=
  match c.dst, c.src with
  | .shape d, .shape x => copyShapes v s (Shape.of d) (Shape.of x) (copyOrigin c.od) (copyOrigin c.os) run
  | .tile t, .shape x => copyToTile v s t (Shape.of x) (copyOrigin c.os) run
  | .shape d, .tile t => copyFromTile v s (Shape.of d) t (copyOrigin c.od) run
  | .tile _, .tile _ => .no (.trapIn s (.plain Cause.opRange))

/-- The write of a copy's flag word. -/
def flagWrite (f : Aim × BitVec 64) : Option LineWrite := (addUnit false [] [(f.1.1, f.1.2.toNat, leBytes 8 f.2.toNat)] none false).head?

/-- A copy with its payload planned, its flag and its barrier added. -/
def withEnds (flag : Option (Aim × BitVec 64)) (bar : Option Nat) (barVa : Nat) (r : CopyRun) : CopyRun := { r with flagw := flag.bind flagWrite, barrier := bar, barVa := barVa }

section
variable {flag : Option (Aim × BitVec 64)} {bar : Option Nat} {barVa : Nat} {r : CopyRun}

/-- The flag and the barrier of a copy leave its payload as it is. -/
theorem withEnds_lines : (withEnds flag bar barVa r).lines = r.lines := rfl
theorem withEnds_status : (withEnds flag bar barVa r).status = r.status := rfl
theorem withEnds_tile : (withEnds flag bar barVa r).tile = r.tile := rfl

end

theorem flagWrite_ne_none (f : Aim × BitVec 64) : flagWrite f ≠ none := by
  rw [flagWrite, addUnit]
  simp [joinLine]

section
variable {v : QEnv} {s s2 : State} {ws : List Aim} {rs : List (Loc × Bool)} {go : State → State × CopyRun}

theorem copyFlag_ok {flag : Option (BitVec 64 × BitVec 64)} {k : State → Option (Aim × BitVec 64) → CopyPlan} (h : copyFlag v s flag k = .ok s2 ws rs go) :
    ∃ u f, k u f = .ok s2 ws rs go ∧ (f = none ↔ flag = none) := by
  unfold copyFlag at h
  split at h
  · exact ⟨s, none, h, by simp⟩
  · split at h
    · cases h
    · split at h
      · cases h
      · exact ⟨_, _, h, by simp⟩

theorem copyBarrier_ok {bar : Option (BitVec 64)} {k : State → Option Nat → CopyPlan} (h : copyBarrier v s bar k = .ok s2 ws rs go) :
    ∃ u b, k u b = .ok s2 ws rs go ∧ (b = none ↔ bar = none) := by
  unfold copyBarrier at h
  split at h
  · exact ⟨s, none, h, by simp⟩
  · split at h
    · cases h
    · cases h
    · split at h
      · cases h
      · split at h
        · cases h
        · exact ⟨_, _, h, by simp⟩

/-- The checks of a copy that all pass: its payload is planned, and its flag and barrier are added to it (R290). -/
theorem planCopy_ok {c : CopySpec} {tid : BitVec 48} (h : planCopy v s c tid = .ok s2 ws rs go) :
    ∃ u ws' go' flag bar, copyPayload v s c (freshRun c tid) = .ok u ws' rs go' ∧ (flag = none ↔ c.flag = none) ∧ (bar = none ↔ c.bar = none) ∧
      ∀ s', go s' = ((go' s').1, withEnds flag bar (c.bar.getD 0).toNat (go' s').2) := by
  have hplan : planCopy v s c tid = (match copyPayload v s c (freshRun c tid) with
      | .no a => .no a
      | .ok s ws rs go => copyFlag v s c.flag (fun s flag => copyBarrier v s c.bar (fun s bar => .ok s (ws ++ (flag.map (·.1)).toList) rs
          (fun s' => ((go s').1, withEnds flag bar (c.bar.getD 0).toNat (go s').2))))) := rfl
  rw [hplan] at h
  cases hp : copyPayload v s c (freshRun c tid) with
  | no a => rw [hp] at h; cases h
  | ok u ws' rs' go' =>
    rw [hp] at h
    obtain ⟨u1, flag, h1, hflag⟩ := copyFlag_ok h
    obtain ⟨u2, bar, h2, hbar⟩ := copyBarrier_ok h1
    cases h2
    exact ⟨u, ws', go', flag, bar, rfl, hflag, hbar, fun _ => rfl⟩

/-- The payload of a copy between shapes that its checks let pass: its units resolve, the source's first (R291). -/
theorem copyShapes_ok {d x : Shape} {od os : List Nat} {run : CopyRun} (h : copyShapes v s d x od os run = .ok s2 ws rs go) :
    ∃ s5 s6 sl dl, resolveAll { v with s := s } s (srcAccs (copyUnits d x od os)) 0 = .ok s5 sl ∧
      resolveAll { v with s := s5 } s5 (dstAccs (copyUnits d x od os)) 1 = .ok s6 dl ∧
      ∀ s', go s' = copyLines v.s s' v.p v.g x d (copyUnits d x od os) sl dl run := by
  unfold copyShapes at h
  dsimp only at h
  split at h
  · cases h
  · rename_i h5
    split at h
    · cases h
    · rename_i h6
      split at h
      · cases h
      · cases h; exact ⟨_, _, _, _, h5, h6, fun _ => rfl⟩

/-- A copy to a tile register writes a full register of its source's tag. -/
theorem copyToTile_ok {t : BitVec 2} {x : Shape} {o : List Nat} {run : CopyRun} (h : copyToTile v s t x o run = .ok s2 ws rs go) (s' : State) :
    ∃ reg bad, (go s').2 = { run with tile := some (t, reg), status := copyStatus v.g bad } ∧ reg.tag = x.tag ∧ reg.full = true := by
  unfold copyToTile at h
  split at h
  · cases h
  · split at h
    · cases h
    · cases h; exact ⟨_, _, rfl, rfl, rfl⟩

theorem copyFromTile_ok {t : BitVec 2} {x : Shape} {o : List Nat} {run : CopyRun} (h : copyFromTile v s x t o run = .ok s2 ws rs go) (s' : State) :
    ∃ l, (go s').2 = { run with lines := l } := by
  unfold copyFromTile at h
  dsimp only at h
  split at h
  · cases h
  · split at h
    · cases h
    · cases h; exact ⟨_, rfl⟩

/-- The payload of a copy fills in its lines, its tile and its status, and no more. -/
theorem copyPayload_keeps {c : CopySpec} {run : CopyRun} (h : copyPayload v s c run = .ok s2 ws rs go) (s' : State) :
    ∃ l t k, (go s').2 = { run with lines := l, tile := t, status := k } := by
  unfold copyPayload at h
  split at h
  · obtain ⟨s5, s6, sl, dl, -, -, hgo⟩ := copyShapes_ok h
    exact ⟨_, run.tile, _, by rw [hgo]; rfl⟩
  · obtain ⟨reg, bad, hgo, -, -⟩ := copyToTile_ok h s'
    exact ⟨run.lines, _, _, hgo⟩
  · obtain ⟨l, hgo⟩ := copyFromTile_ok h s'
    exact ⟨l, run.tile, run.status, hgo⟩
  · cases h

end

section
variable {s : State} {p : Place} {g : Group}

theorem unitBytes_units (us : List CopyUnit) (sl dl : List (Loc × Bool)) : (unitBytes s p g us sl dl).map (·.unit) = us := by
  induction us generalizing sl dl with
  | nil => rfl
  | cons u us ih => rw [unitBytes, List.map_cons, ih]

/-- Every byte of a copy comes from its source's place, or is zero (R291). -/
theorem mem_unitBytes {us : List CopyUnit} {sl dl : List (Loc × Bool)} {y : UnitBytes} {z : CopyByte} (hy : y ∈ unitBytes s p g us sl dl) (hz : z ∈ y.bytes) :
    ∃ dst src, z = copyByte s p g dst src := by
  induction us generalizing sl dl with
  | nil => cases hy
  | cons u us ih =>
    rw [unitBytes, List.mem_cons] at hy
    rcases hy with rfl | hy
    · obtain ⟨x, -, rfl⟩ := List.mem_map.1 hz
      exact ⟨_, _, rfl⟩
    · exact ih hy

/-- A byte out of bounds is zero; another is its source's, and counts as poisoned where its source's line is (R291, R415). -/
theorem copyByte_source {z : CopyByte} (h : ∃ dst src, z = copyByte s p g dst src) : (z.src = none → z.old = 0 ∧ z.bad = false) ∧
    ∀ k, z.src = some k → z.bad = locPoisoned s p g k ∧ (z.bad = false → z.old = locByte s p g k) := by
  obtain ⟨dst, src, rfl⟩ := h
  cases src with
  | none => exact ⟨fun _ => ⟨rfl, rfl⟩, fun k hk => (nomatch hk)⟩
  | some l =>
    refine ⟨fun hk => (nomatch hk), fun k hk => ?_⟩
    cases hk
    exact ⟨rfl, fun hb => if_neg (Bool.eq_false_iff.1 hb)⟩

end

/-- A copy none of whose bytes comes from a place that it writes copies each as it stood. -/
theorem copiedBytes_apart (draw : Nat) (all : Array CopyByte) (bs : List CopyByte) : copiedBytes draw false all bs = bs.map (·.old) := rfl

/-- The state in which a copy between shapes reads its source. -/
def copyRead (v : QEnv) (s : State) (x : Shape) (us : List CopyUnit) (sl : List (Loc × Bool)) : State := engineTouch s v.g.lr.asid x.ef false (aims sl (srcAccs us))

section
variable {v : QEnv} {was s : State} {x d : Shape} {us : List CopyUnit} {sl dl : List (Loc × Bool)} {run : CopyRun}

theorem copyLines_tile : (copyLines was s v.p v.g x d us sl dl run).2.tile = run.tile := rfl

/-- A copy that meets no poison has the status 0. -/
theorem copyLines_status (hbad : ∀ y ∈ unitBytes (copyRead v s x us sl) v.p v.g us sl dl, ∀ z ∈ y.bytes, z.bad = false) :
    (copyLines was s v.p v.g x d us sl dl run).2.status = 0 := by
  have hnone : ((unitBytes (copyRead v s x us sl) v.p v.g us sl dl).flatMap (·.bytes)).filterMap (fun b => if b.bad then b.src else none) = [] := by
    refine List.filterMap_eq_nil_iff.2 (fun z hz => ?_)
    obtain ⟨y, hy, hz⟩ := List.mem_flatMap.1 hz
    rw [hbad y hy z hz]
    rfl
  show copyStatus v.g (firstOfLines (List.filterMap _ (Array.toList (List.toArray _)))) = 0
  rw [List.toList_toArray]
  exact (congrArg (fun l => copyStatus v.g (firstOfLines l)) hnone).trans (if_pos rfl)

/-- A copy that writes none of its source bytes writes each unit's bytes as they stood (R291). -/
theorem copyLines_lines (hlap : ∀ y ∈ unitBytes (copyRead v s x us sl) v.p v.g us sl dl, ∀ z ∈ y.bytes,
      ∀ y' ∈ unitBytes (copyRead v s x us sl) v.p v.g us sl dl, ∀ z' ∈ y'.bytes, z.src ≠ some z'.dst) :
    (copyLines was s v.p v.g x d us sl dl run).2.lines =
      (unitBytes (copyRead v s x us sl) v.p v.g us sl dl).foldl (fun l y => y.add d.ef l (y.bytes.map (·.old)) (v.g.lr.ecc != 1#2)) [] := by
  have hno : ((unitBytes (copyRead v s x us sl) v.p v.g us sl dl).flatMap (·.bytes)).toArray.any (fun b => match b.src with
      | some l => ((unitBytes (copyRead v s x us sl) v.p v.g us sl dl).flatMap (·.bytes)).toArray.any (fun y => y.dst == l)
      | none => false) = false := by
    simp only [List.any_toArray, List.any_eq_false, List.mem_flatMap]
    rintro z ⟨y, hy, hz⟩
    cases hsrc : z.src with
    | none => simp
    | some l =>
      simp only [Bool.not_eq_true, List.any_eq_false, List.mem_flatMap, beq_iff_eq]
      rintro z' ⟨y', hy', hz'⟩ rfl
      exact hlap y hy z hz y' hy' z' hz' hsrc
  exact congrArg (fun lap => (unitBytes (copyRead v s x us sl) v.p v.g us sl dl).foldl (fun ws u => u.add d.ef ws
    (copiedBytes (copyRead v s x us sl).fresh lap ((unitBytes (copyRead v s x us sl) v.p v.g us sl dl).flatMap (·.bytes)).toArray u.bytes) (v.g.lr.ecc != 1#2)) []) hno

end

theorem copyWork_singleton (run : CopyRun) : copyWork [run] = { Work.none with copies := [run], cause := if run.status = 2 then some Cause.mcEcc else none } := by
  rw [copyWork]
  simp

section
variable {v : QEnv} {d x : BitVec 4} {br : BitVec 6} {ch : BitVec 3} {dk sk wide : BitVec 1}

theorem startCommand_cpy {r ev : BitVec 4} {od os fa fv : BitVec 6} (h : v.e.instr = if wide = 1 then .cpyw r ev d x br ch dk sk od os fa fv else .cpy r ev d x br ch dk sk od os) :
    startCommand v = startCpy v d x br ch dk sk wide := by
  rcases BitVec.eq_zero_or_eq_one wide with rfl | rfl
  · rw [if_neg (by decide)] at h; simp only [startCommand, h]; rfl
  · rw [if_pos (by decide)] at h; simp only [startCommand, h]; rfl

theorem startCpy_of_no {a : QAct} (h : planCopy v v.s (queuedCopy v.e d x br ch dk sk wide) v.e.tid = .no a) : startCpy v d x br ch dk sk wide = a := by
  rw [startCpy, h]

/-- A planned copy starts once the pages that it reads and writes have their frames. -/
theorem startCpy_of_ok {s2 s3 s4 : State} {ws : List Aim} {rs : List (Loc × Bool)} {go : State → State × CopyRun}
    (h : planCopy v v.s (queuedCopy v.e d x br ch dk sk wide) v.e.tid = .ok s2 ws rs go) (h3 : touchAll s2 v.p rs = some s3)
    (h4 : placed v s3 ws (fun z => .start z Work.none) = .start s4 Work.none) : startCpy v d x br ch dk sk wide = .start (go s4).1 (copyWork [(go s4).2]) := by
  rw [startCpy, h]
  dsimp only
  rw [touched_of_all h3, placed_of_start h4]

theorem queuedCopy_bar (e : QEntry) : (queuedCopy e d x br ch dk sk wide).bar = none ↔ br = 0 := by
  show (if br = 0#6 then none else some _) = none ↔ _
  simp

theorem queuedCopy_flag (e : QEntry) : (queuedCopy e d x br ch dk sk wide).flag = none ↔ wide = 0 := by
  show (if wide = 1#1 then some _ else none) = none ↔ _
  rcases BitVec.eq_zero_or_eq_one wide with rfl | rfl <;> simp

section
variable {v : QEnv} {s s2 : State} {ws : List Aim} {rs : List (Loc × Bool)} {go : State → State × CopyRun} {c : CopySpec} {tid : BitVec 48}
  (h : planCopy v s c tid = .ok s2 ws rs go) (s' : State)
include h

/-- A planned copy is its channel's, with its identifier, and has a barrier and a flag word where it asks for them. -/
theorem planCopy_run : (go s').2.chan = c.chan ∧ (go s').2.tid = tid ∧ (go s').2.owed = 0 ∧ (go s').2.fin = false ∧
    ((go s').2.barrier = none ↔ c.bar = none) ∧ ((go s').2.flagw = none ↔ c.flag = none) := by
  obtain ⟨u, ws', go', flag, bar, hp, hflag, hbar, hgo⟩ := planCopy_ok h
  obtain ⟨l, t, k, hrun⟩ := copyPayload_keeps hp s'
  rw [hgo, hrun]
  refine ⟨rfl, rfl, rfl, rfl, hbar, Iff.trans ?_ hflag⟩
  cases flag with
  | none => exact iff_of_true rfl rfl
  | some f => exact iff_of_false (flagWrite_ne_none f) (Option.some_ne_none f)

/-- A planned copy between shapes has its units resolved, and its lines are made as its source then stands. -/
theorem planCopy_shapes {a b : BitVec 512} (ha : c.dst = .shape a) (hb : c.src = .shape b) :
    ∃ s5 s6 sl dl, resolveAll { v with s := s } s (srcAccs (copyUnits (Shape.of a) (Shape.of b) (copyOrigin c.od) (copyOrigin c.os))) 0 = .ok s5 sl ∧
      resolveAll { v with s := s5 } s5 (dstAccs (copyUnits (Shape.of a) (Shape.of b) (copyOrigin c.od) (copyOrigin c.os))) 1 = .ok s6 dl ∧
      ∃ flag bar va, (go s').2 = withEnds flag bar va
        (copyLines v.s s' v.p v.g (Shape.of b) (Shape.of a) (copyUnits (Shape.of a) (Shape.of b) (copyOrigin c.od) (copyOrigin c.os)) sl dl (freshRun c tid)).2 := by
  obtain ⟨u, ws', go', flag, bar, hp, -, -, hgo⟩ := planCopy_ok h
  rw [copyPayload, ha, hb] at hp
  obtain ⟨s5, s6, sl, dl, h5, h6, hgo'⟩ := copyShapes_ok hp
  exact ⟨s5, s6, sl, dl, h5, h6, flag, bar, _, by rw [hgo, hgo']⟩

/-- A planned copy to a tile register writes it whole, and no line. -/
theorem planCopy_tile {a : BitVec 512} {t : BitVec 2} (ht : c.dst = .tile t) (ha : c.src = .shape a) :
    (go s').2.lines = [] ∧ ∃ reg, (go s').2.tile = some (t, reg) ∧ reg.tag = (Shape.of a).tag ∧ reg.full = true := by
  obtain ⟨u, ws', go', flag, bar, hp, -, -, hgo⟩ := planCopy_ok h
  rw [copyPayload, ht, ha] at hp
  obtain ⟨reg, bad, hrun, htag, hfull⟩ := copyToTile_ok hp s'
  rw [hgo, hrun]
  exact ⟨rfl, reg, rfl, htag, hfull⟩

end

end

/-! ## Scatter commands at the head (R296 to R298) -/

/-- One entry of a window joins those before it (R298). -/
def mergeEntry (fmt : BitVec 4) (op : BitVec 2) (acc : List ScatEntry) (x : ScatEntry) : List ScatEntry :=
  if acc.any (fun y => y.k == x.k) then acc.map (fun y => if y.k = x.k then { y with v := scatMerge fmt op y.v x.v } else y) else acc ++ [x]

section
variable (fmt : BitVec 4) (op : BitVec 2)

theorem mergeWindow_concat (w : List ScatEntry) (x : ScatEntry) : mergeWindow fmt op (w ++ [x]) = mergeEntry fmt op (mergeWindow fmt op w) x :=
  List.foldl_concat ..

theorem any_key_iff (acc : List ScatEntry) (k : Nat) : acc.any (fun y => y.k == k) = true ↔ k ∈ acc.map (·.k) := by
  simp [List.any_eq_true]

theorem mergeEntry_keys (acc : List ScatEntry) (x : ScatEntry) :
    (mergeEntry fmt op acc x).map (·.k) = if x.k ∈ acc.map (·.k) then acc.map (·.k) else acc.map (·.k) ++ [x.k] := by
  unfold mergeEntry
  by_cases h : x.k ∈ acc.map (·.k)
  · rw [if_pos ((any_key_iff acc x.k).2 h), if_pos h, List.map_map]
    exact List.map_congr_left (fun y _ => by dsimp only [Function.comp]; split <;> rfl)
  · rw [if_neg (fun k => h ((any_key_iff acc x.k).1 k)), if_neg h, List.map_append]
    rfl

/-- The keys of a merged window are its indices, each once, in the order of first appearance. -/
theorem mergeWindow_keys (w : List ScatEntry) : (mergeWindow fmt op w).map (·.k) = (w.map (·.k)).eraseDups := by
  induction w using List.reverseRecOn with
  | nil => rfl
  | append_singleton w x ih =>
    rw [mergeWindow_concat, mergeEntry_keys, ih, List.map_append, List.eraseDups_append]
    generalize w.map (·.k) = ks
    by_cases hk : x.k ∈ ks <;> simp [hk, List.removeAll, List.eraseDups_cons]

/-- The value of a merged entry is its window's values of that index, merged in their order. -/
theorem mergeWindow_value {w : List ScatEntry} {y : ScatEntry} (hy : y ∈ mergeWindow fmt op w) :
    ∃ first more, (w.filter (fun z => z.k == y.k)).map (·.v) = first :: more ∧ y.v = more.foldl (scatMerge fmt op) first := by
  induction w using List.reverseRecOn generalizing y with
  | nil => cases hy
  | append_singleton w x ih =>
    rw [mergeWindow_concat, mergeEntry] at hy
    split at hy
    · obtain ⟨y, hin, rfl⟩ := List.mem_map.1 hy
      obtain ⟨first, more, hvals, hv⟩ := ih hin
      split
      · rename_i hk
        refine ⟨first, more ++ [x.v], ?_, ?_⟩
        · dsimp only
          rw [List.filter_append, List.map_append, hvals, List.filter_singleton, hk, beq_self_eq_true]
          rfl
        · rw [List.foldl_append, ← hv]; rfl
      · rename_i hk
        refine ⟨first, more, ?_, hv⟩
        rw [List.filter_append, List.filter_singleton, beq_false_of_ne (Ne.symm hk), List.map_append, hvals]
        exact List.append_nil _
    · rename_i hany
      rcases List.mem_append.1 hy with hin | hin
      · obtain ⟨first, more, hvals, hv⟩ := ih hin
        have hk : y.k ≠ x.k := fun hk => hany ((any_key_iff _ _).2 (hk ▸ List.mem_map_of_mem hin))
        refine ⟨first, more, ?_, hv⟩
        rw [List.filter_append, List.filter_singleton, beq_false_of_ne (Ne.symm hk), List.map_append, hvals]
        exact List.append_nil _
      · rw [List.mem_singleton] at hin
        subst hin
        have hnone : w.filter (fun z => z.k == y.k) = [] := List.filter_eq_nil_iff.2 (fun z hz hk => hany ((any_key_iff _ _).2 (by
          rw [mergeWindow_keys, List.mem_eraseDups]
          exact (eq_of_beq hk) ▸ List.mem_map_of_mem hz)))
        refine ⟨y.v, [], ?_, rfl⟩
        rw [List.filter_append, hnone, List.filter_singleton, beq_self_eq_true]
        rfl

end

section
variable {v : QEnv} {fmt : BitVec 4} {op : BitVec 2} {es : List ScatEntry}

/-- The update that a merged entry leaves, at the place of the first entry of its index. -/
def scatUpdate (v : QEnv) (fmt : BitVec 4) (op : BitVec 2) (x : ScatEntry) (l : Loc) : ScatUpd :=
  { cmd := v.e.id, afterLd := v.e.afterLd, stream := v.e.stream, fpc := v.e.fpc, va := (scatAddr (v.x 0) fmt x.k).toNat, loc := l, fmt := fmt, op := op, v := BitVec.ofNat 32 x.v }

/-- The updates of a scatter command, in the order of its windows. -/
def scatUpdates (v : QEnv) (fmt : BitVec 4) (op : BitVec 2) (es : List ScatEntry) (ls : List (Loc × Bool)) : List ScatUpd :=
  ((windowsOf es).flatMap (mergeWindow fmt op)).filterMap (fun x => ((es.zip ls).find? (fun y => y.1.k == x.k)).map (fun y => scatUpdate v fmt op x y.2.1))

/-- The index of a merged entry is that of an entry of its command. -/
theorem key_of_mem_windows {x : ScatEntry} (hx : x ∈ (windowsOf es).flatMap (mergeWindow fmt op)) : ∃ y ∈ es, y.k = x.k := by
  obtain ⟨w, hw, hx⟩ := List.mem_flatMap.1 hx
  obtain ⟨i, -, rfl⟩ := List.mem_map.1 hw
  have hk : x.k ∈ (mergeWindow fmt op ((es.drop (64 * i)).take 64)).map (·.k) := List.mem_map_of_mem hx
  rw [mergeWindow_keys, List.mem_eraseDups] at hk
  obtain ⟨y, hy, hyk⟩ := List.mem_map.1 hk
  exact ⟨y, List.mem_of_mem_drop (List.mem_of_mem_take hy), hyk⟩

/-- An entry of a command whose accesses have resolved has a place. -/
theorem find_place_isSome {ls : List (Loc × Bool)} (hl : ls.length = es.length) {y : ScatEntry} (hy : y ∈ es) : ((es.zip ls).find? (fun z => z.1.k == y.k)).isSome = true := by
  rw [← List.map_fst_zip (l₁ := es) (l₂ := ls) hl.ge] at hy
  obtain ⟨z, hz, rfl⟩ := List.mem_map.1 hy
  exact List.find?_isSome.2 ⟨z, hz, beq_self_eq_true _⟩

/-- There is an update for each word of each window, with its merged value. -/
theorem scatUpdates_words {ls : List (Loc × Bool)} (hl : ls.length = es.length) : (scatUpdates v fmt op es ls).map (fun y => (y.va, y.v)) =
    ((windowsOf es).flatMap (mergeWindow fmt op)).map (fun y => ((scatAddr (v.x 0) fmt y.k).toNat, BitVec.ofNat 32 y.v)) := by
  rw [scatUpdates, List.map_filterMap]
  refine List.filterMap_eq_map_iff_forall_eq_some.2 (fun x hx => ?_)
  obtain ⟨y, hy, hk⟩ := key_of_mem_windows hx
  obtain ⟨z, hz⟩ := Option.isSome_iff_exists.1 (find_place_isSome hl hy)
  rw [← hk, hz, hk]
  rfl

theorem mem_scatUpdates {ls : List (Loc × Bool)} {y : ScatUpd} (hy : y ∈ scatUpdates v fmt op es ls) : ∃ x l, y = scatUpdate v fmt op x l := by
  obtain ⟨x, -, hx⟩ := List.mem_filterMap.1 hy
  obtain ⟨z, -, hz⟩ := Option.map_eq_some_iff.1 hx
  exact ⟨x, _, hz.symm⟩

theorem startScatter_of_wait {u : State} (h : scatPlaced v.p v.g v.s (es.map (fun x => scatAddr (v.x 0) fmt x.k)) = (u, none)) : startScatter v fmt op es = .wait u := by
  rw [startScatter, h]

theorem startScatter_of_target {u : State} (h : scatPlaced v.p v.g v.s (es.map (fun x => scatAddr (v.x 0) fmt x.k)) = (u, some false)) :
    startScatter v fmt op es = .trapIn u (.plain Cause.saTarget) := by
  rw [startScatter, h]

/-- A scatter command whose words resolve and whose pages are granted leaves its updates pending (R296). -/
theorem startScatter_of_placed {u s2 s3 : State} {ls : List (Loc × Bool)} {h : Group} {accs : List ElemAcc}
    (ha : accs = es.map (fun x => { va := scatAddr (v.x 0) fmt x.k, n := scatBytes fmt, align := 1 }))
    (hu : scatPlaced v.p v.g v.s (es.map (fun x => scatAddr (v.x 0) fmt x.k)) = (u, some true)) (hr : resolveAll { v with s := u } u accs 1 = .ok s2 ls)
    (h3 : placed v s2 (aims ls accs) (fun z => .start z Work.none) = .start s3 Work.none) (hh : s3.group v.p = some h) :
    startScatter v fmt op es = .start (s3.setGroup v.p { h with scat := h.scat ++ scatUpdates v fmt op es ls }) Work.none := by
  subst ha
  rw [startScatter, hu]
  dsimp only
  rw [hr]
  dsimp only
  rw [placed_of_start h3, hh]
  rfl

end

section
variable {v : QEnv} {r ev fmt : BitVec 4} {x i b : BitVec 6} {pr : BitVec 3} {op : BitVec 2} {lim : BitVec 12}

theorem startCommand_saq (h : v.e.instr = .saq r ev x i b pr op fmt) : startCommand v = startSaq v x i pr op fmt := by simp only [startCommand, h]
theorem startCommand_sahist (h : v.e.instr = .sahist r ev i b pr lim) : startCommand v = startSahist v i pr lim := by simp only [startCommand, h]

/-- The formats whose values SAQ adds (R297). -/
def scatFormats (fmt : BitVec 4) : Bool := fmt == 1#4 || fmt == 3#4 || fmt == 4#4 || fmt == 5#4 || fmt == 12#4

theorem scatFormats_iff (fmt : BitVec 4) : scatFormats fmt = true ↔ fmt = 1 ∨ fmt = 3 ∨ fmt = 4 ∨ fmt = 5 ∨ fmt = 12 := by revert fmt; decide

/-- SAQ's checks, in order (R297). -/
theorem startSaq_of_indices (h : (v.v i).tag ≠ 1) : startSaq v x i pr op fmt = .trap (.plain Cause.tagMismatch) := if_pos h

theorem startSaq_of_reserved (hi : (v.v i).tag = 1) (h : 13 ≤ fmt.toNat) : startSaq v x i pr op fmt = .trap (.plain Cause.tagRsvd) :=
  (if_neg (not_not.2 hi)).trans (if_pos (decide_eq_true h))

theorem startSaq_of_format (hi : (v.v i).tag = 1) (hr : fmt.toNat < 13) (h : ¬ (scatFormats fmt = true ∧ (v.v x).tag = fmt)) :
    startSaq v x i pr op fmt = .trap (.plain Cause.tagMismatch) := by
  refine (if_neg (not_not.2 hi)).trans ((if_neg (fun k => absurd (of_decide_eq_true k) (Nat.not_le.2 hr))).trans (if_pos ?_))
  show (!scatFormats fmt || (v.v x).tag != fmt) = true
  cases hf : scatFormats fmt with
  | false => rfl
  | true => simpa [hf] using h

theorem startSaq_of_values (hi : (v.v i).tag = 1) (hf : scatFormats fmt = true) (ht : (v.v x).tag = fmt) :
    startSaq v x i pr op fmt = startScatter v fmt op (scatEntries (v.v i) (v.pr pr) (fun e => elemAt (v.v x).data (tagWidth fmt) e)) := by
  have hr : fmt.toNat < 13 := (by decide : ∀ f, scatFormats f = true → f.toNat < 13) fmt hf
  refine (if_neg (not_not.2 hi)).trans ((if_neg (fun k => absurd (of_decide_eq_true k) (Nat.not_le.2 hr))).trans (if_neg ?_))
  show ¬ (!scatFormats fmt || (v.v x).tag != fmt) = true
  rw [hf, ht]
  simp

theorem startSahist_of_indices (h : (v.v i).tag ≠ 1) : startSahist v i pr lim = .trap (.plain Cause.tagMismatch) := if_pos h

/-- SAHIST counts the active indices below its limit, every one where the limit is 0 (R297). -/
theorem startSahist_of_counts (hi : (v.v i).tag = 1) : startSahist v i pr lim = startScatter v 1 0
    (((((List.range 512).filter (fun k => (v.pr pr).getLsbD (2 * k))).map (fun k => elemAt (v.v i).data 32 k)).filter
      (fun k => lim == 0 || decide (k < lim.toNat))).map (fun k => { k := k, v := 1 })) := by
  refine (if_neg (not_not.2 hi)).trans (congrArg (startScatter v 1 0) ?_)
  rw [scatEntries, List.filter_map, List.filter_map, List.map_map]
  rfl

end

/-! ## The statement -/

/-- Settles O44: each command captures its operands when its checks pass; a copy is planned, and its payload then runs on what the plan found; a scatter command
leaves an update for each key of each merged window. -/
theorem copyScatterAndCollectiveCommandsComplete : Obligations.CopyScatterAndCollectiveCommandsComplete := by
  unfold Obligations.CopyScatterAndCollectiveCommandsComplete
  refine ⟨fun s g r ev d x fmt a b c fa fv rd ch p dk sk k op lim roles ring hc hf => ?_,
    fun s p q g e r ev d x br od os fa fv ch dk sk wide hr hq hi => ?_, fun s p g e r ev fmt x i b pr op lim hr => ?_⟩
  · intro X q side hs spec nid traps gives copy
    have hab : (s.here g).fulls [a, b] := fulls_of_subset hf (by simp)
    have hb : (s.here g).fulls [b] := fulls_of_subset hf (by simp)
    have hcopy : ∀ j flag xs, CopyAccepted s g j (askedCopy s g ch dk sk d x b c flag) xs (exec j s) → copy j flag xs := fun j flag xs h => by
      have hshapes := askedCopy_shapes (s := s) (g := g) (ch := ch) (dk := dk) (sk := sk) (d := d) (x := x) b c flag
      obtain ⟨htrap, hspent, htake⟩ := h
      rw [hshapes] at htake
      exact ⟨htrap, hspent, htake⟩
    refine ⟨fun hro hring hlen => ?_, fun hro hring hlen => ?_, fun hro hring hlen => ?_, fun hro => ?_⟩
    · subst hro hring
      exact ⟨hcopy _ _ _ (execCpy_run hc (fulls_of_subset hf (by simp)) hlen), hcopy _ _ _ (execCpyw_run hc (fulls_of_subset hf (by simp)) hlen), execStgnx_run hab hc hlen⟩
    · subst hro hring
      obtain ⟨hsafl, hsalat⟩ := execScatterEnds_run (r := r) hab hc hlen
      obtain ⟨hsaq, hsaq'⟩ := execSaq_run (r := r) (ev := ev) (fmt := fmt) (a := a) (c := c) (p := p) (op := op) hc hb hlen
      obtain ⟨hhist, hhist'⟩ := execSahist_run (r := r) (ev := ev) (c := c) (p := p) (lim := lim) hc hb hlen
      exact ⟨hsaq, hsaq', hhist, hhist', hsafl, hsalat⟩
    · subst hro hring
      exact execCollectives_run hab hc hlen
    · subst hro
      exact execCpstat_run hc (fulls_of_subset hf (by simp))
  · intro v spec
    have hcmd : startCommand v = startCpy v d x br ch dk sk wide := startCommand_cpy hi
    refine ⟨fun u y hp => engineHeadStart_trapIn hr (hcmd.trans (startCpy_of_no hp)), ?_⟩
    intro s2 ws rs go s3 s4 hp h3 h4 run
    have hstart := engineHeadStart_start hr (hcmd.trans (startCpy_of_ok hp h3 h4))
    rw [copyWork_singleton] at hstart
    obtain ⟨hchan, htid, howed, hfin, hbar, hflag⟩ := planCopy_run hp s4
    refine ⟨hstart, hchan, htid, howed, hfin, hbar.trans (queuedCopy_bar _), hflag.trans (queuedCopy_flag _), fun a b ha hb => ?_, fun a t ht ha => planCopy_tile hp s4 ht ha⟩
    obtain ⟨s5, s6, sl, dl, h5, h6, flag, bar, va, hrun⟩ := planCopy_shapes hp s4 ha hb
    refine ⟨(congrArg CopyRun.tile hrun).trans (withEnds_tile.trans copyLines_tile), s5, s6, sl, dl, h5, h6, unitBytes_units _ _ _, fun y hy z hz => copyByte_source (mem_unitBytes hy hz), fun hbad => ⟨?_, fun hlap => ?_⟩⟩
    · exact (congrArg CopyRun.status hrun).trans (withEnds_status.trans (copyLines_status hbad))
    · exact (congrArg CopyRun.lines hrun).trans (withEnds_lines.trans (copyLines_lines hlap))
  · intro v I V base raises active word windows expands values
    have hx : v.x 0 = base := QEnv.x_eq_get v 0
    have hexp : ∀ f o es, startCommand v = startScatter v f o es → expands f o es := fun f o es hs => by
      have hword : ∀ k, word (scatBytes f) k = scatAddr (v.x 0) f k := fun k => by rw [scatAddr, hx]
      have hvas : es.map (fun y => word (tagWidth f / 8) y.k) = es.map (fun y => scatAddr (v.x 0) f y.k) := List.map_congr_left (fun y _ => hword y.k)
      refine ⟨fun u hu => ?_, fun u hu => ?_, fun u s2 ls s3 h hu => ?_⟩
      · exact engineHeadStart_wait hr (hs.trans (startScatter_of_wait (hvas ▸ hu)))
      · exact engineHeadStart_trapIn hr (hs.trans (startScatter_of_target (hvas ▸ hu)))
      · intro accs hres h3 hh
        have haccs : accs = es.map (fun y => { va := scatAddr (v.x 0) f y.k, n := scatBytes f, align := 1 }) :=
          List.map_congr_left (fun y _ => congrArg (fun a => ({ va := a, n := scatBytes f, align := 1 } : ElemAcc)) (hword y.k))
        have hlen : ls.length = es.length := (resolveAll_length hres).trans (List.length_map _)
        refine ⟨scatUpdates v f o es ls, engineHeadStart_start hr (hs.trans (startScatter_of_placed haccs (hvas ▸ hu) hres h3 hh)), ?_, fun y hy => ?_⟩
        · exact (scatUpdates_words hlen).trans (List.map_congr_left (fun y _ => by rw [← hword]; rfl))
        · obtain ⟨x, l, rfl⟩ := mem_scatUpdates hy
          exact ⟨rfl, rfl, rfl, rfl, rfl⟩
    refine ⟨fun hi => ?_, fun hi => ?_, fun f o w => ⟨mergeWindow_keys f o w, fun y hy => mergeWindow_value f o hy⟩⟩
    · have hcmd := startCommand_saq (v := v) hi
      refine ⟨fun h => engineHeadStart_trap hr (hcmd.trans (startSaq_of_indices h)), fun h hf => engineHeadStart_trap hr (hcmd.trans (startSaq_of_reserved h hf)),
        fun h hf hno => ?_, fun h hf ht => ?_⟩
      · exact engineHeadStart_trap hr (hcmd.trans (startSaq_of_format h hf (fun k => hno ⟨(scatFormats_iff fmt).1 k.1, k.2⟩)))
      · exact hexp _ _ _ (hcmd.trans (startSaq_of_values h ((scatFormats_iff fmt).2 hf) ht))
    · have hcmd := startCommand_sahist (v := v) hi
      exact ⟨fun h => engineHeadStart_trap hr (hcmd.trans (startSahist_of_indices h)), fun h => hexp _ _ _ (hcmd.trans (startSahist_of_counts h))⟩

end Sys2Proof.Machine
end

section
/-! PROOFS. An instruction that reads an empty register waits or raises FE_EMPTY, as FEMODE directs (R65); issue rules for bodies that something follows. -/

namespace Sys2Proof.Machine

open Sys2Proof

/-! ## Issue, whatever follows the retirement -/

section
variable {s s2 : State} {g : Group} {roles : List StreamId} {r ev : BitVec 4} {body : Env → Act State} {after : Env → State → State}

/-- An instruction that cannot issue yet changes nothing. -/
theorem plainThen_hold (h : CanRun s g roles r) (hb : body (s.env g r) = .hold) : plainThen roles r ev body after s = .next s := by
  rw [plainThen_run h, hb]
  rfl

/-- A body that raises a cause without effect: what follows the retirement does not come about. -/
theorem plainThen_trap {x : Trap} (h : CanRun s g roles r) (hb : body (s.env g r) = .trap x) :
    plainThen roles r ev body after s = .next (s.traps g x) := by
  have e := plain_trap (ev := ev) h hb
  rw [plain, plainThen_run h, hb] at e
  rw [plainThen_run h, hb]
  exact e

theorem plainThen_trapIn {x : Trap} (h : CanRun s g roles r) (hb : body (s.env g r) = .trapIn s2 x) :
    plainThen roles r ev body after s = .next (s.trapsIn s2 g x) := by
  have e := plain_trapIn (ev := ev) h hb
  rw [plain, plainThen_run h, hb] at e
  rw [plainThen_run h, hb]
  exact e

theorem plainThen_wait (h : CanRun s g roles r) (hc : (s.slot s.curPlace).cutNow = false) (hb : body (s.env g r) = .wait s2) :
    plainThen roles r ev body after s = .next s2 := by
  have e := plain_wait (ev := ev) h hc hb
  rw [plain, plainThen_run h, hb] at e
  rw [plainThen_run h, hb]
  exact e

end

/-! ## Empty operands -/

/-- What an instruction that reads an empty register comes to (R65): a cause with FEMODE 1, a wait without issue with FEMODE 0. -/
def State.emptyRead (s : State) (g : Group) : State := if (s.here g).femode = 1#1 then s.traps g (.plain Cause.feEmpty) else s

/-- A register whose full bit is clear is not usable. -/
theorem isFull_of_empty {t : Stream} {a : BitVec 6} (h : t.hasFull a = false) : t.isFull a = false := by
  simp only [Stream.hasFull, Bool.or_eq_false_iff] at h
  simp only [Stream.isFull, h.1, h.2, Bool.false_and, Bool.or_self]

/-- A read of a list with an empty register answers by FEMODE alone. -/
theorem reads_of_empty {α : Type} {t : Stream} {a : BitVec 6} {rs : List (BitVec 6)} (h : t.hasFull a = false) (hm : a ∈ rs) (k : Act α) :
    t.reads rs k = if t.femode = 1#1 then .trap (.plain Cause.feEmpty) else .hold := by
  have hall : ∀ f : BitVec 6 → Bool, f a = false → rs.all f = false := fun f hf => List.all_eq_false.2 ⟨a, hm, by rw [hf]; exact Bool.false_ne_true⟩
  rw [Stream.reads, hall _ (isFull_of_empty h), hall _ h, if_neg Bool.false_ne_true]
  simp only [and_true]

/-- What a read answers, carried into a larger state. -/
theorem map_reads {α β : Type} (f : α → β) (t : Stream) (rs : List (BitVec 6)) (k : Act α) : (t.reads rs k).map f = t.reads rs (k.map f) := by
  unfold Stream.reads
  split
  · rfl
  · split <;> rfl

/-- An instruction that begins by reading a list of registers, one of which is empty. -/
theorem plainThen_of_empty {s : State} {g : Group} {roles : List StreamId} {r ev : BitVec 4} {body : Env → Act State} {after : Env → State → State}
    {a : BitVec 6} {rs : List (BitVec 6)} {k : Act State} (hc : CanRun s g roles r) (ha : (s.here g).hasFull a = false) (hm : a ∈ rs)
    (hb : body (s.env g r) = (s.env g r).t.reads rs k) : plainThen roles r ev body after s = .next (s.emptyRead g) := by
  have ht : (s.env g r).t.hasFull a = false := by
    show (s.here (s.taken g r)).hasFull a = false
    rw [here_taken]; exact ha
  have hf : (s.env g r).t.femode = (s.here g).femode := by
    show (s.here (s.taken g r)).femode = _
    rw [here_taken]
  rw [reads_of_empty ht hm, hf] at hb
  unfold State.emptyRead
  split at hb
  · rw [if_pos ‹_›]; exact plainThen_trap hc hb
  · rw [if_neg ‹_›]; exact plainThen_hold hc hb

/-- Settles O13: each of the instructions begins by reading a list that holds the empty register. -/
theorem emptyOperandWaitsOrTraps : Obligations.EmptyOperandWaitsOrTraps := by
  unfold Obligations.EmptyOperandWaitsOrTraps
  intro s g r d a b hc ha all
  have inFirst : ∀ c, a ∈ [a, c] := fun c => List.mem_cons_self
  have inSecond : ∀ c, a ∈ [c, a] := fun c => List.mem_cons_of_mem _ (List.mem_singleton_self a)
  have inOne := List.mem_singleton_self a
  have hall : all (.next (s.emptyRead g)) :=
    ⟨plainThen_of_empty hc ha (inFirst b) (map_reads _ _ _ _), plainThen_of_empty hc ha (inSecond b) (map_reads _ _ _ _),
      fun _ => plainThen_of_empty hc ha inOne (map_reads _ _ _ _), fun _ _ => plainThen_of_empty hc ha (inFirst b) (map_reads _ _ _ _),
      fun _ => plainThen_of_empty hc ha inOne rfl,
      fun _ => ⟨plainThen_of_empty hc ha (inSecond b) rfl, plainThen_of_empty hc ha (inFirst b) rfl⟩,
      plainThen_of_empty hc ha inOne rfl, fun _ => plainThen_of_empty hc ha inOne (map_reads _ _ _ _),
      fun _ _ => plainThen_of_empty hc ha inOne (map_reads _ _ _ _), fun n => by
        show execSysw r a n s = _
        unfold execSysw plain
        exact plainThen_of_empty hc ha inOne rfl⟩
  refine ⟨fun h0 => ?_, fun h1 => ?_, fun hb => ?_⟩
  · rwa [State.emptyRead, if_neg (by rw [h0]; decide)] at hall
  · rwa [State.emptyRead, if_pos (show (s.here g).femode = 1#1 from h1)] at hall
  · have hread : (s.env g r).t.isFull b = true := (isFull_taken s g r b).trans hb
    have hwrite : (s.env g r).t.isFull a = false := (isFull_taken s g r a).trans (isFull_of_empty ha)
    refine plainThen_hold hc ?_
    show Act.map _ ((s.env g r).t.reads [b] ((s.env g r).t.writes a _)) = _
    rw [reads_of_fulls (fulls_singleton hread), Stream.writes, hwrite]
    rfl

end Sys2Proof.Machine
end

section
/-! PROOFS. PERFR, LOCQ and the arrival of a value at its register (R65, R74, R172, R212, R213, R440). -/

namespace Sys2Proof.Machine

open Sys2Proof

/-! ## Counters (R172, R212) -/

/-- An instruction whose body comes to a change of its stream, and retires. -/
theorem plain_onStream {s : State} {g : Group} {roles : List StreamId} {r ev : BitVec 4} {body : Env → Act State} {k : Stream → Act Stream}
    {f : Stream → Stream} (hc : CanRun s g roles r) (hb : body (s.env g r) = onStream k (s.env g r))
    (hk : k (s.here (s.taken g r)) = .done (f (s.here (s.taken g r)))) : plain roles r ev body s = .next (s.after g r ev f) := by
  rw [← onStream_done (ev := ev) hc hk, plain, plain, plainThen_run hc, plainThen_run hc, hb]

/-- The counters of the retention registers (R77, R172). -/
theorem perfRead_of_retention (e : Env) {n : BitVec 12} (h1 : 0x100 ≤ n.toNat) (h2 : n.toNat < 0x120) (h3 : n.toNat % 4 ≠ 3) :
    perfRead e n = some
      (let reg := (e.s.dies.get (dieOfPlace e.p)).regs.get ⟨(n.toNat - 0x100) / 4 % 8, Nat.mod_lt _ (by decide)⟩
       if n.toNat % 4 = 0 then reg.hit else if n.toNat % 4 = 1 then reg.miss else reg.ovf) := by
  unfold perfRead
  dsimp only
  split
  iterate 7 · omega
  exact if_pos ⟨h1, h2, h3⟩

/-- A number of no counter (R172). -/
theorem perfRead_of_unassigned (e : Env) {n : BitVec 12} (hn : n.toNat ∉ [0, 1, 2, 3, 4, 8, 9]) (h : n.toNat < 0x100 ∨ 0x120 ≤ n.toNat ∨ n.toNat % 4 = 3) :
    perfRead e n = none := by
  simp only [List.mem_cons, List.not_mem_nil, or_false, not_or] at hn
  unfold perfRead
  dsimp only
  split
  iterate 7 · omega
  exact if_neg (by omega)

section
variable {s : State} {g : Group} {r : BitVec 4} {d : BitVec 6} (hc : CanRun s g anyStream r) (hd : (s.here g).isFull d = true)
include hc hd

/-- PERFR of a counter (R212; log 72). -/
theorem execPerfr_of_counter {n : BitVec 12} {v : BitVec 64} (hv : perfRead (s.env g r) n = some v) :
    exec (.perfr r d n) s = .next (s.after g r 0 (fun t => t.arrive d v)) := by
  show execPerfr r d n s = _
  unfold execPerfr
  exact plain_onStream hc (by rw [hv]) (writes_of_full ((isFull_taken s g r d).trans hd) _)

/-- LOCQ of an address (R213; log 72). -/
theorem execLocq_of_full {a : BitVec 6} (ha : (s.here g).isFull a = true) :
    exec (.locq r d a) s = .next (s.after g r 0 (fun t => t.arrive d (locq (s.began g r) s.curPlace (s.taken g r) ((s.here g).getX a)))) := by
  show execLocq r d a s = _
  unfold execLocq
  refine plain_onStream hc rfl ?_
  rw [reads_of_fulls (fulls_singleton ((isFull_taken s g r a).trans ha)), writes_of_full ((isFull_taken s g r d).trans hd), getX_taken]
  rfl

end

/-! ## The word of LOCQ (R74) -/

/-- The fields of the LOCQ word are its hexadecimal digits. -/
theorem locWord_eq {cls die slice stack : Nat} (h1 : cls < 16) (h2 : die < 16) (h3 : slice < 16) (h4 : stack < 16) :
    locWord cls die slice stack = BitVec.ofNat 64 (cls * 4096 + die * 256 + slice * 16 + stack) := by
  apply BitVec.eq_of_toNat_eq
  have digit {x : Nat} (h : x < 16) : x % 16 = x := Nat.mod_eq_of_lt h
  simp only [locWord, BitVec.toNat_append, BitVec.toNat_ofNat, Nat.reducePow, digit h1, digit h2, digit h3, digit h4, Nat.zero_mod, Nat.zero_shiftLeft, Nat.zero_or]
  rw [← Nat.shiftLeft_add_eq_or_of_lt (by omega : die < 2 ^ 4), ← Nat.shiftLeft_add_eq_or_of_lt (by omega : slice < 2 ^ 4),
    ← Nat.shiftLeft_add_eq_or_of_lt (by omega : stack < 2 ^ 4)]
  simp only [Nat.shiftLeft_eq]
  omega

/-- Two clusters of a die are as far apart as zero only when they are one (R72). -/
theorem clusterDist_eq_zero_iff {a b : Nat} (ha : a < 8) (hb : b < 8) : clusterDist a b = 0 ↔ a = b := by
  unfold clusterDist
  split <;> split <;> omega

/-- An attic address lies in the share of one of the 32 cores of its die (R21). -/
theorem atticCore_lt {s : State} {pa : Nat} {d : DieId} (h : region s pa = .attic d) : atticCore pa < 32 := by
  have hoff : pa % 2 ^ 48 < 0xF00020000000 := by
    unfold region at h
    dsimp only at h
    split at h
    · split at h
      · unfold windowRegion at h
        split at h
        · cases h
        · split at h
          · cases h
          · split at h
            · rename_i ho; exact ho.2
            · cases h
      · cases h
    · split at h
      · split at h <;> cases h
      · cases h
  unfold atticCore
  omega

/-- The stack of an address is one of the package's twelve (R20). -/
theorem stackOf_lt (pa : Nat) : stackOf pa < 16 := by
  have := (dieOf pa).isLt
  unfold stackOf
  omega

section
variable {s : State} {p : Place} {g : Group} {va : BitVec 64}

theorem locq_in_window (h : inWindow va = true) : locq s p g va = BitVec.ofNat 64 (2 * 4096 + (dieOfPlace p).val * 256 + 0 * 16 + 15) := by
  have := (dieOfPlace p).isLt
  rw [locq, if_pos h, locWord_eq (by decide) (by omega) (by decide) (by decide)]

theorem locq_unmapped {c : BitVec 10} {l : BitVec 3} (h : inWindow va = false) (hf : findLeaf s (coreOf p) g.lr.asid va = .bad c l) :
    locq s p g va = BitVec.ofNat 64 (7 * 4096 + 15 * 256 + 0 * 16 + 15) := by
  rw [locq, if_neg (by rw [h]; decide), hf]
  exact locWord_eq (by decide) (by decide) (by decide) (by decide)

variable {x : BitVec 64} {pte lg : Nat} (h : inWindow va = false) (hf : findLeaf s (coreOf p) g.lr.asid va = .leaf x pte lg)
include h hf

/-- The word of a mapped address goes by the region that the address translates to (R74). -/
theorem locq_mapped : locq s p g va = match region s (leafAddr x lg va) with
    | .hbm d => locWord (if d.val = (dieOfPlace p).val then 0 else 1) d.val (sliceOf (leafAddr x lg va)).val (stackOf (leafAddr x lg va))
    | .attic d => locWord (if d.val ≠ (dieOfPlace p).val then 5
        else if clusterDist (atticCore (leafAddr x lg va) / 4) (p.val / 16 % 8) = 0 then 3 else 4) d.val 0 15
    | .dcr d _ => locWord 6 d.val 0 15
    | _ => locWord 7 15 0 15 := by
  rw [locq, if_neg (by rw [h]; decide), hf] <;> (dsimp only; split <;> simp only [*])

theorem locq_hbm {d : DieId} (hr : region s (leafAddr x lg va) = .hbm d) : locq s p g va = BitVec.ofNat 64
    ((if d.val = (dieOfPlace p).val then 0 else 1) * 4096 + d.val * 256 + (sliceOf (leafAddr x lg va)).val * 16 + stackOf (leafAddr x lg va)) := by
  have := d.isLt
  rw [locq_mapped h hf, hr]
  exact locWord_eq (by split <;> decide) (by omega) (by omega) (stackOf_lt _)

theorem locq_attic {d : DieId} (hr : region s (leafAddr x lg va) = .attic d) : locq s p g va = BitVec.ofNat 64
    ((if d.val ≠ (dieOfPlace p).val then 5 else if atticCore (leafAddr x lg va) / 4 = p.val / 16 % 8 then 3 else 4) * 4096 + d.val * 256 + 0 * 16 + 15) := by
  have := d.isLt
  have := atticCore_lt hr
  rw [locq_mapped h hf, hr]
  simp only [clusterDist_eq_zero_iff (show atticCore (leafAddr x lg va) / 4 < 8 by omega) (show p.val / 16 % 8 < 8 by omega)]
  exact locWord_eq (by split; decide; split <;> decide) (by omega) (by decide) (by decide)

theorem locq_dcr {d : DieId} {off : Nat} (hr : region s (leafAddr x lg va) = .dcr d off) :
    locq s p g va = BitVec.ofNat 64 (6 * 4096 + d.val * 256 + 0 * 16 + 15) := by
  have := d.isLt
  rw [locq_mapped h hf, hr]
  exact locWord_eq (by decide) (by omega) (by decide) (by decide)

theorem locq_elsewhere (hr : region s (leafAddr x lg va) = .none ∨ ∃ off, region s (leafAddr x lg va) = .dawn off) :
    locq s p g va = BitVec.ofNat 64 (7 * 4096 + 15 * 256 + 0 * 16 + 15) := by
  rw [locq_mapped h hf]
  rcases hr with hr | ⟨off, hr⟩ <;> (rw [hr]; exact locWord_eq (by decide) (by decide) (by decide) (by decide))

end

/-! ## Arrivals (R65, R440) -/

/-- x(i) reads what was written, unless it is x0 (R163). -/
theorem getX_setX_self (t : Stream) {i : BitVec 6} (h : i ≠ 0) (v : BitVec 64) : (t.setX i v).getX i = v := by
  have h' : ¬ i = 0#6 := h
  simp [Stream.getX, Stream.setX, h', Vector.get_eq_getElem, BitVec.val_toFin]

theorem getX_setX_ne (t : Stream) {i j : BitVec 6} (h : j ≠ i) (v : BitVec 64) : (t.setX i v).getX j = t.getX j := by
  have hne : i.toNat ≠ j.toNat := fun e => h (BitVec.eq_of_toNat_eq e.symm)
  by_cases hi : i = 0#6
  · rw [Stream.setX, if_pos hi]
  · simp [Stream.getX, Stream.setX, hi, Vector.get_eq_getElem, BitVec.val_toFin, hne]

/-- A written register is full (R64, R65). -/
theorem hasFull_setX_self (t : Stream) (i : BitVec 6) (v : BitVec 64) : (t.setX i v).hasFull i = true := by
  by_cases hi : i = 0#6
  · simp [Stream.hasFull, hi]
  · simp [Stream.hasFull, Stream.setX, hi, show i.toNat < 64 from i.isLt]

/-- Delivered data stands in its register, which is full. -/
theorem getX_fill (t : Stream) (i j : BitVec 6) (v : BitVec 64) : (t.fill i v).getX j = (t.setX i v).getX j := rfl
theorem hasFull_fill_self (t : Stream) (i : BitVec 6) (v : BitVec 64) : (t.fill i v).hasFull i = true := hasFull_setX_self t i v

/-- A write of a scalar register touches only the registers. -/
theorem setX_arrivals (t : Stream) (i : BitVec 6) (v : BitVec 64) : (t.setX i v).arrivals = t.arrivals := by
  unfold Stream.setX; split <;> rfl

section
variable {s : State} {q : Place} {st : StreamId} {h : Group} {k : Nat} {x : BitVec 6} {v : BitVec 64} (hg : s.group q = some h)
include hg

/-- A value that nothing holds back arrives. -/
theorem loadDataReturn_arrival (ha : (h.stream st).arrivals[k]? = some (x, v, none)) : exec (.loadDataReturn q st (k + 1)) s =
    .next (s.setGroup q (h.setStream st (({ h.stream st with arrivals := (h.stream st).arrivals.eraseIdx k } : Stream).setX x v))) := by
  show execLoadDataReturn q st (k + 1) s = _
  simp only [execLoadDataReturn, hg, ha]

/-- A value arrives eight cycles after its instruction issued or later (R440). -/
theorem loadDataReturn_due {c : BitVec 64} (ha : (h.stream st).arrivals[k]? = some (x, v, some c)) : exec (.loadDataReturn q st (k + 1)) s =
    if 8 ≤ ((s.cores.get (coreOf q)).cycle - c).toNat then
      .next (s.setGroup q (h.setStream st (({ h.stream st with arrivals := (h.stream st).arrivals.eraseIdx k } : Stream).fill x v)))
    else .next s := by
  show execLoadDataReturn q st (k + 1) s = _
  simp only [execLoadDataReturn, hg, ha, dueFrom, decide_eq_true_eq]

end

/-- Settles O21: PERFR by the number of its counter, LOCQ by where its address lies, the arrival by the cycle of the issue. -/
theorem counterAndLocalityReadsComplete : Obligations.CounterAndLocalityReadsComplete := by
  unfold Obligations.CounterAndLocalityReadsComplete
  intro s g r d a hc hd t0 core die sends
  have htaken : (s.env g r).t = { s.here g with took := some r, tookSets := takenSets g s.curStream r } := here_taken s g r
  refine ⟨execPerfr_of_counter hc hd rfl, execPerfr_of_counter hc hd (congrArg some (by rw [htaken])), execPerfr_of_counter hc hd rfl,
    execPerfr_of_counter hc hd rfl, execPerfr_of_counter hc hd rfl, execPerfr_of_counter hc hd rfl, execPerfr_of_counter hc hd rfl,
    fun k => ?_, fun n hn h => ?_, fun ha => ?_, fun q st h k x v hg => ⟨loadDataReturn_arrival hg, fun c hk => ⟨fun hdue => ?_, fun hearly => ?_⟩⟩⟩
  · have retained (m : Nat) (hm : m < 3) : perfRead (s.env g r) (BitVec.ofNat 12 (0x100 + m + 4 * k.val)) =
        some (if m = 0 then (die.regs.get k).hit else if m = 1 then (die.regs.get k).miss else (die.regs.get k).ovf) := by
      have hn : (BitVec.ofNat 12 (0x100 + m + 4 * k.val)).toNat = 0x100 + m + 4 * k.val := by rw [BitVec.toNat_ofNat]; omega
      rw [perfRead_of_retention _ (by omega) (by omega) (by omega)]
      have hk : (⟨(0x100 + m + 4 * k.val - 0x100) / 4 % 8, Nat.mod_lt _ (by decide)⟩ : Fin 8) = k := Fin.ext (by dsimp only; omega)
      have hmod : (0x100 + m + 4 * k.val) % 4 = m := by omega
      simp only [hn, hk, hmod]
      rfl
    exact ⟨execPerfr_of_counter hc hd (retained 0 (by decide)), execPerfr_of_counter hc hd (retained 1 (by decide)),
      execPerfr_of_counter hc hd (retained 2 (by decide))⟩
  · show execPerfr r d n s = _
    unfold execPerfr
    exact plain_trap hc (by rw [perfRead_of_unassigned _ hn h])
  · intro A here word
    have located {v : BitVec 64} (hv : locq (s.began g r) s.curPlace (s.taken g r) A = v) : exec (.locq r d a) s = sends v := by
      rw [execLocq_of_full hc hd ha, hv]
    exact ⟨fun hw => located (locq_in_window hw), fun hw ⟨c, l, hf⟩ => located (locq_unmapped hw hf), fun x pte lg hw hf =>
      ⟨fun _ hr => located (locq_hbm hw hf hr), fun _ hr => located (locq_attic hw hf hr), fun _ _ hr => located (locq_dcr hw hf hr),
        fun hr => located (locq_elsewhere hw hf hr)⟩⟩
  · rw [loadDataReturn_due hg hk, if_pos hdue]
    refine ⟨_, _, rfl, State.group_setGroup s q _, ?_, ?_, ?_⟩ <;> rw [Group.stream_setStream]
    · exact fun hx => getX_setX_self _ hx v
    · exact hasFull_fill_self _ x v
    · exact setX_arrivals _ x v
  · rw [loadDataReturn_due hg hk, if_neg (by omega)]

end Sys2Proof.Machine
end

section
/-! PROOFS. The scalar loads and stores as they issue (R67, R87, R215, R216). -/

namespace Sys2Proof.Machine

open Sys2Proof

/-- The effective address is the sum with the scaled immediate, modulo 2^64 (R164, R215). -/
theorem effAddr_eq (x : BitVec 64) (i : BitVec 9) (n : Nat) : effAddr x i n = x + BitVec.ofInt 64 (i.toInt * n) := by
  rw [effAddr, imm9, BitVec.signExtend, BitVec.ofInt_mul, BitVec.ofInt_natCast]

/-- The registers of a list are full for an instruction that reads some of them. -/
theorem fulls_env_of_subset {s : State} {g : Group} {r : BitVec 4} {rs ks : List (BitVec 6)} (h : (s.here g).fulls rs) (hs : ks ⊆ rs) :
    (s.env g r).t.fulls ks := fulls_env (fulls_of_subset h hs)

theorem isFull_env_of_mem {s : State} {g : Group} {r : BitVec 4} {rs : List (BitVec 6)} (h : (s.here g).fulls rs) {d : BitVec 6} (hd : d ∈ rs) :
    (s.env g r).t.isFull d = true := List.all_eq_true.1 (fulls_env h) d hd

/-- The stream as its instruction sees it, with its tokens taken. -/
theorem env_t (s : State) (g : Group) (r : BitVec 4) :
    (s.env g r).t = { s.here g with took := some r, tookSets := takenSets g s.curStream r } := here_taken s g r

/-! ## Loads -/

section
variable {e : Env} {n : Nat} {signed : Bool} {d a : BitVec 6} {i : BitVec 9} (hf : e.t.fulls [a]) (hd : e.t.isFull d = true)
include hf hd

/-- A load whose registers are full goes by its address. -/
theorem loadScalar_of_full : loadScalar n signed d a i e =
    if (effAddr (e.t.getX a) i n).toNat % n ≠ 0 then .trap (Trap.at Cause.memAlign (effAddr (e.t.getX a) i n) 0)
    else match reach e (effAddr (e.t.getX a) i n) 0 false with
      | .trap s x => .trapIn s x
      | .wait s => .wait s
      | .ok s (.dcr die off) => if n ≠ 8 then .trapIn s (Trap.at Cause.dcrSize (effAddr (e.t.getX a) i n) 0)
        else .done (s.setGroup e.p (e.g.setStream e.st ((e.t.arriveLater d (dcrRead s die off) e.now).leftByLoad d)))
      | .ok s tgt => if 16 ≤ e.t.loads.length then .hold
        else .done (s.setGroup e.p (e.g.setStream e.st (((e.t.markEmpty d).leftByLoad d).pushLoad e.now (effAddr (e.t.getX a) i n) (.scalar d n signed)
          [{ loc := tgt.loc, va := (effAddr (e.t.getX a) i n).toNat, n := n, pos := 0 }]))) := by
  rw [loadScalar, reads_of_fulls hf, writes_of_full hd] <;> rfl

variable {va : BitVec 64} (hva : effAddr (e.t.getX a) i n = va)
include hva

theorem loadScalar_misaligned (h : va.toNat % n ≠ 0) : loadScalar n signed d a i e = .trap (Trap.at Cause.memAlign va 0) := by
  rw [loadScalar_of_full hf hd, hva, if_pos h]

/-- A load of the scratchpad or of memory enters the load queue (R87). -/
theorem loadScalar_queued {s2 : State} {tgt : Target} (h : va.toNat % n = 0) (hl : e.t.loads.length < 16) (ht : ∀ die off, tgt ≠ .dcr die off)
    (hr : reach e va 0 false = .ok s2 tgt) : loadScalar n signed d a i e =
      .done (s2.setGroup e.p (e.g.setStream e.st (((e.t.markEmpty d).leftByLoad d).pushLoad e.now va (.scalar d n signed)
        [{ loc := tgt.loc, va := va.toNat, n := n, pos := 0 }]))) := by
  have hroom : ¬ 16 ≤ e.t.loads.length := by omega
  rw [loadScalar_of_full hf hd, hva, if_neg (by omega), hr]
  cases tgt with
  | spad off => exact if_neg hroom
  | mem pa h => exact if_neg hroom
  | dcr die off => exact absurd rfl (ht die off)

/-- A load of a die control register reads it as it issues, or is too narrow for it (R216; log 72). -/
theorem loadScalar_dcr {s2 : State} {die : DieId} {off : Nat} (h : va.toNat % n = 0) (hr : reach e va 0 false = .ok s2 (.dcr die off)) :
    loadScalar n signed d a i e = if n ≠ 8 then .trapIn s2 (Trap.at Cause.dcrSize va 0)
      else .done (s2.setGroup e.p (e.g.setStream e.st ((e.t.arriveLater d (dcrRead s2 die off) e.now).leftByLoad d))) := by
  rw [loadScalar_of_full hf hd, hva, if_neg (by omega), hr]

end

/-- Settles O22: one argument for the seven loads, over size and extension. -/
theorem scalarLoadsEnterTheLoadQueue : Obligations.ScalarLoadsEnterTheLoadQueue := by
  unfold Obligations.ScalarLoadsEnterTheLoadQueue
  intro s s2 g r d a i hc hfull e t0 load
  have hf : e.t.fulls [a] := fulls_env_of_subset hfull (by simp)
  have hd : e.t.isFull d = true := isFull_env_of_mem hfull (by simp)
  have hloads : e.t.loads = t0.loads := by rw [show e.t = _ from env_t s g r]
  have key (j : Instr) (n : Nat) (signed : Bool) (hj : exec j s = plain anyStream r 0 (loadScalar n signed d a i) s) : load j n signed := by
    have hva : effAddr (e.t.getX a) i n = t0.getX a + BitVec.ofInt 64 (i.toInt * n) := by
      rw [effAddr_eq]; exact congrArg (· + _) (getX_taken s g r a)
    refine ⟨fun h => ?_, fun h hl tgt ht hr => ?_, fun h die off hr => ⟨fun hn => ?_, fun hn => ?_⟩⟩
    · rw [hj, plain_trap hc (loadScalar_misaligned hf hd hva h)]
    · rw [hj, plain_finish hc (loadScalar_queued hf hd hva h (by rw [hloads]; exact hl) ht hr)]
      rfl
    · rw [hj, plain_finish hc ((loadScalar_dcr hf hd hva h hr).trans (if_neg (not_not.2 hn)))]
      rfl
    · rw [hj, plain_trapIn hc ((loadScalar_dcr hf hd hva h hr).trans (if_pos hn))]
  exact ⟨key _ _ _ rfl, key _ _ _ rfl, key _ _ _ rfl, key _ _ _ rfl, key _ _ _ rfl, key _ _ _ rfl, key _ _ _ rfl⟩

/-! ## Stores -/

/-- An address of the window whose page can be served lies in the scratchpad (R66). -/
theorem reach_window {e : Env} {va : BitVec 64} (kind : BitVec 2) (setD : Bool) (hw : inWindow va = true)
    (hdead : windowDead e.s e.p e.g (va.toNat - windowBase) = false) : reach e va kind setD = .ok e.s (.spad (va.toNat - windowBase)) := by
  rw [reach, if_pos hw, if_neg (by rw [hdead]; decide)]

section
variable {e : Env} {n : Nat} {x a : BitVec 6} {i : BitVec 9} {va : BitVec 64} (hf : e.t.fulls [x, a]) (hva : effAddr (e.t.getX a) i n = va)
include hf hva

theorem storeScalar_misaligned (h : va.toNat % n ≠ 0) : storeScalar n x a i e = .trap (Trap.at Cause.memAlign va 1) := by
  rw [storeScalar, reads_of_fulls hf, hva]
  exact if_pos h

/-- A store to memory enters the store queue (R87). -/
theorem storeScalar_memory {s2 : State} {pa : Nat} {ht : Bool} (h : va.toNat % n = 0) (hl : e.t.stores.length < 16)
    (hr : reach e va 1 true = .ok s2 (.mem pa ht)) : storeScalar n x a i e =
      .done (s2.setGroup e.p (e.g.setStream e.st ((e.g.stream e.st).pushStore s2.now ht
        [{ loc := .mem pa, va := va.toNat, op := .write (leBytes n (e.t.getX x).toNat), scale := none, ht := ht }] none))) := by
  rw [storeScalar, reads_of_fulls hf, hva]
  dsimp only
  rw [if_neg (by omega), hr]
  exact if_neg (by omega)

/-- A store to the scratchpad allocates its page as it issues (R67). -/
theorem storeScalar_window (h : va.toNat % n = 0) (hl : e.t.stores.length < 16) (hw : inWindow va = true)
    (hdead : windowDead e.s e.p e.g (va.toNat - windowBase) = false) : storeScalar n x a i e =
      match allocPage e.s e.p e.g (pageOf (va.toNat - windowBase)) with
      | none => .trapIn e.s (Trap.at Cause.spPool va 1)
      | some (s, g) => .done (s.setGroup e.p (g.setStream e.st ((g.stream e.st).pushStore s.now false
        [{ loc := .spad (va.toNat - windowBase), va := va.toNat, op := .write (leBytes n (e.t.getX x).toNat), scale := none }] none))) := by
  have hr := reach_window 1 true hw hdead
  rw [storeScalar, reads_of_fulls hf, hva]
  dsimp only
  rw [if_neg (by omega), hr]
  dsimp only
  rw [if_neg (by omega)]
  rfl

theorem storeScalar_dcr {s2 : State} {die : DieId} {off : Nat} (h : va.toNat % n = 0) (hr : reach e va 1 true = .ok s2 (.dcr die off)) :
    storeScalar n x a i e = if n ≠ 8 then .trapIn s2 (Trap.at Cause.dcrSize va 1) else .done s2 := by
  rw [storeScalar, reads_of_fulls hf, hva]
  dsimp only
  rw [if_neg (by omega), hr]

end

/-- An instruction whose body takes effect: what follows its retirement comes before the end of a step (R405). -/
theorem plainThen_retire {s s2 : State} {g g2 : Group} {roles : List StreamId} {r ev : BitVec 4} {body : Env → Act State} {after : Env → State → State}
    (hc : CanRun s g roles r) (hb : body (s.env g r) = .done s2) (hg : s2.group s.curPlace = some g2) :
    plainThen roles r ev body after s = .next (stepHalt (after (s.env g r) (retire (s2.setGroup s.curPlace
      (g2.setStream s.curStream (advance s2 s.curPlace g2 (g2.stream s.curStream)))) s.curPlace s.curStream r ev)) s.curPlace) := by
  have hroom : canPlace (s.env g r).g (s.env g r).st r = true := hc.place
  have hg' : s2.group (s.env g r).p = some g2 := hg
  rw [plainThen_run hc, hb]
  simp only [settleAct, hroom, if_true, retireIn, hg']
  rfl

/-- An instruction whose body takes effect, where what follows its retirement changes nothing. -/
theorem plainThen_finishAt {s s2 : State} {g : Group} {roles : List StreamId} {r ev : BitVec 4} {body : Env → Act State} {after : Env → State → State}
    (hc : CanRun s g roles r) (hb : body (s.env g r) = .done s2) (ha : ∀ u, after (s.env g r) u = u) :
    plainThen roles r ev body after s = .next (s2.finishAt s.curPlace s.curStream r ev) := by
  rw [plainThen_run hc, ← plain_finish (ev := ev) hc hb, plain, plainThen_run hc, hb]
  simp only [settleAct, retireIn, ha]

/-- Nothing follows the retirement of a store to the scratchpad or to memory (R216). -/
theorem storeReg_of_queued {e : Env} {x a : BitVec 6} {i : BitVec 9} {s2 : State} {tgt : Target}
    (hr : reach e (effAddr (e.t.getX a) i 8) 1 true = .ok s2 tgt) (ht : ∀ die off, tgt ≠ .dcr die off) (u : State) : storeReg x a i e u = u := by
  rw [storeReg, hr]
  cases tgt with
  | dcr die off => exact absurd rfl (ht die off)
  | _ => rfl

/-- Settles O24: one argument for the four stores, over the size, and the retirement of ST.d of a register. -/
theorem scalarStoresEnterTheStoreQueue : Obligations.ScalarStoresEnterTheStoreQueue := by
  unfold Obligations.ScalarStoresEnterTheStoreQueue
  intro s s2 g r x a i hc hfull e t0 store
  have hf : e.t.fulls [x, a] := fulls_env hfull
  have hstores : e.t.stores = t0.stores := by rw [show e.t = _ from env_t s g r]
  have hx : e.t.getX x = t0.getX x := getX_taken s g r x
  have haddr (n : Nat) : effAddr (e.t.getX a) i n = t0.getX a + BitVec.ofInt 64 (i.toInt * n) := by
    rw [effAddr_eq]; exact congrArg (· + _) (getX_taken s g r a)
  have key (j : Instr) (n : Nat) (after : Env → State → State) (hj : exec j s = plainThen anyStream r 0 (storeScalar n x a i) after s)
      (ha : ∀ s3 tgt, reach e (effAddr (e.t.getX a) i n) 1 true = .ok s3 tgt → (∀ die off, tgt ≠ .dcr die off) → ∀ u, after e u = u) : store j n := by
    have hva := haddr n
    rw [hva] at ha
    refine ⟨fun h => ?_, fun h hl pa ht hr => ?_, fun h hl hw hdead => ⟨fun s3 g3 hp => ?_, fun hp => ?_⟩, fun h hn die off hr => ?_⟩
    · rw [hj, plainThen_trap hc (storeScalar_misaligned hf hva h)]
    · rw [hj, plainThen_finishAt hc (storeScalar_memory hf hva h (by rw [hstores]; exact hl) hr) (ha s2 _ hr (by simp)), hx]
      rfl
    · have hb := storeScalar_window hf hva h (by rw [hstores]; exact hl) hw hdead
      rw [show allocPage e.s e.p e.g _ = some (s3, g3) from hp, hx] at hb
      rw [hj, plainThen_finishAt hc hb (ha e.s _ (reach_window 1 true hw hdead) (by simp))]
      rfl
    · have hb := storeScalar_window hf hva h (by rw [hstores]; exact hl) hw hdead
      rw [show allocPage e.s e.p e.g _ = none from hp] at hb
      rw [hj, plainThen_trapIn hc hb]
      rfl
    · rw [hj, plainThen_trapIn hc ((storeScalar_dcr hf hva h hr).trans (if_pos hn))]
  refine ⟨key _ _ _ rfl (fun _ _ _ _ _ => rfl), key _ _ _ rfl (fun _ _ _ _ _ => rfl), key _ _ _ rfl (fun _ _ _ _ _ => rfl),
    key _ _ _ rfl (fun _ _ hr ht => storeReg_of_queued hr ht), ?_⟩
  intro va h die off g2 hr hg2 u
  have hva : effAddr (e.t.getX a) i 8 = va := haddr 8
  have hb : storeScalar 8 x a i e = .done s2 := (storeScalar_dcr hf hva h hr).trans (if_neg (by decide))
  show execStD r x a i s = _
  rw [execStD, plainThen_retire hc hb hg2, storeReg]
  simp only [show effAddr ((s.env g r).t.getX a) i 8 = va from hva, show reach (s.env g r) va 1 true = _ from hr, show (s.env g r).t.getX x = _ from hx]
  rfl

end Sys2Proof.Machine
end

section
/-! PROOFS. L2PIN and L2UNPIN (R76, R77, R79, R223, R224). -/

namespace Sys2Proof.Machine

open Sys2Proof

/-! ## The register that L2PIN takes (R77) -/

/-- The first index of a die's registers with a property is found. -/
theorem find_finRange_first {n : Nat} {f : Fin n → Bool} {i : Fin n} (hi : f i = true) (hlt : ∀ j, j < i → f j = false) :
    (List.finRange n).find? f = some i := by
  rw [List.find?_eq_some_iff_getElem]
  refine ⟨hi, i.val, by simp, by simp, fun j hj => ?_⟩
  simp only [List.getElem_finRange, Fin.cast_mk, Bool.not_eq_true']
  exact hlt ⟨j, by omega⟩ hj

/-- The register that L2PIN of a range leaves (R76, R77). -/
def pinnedReg (die : Die) (asid : BitVec 16) (lid lo hi : BitVec 64) (ways : Nat) : RetReg :=
  { base := lo.extractLsb' 16 41, last := hi.extractLsb' 16 41, v := true, ways := BitVec.ofNat 4 ways, asid := asid, hit := 0, miss := 0, ovf := 0,
    owned := assignWays die ways, lid := lid }

section
variable {s : State} {d : DieId} {asid : BitVec 16} {lid lo hi : BitVec 64} {ways : Nat}

theorem pinRange_of_none (h : ∀ i, ((s.dies.get d).regs.get i).v = true) : pinRange s d asid lid lo hi ways = .error Cause.l2Noreg := by
  have hf : (List.finRange 8).find? (fun i => !((s.dies.get d).regs.get i).v) = none := by simp [h]
  simp only [pinRange, hf]

/-- With a register free L2PIN needs ways and a range that meets no other of the address space (R77, R223). -/
theorem pinRange_of_free {i : Fin 8} (hfree : ((s.dies.get d).regs.get i).v = false) (hlt : ∀ j, j < i → ((s.dies.get d).regs.get j).v = true) :
    pinRange s d asid lid lo hi ways =
      if (s.dies.get d).rways.toNat < ownedWays (s.dies.get d) + ways then .error Cause.l2Noways
      else if (s.dies.get d).regs.toList.any (fun r => r.v && r.asid == asid && decide (r.base ≤ hi.extractLsb' 16 41 ∧ lo.extractLsb' 16 41 ≤ r.last)) then
        .error Cause.l2Overlap
      else .ok (s.setDie d { s.dies.get d with regs := (s.dies.get d).regs.set i.val (pinnedReg (s.dies.get d) asid lid lo hi ways) },
        BitVec.ofNat 64 (d.val * 16 + i.val)) := by
  have hf : (List.finRange 8).find? (fun i => !((s.dies.get d).regs.get i).v) = some i :=
    find_finRange_first (by rw [hfree]; rfl) (fun j hj => by rw [hlt j hj]; rfl)
  simp only [pinRange, hf] <;> rfl

end

/-! ## L2PIN (R223) -/

/-- The issue of an instruction goes by what its body answers with the tokens taken. -/
theorem plain_congr {s : State} {g : Group} {roles : List StreamId} {r ev : BitVec 4} {body body' : Env → Act State} (hc : CanRun s g roles r)
    (h : body (s.env g r) = body' (s.env g r)) : plain roles r ev body s = plain roles r ev body' s := by
  rw [plain, plain, plainThen_run hc, plainThen_run hc, h]

/-- L2PIN of a range of addresses, once its registers are read (R223). -/
def pinBody (d : BitVec 6) (lo hi : BitVec 64) (ways : BitVec 4) (e : Env) : Act State :=
  if hi < lo ∨ ways = 0 ∨ 8 < ways.toNat then .trap (.plain Cause.opRange)
  else if inWindow lo then .trap (.plain Cause.opRange)
  else
    match translateAs e.s e.p e.g e.st lo 0 false with
    | .wait s => .wait s
    | .bad s cause lvl => faultStream s e.p e.g e.st lo 0 cause lvl .wait .trapIn
    | .ok s pa _ =>
      if (region s pa).isHbm then
        match pinRange s (dieOf pa) e.g.lr.asid e.g.lr.id lo hi ways.toNat with
        | .error c => .trapIn s (.plain c)
        | .ok (s, v) => .done (s.setGroup e.p (e.g.setStream e.st (e.t.setX d v)))
      else .trapIn s (.plain Cause.opRange)

section
variable {e : Env} {d : BitVec 6} {lo hi : BitVec 64} {ways : BitVec 4}

theorem pinBody_of_range (h : hi < lo ∨ ways = 0 ∨ 8 < ways.toNat ∨ inWindow lo = true) : pinBody d lo hi ways e = .trap (.plain Cause.opRange) := by
  by_cases hr : hi < lo ∨ ways = 0 ∨ 8 < ways.toNat
  · exact if_pos hr
  · rw [pinBody, if_neg hr, if_pos (by tauto)]

/-- A range whose first page lies in HBM takes what the registers of that page's die allow. -/
theorem pinBody_of_page {s2 : State} {pa : Nat} {ht : Bool} (hlo : ¬ hi < lo) (h1 : 1 ≤ ways.toNat) (h8 : ways.toNat ≤ 8) (hw : inWindow lo = false)
    (hx : translateAs e.s e.p e.g e.st lo 0 false = .ok s2 pa ht) (hh : (region s2 pa).isHbm = true) :
    pinBody d lo hi ways e = match pinRange s2 (dieOf pa) e.g.lr.asid e.g.lr.id lo hi ways.toNat with
      | .error c => .trapIn s2 (.plain c)
      | .ok (s, v) => .done (s.setGroup e.p (e.g.setStream e.st (e.t.setX d v))) := by
  have hways : ways ≠ 0 := fun h => by rw [h] at h1; exact absurd h1 (by decide)
  rw [pinBody, if_neg (by rintro (h | h | h); exacts [hlo h, hways h, by omega]), if_neg (by rw [hw]; decide), hx]
  exact if_pos hh

end

theorem execL2pin_of_full {s : State} {g : Group} {r ev : BitVec 4} {d a b : BitVec 6} {ways : BitVec 4} (hc : CanRun s g anyStream r)
    (hf : (s.here g).fulls [a, b, d]) :
    exec (.l2pin r ev d a b ways) s = plain anyStream r ev (pinBody d ((s.here g).getX a) ((s.here g).getX b) ways) s := by
  have hd : (s.env g r).t.isFull d = true := isFull_env_of_mem hf (by simp)
  show execL2pin r ev d a b ways s = _
  unfold execL2pin
  refine plain_congr hc ?_
  rw [reads_of_fulls (fulls_env_of_subset hf (by simp)), writes_of_full hd, ← getX_taken s g r a, ← getX_taken s g r b]
  rfl

/-! ## L2UNPIN (R224) -/

/-- A handle has its die in bits 5:4 and its register in bits 2:0, and no other bit set (R77, R224). -/
theorem handle_iff (v : BitVec 64) : (v.extractLsb' 6 58 = 0#58 ∧ v.getLsbD 3 = false) ↔
    v = BitVec.ofNat 64 ((fin4 (fieldOf v 5 4)).val * 16 + fieldOf v 2 0 % 8) := by
  constructor
  · rintro ⟨hhigh, hbit⟩
    have hlt : v.toNat < 64 := (extractLsb'_upper_eq_zero_iff (k := 6) (m := 58) v).1 hhigh
    have low : ∀ n : Fin 64, (BitVec.ofNat 64 n.val).getLsbD 3 = false → BitVec.ofNat 64 n.val =
        BitVec.ofNat 64 ((fin4 (fieldOf (BitVec.ofNat 64 n.val) 5 4)).val * 16 + fieldOf (BitVec.ofNat 64 n.val) 2 0 % 8) := by decide
    have hv : BitVec.ofNat 64 v.toNat = v := by simp
    have := low ⟨v.toNat, hlt⟩
    simp only [hv] at this
    exact this hbit
  · intro h
    have fields : ∀ (d : Fin 4) (i : Fin 8), (BitVec.ofNat 64 (d.val * 16 + i.val)).extractLsb' 6 58 = 0#58 ∧
        (BitVec.ofNat 64 (d.val * 16 + i.val)).getLsbD 3 = false := by decide
    have := fields (fin4 (fieldOf v 5 4)) ⟨fieldOf v 2 0 % 8, Nat.mod_lt _ (by decide)⟩
    rwa [← h] at this

theorem handle_fields : ∀ (dd : DieId) (i : Fin 8), fin4 (fieldOf (BitVec.ofNat 64 (dd.val * 16 + i.val)) 5 4) = dd ∧
    fieldOf (BitVec.ofNat 64 (dd.val * 16 + i.val)) 2 0 % 8 = i.val := by decide

/-- L2UNPIN of a handle, once its register is read (R224). -/
def unpinBody (v : BitVec 64) (e : Env) : Act State :=
  let d : DieId := fin4 (fieldOf v 5 4)
  let i : Fin 8 := ⟨fieldOf v 2 0 % 8, by omega⟩
  let reg := (e.s.dies.get d).regs.get i
  if v.extractLsb' 6 58 ≠ 0#58 ∨ v.getLsbD 3 = true ∨ dieLive e.s d = false ∨ reg.v = false ∨ reg.asid ≠ e.g.lr.asid then .trap (.plain Cause.l2Handle)
  else .done (releaseReg e.s d i)

theorem unpinBody_of_no_handle {e : Env} {v : BitVec 64} (h : ∀ (dd : DieId) (i : Fin 8), v ≠ BitVec.ofNat 64 (dd.val * 16 + i.val)) :
    unpinBody v e = .trap (.plain Cause.l2Handle) := by
  refine if_pos ?_
  by_contra hno
  simp only [not_or, not_not, Bool.not_eq_true] at hno
  obtain ⟨hhigh, hbit, -⟩ := hno
  exact h _ ⟨_, Nat.mod_lt _ (by decide)⟩ ((handle_iff v).1 ⟨hhigh, hbit⟩)

/-- L2UNPIN of a handle goes by the register that it names (R79, R224). -/
theorem unpinBody_of_handle (e : Env) (dd : DieId) (i : Fin 8) :
    unpinBody (BitVec.ofNat 64 (dd.val * 16 + i.val)) e =
      if dieLive e.s dd = false ∨ ((e.s.dies.get dd).regs.get i).v = false ∨ ((e.s.dies.get dd).regs.get i).asid ≠ e.g.lr.asid then
        .trap (.plain Cause.l2Handle)
      else .done (releaseReg e.s dd i) := by
  obtain ⟨hdie, hreg⟩ := handle_fields dd i
  obtain ⟨hhigh, hbit⟩ := (handle_iff (BitVec.ofNat 64 (dd.val * 16 + i.val))).2 (by rw [hdie, hreg])
  simp only [unpinBody, hhigh, hbit, hdie, hreg, ne_eq, not_true_eq_false, Bool.false_eq_true, false_or]

theorem execL2unpin_of_full {s : State} {g : Group} {r : BitVec 4} {a : BitVec 6} (hc : CanRun s g anyStream r) (hf : (s.here g).fulls [a]) :
    exec (.l2unpin r a) s = plain anyStream r 0 (unpinBody ((s.here g).getX a)) s := by
  show execL2unpin r a s = _
  unfold execL2unpin
  refine plain_congr hc ?_
  rw [reads_of_fulls (fulls_env hf), ← getX_taken s g r a]
  rfl

/-- Settles O30: L2PIN by the registers of the first page's die, L2UNPIN by the fields of the handle. -/
theorem retentionInstructionsComplete : Obligations.RetentionInstructionsComplete := by
  unfold Obligations.RetentionInstructionsComplete
  intro s s2 g r ev d a b ways hc hf e lo hi
  have ha : (s.here g).fulls [a] := fulls_of_subset hf (by simp)
  refine ⟨fun h => ?_, fun pa ht hlo h1 h8 hw hx hh => ?_, fun dd i hlo => ⟨fun h1 h2 h3 => ?_, fun h => ?_⟩, fun h => ?_⟩
  · rw [execL2pin_of_full hc hf, plain_trap hc (pinBody_of_range h)]
  · intro die overlaps
    have hbody := pinBody_of_page (d := d) hlo h1 h8 hw hx hh
    rw [execL2pin_of_full hc hf]
    refine ⟨fun hfull => ?_, fun i hfree hlt => ⟨fun hways => ?_, fun hways hov => ?_, fun hways hov => ?_⟩⟩
    · rw [pinRange_of_none hfull] at hbody
      exact plain_trapIn hc hbody
    all_goals have hpin := pinRange_of_free (asid := e.g.lr.asid) (lid := e.g.lr.id) (lo := lo) (hi := hi) (ways := ways.toNat) hfree hlt
    · rw [hpin.trans (if_pos hways)] at hbody
      exact plain_trapIn hc hbody
    · rw [hpin.trans ((if_neg (Nat.not_lt.2 hways)).trans (if_pos hov))] at hbody
      exact plain_trapIn hc hbody
    · rw [hpin.trans ((if_neg (Nat.not_lt.2 hways)).trans (if_neg (Bool.eq_false_iff.1 hov)))] at hbody
      exact ⟨pinnedReg die g.lr.asid g.lr.id lo hi ways.toNat, rfl, rfl, rfl, (BitVec.ofNat_toNat 4 ways).trans (BitVec.setWidth_eq ways),
        rfl, rfl, rfl, rfl, rfl, plain_finish hc hbody⟩
  · rw [execL2unpin_of_full hc ha, show (s.here g).getX a = _ from hlo]
    exact plain_finish hc ((unpinBody_of_handle _ dd i).trans (if_neg (by rintro (h | h | h); exacts [Bool.false_ne_true (h.symm.trans h1), Bool.false_ne_true (h.symm.trans h2), h h3])))
  · rw [execL2unpin_of_full hc ha, show (s.here g).getX a = _ from hlo]
    exact plain_trap hc ((unpinBody_of_handle _ dd i).trans (if_pos h))
  · rw [execL2unpin_of_full hc ha]
    exact plain_trap hc (unpinBody_of_no_handle h)

end Sys2Proof.Machine
end

section
/-! PROOFS. WAITA, FENCE and EPOP (R92, R94, R97, R98, R109, R218 to R220), and what retirement leaves of an instruction that reads as it issues. -/

namespace Sys2Proof.Machine

open Sys2Proof

/-! ## What retirement leaves of a stream's operands -/

/-- Two streams whose full bits and whose values on the way are the same (R65, R167). -/
def Stream.SameOperands (t u : Stream) : Prop := u.full = t.full ∧ u.woken = t.woken ∧ u.arrivals = t.arrivals

theorem Stream.SameOperands.isFull {t u : Stream} (h : t.SameOperands u) (i : BitVec 6) : u.isFull i = t.isFull i := by
  rw [Stream.isFull, Stream.isFull, h.1, h.2.1]

theorem Stream.SameOperands.trans {t u v : Stream} (h : t.SameOperands u) (k : u.SameOperands v) : t.SameOperands v :=
  ⟨k.1.trans h.1, k.2.1.trans h.2.1, k.2.2.trans h.2.2⟩

theorem loopBack_sameOperands (t : Stream) (len : Nat) (is : List (Fin 2)) : t.SameOperands (loopBack t len is).1 := by
  rw [loopBack_eq]; exact ⟨rfl, rfl, rfl⟩

theorem goAt_sameOperands (s : State) (p : Place) (g : Group) (t : Stream) (a : BitVec 64) : t.SameOperands (t.goAt s p g a) := by
  unfold Stream.goAt Stream.goto
  split <;> exact ⟨rfl, rfl, rfl⟩

/-- The update of the PC pair leaves the operands as they were (R185). -/
theorem advance_sameOperands (s : State) (p : Place) (g : Group) (t : Stream) : t.SameOperands (advance s p g t) := by
  have hback := loopBack_sameOperands t t.len (loopOrder t.late)
  unfold advance
  split
  · rename_i u a heq
    rw [heq] at hback
    exact hback.trans (goAt_sameOperands s p g u.landAnew a)
  · rename_i u heq
    rw [heq] at hback
    exact hback.trans (goAt_sameOperands s p g u.land t.npc)

theorem returnTok_eq (g : Group) (st : StreamId) (r : BitVec 4) (sets : List Nat × List Nat) :
    returnTok g st r sets = { g with tokens := (returnTok g st r sets).tokens, tokSets := (returnTok g st r sets).tokSets } := by
  unfold returnTok
  split <;> split <;> rfl

theorem returnTok_stream (g : Group) (st o : StreamId) (r : BitVec 4) (sets : List Nat × List Nat) : (returnTok g st r sets).stream o = g.stream o := by
  rw [returnTok_eq]; rfl

theorem returnTok_syncf (g : Group) (st : StreamId) (r : BitVec 4) (sets : List Nat × List Nat) : (returnTok g st r sets).syncf = g.syncf := by
  rw [returnTok_eq]

theorem unwait_of_not_waiting {t : Stream} (h : t.waiting = none) : t.unwait = t := by
  cases t
  cases h
  rfl

/-- A group in which a stream waits for nothing, its operands, its SEQ and the sync words as in another. -/
def RestsAs (st : StreamId) (g h : Group) : Prop :=
  (h.stream st).waiting = none ∧ (g.stream st).SameOperands (h.stream st) ∧ (h.stream st).seq = (g.stream st).seq ∧ h.syncf = g.syncf

/-- What a cancelled stream gives back changes only token queues (R386). -/
theorem RestsAs.returnTok {st : StreamId} {g h : Group} (hr : RestsAs st g h) (o : StreamId) (r : BitVec 4) (sets : List Nat × List Nat) :
    RestsAs st g (returnTok h o r sets) := by
  unfold RestsAs
  rw [returnTok_stream, returnTok_syncf]
  exact hr

/-- The cancelled stream itself loses only what it took and what it waited for. -/
theorem RestsAs.setStream_unwait {st : StreamId} {g h : Group} (hr : RestsAs st g h) (o : StreamId) (x : Option (BitVec 4)) (y : List Nat × List Nat)
    (fs : List PageFault) (an : Option PageFault) :
    RestsAs st g (h.setStream o { (h.stream o).unwait with took := x, tookSets := y, faults := fs, answer := an }) := by
  by_cases ho : st = o
  · subst ho
    unfold RestsAs
    rw [Group.stream_setStream, unwait_of_not_waiting hr.1]
    exact hr
  · unfold RestsAs
    rw [Group.stream_setStream_ne _ _ ho]
    exact hr

theorem RestsAs.cancelStream {st : StreamId} {g h : Group} (hr : RestsAs st g h) (o : StreamId) : RestsAs st g (cancelStream h o) := by
  unfold Machine.cancelStream
  dsimp only
  split
  · exact hr
  · split
    · exact (hr.returnTok o _ _).setStream_unwait o _ _ _ _
    · exact hr.setStream_unwait o _ _ _ _

theorem RestsAs.askStop {st : StreamId} {g : Group} (hw : (g.stream st).waiting = none) (c : BitVec 10) : RestsAs st g (askStop g c) := by
  have hall : ∀ (os : List StreamId) (h : Group), RestsAs st g h → RestsAs st g (os.foldl Machine.cancelStream h) := fun os => by
    induction os with
    | nil => exact fun _ hr => hr
    | cons o os ih => exact fun h hr => ih _ (hr.cancelStream o)
  have hr := hall StreamId.all g ⟨hw, ⟨rfl, rfl, rfl⟩, rfl, rfl⟩
  unfold Machine.askStop cancelStreams
  generalize StreamId.all.foldl Machine.cancelStream g = h at hr ⊢
  exact hr

theorem retiredGroup_syncf (g : Group) (st : StreamId) (r ev : BitVec 4) (t : Stream) : (retiredGroup g st r ev t).syncf = g.syncf := by
  rw [retiredGroup, postEv_eq, placeTok_eq]; rfl

/-- After retirement, and the end of a step, the operands and the sync words are those the instruction left, and SEQ counts it (R49, R387, R405). -/
theorem group_finishAt {s : State} {p : Place} {g : Group} (hg : s.group p = some g) (st : StreamId) (r ev : BitVec 4) :
    ∃ h, (s.finishAt p st r ev).group p = some h ∧ (g.stream st).SameOperands (h.stream st) ∧ (h.stream st).seq = (g.stream st).seq + 1 ∧
      h.syncf = g.syncf := by
  have hret : s.finishAt p st r ev = stepHalt (s.setGroup p (retiredGroup g st r ev (advance s p g (g.stream st)))) p := by
    simp only [State.finishAt, State.retireAt, hg]
    rw [retire_setGroup]
  obtain ⟨h1, h2, h3⟩ := advance_sameOperands s p g (g.stream st)
  have hops : (g.stream st).SameOperands ((retiredGroup g st r ev (advance s p g (g.stream st))).stream st) := by
    rw [retiredGroup_stream]; exact ⟨h1, h2, h3⟩
  have hseq : ((retiredGroup g st r ev (advance s p g (g.stream st))).stream st).seq = (g.stream st).seq + 1 := by
    rw [retiredGroup_stream]; exact congrArg (· + 1) (advance_seq s p g _)
  have hsync := retiredGroup_syncf g st r ev (advance s p g (g.stream st))
  rw [hret]
  generalize hk : retiredGroup g st r ev (advance s p g (g.stream st)) = k at hops hseq hsync
  have hwait : (k.stream st).waiting = none := by rw [← hk, retiredGroup_stream]; rfl
  have hcase : stepHalt (s.setGroup p k) p = s.setGroup p k ∨ stepHalt (s.setGroup p k) p = s.setGroup p (askStop k Cause.step) := by
    unfold stepHalt
    simp only [State.slot_setGroup, State.setGroup_setGroup]
    split
    · split
      · exact .inr rfl
      · exact .inl rfl
    · exact .inl rfl
  obtain hcase | hcase := hcase
  · exact ⟨k, by rw [hcase, State.group_setGroup], hops, hseq, hsync⟩
  · obtain ⟨-, kops, kseq, ksync⟩ := RestsAs.askStop hwait Cause.step
    obtain ⟨h1, h2, h3⟩ := hops
    obtain ⟨k1, k2, k3⟩ := kops
    exact ⟨_, by rw [hcase, State.group_setGroup], ⟨k1.trans h1, k2.trans h2, k3.trans h3⟩, kseq.trans hseq, ksync.trans hsync⟩

/-! ## A value taken as the instruction issues (R65, R440) -/

/-- A stream with a value on its way to x(d), which is empty until it arrives. -/
structure TookValue (t u : Stream) (d : BitVec 6) (v now : BitVec 64) : Prop where
  arrivals : u.arrivals = t.arrivals ++ [(d, v, some (t.issuedAt now))]
  empty : d ≠ 0 → u.isFull d = false
  seq : u.seq = t.seq

theorem isFull_markEmpty {t : Stream} {d : BitVec 6} (h : d ≠ 0) : (t.markEmpty d).isFull d = false := by
  have h0 : ¬ d = 0#6 := h
  rw [Stream.markEmpty, if_neg h0]
  simpa [Stream.isFull, d.isLt] using h0

theorem isFull_leftByLoad (t : Stream) (d i : BitVec 6) : (t.leftByLoad d).isFull i = t.isFull i := by
  unfold Stream.leftByLoad
  split <;> rfl

theorem arrivals_leftByLoad (t : Stream) (d : BitVec 6) : (t.leftByLoad d).arrivals = t.arrivals := by
  unfold Stream.leftByLoad
  split <;> rfl

theorem seq_leftByLoad (t : Stream) (d : BitVec 6) : (t.leftByLoad d).seq = t.seq := by
  unfold Stream.leftByLoad
  split <;> rfl

theorem seq_markEmpty (t : Stream) (d : BitVec 6) : (t.markEmpty d).seq = t.seq := by
  unfold Stream.markEmpty
  split <;> rfl

theorem tookValue_of_take (t : Stream) (d : BitVec 6) (v now : BitVec 64) (p : Place) (st : StreamId) (scope : Nat) (met : List (Place × List Nat)) :
    TookValue t (((t.arriveLater d v now).leftByLoad d).acquire p st scope met) d v now where
  arrivals := arrivals_leftByLoad (t.arriveLater d v now) d
  empty h := (isFull_leftByLoad (t.arriveLater d v now) d d).trans (isFull_markEmpty (t := t) h)
  seq := (seq_leftByLoad (t.arriveLater d v now) d).trans (seq_markEmpty t d)

/-- What a stream has read from others does not matter to the value on its way (R94). -/
theorem TookValue.of_sets {t u : Stream} {d : BitVec 6} {v now : BitVec 64} {cum : List Nat} {seen : List (Place × List Nat)}
    (h : TookValue { t with cum := cum, seen := seen } u d v now) : TookValue t u d v now where
  arrivals := h.arrivals
  empty := h.empty
  seq := h.seq

/-- A value read from lines that are not poisoned is on its way to x(d). -/
theorem takeValue_of_clean {d : BitVec 6} {l : Loc} {scope : Nat} {run : ReadRun} (e : Env) (s : State) (g : Group) (h : run.bad = []) :
    ∃ u, takeValue d l scope run e s g = s.setGroup e.p (g.setStream e.st u) ∧
      TookValue (g.stream e.st) u d (BitVec.ofNat 64 (leNat run.bytes)) e.now := by
  rw [takeValue, if_neg (fun hb => hb.1 h), if_pos h]
  exact ⟨_, rfl, TookValue.of_sets (tookValue_of_take _ d _ _ e.p e.st scope (pairedWith s e.p e.st (foreignLocs e.t l 8)))⟩

/-- A run without a poisoned line gives the bytes that the stream reads. -/
theorem readRun_bytes_of_clean {s : State} {p : Place} {g : Group} {t : Stream} {n : Nat} {l : Loc} {k : Nat} (h : (readRun s p g t n l k).bad = []) :
    (readRun s p g t n l k).bytes = (List.range k).map (fun i => streamByte s p g t n (l.plus i)) := by
  have hb : ((List.range k).map l.plus).filter (fun x => fromHome s p t n x && locPoisoned s p g x) = [] := h
  simp only [readRun, hb, List.contains_nil, Bool.false_eq_true, if_false, List.map_map]
  rfl

/-- Nothing follows the retirement of a read that met no poisoned line. -/
theorem poisonAfter_of_clean {bad : Env → Bool} {e : Env} (h : bad e = false) (u : State) : poisonAfter bad e u = u := by
  rw [poisonAfter, h]
  rfl

/-- An instruction that takes a value retires with it on its way, its destination empty. -/
theorem finishAt_of_tookValue {u : State} {p : Place} {h : Group} {st : StreamId} {t0 t : Stream} {r ev : BitVec 4} {d : BitVec 6} {v now : BitVec 64}
    (ht : TookValue t0 t d v now) :
    ∃ g', ((u.setGroup p (h.setStream st t)).finishAt p st r ev).group p = some g' ∧
      (g'.stream st).arrivals = t0.arrivals ++ [(d, v, some (t0.issuedAt now))] ∧ (d ≠ 0 → (g'.stream st).isFull d = false) ∧
      (g'.stream st).seq = t0.seq + 1 ∧ g'.syncf = h.syncf := by
  obtain ⟨g', hg', hops, hseq, hsync⟩ := group_finishAt (State.group_setGroup u p (h.setStream st t)) st r ev
  rw [Group.stream_setStream] at hops hseq
  exact ⟨g', hg', hops.2.2.trans ht.arrivals, fun hd => (hops.isFull d).trans (ht.empty hd), hseq.trans (congrArg (· + 1) ht.seq), hsync⟩

/-! ## WAITA (R218) -/

/-- The state after the read of WAITA: a location in memory has touched an L2. -/
def waitaTouched (e : Env) (s : State) (va : BitVec 64) : Target → State
  | .mem pa _ => l2Touch s pa (some (e.g.lr.asid, va.toNat)) false false
  | _ => s

section
variable {e : Env} {d a b : BitVec 6} (hf : e.t.fulls [a, b]) (hd : e.t.isFull d = true)
include hf hd

theorem waita_misaligned (h : (e.t.getX a).toNat % 8 ≠ 0) : waita d a b e = .trap (Trap.at Cause.memAlign (e.t.getX a) 0) := by
  rw [waita, reads_of_fulls hf, writes_of_full hd]
  exact if_pos h

variable (h : (e.t.getX a).toNat % 8 = 0) {s2 : State}
include h

theorem waita_dcr {die : DieId} {off : Nat} (hr : reach e (e.t.getX a) 0 false = .ok s2 (.dcr die off)) :
    waita d a b e = .trapIn s2 (Trap.at Cause.dcrSize (e.t.getX a) 0) := by
  rw [waita, reads_of_fulls hf, writes_of_full hd]
  dsimp only
  rw [if_neg (by omega), hr]

/-- WAITA that holds the head of the load queue goes by the word it reads. -/
theorem waita_reads {s3 : State} {tgt : Target} (hr : reach e (e.t.getX a) 0 false = .ok s2 tgt) (ht : ∀ die off, tgt ≠ .dcr die off)
    (hturn : loadTurn s2 e.p e.t = true) (hlock : tgt.loc.locked s2 e.p 8 = false) (hready : readyPages s2 e.p e.g [tgt.loc] = .ready s3)
    (hbad : (readRun s3 e.p e.g e.t e.t.storesIn tgt.loc 8).bad = []) :
    waita d a b e =
      if BitVec.ofNat 64 (leNat (readRun s3 e.p e.g e.t e.t.storesIn tgt.loc 8).bytes) = e.t.getX b then
        .done (takeValue d tgt.loc 5 (readRun s3 e.p e.g e.t e.t.storesIn tgt.loc 8) e
          (waitaTouched e s3 (e.t.getX a) tgt) e.g)
      else e.waitFor s3 (e.g.setStream e.st (e.t.leftByLoad d)) .other d := by
  have hgo : ¬ (!loadTurn s2 e.p e.t || tgt.loc.locked s2 e.p 8) = true := by rw [hturn, hlock]; decide
  have hclean (q : Prop) : (((readRun s3 e.p e.g e.t e.t.storesIn tgt.loc 8).bad ≠ [] ∧ e.g.lr.ecc ≠ 1#2) ∨ q) = q :=
    propext ⟨fun k => k.resolve_left (fun k => k.1 hbad), .inr⟩
  rw [waita, reads_of_fulls hf, writes_of_full hd]
  dsimp only
  rw [if_neg (by omega), hr]
  cases tgt with
  | dcr die off => exact absurd rfl (ht die off)
  | _ =>
    dsimp only
    rw [if_neg hgo, hready]
    dsimp only
    simp only [hclean] <;> rfl

end

/-! ## FENCE (R219) and EPOP (R220) -/

/-- EPOP of an engine goes by its oldest result (R220). -/
theorem execEpop_of_full {s : State} {g : Group} {r : BitVec 4} {d : BitVec 6} {n : BitVec 4} (hc : CanRun s g anyStream r)
    (hd : (s.env g r).t.isFull d = true) (h : n.toNat < 5) :
    exec (.epop r d n) s = plain anyStream r 0 (fun e => match e.g.rq[n.toNat] with
      | [] => e.waitFor e.s e.g (.result n.toNat) d
      | x :: rest => if outrun e.g e.st (.result n.toNat) then e.waitFor e.s e.g (.result n.toNat) d
        else .done (e.s.setGroup e.p ({ e.g with rq := e.g.rq.set n.toNat rest }.setStream e.st (e.t.arrive d x)))) s := by
  show execEpop r d n s = _
  unfold execEpop
  refine plain_congr hc ?_
  rw [writes_of_full hd, dif_pos h] <;> rfl

/-- Settles O26: each of the three by the condition it waits for. -/
theorem waitsFencesAndPopsComplete : Obligations.WaitsFencesAndPopsComplete := by
  unfold Obligations.WaitsFencesAndPopsComplete
  intro s s2 s3 g r d a b hc hfull e A waits
  have hf : e.t.fulls [a, b] := fulls_env_of_subset hfull (by simp)
  have hd : e.t.isFull d = true := isFull_env_of_mem hfull (by simp)
  have hA : e.t.getX a = A := getX_taken s g r a
  have hB : e.t.getX b = (s.here g).getX b := getX_taken s g r b
  refine ⟨fun h => ?_, fun die off h hr => ?_, fun tgt h hr ht hturn hlock hready hrun hbad => ?_, fun sc k => ?_, fun n hn => ?_⟩
  · rw [← hA] at h ⊢
    exact plainThen_trap hc (waita_misaligned hf hd h)
  · rw [← hA] at h hr ⊢
    exact plainThen_trapIn hc (waita_dcr hf hd h hr)
  · intro v
    have hbody := waita_reads (b := b) hf hd (by rw [hA]; exact h) (by rw [hA]; exact hr) ht hturn hlock hready hbad
    rw [readRun_bytes_of_clean hbad, hB] at hbody
    refine ⟨fun hv hcut => plainThen_wait hc hcut (hbody.trans (if_neg hv)), fun hv => ?_⟩
    have hafter : ∀ u, poisonAfter (fun e => (waitaRun a e).bad != []) e u = u :=
      poisonAfter_of_clean (by show ((waitaRun a e).bad != []) = false; rw [hrun]; rfl)
    have hex := plainThen_finishAt (ev := 0) hc (hbody.trans (if_pos hv)) hafter
    obtain ⟨u, htake, htook⟩ := takeValue_of_clean (d := d) (l := tgt.loc) (scope := 5) e
      (waitaTouched e s3 (e.t.getX a) tgt) e.g hbad
    rw [htake] at hex
    rw [readRun_bytes_of_clean hbad] at htook
    obtain ⟨g', hg', h1, h2, h3, -⟩ := finishAt_of_tookValue (p := s.curPlace) (h := e.g) (r := r) (ev := 0) htook
    have ht0 : e.g.stream e.st = _ := env_t s g r
    rw [ht0] at h1 h3
    exact ⟨_, g', hex, hg', h1, h2, h3⟩
  · intro acq rel t1 t2 done
    have hcond : ((!acq || e.t.loads.isEmpty) && (!rel || releaseDone e.s e.p t1 sc.toNat)) = true ↔ done := by
      have hloads : e.t.loads = (s.here g).loads := by rw [show e.t = _ from env_t s g r]
      have himp (x y : Bool) : (!x || y) = true ↔ (x = true → y = true) := by cases x <;> simp
      rw [Bool.and_eq_true, himp, himp, List.isEmpty_iff, hloads]
    exact ⟨fun h => plain_finish hc (if_pos (hcond.2 h)), fun h hcut => plain_wait hc hcut (if_neg (fun k => h (hcond.1 k)))⟩
  · have hrq : e.g.rq = g.rq := rfl
    refine ⟨fun h hcut => ?_, fun x rest hx hout => ?_⟩
    · rw [execEpop_of_full hc hd hn]
      refine plain_wait hc hcut ?_
      dsimp only
      split
      · rfl
      · rename_i x rest hx
        obtain h | h := h
        · exact absurd (hx.symm.trans h) (by simp)
        · exact if_pos h
    · rw [execEpop_of_full hc hd hn]
      refine plain_finish hc ?_
      dsimp only
      rw [show (s.env g r).g.rq[n.toNat] = x :: rest from hx]
      exact if_neg (by rw [show outrun _ _ _ = false from hout]; decide)

end Sys2Proof.Machine
end

section
/-! PROOFS. LDS and STF (R65, R105, R106, R109, R217). -/

namespace Sys2Proof.Machine

open Sys2Proof

/-! ## The sync word that an address names (R105, R217) -/

theorem syncWord_outside {va : BitVec 64} (kind : BitVec 2) (h : inWindow va = false ∨ 65536 ≤ va.toNat - windowBase) :
    syncWord va kind = .error (Trap.at Cause.feRange va kind) := if_pos h

theorem syncWord_misaligned {va : BitVec 64} (kind : BitVec 2) (hw : inWindow va = true) (ho : va.toNat - windowBase < 65536) (h : va.toNat % 8 ≠ 0) :
    syncWord va kind = .error (Trap.at Cause.memAlign va kind) := by
  rw [syncWord, if_neg (by rintro (k | k); exacts [Bool.false_ne_true (k.symm.trans hw), by omega]), if_pos h]

theorem syncWord_aligned {va : BitVec 64} (kind : BitVec 2) (hw : inWindow va = true) (ho : va.toNat - windowBase < 65536) (h : va.toNat % 8 = 0) :
    syncWord va kind = .ok (va.toNat - windowBase) := by
  rw [syncWord, if_neg (by rintro (k | k); exacts [Bool.false_ne_true (k.symm.trans hw), by omega]), if_neg (by omega)]

/-! ## LDS -/

section
variable {e : Env} {d a : BitVec 6} (hf : e.t.fulls [a]) (hd : e.t.isFull d = true)
include hf hd

theorem lds_of_bad_address {x : Trap} (h : syncWord (e.t.getX a) 0 = .error x) : lds d a e = .trap x := by
  rw [lds, reads_of_fulls hf, writes_of_full hd, h]

variable {off : Nat} (h : syncWord (e.t.getX a) 0 = .ok off)
include h

theorem lds_of_dead_page (hdead : windowDead e.s e.p e.g off = true) : lds d a e = .trap (Trap.at Cause.paNodie (e.t.getX a) 0) := by
  rw [lds, reads_of_fulls hf, writes_of_full hd, h]
  exact if_pos hdead

variable (hdead : windowDead e.s e.p e.g off = false) (hturn : loadTurn e.s e.p e.t = true) (hlock : bankLocked e.s e.p none off 8 = false)
include hdead hturn hlock

/-- LDS that holds the head of the load queue goes by the state of the word (R105, R109). -/
theorem lds_at_head : lds d a e =
    if !e.g.syncf.getLsbD (off / 8) || outrun e.g e.st (.word off) then e.waitFor e.s (e.g.setStream e.st (e.t.leftByLoad d)) (.word off) d
    else match ensureFrame e.s e.p e.g (pageOf off) with
      | .wait s => e.waitFor s (e.g.setStream e.st (e.t.leftByLoad d)) .other d
      | .ready s => .done (takeValue d (.spad off) 0 (readRun s e.p e.g e.t e.t.storesIn (.spad off) 8) e s
          { e.g with syncf := e.g.syncf &&& ~~~(1#8192 <<< (off / 8)) }) := by
  rw [lds, reads_of_fulls hf, writes_of_full hd, h]
  dsimp only
  rw [if_neg (by rw [hdead]; decide), if_neg (by rw [hturn, hlock]; decide)] <;> rfl

end

/-! ## STF -/

section
variable {e : Env} {x a : BitVec 6} (hf : e.t.fulls [x, a])
include hf

theorem stf_of_bad_address {c : Trap} (h : syncWord (e.t.getX a) 1 = .error c) : stf x a e = .trap c := by
  rw [stf, reads_of_fulls hf, h]

variable {off : Nat} (h : syncWord (e.t.getX a) 1 = .ok off)
include h

theorem stf_of_dead_page (hdead : windowDead e.s e.p e.g off = true) : stf x a e = .trap (Trap.at Cause.paNodie (e.t.getX a) 1) := by
  rw [stf, reads_of_fulls hf, h]
  exact if_pos hdead

/-- STF of a word whose page is allocated goes by the state of the word and of the earlier stores (R105, R106). -/
theorem stf_of_allocated (hdead : windowDead e.s e.p e.g off = false) (halloc : (e.g.pages.get (pageOf off)).alloc = true) : stf x a e =
    if e.g.syncf.getLsbD (off / 8) || !storeTurn e.s e.p e.t || !releaseDone e.s e.p e.t 0 || bankLocked e.s e.p none off 8 then
      .wait (e.s.setGroup e.p e.g)
    else match ensureFrame e.s e.p e.g (pageOf off) with
      | .wait s => .wait s
      | .ready s => .done ((publish (spadWrite s e.p e.g off (leBytes 8 (e.t.getX x).toNat)) e.p e.st e.t 0 [(.spad off, 8)]).setGroup e.p
          { e.g with syncf := e.g.syncf ||| (1#8192 <<< (off / 8)) }) := by
  rw [stf, reads_of_fulls hf, h]
  dsimp only
  rw [if_neg (by rw [hdead]; decide), allocPage, if_pos halloc] <;> rfl

end

/-- Emptying a sync word keeps the state of every other (R105). -/
theorem getLsbD_clear_word (v : BitVec 8192) {w : Nat} (hw : w < 8192) (k : Nat) :
    (v &&& ~~~(1#8192 <<< w)).getLsbD k = if k = w then false else v.getLsbD k := by
  by_cases hk : k < 8192
  · have : (k < w ∨ ¬ k - w = 0) ↔ k ≠ w := by omega
    by_cases hkw : k = w
    · simp [hkw, hw]
    · simp only [BitVec.getLsbD_and, BitVec.getLsbD_not, BitVec.getLsbD_shiftLeft, BitVec.getLsbD_one, hk, hkw, if_false, decide_true, Bool.true_and]
      by_cases hlt : k < w
      · simp [hlt]
      · simp [hlt, show ¬ k - w = 0 by omega]
  · rw [BitVec.getLsbD_of_ge _ _ (by omega), BitVec.getLsbD_of_ge _ _ (by omega), ite_self]

/-- Settles O25: the causes by the address, then the waits and the completions by the state of the word. -/
theorem fullEmptyWordAccessesComplete : Obligations.FullEmptyWordAccessesComplete := by
  unfold Obligations.FullEmptyWordAccessesComplete
  intro s s2 g r d x a hc hfull e A off dead
  have hfa : e.t.fulls [a] := fulls_env_of_subset hfull (by simp)
  have hfxa : e.t.fulls [x, a] := fulls_env_of_subset hfull (by simp)
  have hd : e.t.isFull d = true := isFull_env_of_mem hfull (by simp)
  have hA : e.t.getX a = A := getX_taken s g r a
  have hX : e.t.getX x = (s.here g).getX x := getX_taken s g r x
  refine ⟨fun h => ⟨?_, ?_⟩, fun hw ho hal => ⟨?_, ?_⟩, fun hw ho hal hdead => ⟨?_, ?_⟩, fun hw ho hal hdead hcut hturn hlock hword => ?_,
    fun hw ho hal hdead hcut hword halloc => ?_, fun hw ho hal hdead hlock hready =>
      ⟨fun hword hout hturn hrun hbad => ?_, fun hword hturn hrel halloc => ?_⟩⟩
  · exact plainThen_trap hc (lds_of_bad_address hfa hd (by rw [hA]; exact syncWord_outside 0 h))
  · exact plain_trap hc (stf_of_bad_address hfxa (by rw [hA]; exact syncWord_outside 1 h))
  · exact plainThen_trap hc (lds_of_bad_address hfa hd (by rw [hA]; exact syncWord_misaligned 0 hw ho hal))
  · exact plain_trap hc (stf_of_bad_address hfxa (by rw [hA]; exact syncWord_misaligned 1 hw ho hal))
  all_goals
    have hlds : syncWord (e.t.getX a) 0 = .ok off := by rw [hA]; exact syncWord_aligned 0 hw ho hal
    have hstf : syncWord (e.t.getX a) 1 = .ok off := by rw [hA]; exact syncWord_aligned 1 hw ho hal
  · exact hA ▸ plainThen_trap hc (lds_of_dead_page hfa hd hlds hdead)
  · exact hA ▸ plain_trap hc (stf_of_dead_page hfxa hstf hdead)
  · refine plainThen_wait hc hcut ((lds_at_head hfa hd hlds hdead hturn hlock).trans (if_pos ?_))
    rw [Bool.or_eq_true, Bool.not_eq_true']
    exact hword
  · have hwait := plain_wait (ev := 0) hc hcut ((stf_of_allocated hfxa hstf hdead halloc).trans (if_pos (by rw [show e.g.syncf.getLsbD (off / 8) = true from hword]; rfl)))
    rwa [show e.s.setGroup e.p e.g = s.began g r from State.setGroup_setGroup s _ _ _] at hwait
  · intro v
    have hgo : ¬ (!e.g.syncf.getLsbD (off / 8) || outrun e.g e.st (.word off)) = true := by
      rw [show e.g.syncf.getLsbD (off / 8) = true from hword, hout]; decide
    have hbody := (lds_at_head hfa hd hlds hdead hturn hlock).trans (if_neg hgo)
    rw [hready] at hbody
    obtain ⟨u, htake, htook⟩ := takeValue_of_clean (d := d) (l := .spad off) (scope := 0) e s2
      { e.g with syncf := e.g.syncf &&& ~~~(1#8192 <<< (off / 8)) } hbad
    have hafter : ∀ u, poisonAfter (fun e => (ldsRun a e).bad != []) e u = u :=
      poisonAfter_of_clean (by show ((ldsRun a e).bad != []) = false; rw [hrun]; rfl)
    have hex := plainThen_finishAt (ev := 0) hc (hbody.trans (congrArg Act.done htake)) hafter
    rw [readRun_bytes_of_clean hbad] at htook
    obtain ⟨g', hg', h1, h2, h3, h4⟩ := finishAt_of_tookValue (u := s2) (p := s.curPlace)
      (h := { e.g with syncf := e.g.syncf &&& ~~~(1#8192 <<< (off / 8)) }) (r := r) (ev := 0) htook
    have ht0 : ({ e.g with syncf := e.g.syncf &&& ~~~(1#8192 <<< (off / 8)) } : Group).stream e.st = _ := env_t s g r
    rw [ht0] at h1 h3
    exact ⟨_, g', hex, hg', h1, h2, h3, fun k => by rw [h4]; exact getLsbD_clear_word g.syncf (by omega) k⟩
  · have hgo : ¬ (e.g.syncf.getLsbD (off / 8) || !storeTurn e.s e.p e.t || !releaseDone e.s e.p e.t 0 || bankLocked e.s e.p none off 8) = true := by
      rw [show e.g.syncf.getLsbD (off / 8) = false from hword, hturn, hrel, hlock]; decide
    have hbody := (stf_of_allocated hfxa hstf hdead halloc).trans (if_neg hgo)
    rw [hready, hX] at hbody
    exact plain_finish hc hbody

end Sys2Proof.Machine
end

section
/-! PROOFS. What requests at an L2 and writes at home points leave as it was: every byte they do not name, as long as it does not depend on an older key
(R22, R75, R86, R368, R369), and all that does not belong to the home points. -/

namespace Sys2Proof.Machine

open Sys2Proof

/-! ## The cores, the clusters and the scratchpad -/

/-- The second state differs from the first at the home points and in what the Dawn keeps, with no new poison and no new key epoch. -/
structure HomeSide (s t : State) : Prop where
  cores : t.cores = s.cores
  clusters : t.clusters = s.clusters
  sram : t.sram = s.sram
  epoch : t.dawn.epoch = s.dawn.epoch
  poison : t.poison ⊆ s.poison

theorem HomeSide.refl (s : State) : HomeSide s s := ⟨rfl, rfl, rfl, rfl, List.Subset.refl _⟩

theorem HomeSide.trans {s t u : State} (h : HomeSide s t) (k : HomeSide t u) : HomeSide s u :=
  ⟨k.cores.trans h.cores, k.clusters.trans h.clusters, k.sram.trans h.sram, k.epoch.trans h.epoch, List.Subset.trans k.poison h.poison⟩

/-- What each step of a fold keeps, from any state that has a property the steps keep, the fold keeps. -/
theorem foldl_relates {α : Type} {R : State → State → Prop} (hr : ∀ s, R s s) (ht : ∀ {s t u}, R s t → R t u → R s u) {f : State → α → State} {l : List α}
    {s : State} (hf : ∀ t, ∀ x ∈ l, R s t → R t (f t x)) : R s (l.foldl f s) :=
  List.foldlRecOn (motive := fun t => R s t) l f (hr s) (fun t h x hx => ht h (hf t x hx h))

theorem homeSide_foldl {α : Type} {f : State → α → State} (hf : ∀ t x, HomeSide t (f t x)) (l : List α) (s : State) : HomeSide s (l.foldl f s) :=
  foldl_relates HomeSide.refl HomeSide.trans (fun t x _ _ => hf t x)

theorem homeSide_refreshLine (s : State) (line : Nat) : HomeSide s (refreshLine s line) := by
  unfold refreshLine; dsimp only; split <;> exact ⟨rfl, rfl, rfl, rfl, List.Subset.refl _⟩

theorem homeSide_dirtyLine (s : State) (pa : Nat) : HomeSide s (dirtyLine s pa) := by
  unfold dirtyLine; split <;> exact ⟨rfl, rfl, rfl, rfl, List.Subset.refl _⟩

theorem homeSide_putHome (s : State) (pa : Nat) (bs : List Byte) : HomeSide s (putHome s pa bs) := by
  refine ((homeSide_refreshLine s (pa / 128)).trans (homeSide_dirtyLine _ pa)).trans ⟨rfl, rfl, rfl, rfl, ?_⟩
  dsimp only [putHome]
  split
  · exact List.filter_subset_self ..
  · exact List.Subset.refl _

theorem homeSide_logErr (s : State) (e : ErrRec) : HomeSide s (logErr s e) := by
  unfold logErr
  generalize e.dwords = ds
  unfold logDwords
  split
  · exact ⟨rfl, rfl, rfl, rfl, List.Subset.refl _⟩
  · dsimp only
    have hrec := homeSide_putHome s (dawnAddr (0x20000000 + 0x40 + 64 * (s.dawn.logNext.toNat % 16383))) (dwordBytes ds)
    generalize putHome s _ (dwordBytes ds) = u at hrec ⊢
    have hnext := homeSide_putHome u (dawnAddr 0x20000008) (leBytes 8 (u.dawn.logNext + 1).toNat)
    generalize putHome u _ _ = v at hnext ⊢
    exact (hrec.trans hnext).trans ⟨rfl, rfl, rfl, rfl, List.Subset.refl _⟩

theorem homeSide_watchFill (s : State) (w : Watch) (touched : Nat → Bool) : HomeSide s (watchFill s w touched) := by
  unfold watchFill
  dsimp only
  split
  · have hfresh : HomeSide s { s with fresh := s.fresh + 1 } := ⟨rfl, rfl, rfl, rfl, List.Subset.refl _⟩
    exact hfresh.trans (homeSide_logErr _ _)
  · exact .refl s

theorem homeSide_pushTask (s : State) (t : Task) : HomeSide s (pushTask s t) := by
  unfold pushTask; split <;> exact ⟨rfl, rfl, rfl, rfl, List.Subset.refl _⟩

theorem homeSide_watchHits (s : State) (d : DieId) (touched : Nat → Bool) : HomeSide s (watchHits s d touched) := by
  have hfill := homeSide_foldl (fun t (w : Watch) => homeSide_watchFill t w touched) (s.dies.get d).watch s
  have hpush := homeSide_foldl (fun t (w : Watch) => homeSide_pushTask t { dws := w.task, asid := w.asid, lid := w.owner, no := 0 })
    ((s.dies.get d).watch.filter (fun w => watchMatch s w touched)) ((s.dies.get d).watch.foldl (fun s w => watchFill s w touched) s)
  exact (hfill.trans hpush).trans ⟨rfl, rfl, rfl, rfl, List.Subset.refl _⟩

theorem homeSide_watchTest (s : State) (pa : Nat) (touched : Nat → Bool) : HomeSide s (watchTest s pa touched) := by
  unfold watchTest
  split
  · split
    · exact .refl s
    · exact homeSide_watchHits _ _ _
  · exact .refl s

theorem homeSide_homeWrite (s : State) (pa : Nat) (bs : List Byte) : HomeSide s (homeWrite s pa bs) :=
  (homeSide_putHome s pa bs).trans (homeSide_watchTest _ _ _)

theorem homeSide_homeWriteLine (s : State) (line : Nat) (bs : List (Nat × Byte)) : HomeSide s (homeWriteLine s line bs) := by
  have hput := homeSide_foldl (fun t (b : Nat × Byte) => homeSide_putHome t (128 * line + b.1) [b.2]) bs s
  refine (hput.trans ?_).trans (homeSide_watchTest _ _ _)
  split
  · exact ⟨rfl, rfl, rfl, rfl, List.filter_subset_self ..⟩
  · exact .refl _

theorem homeSide_homeWriteAll (s : State) (bs : List (Nat × Byte)) : HomeSide s (homeWriteAll s bs) := by
  cases bs with
  | nil => exact .refl s
  | cons b bs => exact (homeSide_foldl (fun t (b : Nat × Byte) => homeSide_putHome t b.1 [b.2]) (b :: bs) s).trans (homeSide_watchTest _ _ _)

theorem homeSide_setL2 (s : State) (d : DieId) (die : Die) : HomeSide s (setL2 s d die) := by
  have hback : HomeSide s (writtenBack (s.setDie d die) d (s.dies.get d).l2) := by
    unfold writtenBack; split <;> exact ⟨rfl, rfl, rfl, rfl, List.Subset.refl _⟩
  refine hback.trans ?_
  rw [setL2]
  unfold shedPoison
  dsimp only
  split
  · exact .refl _
  · exact ⟨rfl, rfl, rfl, rfl, List.filter_subset_self ..⟩

theorem homeSide_l2Touch (s : State) (pa : Nat) (tag : ReqTag) (ef write : Bool) : HomeSide s (l2Touch s pa tag ef write) := by
  unfold l2Touch
  split
  · exact (homeSide_refreshLine s _).trans (homeSide_setL2 _ _ _)
  · exact .refl s

theorem homeSide_l2Run (s : State) (pa n : Nat) (tag : ReqTag) (ef write : Bool) : HomeSide s (l2Run s pa n tag ef write) :=
  homeSide_foldl (fun t _ => homeSide_l2Touch t _ _ _ _) _ s

/-! ## A byte that is kept -/

/-- The byte at an address reads as before, and goes on not to depend on an older key, if it did not depend on one. -/
structure Keeps (a : Nat) (s t : State) : Prop where
  settled : keySettled s a → keySettled t a
  byte : keySettled s a → homeByte t a = homeByte s a

theorem Keeps.refl (a : Nat) (s : State) : Keeps a s s := ⟨id, fun _ => rfl⟩

theorem Keeps.trans {a : Nat} {s t u : State} (h : Keeps a s t) (k : Keeps a t u) : Keeps a s u :=
  ⟨fun hs => k.settled (h.settled hs), fun hs => (k.byte (h.settled hs)).trans (h.byte hs)⟩

/-- Whether an address lies in a range of HBM that may be encrypted (R19, R368). -/
def Encrypted (a : Nat) : Prop := a / 2 ^ 48 < 4 ∧ a % 2 ^ 48 < 0x3000000000

theorem otherKey_iff (s : State) (a : Nat) : otherKey s a = true ↔ Encrypted a ∧ epochOf s (a / 128) ≠ epochNow s a ∧ inL2 s a = false := by
  simp only [otherKey, Bool.and_eq_true, decide_eq_true_eq, bne_iff_ne, Bool.not_eq_true', Encrypted, and_assoc]

theorem otherKey_eq_false_of_epoch {s : State} {a : Nat} (h : epochOf s (a / 128) = epochNow s a) : otherKey s a = false :=
  Bool.eq_false_iff.2 (fun k => ((otherKey_iff s a).1 k).2.1 h)

/-- A byte of HBM whose line is of the key in force, or elsewhere, is what memory holds; one outside the boot ROM. -/
theorem homeByte_of_not_otherKey {s t : State} {a : Nat} (hs : otherKey s a = false) (ht : otherKey t a = false)
    (hm : readByte t.mem a = readByte s.mem a) : homeByte t a = homeByte s a := by
  rw [homeByte, homeByte, hs, ht, hm]
  simp only [Bool.false_eq_true, if_false]

/-- The line of a byte keeps its contents and its epoch, but that it may have been written back; and the L2 has taken in no line of an older key. -/
theorem Keeps.of_line {a : Nat} {s t : State} (hm : ∀ b, b / 128 = a / 128 → readByte t.mem b = readByte s.mem b) (hk : t.dawn.epoch = s.dawn.epoch)
    (he : epochOf t (a / 128) = epochOf s (a / 128) ∨ (inL2 s a = true ∧ epochOf t (a / 128) = epochNow s a))
    (hl : inL2 t a = true → inL2 s a = true ∨ epochOf s (a / 128) = epochNow s a) : Keeps a s t := by
  have hnow : epochNow t a = epochNow s a := by rw [epochNow, epochNow, hk]
  have hbyte : readByte t.mem a = readByte s.mem a := hm a rfl
  by_cases henc : Encrypted a
  · by_cases hcur : epochOf s (a / 128) = epochNow s a
    · have hcurT : epochOf t (a / 128) = epochNow t a := by
        obtain he | ⟨-, he⟩ := he
        · rw [he, hcur, hnow]
        · rw [he, hnow]
      exact ⟨fun _ _ _ _ => hcurT, fun _ => homeByte_of_not_otherKey (otherKey_eq_false_of_epoch hcur) (otherKey_eq_false_of_epoch hcurT) hbyte⟩
    · have hout : keySettled s a → inL2 s a = false := fun hs => Bool.eq_false_iff.2 (fun k => hcur (hs henc.1 henc.2 k))
      have houtT : keySettled s a → inL2 t a = false := fun hs => Bool.eq_false_iff.2 (fun k => (hl k).elim
        (fun k => Bool.false_ne_true ((hout hs).symm.trans k)) hcur)
      refine ⟨fun hs _ _ k => absurd ((houtT hs).symm.trans k) Bool.false_ne_true, fun hs => ?_⟩
      have heT : epochOf t (a / 128) = epochOf s (a / 128) := he.elim id (fun k => absurd ((hout hs).symm.trans k.1) Bool.false_ne_true)
      have hother : otherKey s a = true := (otherKey_iff s a).2 ⟨henc, hcur, hout hs⟩
      have hotherT : otherKey t a = true := (otherKey_iff t a).2 ⟨henc, by rwa [heT, hnow], houtT hs⟩
      have hbytes : readBytes t.mem (a / 128 * 128) 128 = readBytes s.mem (a / 128 * 128) 128 :=
        List.map_congr_left (fun i hi => hm _ (by have := List.mem_range.1 hi; omega))
      rw [homeByte, homeByte, hother, hotherT, hbytes, heT, hnow, hbyte]
  · have hno : ∀ u : State, otherKey u a = false := fun u => Bool.eq_false_iff.2 (fun k => henc ((otherKey_iff u a).1 k).1)
    exact ⟨fun _ h1 h2 _ => absurd ⟨h1, h2⟩ henc, fun _ => homeByte_of_not_otherKey (hno s) (hno t) hbyte⟩

/-- With the same memory, epochs and lines in the L2 every byte is kept. -/
theorem Keeps.of_eq {a : Nat} {s t : State} (hm : t.mem = s.mem) (he : t.epochs = s.epochs) (hk : t.dawn.epoch = s.dawn.epoch) (hl : inL2 t a = inL2 s a) :
    Keeps a s t :=
  .of_line (fun b _ => by rw [hm]) hk (.inl (by simp only [epochOf, he])) (fun h => .inl (hl ▸ h))

theorem keeps_foldl {α : Type} {a : Nat} {f : State → α → State} {l : List α} (hf : ∀ t, ∀ x ∈ l, Keeps a t (f t x)) (s : State) : Keeps a s (l.foldl f s) :=
  foldl_relates (Keeps.refl a) Keeps.trans (fun t x hx _ => hf t x hx)

/-! ## Lines of an older key, and dirty lines -/

/-- A line that is written anew reads as before: it holds what it decrypted to (R369). -/
theorem readByte_refreshLine_self {s : State} {a : Nat} (h : otherKey s a = true) : readByte (refreshLine s (a / 128)).mem a = homeByte s a := by
  have hline : otherKey s (a / 128 * 128) = true := (otherKey_lineStart s a).trans h
  have hlen : a % 128 < (homeBytes s (a / 128 * 128) 128).length := by
    simp only [homeBytes, List.length_map, List.length_range]; omega
  have hput := readByte_splice_inside s.mem (a / 128 * 128) _ (a % 128) hlen
  have ha : a / 128 * 128 + a % 128 = a := by omega
  simp only [homeBytes, List.getElem_map, List.getElem_range, ha] at hput
  unfold refreshLine
  dsimp only
  rw [if_pos hline]
  exact hput

theorem keeps_refreshLine (a : Nat) (s : State) (line : Nat) : Keeps a s (refreshLine s line) := by
  by_cases hself : line = a / 128
  · subst hself
    by_cases hother : otherKey s a = true
    · have henc := ((otherKey_iff s a).1 hother).1
      have hnot := otherKey_refreshLine_self s a
      refine ⟨fun _ _ _ hin => ?_, fun _ => ?_⟩
      · have hl : inL2 (refreshLine s (a / 128)) a = inL2 s a := by unfold refreshLine; dsimp only; split <;> rfl
        rw [hl, ((otherKey_iff s a).1 hother).2.2] at hin
        exact absurd hin Bool.false_ne_true
      · rw [homeByte, if_neg (fun k => absurd henc.1 (by omega)), hnot, if_neg Bool.false_ne_true]
        exact readByte_refreshLine_self hother
    · have hline : otherKey s (a / 128 * 128) = false := (otherKey_lineStart s a).trans (Bool.eq_false_iff.2 hother)
      have hsame : refreshLine s (a / 128) = s := by
        unfold refreshLine
        dsimp only
        rw [hline, if_neg Bool.false_ne_true]
      rw [hsame]
      exact .refl a s
  · unfold refreshLine
    dsimp only
    split
    · refine .of_line (fun b hb => ?_) rfl (.inl (epochOf_setEpoch_ne _ _ _ (Ne.symm hself))) .inl
      exact readByte_splice_outside _ _ (by simp only [homeBytes, List.length_map, List.length_range]; omega)
    · exact .refl a s

theorem keeps_dirtyLine (a : Nat) (s : State) (pa : Nat) : Keeps a s (dirtyLine s pa) := by
  refine .of_eq ?_ ?_ ?_ (inL2_dirtyLine s pa a) <;> · unfold dirtyLine; split <;> rfl

/-! ## Writes elsewhere -/

/-- A run of bytes within one line is put without touching any other byte, of that line too: the line is written anew first (R369). -/
theorem keeps_putHome {a : Nat} (s : State) {pa : Nat} {bs : List Byte} (hline : pa % 128 + bs.length ≤ 128) (ho : a < pa ∨ pa + bs.length ≤ a) :
    Keeps a s (putHome s pa bs) := by
  have hready : Keeps a s (dirtyLine (refreshLine s (pa / 128)) pa) := (keeps_refreshLine a s _).trans (keeps_dirtyLine a _ pa)
  have hkey : a / 128 = pa / 128 → otherKey (dirtyLine (refreshLine s (pa / 128)) pa) a = false := fun hsame => by
    have h : StandsAs (refreshLine s (a / 128)) a _ := ⟨otherKey_refreshLine_self s a, rfl⟩
    exact hsame ▸ (h.dirtyLine pa).1
  refine hready.trans ?_
  show Keeps a _ { dirtyLine (refreshLine s (pa / 128)) pa with mem := _, poison := _ }
  generalize dirtyLine (refreshLine s (pa / 128)) pa = u at hkey
  by_cases hsame : a / 128 = pa / 128
  · exact ⟨id, fun _ => homeByte_of_not_otherKey (hkey hsame) (hkey hsame) (readByte_splice_outside _ _ ho)⟩
  · exact .of_line (fun b hb => readByte_splice_outside _ _ (by omega)) rfl (.inl rfl) .inl

/-- No error record is written over the byte, of a read as zero: no line is poisoned, or the byte lies outside the Dawn window (R409). -/
def Unlogged (s : State) (a : Nat) : Prop := s.poison = [] ∨ a / 2 ^ 48 ≠ 8

theorem Unlogged.mono {s t : State} {a : Nat} (h : Unlogged s a) (hp : t.poison ⊆ s.poison) : Unlogged t a :=
  h.imp (fun e : s.poison = [] => List.subset_nil.1 (e ▸ hp)) id

theorem length_leBytes (n v : Nat) : (leBytes n v).length = n := by
  induction n generalizing v with
  | zero => rfl
  | succ n ih => rw [leBytes, List.length_cons, ih]

/-- An error record is written in the Dawn window, or sent (R410). -/
theorem keeps_logErr {a : Nat} (s : State) (e : ErrRec) (ha : a / 2 ^ 48 ≠ 8) : Keeps a s (logErr s e) := by
  have hlen : (dwordBytes e.dwords).length = 64 := by
    simp only [ErrRec.dwords, dwordBytes, List.flatMap_cons, List.flatMap_nil, List.length_append, length_leBytes, List.length_nil]
  unfold logErr logDwords
  split
  · exact .of_eq rfl rfl rfl rfl
  · dsimp only
    have hrec : Keeps a s (putHome s (dawnAddr (0x20000000 + 0x40 + 64 * (s.dawn.logNext.toNat % 16383))) (dwordBytes e.dwords)) :=
      keeps_putHome s (by rw [hlen]; unfold dawnAddr; omega) (by rw [hlen]; unfold dawnAddr; omega)
    generalize putHome s _ (dwordBytes e.dwords) = u at hrec ⊢
    have hnext : Keeps a u (putHome u (dawnAddr 0x20000008) (leBytes 8 (u.dawn.logNext + 1).toNat)) :=
      keeps_putHome u (by rw [length_leBytes]; unfold dawnAddr; omega) (by rw [length_leBytes]; unfold dawnAddr; omega)
    exact (hrec.trans hnext).trans (.of_eq rfl rfl rfl rfl)

theorem keeps_watchFill {a : Nat} (s : State) (w : Watch) (touched : Nat → Bool) (ha : Unlogged s a) : Keeps a s (watchFill s w touched) := by
  unfold watchFill
  dsimp only
  split
  · rename_i h
    have hne : a / 2 ^ 48 ≠ 8 := ha.resolve_left (fun e => by simp [poisoned, e] at h)
    have hfresh : Keeps a s { s with fresh := s.fresh + 1 } := .of_eq rfl rfl rfl rfl
    exact hfresh.trans (keeps_logErr _ _ hne)
  · exact .refl a s

theorem keeps_pushTask (a : Nat) (s : State) (t : Task) : Keeps a s (pushTask s t) := by
  unfold pushTask; split <;> exact .of_eq rfl rfl rfl rfl

/-- Watch entries are no lines of an L2. -/
theorem inL2_setWatch (s : State) (d : DieId) (ws : List Watch) (a : Nat) :
    inL2 { s with dies := s.dies.set d.val { s.dies.get d with watch := ws } } a = inL2 s a := by
  by_cases hd : dieOf a = d
  · simp [inL2, hd, Vector.get_eq_getElem]
  · have hd' : d.val ≠ (dieOf a).val := fun e => hd (Fin.ext e.symm)
    simp [inL2, Vector.get_eq_getElem, hd']

theorem keeps_watchHits {a : Nat} (s : State) (d : DieId) (touched : Nat → Bool) (ha : Unlogged s a) : Keeps a s (watchHits s d touched) := by
  have hfill : Keeps a s ((s.dies.get d).watch.foldl (fun s w => watchFill s w touched) s) := by
    refine (foldl_relates (R := fun s t => HomeSide s t ∧ Keeps a s t) (fun s => ⟨.refl s, .refl a s⟩) (fun h k => ⟨h.1.trans k.1, h.2.trans k.2⟩) ?_).2
    exact fun t w _ ht => ⟨homeSide_watchFill t w touched, keeps_watchFill t w touched (ha.mono ht.1.poison)⟩
  refine (hfill.trans (keeps_foldl (fun t w _ => keeps_pushTask a t _) _)).trans (.of_eq rfl rfl rfl ?_)
  exact inL2_setWatch _ _ _ a

theorem keeps_watchTest {a : Nat} (s : State) (pa : Nat) (touched : Nat → Bool) (ha : Unlogged s a) : Keeps a s (watchTest s pa touched) := by
  unfold watchTest
  split
  · split
    · exact .refl a s
    · exact keeps_watchHits _ _ _ ha
  · exact .refl a s

theorem keeps_homeWrite {a : Nat} (s : State) {pa : Nat} {bs : List Byte} (hline : pa % 128 + bs.length ≤ 128) (ho : a < pa ∨ pa + bs.length ≤ a)
    (ha : Unlogged s a) : Keeps a s (homeWrite s pa bs) :=
  (keeps_putHome s hline ho).trans (keeps_watchTest _ _ _ (ha.mono (homeSide_putHome s pa bs).poison))

/-- Single bytes put one after the other. -/
theorem keeps_putBytes {a : Nat} (s : State) (base : Nat) {bs : List (Nat × Byte)} (ho : ∀ b ∈ bs, base + b.1 ≠ a) :
    Keeps a s (bs.foldl (fun s b => putHome s (base + b.1) [b.2]) s) :=
  keeps_foldl (fun t b hb => keeps_putHome t (by simp only [List.length_singleton]; omega)
    (by have := ho b hb; simp only [List.length_singleton]; omega)) s

theorem keeps_homeWriteLine {a : Nat} (s : State) {line : Nat} {bs : List (Nat × Byte)} (ho : ∀ b ∈ bs, 128 * line + b.1 ≠ a) (ha : Unlogged s a) :
    Keeps a s (homeWriteLine s line bs) := by
  have hput := keeps_putBytes s (128 * line) ho
  have hside := homeSide_foldl (fun t (b : Nat × Byte) => homeSide_putHome t (128 * line + b.1) [b.2]) bs s
  unfold homeWriteLine
  generalize bs.foldl (fun s b => putHome s (128 * line + b.1) [b.2]) s = u at hput hside
  dsimp only
  split
  · have hclear : Keeps a u { u with poison := u.poison.filter (fun l => l ≠ line) } := .of_eq rfl rfl rfl rfl
    exact (hput.trans hclear).trans (keeps_watchTest _ _ _ ((ha.mono hside.poison).mono (List.filter_subset_self ..)))
  · exact hput.trans (keeps_watchTest _ _ _ (ha.mono hside.poison))

theorem keeps_homeWriteAll {a : Nat} (s : State) {bs : List (Nat × Byte)} (ho : ∀ b ∈ bs, b.1 ≠ a) (ha : Unlogged s a) : Keeps a s (homeWriteAll s bs) := by
  cases bs with
  | nil => exact .refl a s
  | cons b bs =>
    have hput : Keeps a s ((b :: bs).foldl (fun s b => putHome s b.1 [b.2]) s) :=
      keeps_foldl (fun t x hx => keeps_putHome t (by simp only [List.length_singleton]; omega)
        (by have := ho x hx; simp only [List.length_singleton]; omega)) s
    exact hput.trans (keeps_watchTest _ _ _ (ha.mono (homeSide_foldl (fun t (b : Nat × Byte) => homeSide_putHome t b.1 [b.2]) (b :: bs) s).poison))

/-! ## Requests at an L2 (R22, R75) -/

/-- The lines of a die after a request are those before, and the one requested. -/
theorem l2Request_lines (die : Die) (line : Nat) (tag : ReqTag) (ef write : Bool) :
    ∀ x ∈ (l2Request die line tag ef write).l2, x.line = line ∨ ∃ y ∈ die.l2, y.line = x.line := by
  have hplace : ∀ (die' : Die) (l : L2Line) (ef : Bool), l.line = line → die'.l2 = die.l2 →
      ∀ x ∈ (placeLine die' l ef).l2, x.line = line ∨ ∃ y ∈ die.l2, y.line = x.line := by
    intro die' l ef hl hd x hx
    have hx' : x = l ∨ x ∈ die'.l2 := by
      unfold placeLine at hx
      dsimp only at hx
      split at hx
      · simp only [List.mem_append, List.mem_filter, List.mem_singleton] at hx; tauto
      · simp only [List.mem_cons, List.mem_filter] at hx; tauto
    obtain rfl | hx' := hx'
    · exact .inl hl
    · exact .inr ⟨x, hd ▸ hx', rfl⟩
  have hfill : ∀ (die' : Die) (dirty ef : Bool), die'.l2 = die.l2 →
      ∀ x ∈ (normalFill die' line dirty ef).l2, x.line = line ∨ ∃ y ∈ die.l2, y.line = x.line := by
    intro die' dirty ef hd x hx
    unfold normalFill at hx
    dsimp only at hx
    split at hx
    · exact hplace die' _ _ rfl hd x hx
    · split at hx
      · exact hplace die' _ _ rfl hd x hx
      · exact .inr ⟨x, hd ▸ hx, rfl⟩
  have hhit : ∀ (die' : Die) (l : L2Line) (c : Bool), die'.l2 = die.l2 → l.line = line →
      ∀ x ∈ (if c then { die' with l2 := die'.l2.map (fun y => if y.line = line then l else y) }
        else { die' with l2 := l :: die'.l2.filter (fun y => y.line ≠ line) } : Die).l2, x.line = line ∨ ∃ y ∈ die.l2, y.line = x.line := by
    intro die' l c hd hl x hx
    split at hx
    · obtain ⟨y, hy, rfl⟩ := List.mem_map.1 hx
      split
      · exact .inl hl
      · exact .inr ⟨y, hd ▸ hy, rfl⟩
    · obtain rfl | hx := List.mem_cons.1 hx
      · exact .inl hl
      · exact .inr ⟨x, hd ▸ (List.mem_filter.1 hx).1, rfl⟩
  intro x hx
  unfold l2Request at hx
  dsimp only at hx
  split at hx
  · rename_i old hold
    exact hhit _ _ _ (by cases tagReg die tag <;> rfl) (by simpa using List.find?_some hold) x hx
  · split at hx
    · exact hfill _ _ _ (by rfl) x hx
    · split at hx
      · exact hplace _ _ _ (by rfl) (by rfl) x hx
      · exact hfill _ _ _ (by rfl) x hx

theorem epochOf_setEpochs (s : State) (l ep : Nat) : ∀ (xs : List L2Line),
    epochOf { s with epochs := xs.foldl (fun es x => setEpoch es x.line ep) s.epochs } l = if xs.any (fun x => x.line == l) then ep else epochOf s l := by
  intro xs
  induction xs using List.reverseRecOn with
  | nil => rfl
  | append_singleton xs x ih =>
    rw [List.foldl_append, List.foldl_cons, List.foldl_nil, List.any_append, List.any_cons, List.any_nil, Bool.or_false]
    generalize xs.foldl (fun es x => setEpoch es x.line ep) s.epochs = es at ih ⊢
    by_cases hx : x.line = l
    · rw [← hx]
      simpa using epochOf_setEpoch_self { s with epochs := es } s.mem x.line ep
    · rw [show epochOf _ l = _ from epochOf_setEpoch_ne { s with epochs := es } s.mem ep (Ne.symm hx), ih]
      simp [hx]

theorem mem_shedPoison (s : State) (d : DieId) (old : List L2Line) : (shedPoison s d old).mem = s.mem ∧ (shedPoison s d old).epochs = s.epochs ∧
    (shedPoison s d old).dies = s.dies := by
  unfold shedPoison; dsimp only; split <;> exact ⟨rfl, rfl, rfl⟩

/-- An L2 that takes in no line of an older key keeps every byte: what it gives up goes to HBM under the key in force (R75, R369). -/
theorem keeps_setL2 {a : Nat} (s : State) (d : DieId) (die : Die)
    (h : dieOf a = d → (die.l2.any (fun x => x.line == a / 128)) = true → inL2 s a = true ∨ epochOf s (a / 128) = epochNow s a) : Keeps a s (setL2 s d die) := by
  have hin : inL2 (setL2 s d die) a = if dieOf a = d then die.l2.any (fun x => x.line == a / 128) else inL2 s a := by
    have hd : (setL2 s d die).dies = (s.setDie d die).dies := by
      rw [setL2, (mem_shedPoison _ _ _).2.2]
      unfold writtenBack; split <;> rfl
    rw [inL2, hd]
    split
    · rename_i hda
      rw [hda, State.die_setDie]
    · rename_i hda
      rw [State.die_setDie_ne _ _ hda]
      rfl
  refine .of_line (fun b _ => ?_) (homeSide_setL2 s d die).epoch ?_ (fun k => ?_)
  · rw [setL2, (mem_shedPoison _ _ _).1]
    unfold writtenBack; split <;> rfl
  · have hep : epochOf (setL2 s d die) (a / 128) = epochOf (writtenBack (s.setDie d die) d (s.dies.get d).l2) (a / 128) := by
      rw [setL2, epochOf, (mem_shedPoison _ _ _).2.1]; rfl
    rw [hep]
    unfold writtenBack
    split
    · exact .inl rfl
    · dsimp only
      rw [show epochOf _ (a / 128) = _ from epochOf_setEpochs (s.setDie d die) (a / 128) _ _]
      split
      · rename_i hany
        obtain ⟨x, hx, hxl⟩ := List.any_eq_true.1 hany
        simp only [List.mem_filter, Bool.and_eq_true, beq_iff_eq] at hx hxl
        obtain ⟨hold, ⟨⟨-, hdie⟩, -⟩⟩ := hx
        have hda : dieOf a = d := by
          rw [← hdie, hxl]; simp only [dieOf, Fin.mk.injEq]; omega
        refine .inr ⟨?_, by rw [epochNow, hda]; rfl⟩
        rw [inL2, hda]
        exact List.any_eq_true.2 ⟨x, hold, by simpa using hxl⟩
      · exact .inl rfl
  · rw [hin] at k
    split at k
    · exact h ‹_› k
    · exact .inl k

/-- An address of the HBM of a die lies in the encrypted range of its window (R19). -/
theorem encrypted_of_hbm {s : State} {pa : Nat} {d : DieId} (h : region s pa = .hbm d) : Encrypted pa := by
  unfold region at h
  dsimp only at h
  split at h
  · rename_i hw
    split at h
    · unfold windowRegion at h
      split at h
      · exact ⟨hw, ‹_›⟩
      · split at h
        · cases h
        · split at h <;> cases h
    · cases h
  · split at h
    · split at h <;> cases h
    · cases h

theorem Encrypted.of_line {a b : Nat} (h : Encrypted b) (hl : a / 128 = b / 128) : Encrypted a := by
  obtain ⟨h1, h2⟩ := h
  exact ⟨by omega, by omega⟩

/-- A request for a line keeps every byte (R22, R369; log 4). -/
theorem keeps_l2Touch (a : Nat) (s : State) (pa : Nat) (tag : ReqTag) (ef write : Bool) : Keeps a s (l2Touch s pa tag ef write) := by
  unfold l2Touch
  split
  · rename_i d hd
    refine (keeps_refreshLine a s (pa / 128)).trans (keeps_setL2 _ d _ (fun hda hany => ?_))
    obtain ⟨x, hx, hxl⟩ := List.any_eq_true.1 hany
    have hxa : x.line = a / 128 := by simpa using hxl
    obtain hself | ⟨y, hy, hyl⟩ := l2Request_lines _ _ _ _ _ x hx
    · have hline : a / 128 = pa / 128 := hxa ▸ hself
      have hnot : otherKey (refreshLine s (pa / 128)) a = false := hline ▸ otherKey_refreshLine_self s a
      by_contra hno
      rw [not_or] at hno
      have hother := (otherKey_iff (refreshLine s (pa / 128)) a).2 ⟨(encrypted_of_hbm hd).of_line hline, hno.2, Bool.eq_false_iff.2 hno.1⟩
      exact absurd (hnot.symm.trans hother) Bool.false_ne_true
    · left
      rw [inL2, hda]
      exact List.any_eq_true.2 ⟨y, hy, by simpa using hyl.trans hxa⟩
  · exact .refl a s

theorem keeps_l2Run (a : Nat) (s : State) (pa n : Nat) (tag : ReqTag) (ef write : Bool) : Keeps a s (l2Run s pa n tag ef write) :=
  keeps_foldl (fun t _ _ => keeps_l2Touch a t _ _ _ _) s

end Sys2Proof.Machine
end

section
/-! PROOFS. The events that write at home points: a store performed, a buffer entry drained, a line of a command, a scatter update, a frame filled
(R67, R68, R86 to R88, R101, R298). -/

namespace Sys2Proof.Machine

open Sys2Proof

/-! ## Bytes named by a write -/

/-- A state in which the named bytes stand at their home points and every other byte is kept. -/
def WritesOnly (s t : State) (bs : List (Nat × Byte)) : Prop :=
  (∀ x ∈ bs, homeByte t x.1 = x.2) ∧ ∀ a, (∀ x ∈ bs, x.1 ≠ a) → keySettled s a → Unlogged s a → homeByte t a = homeByte s a

theorem WritesOnly.of_keeps {s t : State} {bs : List (Nat × Byte)} (hin : ∀ x ∈ bs, homeByte t x.1 = x.2)
    (hout : ∀ a, (∀ x ∈ bs, x.1 ≠ a) → Unlogged s a → Keeps a s t) : WritesOnly s t bs :=
  ⟨hin, fun a ha hs hu => (hout a ha hu).byte hs⟩

/-- An address of HBM or of the attic lies in the window of a die (R18, R19). -/
theorem window_of_memory {s : State} {pa : Nat} (h : (region s pa).isHbm = true ∨ (region s pa).isAttic = true) : pa / 2 ^ 48 < 4 := by
  unfold region at h
  dsimp only at h
  split at h
  · assumption
  · exfalso
    split at h
    · split at h <;> simp [Region.isHbm, Region.isAttic] at h
    · simp [Region.isHbm, Region.isAttic] at h

theorem region_ne_none_of_memory {s : State} {pa : Nat} (h : (region s pa).isHbm = true ∨ (region s pa).isAttic = true) : region s pa ≠ .none := by
  intro e
  rw [e] at h
  simp [Region.isHbm, Region.isAttic] at h

/-- The bytes of one line, named once each, are written at their home points and no other is. -/
theorem writesOnly_homeWriteLine {s u : State} {line : Nat} {bs : List (Nat × Byte)} (hw : 128 * line / 2 ^ 48 < 4) (hlt : ∀ x ∈ bs, x.1 < 128)
    (hnd : (bs.map (·.1)).Nodup) (hu : ∀ a, Keeps a s u) (hp : u.poison ⊆ s.poison) :
    WritesOnly s (homeWriteLine u line bs) (bs.map (fun x => (128 * line + x.1, x.2))) := by
  refine .of_keeps (fun x hx => ?_) (fun a ha hlog => ?_)
  · obtain ⟨b, hb, rfl⟩ := List.mem_map.1 hx
    have hb128 := hlt b hb
    have hmod : (128 * line + b.1) % 128 = b.1 := by omega
    have hdiv : (128 * line + b.1) / 128 = line := by omega
    have hstands := standsAs_homeWriteLine u (a := 128 * line + b.1) (x := b.2) (bs := bs) (by omega) (by rw [hmod]; exact hb) (fun c hc e => by
      rw [hmod] at e
      exact congrArg Prod.snd (List.inj_on_of_nodup_map hnd hc hb e))
    rw [hdiv] at hstands
    exact hstands.homeByte_eq (by omega)
  · refine (hu a).trans (keeps_homeWriteLine u (fun b hb => ?_) (hlog.mono hp))
    exact ha (128 * line + b.1, b.2) (List.mem_map.2 ⟨b, hb, rfl⟩)

/-- A byte of a run within one line stands in memory after the run has been put. -/
theorem standsAs_putHome_inside (s : State) {pa i : Nat} {bs : List Byte} (hline : pa % 128 + bs.length ≤ 128) (hi : i < bs.length) :
    StandsAs (putHome s pa bs) (pa + i) bs[i] := by
  have hsame : (pa + i) / 128 = pa / 128 := by omega
  have h : StandsAs (refreshLine s ((pa + i) / 128)) (pa + i) _ := ⟨otherKey_refreshLine_self s (pa + i), rfl⟩
  rw [hsame] at h
  obtain ⟨hk, -⟩ := h.dirtyLine pa
  exact ⟨hk, readByte_splice_inside _ pa bs i hi⟩

/-- A run of bytes within one line is written at its home point and no other byte is. -/
theorem writesOnly_homeWrite {s u : State} {pa : Nat} {bs : List Byte} (hw : pa / 2 ^ 48 < 4) (hline : pa % 128 + bs.length ≤ 128)
    (hu : ∀ a, Keeps a s u) (hp : u.poison ⊆ s.poison) : WritesOnly s (homeWrite u pa bs) ((List.range bs.length).map (fun k => (pa + k, bs.getD k 0))) := by
  refine .of_keeps (fun x hx => ?_) (fun a ha hlog => ?_)
  · obtain ⟨k, hk, rfl⟩ := List.mem_map.1 hx
    have hk := List.mem_range.1 hk
    have hstands := standsAs_putHome_inside u hline hk
    dsimp only
    rw [List.getD_eq_getElem _ _ hk]
    exact (hstands.watchTest (by omega) pa _).homeByte_eq (by omega)
  · refine (hu a).trans (keeps_homeWrite u hline ?_ (hlog.mono hp))
    by_contra hin
    exact ha (a, bs.getD (a - pa) 0) (List.mem_map.2 ⟨a - pa, List.mem_range.2 (by omega), by rw [Prod.mk.injEq]; exact ⟨by omega, rfl⟩⟩) rfl

/-! ## The cluster's buffer (R88) -/

/-- The byte that a list of positions and bytes holds for a position. -/
def byteAt (bs : List (Nat × Byte)) (i : Nat) : Option Byte := (bs.find? (fun b => b.1 == i)).map (·.2)

theorem bufByte_eq (s : State) (cl : ClusterId) (pa : Nat) :
    bufByte s cl pa = ((s.clusters.get cl).buf.find? (fun e => e.line == pa / 128)).bind (fun e => byteAt e.bytes (pa % 128)) := by
  unfold bufByte bufEntry byteAt
  cases (s.clusters.get cl).buf.find? (fun e => e.line == pa / 128) <;> rfl

/-- The bytes of a run by their positions in its line. -/
def runBytes (pos : Nat) (bs : List Byte) : List (Nat × Byte) := bs.zipIdx.map (fun b => (pos + b.2, b.1))

theorem byteAt_cons (b : Nat × Byte) (bs : List (Nat × Byte)) (i : Nat) : byteAt (b :: bs) i = if b.1 = i then some b.2 else byteAt bs i := by
  unfold byteAt
  by_cases h : b.1 = i
  · rw [List.find?_cons_of_pos (by simpa using h), if_pos h]; rfl
  · rw [List.find?_cons_of_neg (by simpa using h), if_neg h]

theorem runBytes_cons (pos : Nat) (b : Byte) (bs : List Byte) : runBytes pos (b :: bs) = (pos, b) :: runBytes (pos + 1) bs := by
  simp only [runBytes, List.zipIdx_cons, List.map_cons, Nat.zero_add, Nat.add_zero]
  rw [List.zipIdx_succ, List.map_map]
  congr 1
  exact List.map_congr_left (fun x _ => by simp only [Function.comp, Prod.mk.injEq, and_true]; omega)

/-- A run holds a byte at each of its positions, and at no other. -/
theorem byteAt_runBytes (pos : Nat) (bs : List Byte) (i : Nat) : byteAt (runBytes pos bs) i = if i < pos then none else bs[i - pos]? := by
  induction bs generalizing pos with
  | nil => simp [byteAt, runBytes]
  | cons b bs ih =>
    rw [runBytes_cons, byteAt_cons, ih]
    rcases Nat.lt_trichotomy i pos with h | h | h
    · rw [if_neg (by omega), if_pos (by omega), if_pos h]
    · rw [if_pos h.symm, if_neg (by omega), h, Nat.sub_self]; rfl
    · rw [if_neg (by omega), if_neg (by omega), if_neg (by omega), show i - pos = i - (pos + 1) + 1 by omega, List.getElem?_cons_succ]

/-- New bytes laid over old ones win at their positions (R88). -/
theorem byteAt_merge (old new : List (Nat × Byte)) (i : Nat) :
    byteAt (old.filter (fun b => !new.any (fun n => n.1 == b.1)) ++ new) i = (byteAt new i).or (byteAt old i) := by
  have hfind : byteAt (old.filter (fun b => !new.any (fun n => n.1 == b.1)) ++ new) i =
      (byteAt (old.filter (fun b => !new.any (fun n => n.1 == b.1))) i).or (byteAt new i) := by
    simp only [byteAt, List.find?_append, Option.map_or]
  rw [hfind]
  by_cases hany : new.any (fun n => n.1 == i) = true
  · have hold : byteAt (old.filter (fun b => !new.any (fun n => n.1 == b.1))) i = none := by
      simp only [byteAt, Option.map_eq_none_iff, List.find?_eq_none, List.mem_filter]
      rintro b ⟨-, hb⟩ hbi
      rw [beq_iff_eq.1 hbi, hany] at hb
      exact absurd hb (by decide)
    have hnew : (byteAt new i).isSome = true := by
      simpa only [byteAt, Option.isSome_map, List.find?_isSome, List.any_eq_true] using hany
    rw [hold, Option.none_or]
    exact (Option.or_of_isSome hnew).symm
  · have hnone : byteAt new i = none := by
      simp only [byteAt, Option.map_eq_none_iff, List.find?_eq_none]
      exact fun b hb hbi => hany (List.any_eq_true.2 ⟨b, hb, hbi⟩)
    rw [hnone, Option.or_none, Option.none_or]
    simp only [byteAt]
    congr 1
    rw [List.find?_filter]
    congr 1
    funext b
    by_cases hb : b.1 = i
    · simp [hb, hany]
    · simp [hb]

/-- The byte of a buffer is that of the first entry of its line. -/
theorem bufByte_of_buf {s t : State} {cl : ClusterId} (h : (t.clusters.get cl).buf = (s.clusters.get cl).buf) (a : Nat) : bufByte t cl a = bufByte s cl a := by
  rw [bufByte_eq, bufByte_eq, h]

theorem buf_setCluster (s : State) (cl : ClusterId) (c : Cluster) : ((s.setCluster cl c).clusters.get cl).buf = c.buf := by
  simp [State.setCluster, Vector.get_eq_getElem]

/-- What a cluster's buffer holds once a run of bytes of one line has merged into it (R88). -/
def MergedInto (s t : State) (cl : ClusterId) (pa : Nat) (bs : List Byte) : Prop :=
  ∀ a, bufByte t cl a = if a / 128 = pa / 128 then (byteAt (runBytes (pa % 128) bs) (a % 128)).or (bufByte s cl a) else bufByte s cl a

/-- Bytes merge into the entry of their line. -/
theorem mergedInto_entry {s : State} {cl : ClusterId} {e : BufEntry} {pa : Nat} {bs : List Byte} (asid : BitVec 16) (va : Nat)
    (hnd : ((s.clusters.get cl).buf.map (·.id)).Nodup) (he : (s.clusters.get cl).buf.find? (fun e => e.line == pa / 128) = some e) :
    MergedInto s (s.setCluster cl { s.clusters.get cl with buf := (s.clusters.get cl).buf.map (fun x => if x.id = e.id then
      { x with bytes := e.bytes.filter (fun b => !(runBytes (pa % 128) bs).any (fun n => n.1 == b.1)) ++ runBytes (pa % 128) bs, asid := asid, va := va } else x) })
      cl pa bs := by
  intro a
  rw [bufByte_eq, buf_setCluster, bufByte_eq, List.find?_map]
  have hline : e.line = pa / 128 := by simpa using List.find?_some he
  have hfun : ((fun x : BufEntry => x.line == a / 128) ∘ fun x => if x.id = e.id then
      { x with bytes := e.bytes.filter (fun b => !(runBytes (pa % 128) bs).any (fun n => n.1 == b.1)) ++ runBytes (pa % 128) bs, asid := asid, va := va } else x) =
      fun x => x.line == a / 128 := by
    funext x
    dsimp only [Function.comp]
    split <;> rfl
  rw [hfun]
  split
  · rename_i ha
    rw [ha, he]
    simp only [Option.map_some, Option.bind_some, if_true]
    exact byteAt_merge _ _ _
  · rename_i ha
    cases hx : (s.clusters.get cl).buf.find? (fun x => x.line == a / 128) with
    | none => rfl
    | some x =>
      have hxl : x.line = a / 128 := by simpa using List.find?_some hx
      have hid : x.id ≠ e.id := fun h => by
        have := List.inj_on_of_nodup_map hnd (List.mem_of_find?_eq_some hx) (List.mem_of_find?_eq_some he) h
        exact ha (hxl ▸ this ▸ hline)
      simp only [Option.map_some, if_neg hid]

/-- Bytes of a line that no entry holds take a new one. -/
theorem mergedInto_new {s : State} {cl : ClusterId} {pa : Nat} {bs : List Byte} (asid : BitVec 16) (va : Nat)
    (he : (s.clusters.get cl).buf.find? (fun e => e.line == pa / 128) = none) :
    MergedInto s (s.setCluster cl { s.clusters.get cl with
      buf := (s.clusters.get cl).buf ++ [{ id := (s.clusters.get cl).nextId, line := pa / 128, asid := asid, va := va, bytes := runBytes (pa % 128) bs, mates := [] }]
      nextId := (s.clusters.get cl).nextId + 1 }) cl pa bs := by
  intro a
  rw [bufByte_eq, buf_setCluster, bufByte_eq, List.find?_append]
  split
  · rename_i ha
    rw [ha, he]
    simp
  · rename_i ha
    rw [List.find?_cons_of_neg (by simpa using Ne.symm ha)]
    simp

/-- With room, or an entry of the line, a run of bytes merges into the buffer and changes nothing else. -/
theorem mergeBuf_of_room {s : State} {cl : ClusterId} {pa : Nat} {bs : List Byte} (asid : BitVec 16) (va : Nat)
    (hnd : ((s.clusters.get cl).buf.map (·.id)).Nodup)
    (hroom : (s.clusters.get cl).buf.length < 64 ∨ ∃ e ∈ (s.clusters.get cl).buf, e.line = pa / 128) :
    ∃ c id, mergeBuf s cl asid va pa bs = some (s.setCluster cl c, id) ∧ MergedInto s (s.setCluster cl c) cl pa bs := by
  cases he : (s.clusters.get cl).buf.find? (fun e => e.line == pa / 128) with
  | some e =>
    refine ⟨_, e.id, ?_, mergedInto_entry asid va hnd he⟩
    simp only [mergeBuf, he]
    rfl
  | none =>
    have hfree : ¬ 64 ≤ (s.clusters.get cl).buf.length := by
      obtain hroom | ⟨e, hmem, hl⟩ := hroom
      · omega
      · exact absurd (by simpa using hl) (List.find?_eq_none.1 he e hmem)
    refine ⟨_, (s.clusters.get cl).nextId, ?_, mergedInto_new asid va he⟩
    simp only [mergeBuf, he, if_neg hfree]
    rfl

/-! ## A store performed (R86 to R88) -/

theorem lineRuns_of_line {va pa : Nat} {bs : List Byte} (h : pa % 128 + bs.length ≤ 128) : lineRuns va pa bs = [(va, pa, bs)] :=
  if_pos (by omega)

/-- A plain part of a store to an ordinary page of memory merges into the buffer of its cluster. -/
theorem performPart_of_merge {s : State} {p : Place} {g : Group} {st : StreamId} {r : StoreReq} {va pa : Nat} {bs : List Byte} {s' : State} {id : Nat}
    (hreg : region s pa ≠ .none) (hline : pa % 128 + bs.length ≤ 128) (hm : mergeBuf s (clusterOfPlace p) g.lr.asid va pa bs = some (s', id)) :
    performPart s p g st r { loc := .mem pa, va := va, op := .write bs, scale := none } =
      some (s'.setGroup p (noteEntry (g.setStream st ((g.stream st).ownEntry id r.mark r.id)) r.entry [id])) := by
  have hunit : mergeUnit s (clusterOfPlace p) g.lr.asid [(va, pa, bs)] = some (s', [id]) := by
    simp only [mergeUnit, List.foldl_cons, List.foldl_nil, hm, Option.map_some, List.nil_append, linkMates]
    rfl
  have hgone : (region s pa == Region.none) = false := by simpa using hreg
  simp only [performPart, hgone, StorePart.runs, lineRuns_of_line hline, List.append_nil, hunit, Option.map_some, Bool.false_eq_true, if_false,
    List.foldl_cons, List.foldl_nil]

theorem buf_noteWrite (s : State) (p : Place) (st : StreamId) (en : Option Nat) (ws : List (Loc × Nat)) :
    ((noteWrite s p st en ws).clusters.get (clusterOfPlace p)).buf = (s.clusters.get (clusterOfPlace p)).buf := by
  rw [noteWrite, buf_setCluster]

/-- The event that performs a store of one plain part of memory (R86, R91). -/
theorem performStore_of_merge {s : State} {p : Place} {st : StreamId} {g : Group} {q : StoreReq} {rest : List StoreReq} {pa va : Nat} {bs : List Byte}
    {s' : State} {id : Nat} (hg : s.group p = some g) (hq : (g.stream st).stores = q :: rest)
    (hparts : q.parts = [{ loc := .mem pa, va := va, op := .write bs, scale := none }]) (hen : q.entry = none) (hreg : region s pa ≠ .none)
    (hline : pa % 128 + bs.length ≤ 128) (hmark : markClear s p { g.stream st with stores := [] } q.mark = true)
    (hbefore : q.before ≤ (g.stream st).loadsDone) (hm : mergeBuf s (clusterOfPlace p) g.lr.asid va pa bs = some (s', id)) :
    performStore s p st 0 = (noteWrite (s'.setGroup p (g.setStream st ((g.stream st).ownEntry id q.mark q.id))) p st none [(.mem pa, bs.length)]).setGroup p
      (g.setStream st { (g.stream st).ownEntry id q.mark q.id with stores := rest }) := by
  have hgo : ¬ (!markClear s p { g.stream st with stores := [] } q.mark || decide ((g.stream st).loadsDone < q.before)) = true := by
    simp only [hmark, Bool.not_true, Bool.false_or, decide_eq_true_eq]; omega
  have hgroup (u : State) (h : Group) (ws : List (Loc × Nat)) : (noteWrite (u.setGroup p h) p st none ws).group p = some h :=
    State.group_setGroup u p h
  have hpart := performPart_of_merge (st := st) (r := q) hreg hline hm
  rw [hen, noteEntry] at hpart
  simp only [performStore, hg, hq, hgo, hparts, hen, hpart, if_false, List.cons_ne_nil, List.getElem?_cons_zero, List.append_nil, Bool.false_and,
    Loc.locked, List.any_nil, Bool.or_false, Bool.false_eq_true, readyPages, List.foldl_cons, List.foldl_nil, StorePart.wrote, List.eraseIdx_zero, List.tail_cons,
    popStore, hgroup, if_true, Group.stream_setStream, Group.setStream_setStream]

/-! ## Entries drained (R88) -/

theorem filter_eq_nil_of_ids {l : List BufEntry} {i : Nat} (h : i ∉ l.map (·.id)) : l.filter (fun b => [i].contains b.id) = [] := by
  rw [List.filter_eq_nil_iff]
  intro b hb hc
  exact h (List.mem_map.2 ⟨b, hb, by simpa using hc⟩)

theorem filter_eq_self_of_ids {l : List BufEntry} {i : Nat} (h : i ∉ l.map (·.id)) : l.filter (fun b => !([i].contains b.id)) = l := by
  rw [List.filter_eq_self]
  intro b hb
  have : b.id ≠ i := fun e => h (List.mem_map.2 ⟨b, hb, e⟩)
  simpa using this

/-- The entries of a buffer have numbers of their own: one of them is picked out by its number, and the others are left. -/
theorem pick_entry {l : List BufEntry} {k : Nat} {e : BufEntry} (hk : l[k]? = some e) (hnd : (l.map (·.id)).Nodup) :
    l.filter (fun b => [e.id].contains b.id) = [e] ∧ l.filter (fun b => !([e.id].contains b.id)) = l.eraseIdx k := by
  obtain ⟨hlt, hget⟩ := List.getElem?_eq_some_iff.1 hk
  have hl : l = l.take k ++ e :: l.drop (k + 1) := by rw [← hget]; simp
  have hself : [e.id].contains e.id = true := by simp
  rw [hl, List.map_append, List.map_cons, List.nodup_append] at hnd
  obtain ⟨-, h2, h3⟩ := hnd
  have hbefore : e.id ∉ (l.take k).map (·.id) := fun h => h3 _ h _ List.mem_cons_self rfl
  have hafter : e.id ∉ (l.drop (k + 1)).map (·.id) := (List.nodup_cons.1 h2).1
  rw [List.eraseIdx_eq_take_drop_succ]
  constructor
  · conv_lhs => rw [hl]
    rw [List.filter_append, List.filter_cons_of_pos (p := fun b : BufEntry => [e.id].contains b.id) hself, filter_eq_nil_of_ids hbefore, filter_eq_nil_of_ids hafter, List.nil_append]
  · conv_lhs => rw [hl]
    rw [List.filter_append, List.filter_cons_of_neg (p := fun b : BufEntry => !([e.id].contains b.id)) (by rw [hself]; decide), filter_eq_self_of_ids hbefore, filter_eq_self_of_ids hafter]

/-- An entry that drains alone waits for its link, or is performed at its home point (R88, R430). -/
theorem execClusterBufferDrain_of_single {s : State} {cl : ClusterId} {k : Nat} {e : BufEntry} (hk : (s.clusters.get cl).buf[k]? = some e)
    (hmates : e.mates = []) (hnd : ((s.clusters.get cl).buf.map (·.id)).Nodup) :
    exec (.clusterBufferDrain cl k) s = .next (if farHeld s ⟨cl.val / 8, by omega⟩ (128 * e.line) then s
      else drainEntry (s.setCluster cl ((s.clusters.get cl).without [e.id])) e) := by
  show execClusterBufferDrain cl k s = _
  simp only [execClusterBufferDrain, hk, hmates, if_true, (pick_entry hk hnd).1, List.any_cons, List.any_nil, Bool.or_false, List.foldl_cons, List.foldl_nil]
  split <;> rfl

/-! ## A line of a started command (R101) -/

section
variable {s : State} {p : Place} {q : QueueId} {g : Group} {e : QEntry} {w : Work} {k line : Nat} {lw : LineWrite}

/-- The places of a write of one line of memory. -/
theorem places_of_line (hloc : lw.loc = .mem (128 * line)) (hmore : lw.more = []) (hscales : lw.scales = []) : lw.places = [.mem (128 * line)] := by
  simp only [LineWrite.places, LineWrite.lines, hloc, hmore, hscales, List.map_cons, List.map_nil, List.append_nil]

/-- A write of one line of memory touches no page of the window and writes the line at its home point. -/
theorem performLine_of_line (hloc : lw.loc = .mem (128 * line)) (hmore : lw.more = []) (hscales : lw.scales = []) (hpoison : lw.poison = false)
    (hreg : region s (128 * line) ≠ .none) :
    performLine s p g lw = homeWriteLine (l2Touch s (128 * line) (some (g.lr.asid, lw.va)) lw.ef true) line lw.bytes := by
  have hdiv : 128 * line / 128 = line := by omega
  simp only [performLine, LineWrite.lines, hmore, hscales, List.map_nil, List.append_nil, List.foldl_cons, List.foldl_nil, performBytes, hloc, hpoison, if_neg hreg,
    hdiv, Bool.false_eq_true, if_false]

/-- The performance of a line of a started command waits for its link, or writes the line (R86, R430). -/
theorem performItem_of_line (hg : s.group p = some g) (hq : (g.queue q).find? (fun x => x.id == e.id) = some e) (hw : e.work = some w)
    (hstart : e.started = true) (hdone : e.done = false) (hafter : e.afterLd ≤ (g.stream e.stream).loadsDone) (hk : w.lines[k]? = some lw)
    (hloc : lw.loc = .mem (128 * line)) (hmore : lw.more = []) (hscales : lw.scales = []) :
    ∃ h, performItem s p q e.id k = if farHeld s (dieOfPlace p) (128 * line) then s else performLine (s.setGroup p h) p h lw := by
  refine ⟨g.mapEntry q e.id (fun e => { e with work := some { w with lines := w.lines.eraseIdx k } }), ?_⟩
  have hgo : ¬ (!e.started || e.done || decide ((g.stream e.stream).loadsDone < e.afterLd)) = true := by
    simp only [hstart, hdone, Bool.not_true, Bool.false_or, decide_eq_true_eq]; omega
  have htake : takeWrite w k = some (.line lw, { w with lines := w.lines.eraseIdx k }) := by
    simp only [takeWrite, hk]
  have hplaces := places_of_line hloc hmore hscales
  have hlock : lineLocked s p q e.id lw = false := by simp only [lineLocked, hplaces, List.any_cons, List.any_nil, Bool.or_false]
  have hheld : lineHeld s p lw = farHeld s (dieOfPlace p) (128 * line) := by simp only [lineHeld, hplaces, List.any_cons, List.any_nil, Bool.or_false]
  have htouch (u : State) : touchAll u p (lw.places.map (fun l => (l, false))) = some u := by rw [hplaces]; rfl
  simp only [performItem, hg, hq, hw, hgo, if_false, htake, hlock, hheld, Bool.false_or, Bool.false_eq_true, htouch, State.group_setGroup]

end

/-! ## A scatter update (R298) -/

theorem scatBytes_cases (fmt : BitVec 4) : scatBytes fmt = 0 ∨ scatBytes fmt = 1 ∨ scatBytes fmt = 2 ∨ scatBytes fmt = 4 := by
  unfold scatBytes tagWidth
  split <;> decide

/-- An aligned word of the scatter engine lies within a line. -/
theorem scatWord_within_line {fmt : BitVec 4} {pa : Nat} (h : pa % scatBytes fmt = 0) : pa % 128 + scatBytes fmt ≤ 128 := by
  obtain h0 | h1 := scatBytes_cases fmt
  · rw [h0]; omega
  · obtain h1 | h1 | h1 := h1 <;> rw [h1] at h ⊢ <;> omega

/-- A pending update of a word of memory waits for nothing: its merged word is written (R298). -/
theorem execScatterUpdate_of_memory {s : State} {p : Place} {g : Group} {u : ScatUpd} {rest : List ScatUpd} {pa : Nat} (hg : s.group p = some g)
    (hscat : g.scat = u :: rest) (hloc : u.loc = .mem pa) (hreg : region s pa ≠ .none) (hafter : u.afterLd ≤ (g.stream u.stream).loadsDone)
    (hpoison : poisoned s pa = false) (hheld : farHeld s (dieOfPlace p) pa = false) :
    exec (.scatterUpdate p) s = .next (homeWrite (s.setGroup p { g with scat := rest }) pa (leBytes (scatBytes u.fmt)
      (scatMerge u.fmt u.op (leNat (homeBytes s pa (scatBytes u.fmt))) (u.v.toNat % 2 ^ (8 * scatBytes u.fmt))))) := by
  have hgo : ¬ (decide ((g.stream u.stream).loadsDone < u.afterLd) || farHeld s (dieOfPlace p) pa) = true := by
    simp only [hheld, Bool.or_false, decide_eq_true_eq]; omega
  have htouch : touchAll s p [(.mem pa, false)] = some s := rfl
  have hgone : locGone (s.setGroup p { g with scat := rest }) p { g with scat := rest } (.mem pa) = false := by
    show (region s pa == Region.none) = false
    simpa using hreg
  have hbad : locPoisoned (s.setGroup p { g with scat := rest }) p { g with scat := rest } (.mem pa) = false := hpoison
  show execScatterUpdate p s = _
  simp only [execScatterUpdate, hg, hscat, hloc, hgo, htouch, applyUpdate, hgone, hbad, Bool.false_and, Bool.false_eq_true, if_false, locWrite]
  rfl

/-! ## A frame filled (R68) -/

section
variable {s : State} {p : Place} {g : Group} {page : Fin 64} {f : Frame}

/-- The frame of a page that becomes the most recently used is its frame still. -/
theorem frameOf_touchFrame (hf : frameOf s p g page = some f) (u : State) (fill : Bool) :
    frameOf (touchFrame u p { f with filling := fill }) p g page = some { f with filling := fill } := by
  have hfound := List.find?_some hf
  simp only [frameOf, touchFrame, State.setCore, Vector.get_eq_getElem, Vector.getElem_set_self]
  exact List.find?_cons_of_pos hfound

/-- A filled frame holds the bytes of its page's backing frame (R68). -/
theorem readByte_fillFrame {b : BitVec 36} (hback : f.back = some b) (c : CoreId) (off : Nat) :
    readByte (fillFrame s c f).sram (sramAddr c f.idx off) = homeByte (l2Run s (b.toNat * 2 ^ 16) 65536 none false false) (b.toNat * 2 ^ 16 + off % 2 ^ 16) := by
  have haddr : sramAddr c f.idx off = sramAddr c f.idx 0 + off % 2 ^ 16 := by simp only [sramAddr]; omega
  have hlt : off % 2 ^ 16 < (homeBytes (l2Run s (b.toNat * 2 ^ 16) 65536 none false false) (b.toNat * 2 ^ 16) 65536).length := by
    simp only [homeBytes, List.length_map, List.length_range]; omega
  simp only [fillFrame, hback]
  rw [haddr, readByte_splice_inside _ _ _ _ hlt]
  simp only [homeBytes, List.getElem_map, List.getElem_range]

theorem keeps_fillFrame {b : BitVec 36} (hback : f.back = some b) (a : Nat) (c : CoreId) : Keeps a s (fillFrame s c f) := by
  have hrun := keeps_l2Run a s (b.toNat * 2 ^ 16) 65536 none false false
  simp only [fillFrame, hback]
  exact hrun.trans (.of_eq rfl rfl rfl rfl)

end

/-! ## The five events -/

/-- A plain store performed is in its cluster's buffer afterwards; memory, the registers and the rest of the buffer stay (R86, R88). -/
theorem storePerform_buffers {s : State} {p : Place} {st : StreamId} {g : Group} {q : StoreReq} {rest : List StoreReq} {pa va : Nat} {bs : List Byte}
    (hg : s.group p = some g) (hq : (g.stream st).stores = q :: rest)
    (hparts : q.parts = [{ loc := .mem pa, va := va, op := .write bs, scale := none }]) (hen : q.entry = none) (hreg : region s pa ≠ .none)
    (hline : pa % 128 + bs.length ≤ 128) (hmark : markClear s p { g.stream st with stores := [] } q.mark = true)
    (hbefore : q.before ≤ (g.stream st).loadsDone) (hnd : ((s.clusters.get (clusterOfPlace p)).buf.map (·.id)).Nodup)
    (hroom : (s.clusters.get (clusterOfPlace p)).buf.length < 64 ∨ ∃ e ∈ (s.clusters.get (clusterOfPlace p)).buf, e.line = pa / 128) :
    ∃ t g', exec (.storePerform p (.stream st) 0) s = .next t ∧ t.group p = some g' ∧ (g'.stream st).stores = rest ∧ (g'.stream st).x = (g.stream st).x ∧
      (∀ a, homeByte t a = homeByte s a) ∧ MergedInto s t (clusterOfPlace p) pa bs := by
  obtain ⟨c, id, hm, hmerged⟩ := mergeBuf_of_room (s := s) (bs := bs) g.lr.asid va hnd hroom
  have hperf := performStore_of_merge hg hq hparts hen hreg hline hmark hbefore hm
  refine ⟨_, _, congrArg Host.Outcome.next hperf, State.group_setGroup _ p _, ?_, ?_, fun a => rfl, fun a => ?_⟩
  · rw [Group.stream_setStream]
  · rw [Group.stream_setStream]; rfl
  · rw [← hmerged a]
    exact bufByte_of_buf (buf_noteWrite _ p st none _) a

/-- A run that has merged into a buffer reads there. -/
theorem MergedInto.bufByte_inside {s t : State} {cl : ClusterId} {pa : Nat} {bs : List Byte} (h : MergedInto s t cl pa bs) (hline : pa % 128 + bs.length ≤ 128)
    {k : Nat} (hk : k < bs.length) : bufByte t cl (pa + k) = bs[k]? := by
  have hsame : (pa + k) / 128 = pa / 128 := by omega
  have hmod : (pa + k) % 128 = pa % 128 + k := by omega
  rw [h, if_pos hsame, hmod, byteAt_runBytes, if_neg (by omega), Nat.add_sub_cancel_left, List.getElem?_eq_getElem hk, Option.some_or]

theorem MergedInto.bufByte_outside {s t : State} {cl : ClusterId} {pa : Nat} {bs : List Byte} (h : MergedInto s t cl pa bs) {a : Nat}
    (ha : a < pa ∨ pa + bs.length ≤ a) : bufByte t cl a = bufByte s cl a := by
  rw [h]
  split
  · rename_i hsame
    have hnone : byteAt (runBytes (pa % 128) bs) (a % 128) = none := by
      rw [byteAt_runBytes]
      split
      · rfl
      · exact List.getElem?_eq_none (by omega)
    rw [hnone, Option.none_or]
  · rfl

/-- An entry that drains is written at its home point and leaves the buffer (R88). -/
theorem drainEntry_writesOnly {s : State} {cl : ClusterId} {k : Nat} {e : BufEntry} (hk : (s.clusters.get cl).buf[k]? = some e)
    (hnd : ((s.clusters.get cl).buf.map (·.id)).Nodup) (hmem : (region s (128 * e.line)).isHbm = true ∨ (region s (128 * e.line)).isAttic = true)
    (hlt : ∀ x ∈ e.bytes, x.1 < 128) (hkeys : (e.bytes.map (·.1)).Nodup) :
    WritesOnly s (drainEntry (s.setCluster cl ((s.clusters.get cl).without [e.id])) e) (e.bytes.map (fun x => (128 * e.line + x.1, x.2))) ∧
      ((drainEntry (s.setCluster cl ((s.clusters.get cl).without [e.id])) e).clusters.get cl).buf = (s.clusters.get cl).buf.eraseIdx k := by
  have hreg : region (s.setCluster cl ((s.clusters.get cl).without [e.id])) (128 * e.line) ≠ .none := region_ne_none_of_memory hmem
  have hleft (a : Nat) : Keeps a s (s.setCluster cl ((s.clusters.get cl).without [e.id])) := .of_eq rfl rfl rfl rfl
  have htouch := homeSide_l2Touch (s.setCluster cl ((s.clusters.get cl).without [e.id])) (128 * e.line) (some (e.asid, e.va)) false true
  rw [drainEntry, if_neg hreg]
  refine ⟨writesOnly_homeWriteLine (window_of_memory hmem) hlt hkeys (fun a => (hleft a).trans (keeps_l2Touch a _ _ _ _ _)) htouch.poison, ?_⟩
  rw [(htouch.trans (homeSide_homeWriteLine _ _ _)).clusters, buf_setCluster]
  exact (pick_entry hk hnd).2

/-- The merged word of a scatter update is written, and the update is no longer pending (R298). -/
theorem scatterUpdate_writesOnly {s : State} {p : Place} {g : Group} {u : ScatUpd} {rest : List ScatUpd} {pa : Nat} (hg : s.group p = some g)
    (hscat : g.scat = u :: rest) (hloc : u.loc = .mem pa) (hmem : (region s pa).isHbm = true ∨ (region s pa).isAttic = true)
    (hafter : u.afterLd ≤ (g.stream u.stream).loadsDone) (hpoison : poisoned s pa = false) (halign : pa % scatBytes u.fmt = 0)
    (hheld : farHeld s (dieOfPlace p) pa = false) :
    ∃ t g', exec (.scatterUpdate p) s = .next t ∧ t.group p = some g' ∧ g'.scat = rest ∧ WritesOnly s t ((List.range (scatBytes u.fmt)).map (fun k =>
      (pa + k, (leBytes (scatBytes u.fmt) (scatMerge u.fmt u.op (leNat (homeBytes s pa (scatBytes u.fmt))) (u.v.toNat % 2 ^ (8 * scatBytes u.fmt)))).getD k 0))) := by
  refine ⟨_, { g with scat := rest }, execScatterUpdate_of_memory hg hscat hloc (region_ne_none_of_memory hmem) hafter hpoison hheld, ?_, rfl, ?_⟩
  · rw [group_of_slots (slots_homeWrite _ _ _), State.group_setGroup]
  · have hline := scatWord_within_line halign
    have hkeep (a : Nat) : Keeps a s (s.setGroup p { g with scat := rest }) := .of_eq rfl rfl rfl rfl
    generalize scatMerge u.fmt u.op (leNat (homeBytes s pa (scatBytes u.fmt))) (u.v.toNat % 2 ^ (8 * scatBytes u.fmt)) = v
    have hwrites := writesOnly_homeWrite (bs := leBytes (scatBytes u.fmt) v) (window_of_memory hmem) (by rw [length_leBytes]; exact hline) hkeep
      (List.Subset.refl _)
    rwa [length_leBytes] at hwrites

/-- The fill of a frame brings its page's bytes in and changes no byte that the group reads (R68). -/
theorem frameFill_reads_same {s : State} {p : Place} {g : Group} {page : Fin 64} {f : Frame} (hf : frameOf s p g page = some f) (hfill : f.filling = true)
    (hback : f.back = some (g.pages.get page).back) {off : Nat} (hoff : pageOf off = page) (hs : keySettled s (backAddr g off)) :
    spadByte (touchFrame (fillFrame s (coreOf p) f) p { f with filling := false }) p g off = spadByte s p g off := by
  have hafter : spadByte (touchFrame (fillFrame s (coreOf p) f) p { f with filling := false }) p g off =
      readByte (fillFrame s (coreOf p) f).sram (sramAddr (coreOf p) f.idx off) := by
    rw [spadByte, hoff, frameOf_touchFrame hf]
    rfl
  have hbefore : spadByte s p g off = homeByte s (backAddr g off) := by
    rw [spadByte, hoff, hf]
    exact if_pos hfill
  have haddr : backAddr g off = (g.pages.get page).back.toNat * 2 ^ 16 + off % 2 ^ 16 := by rw [backAddr, hoff]
  rw [hafter, hbefore, readByte_fillFrame hback]
  rw [haddr] at hs ⊢
  exact (keeps_l2Run _ s _ _ _ _ _).byte hs

/-- Settles O50: a buffered store changes no home byte; each of the other events is a write of a line, of a word, or the fill of a frame. -/
theorem writesReachTheirHomePoints : Obligations.WritesReachTheirHomePoints := by
  unfold Obligations.WritesReachTheirHomePoints
  intro s p _ memory only
  refine ⟨?store, ?drain, ?line, ?scatter, ?fill⟩
  case store =>
    intro st g q rest pa va bs hg hq hparts hen hmem hline hmark hbefore buf hnd hroom
    obtain ⟨t, g', hexec, hg', hstores, hx, hhome, hmerged⟩ :=
      storePerform_buffers hg hq hparts hen (region_ne_none_of_memory hmem) hline hmark hbefore hnd hroom
    exact ⟨t, g', hexec, hg', hstores, hx, hhome, fun k hk => hmerged.bufByte_inside hline hk, fun a ha => hmerged.bufByte_outside ha⟩
  case drain =>
    intro cl k e hk hmates hnd hmem hlt hkeys held
    have hexec := execClusterBufferDrain_of_single hk hmates hnd
    exact ⟨fun h => hexec.trans (congrArg _ (if_pos h)),
      fun h => ⟨_, hexec.trans (congrArg _ (if_neg (Bool.eq_false_iff.1 h))), drainEntry_writesOnly hk hnd hmem hlt hkeys⟩⟩
  case line =>
    intro q g e w k line lw hg hq hw hstart hdone hafter hk hloc hmore hscales hpoison hmem hlt hkeys held
    obtain ⟨h, hperf⟩ := performItem_of_line (p := p) hg hq hw hstart hdone hafter hk hloc hmore hscales
    have hset (a : Nat) : Keeps a s (s.setGroup p h) := .of_eq rfl rfl rfl rfl
    refine ⟨fun hh => congrArg Host.Outcome.next (hperf.trans (if_pos hh)),
      fun hh => ⟨_, congrArg Host.Outcome.next (hperf.trans (if_neg (Bool.eq_false_iff.1 hh))), ?_⟩⟩
    rw [performLine_of_line hloc hmore hscales hpoison (show region (s.setGroup p h) _ ≠ _ from region_ne_none_of_memory hmem)]
    exact writesOnly_homeWriteLine (window_of_memory hmem) hlt hkeys (fun a => (hset a).trans (keeps_l2Touch a _ _ _ _ _)) (homeSide_l2Touch _ _ _ _ _).poison
  case scatter =>
    intro g u rest pa hg hscat hloc hmem hafter hpoison halign hheld n
    exact scatterUpdate_writesOnly hg hscat hloc hmem hafter hpoison halign hheld
  case fill =>
    intro g page f hg hf hfill halloc hback
    have hexec : exec (.scratchpadFrameFill p page) s = .next (touchFrame (fillFrame s (coreOf p) f) p { f with filling := false }) := by
      show execScratchpadFrameFill p page s = _
      simp only [execScratchpadFrameFill, hg, hf, hfill, if_true]
    exact ⟨_, hexec, ⟨_, frameOf_touchFrame hf _ false, rfl⟩,
      ⟨fun x hx => absurd hx List.not_mem_nil, fun a _ hs _ => (keeps_fillFrame hback a (coreOf p)).byte hs⟩,
      fun off hoff hs => frameFill_reads_same hf hfill hback hoff hs⟩

end Sys2Proof.Machine
end

section
/-! PROOFS. The load at the head of a queue is performed (R65, R86 to R88, R215). -/

namespace Sys2Proof.Machine

open Sys2Proof

/-! ## Extension (R173, R215) -/

/-- The sign extension of R173 is that of bit vectors. -/
theorem sext64_eq_signExtend (x : BitVec 64) {w : Nat} (h0 : 0 < w) (h64 : w ≤ 64) : sext64 x w = (x.setWidth w).signExtend 64 := by
  obtain rfl | hlt := Nat.eq_or_lt_of_le h64
  · rw [sext64, if_neg (by decide), if_pos (Nat.le_refl _), BitVec.setWidth_eq, BitVec.signExtend_eq]
  · have hpow : 2 ^ w < 2 ^ 64 := Nat.pow_lt_pow_right (by decide) hlt
    have hmask : (x &&& BitVec.ofNat 64 (2 ^ w - 1)).toNat = x.toNat % 2 ^ w := by
      rw [BitVec.toNat_and, BitVec.toNat_ofNat, Nat.mod_eq_of_lt (by omega), Nat.and_two_pow_sub_one_eq_mod]
    have hle : x.toNat % 2 ^ w < 2 ^ w := Nat.mod_lt _ (Nat.pow_pos (by decide))
    have hmsb : (x.setWidth w).msb = x.getLsbD (w - 1) := by
      rw [BitVec.msb_eq_getLsbD_last, BitVec.getLsbD_setWidth, decide_eq_true (by omega), Bool.true_and]
    apply BitVec.eq_of_toNat_eq
    rw [BitVec.toNat_signExtend, hmsb, BitVec.toNat_setWidth, BitVec.toNat_setWidth, Nat.mod_eq_of_lt (a := x.toNat % 2 ^ w) (by omega), sext64,
      if_neg (by omega), if_neg (by omega)]
    split
    · rw [BitVec.toNat_sub, hmask, BitVec.toNat_ofNat, Nat.mod_eq_of_lt hpow, Nat.mod_eq_of_lt (by omega)]
      omega
    · rw [hmask, Nat.add_zero]

/-- The value of a load, by its size and extension (R215). -/
theorem extendLoad_eq (bytes : List Byte) {n : Nat} (hn : n = 1 ∨ n = 2 ∨ n = 4 ∨ n = 8) (signed : Bool) : extendLoad bytes n signed =
    if signed then (BitVec.ofNat (8 * n) (leNat bytes)).signExtend 64 else BitVec.ofNat 64 (leNat bytes) := by
  have hwidth : (BitVec.ofNat 64 (leNat bytes)).setWidth (8 * n) = BitVec.ofNat (8 * n) (leNat bytes) := by
    apply BitVec.eq_of_toNat_eq
    rw [BitVec.toNat_setWidth, BitVec.toNat_ofNat, BitVec.toNat_ofNat, Nat.mod_mod_of_dvd _ (Nat.pow_dvd_pow 2 (by omega))]
  rw [extendLoad, sext64_eq_signExtend _ (by omega) (by omega), hwidth]

/-! ## The pages of an access (R68) -/

/-- A page that is ready is at most used more recently: memory and the scratchpad SRAM stay. -/
theorem ensureFrame_ready {s s2 : State} {p : Place} {g : Group} {page : Fin 64} (h : ensureFrame s p g page = .ready s2) :
    s2.sram = s.sram ∧ ∀ a, Keeps a s s2 := by
  unfold ensureFrame at h
  split at h
  · split at h
    · cases h
    · cases h; exact ⟨rfl, fun a => .of_eq rfl rfl rfl rfl⟩
  · split at h
    · split at h <;> cases h
    · cases h; exact ⟨rfl, fun a => .refl a s⟩

theorem readyPages_ready {s s2 : State} {p : Place} {g : Group} {l : Loc} (h : readyPages s p g [l] = .ready s2) :
    s2.sram = s.sram ∧ ∀ a, Keeps a s s2 := by
  cases l with
  | spad off => exact ensureFrame_ready h
  | mem pa => cases h; exact ⟨rfl, fun a => .refl a s⟩

/-- A run none of whose lines is poisoned is read without fault. -/
theorem readRun_clean {s : State} {p : Place} {g : Group} {t : Stream} {m : Nat} {l : Loc} {n : Nat} (h : ∀ k, k < n → locPoisoned s p g (l.plus k) = false) :
    (readRun s p g t m l n).bad = [] := by
  show ((List.range n).map l.plus).filter _ = []
  rw [List.filter_eq_nil_iff]
  intro x hx
  obtain ⟨k, hk, rfl⟩ := List.mem_map.1 hx
  rw [h k (List.mem_range.1 hk), Bool.and_false]
  exact Bool.false_ne_true

/-! ## The load -/

/-- The request at an L2 that a load of a run makes where a byte of it comes from its home point (R22, R88). -/
def loadTouched (s : State) (p : Place) (g : Group) (t : Stream) (m : Nat) (va n : Nat) : Loc → State
  | .mem pa => if (List.range n).any (fun i => fromHome s p t m (.mem (pa + i))) then l2Touch s pa (some (g.lr.asid, va)) false false else s
  | .spad _ => s

theorem loadTouched_keeps (s : State) (p : Place) (g : Group) (t : Stream) (m va n : Nat) (l : Loc) :
    (loadTouched s p g t m va n l).sram = s.sram ∧ ∀ a, Keeps a s (loadTouched s p g t m va n l) := by
  unfold loadTouched
  split
  · split
    · exact ⟨(homeSide_l2Touch _ _ _ _ _).sram, fun a => keeps_l2Touch a _ _ _ _ _⟩
    · exact ⟨rfl, fun a => .refl a s⟩
  · exact ⟨rfl, fun a => .refl a s⟩

/-- A scalar load that is performed: x(d) is filled with what it read, and it leaves its queue. -/
theorem performLoad_scalar {s s2 : State} {p : Place} {st : StreamId} {g : Group} {d : BitVec 6} {n va : Nat} {loc : Loc} {signed : Bool} {req : LoadReq}
    {rest : List LoadReq} (hg : s.group p = some g) (hl : (g.stream st).loads = req :: rest) (hd : req.dest = .scalar d n signed)
    (hp : req.parts = [{ loc := loc, va := va, n := n, pos := 0 }]) (hdue : 8 ≤ ((s.cores.get (coreOf p)).cycle - req.issued).toNat)
    (hfar : ∀ pa, loc = .mem pa → farHeld s (dieOfPlace p) pa = false) (hmark : markClear s p { g.stream st with loads := [] } req.mark = true)
    (hlock : loc.locked s p n = false) (hready : readyPages s p g [loc] = .ready s2)
    (hclean : (readRun s2 p g (g.stream st) req.after loc n).bad = []) :
    ∃ cum seen, performLoad s p st = (loadTouched s2 p g (g.stream st) req.after va n loc).setGroup p (g.setStream st
      (({ g.stream st with loads := rest, loadsDone := (g.stream st).loadsDone + 1, cum := cum, seen := seen } : Stream).fill d
        (extendLoad (readRun s2 p g (g.stream st) req.after loc n).bytes n signed))) := by
  have hdest : loadReady s p req = true := by
    simp only [loadReady, hd, hp, dueFrom, List.any_cons, List.any_nil, Bool.or_false, decide_eq_true hdue, Bool.true_and, Bool.not_eq_true']
    cases loc with
    | mem pa => exact hfar pa rfl
    | spad off => rfl
  have hgo : ¬ (!loadReady s p req || !markClear s p { g.stream st with loads := [] } req.mark || req.parts.any (fun x => x.loc.locked s p x.n)) = true := by
    simp only [hdest, hmark, hp, List.any_cons, hlock, List.any_nil, Bool.or_self, Bool.not_true, Bool.false_eq_true, not_false_iff]
  rw [hp] at hgo
  have hnone : firstOfLines [] = [] := rfl
  refine ⟨?cum, ?seen, ?perf⟩
  case perf =>
    simp only [performLoad, hg, hl, if_neg hgo, hp, List.map_cons, List.map_nil, hready, List.flatMap_cons, List.flatMap_nil, hclean, List.append_nil, hnone,
      ne_eq, not_true_eq_false, false_and, if_false, List.foldl_nil, List.foldl_cons, List.zip_cons_cons, List.zip_nil_right, hd, deliver, List.head?_cons,
      Option.map_some, Option.getD_some, Group.stream_setStream, Group.setStream_setStream]
    rfl

/-- Settles O23: the load fills its register, and reads through an L2 at most. -/
theorem loadedDataReachesItsRegister : Obligations.LoadedDataReachesItsRegister := by
  unfold Obligations.LoadedDataReachesItsRegister
  intro s s2 p st g d n loc signed req rest hg hl hd hp hn hdue hfar hmark hlock hready hpoison v
  obtain ⟨va, hp⟩ := hp
  have hclean := readRun_clean (t := g.stream st) (m := req.after) hpoison
  obtain ⟨cum, seen, hperf⟩ := performLoad_scalar hg hl hd hp hdue hfar hmark hlock hready hclean
  obtain ⟨hsram2, hkeep2⟩ := readyPages_ready hready
  obtain ⟨hsram, hkeep⟩ := loadTouched_keeps s2 p g (g.stream st) req.after va n loc
  rw [extendLoad_eq _ hn, readRun_bytes_of_clean hclean] at hperf
  generalize ht : ({ g.stream st with loads := rest, loadsDone := (g.stream st).loadsDone + 1, cum := cum, seen := seen } : Stream) = t at hperf
  have hold (j : BitVec 6) : t.getX j = (g.stream st).getX j := by rw [← ht]; rfl
  refine ⟨_, _, congrArg Host.Outcome.next hperf, State.group_setGroup _ p _, ?_, ?_, ?_, fun j hj => ?_, hsram.trans hsram2,
    fun a hs => ((hkeep2 a).trans (hkeep a)).byte hs⟩ <;> rw [Group.stream_setStream]
  · by_cases h0 : d = 0
    · rw [if_pos h0, h0]; rfl
    · rw [if_neg h0, getX_fill, getX_setX_self t h0]
  · exact hasFull_fill_self t d _
  · exact (show (t.setX d _).loads = t.loads by unfold Stream.setX; split <;> rfl).trans (by rw [← ht])
  · rw [getX_fill, getX_setX_ne t hj, hold]

end Sys2Proof.Machine
end

section
/-! PROOFS. The instructions of the reorder rings (R65, R75, R104, R230 to R232, R310). -/

namespace Sys2Proof.Machine

open Sys2Proof

/-! ## The descriptor (R231) -/

/-- A ring instruction whose descriptor reads well goes by the ring. -/
theorem withRing_of_ring {a : BitVec 6} {e : Env} {s2 : State} {pa : Nat} {k : Ring} (ho : object e (e.t.getX a) 64 64 1 Cause.rgDesc = .ok s2 pa)
    (hr : readRing s2 pa = some k)
    (hp : (List.range ((bitmapBytes k.n.log2 + 64 + 127 + pa % 128) / 128)).any (fun i => poisoned s2 (pa + 128 * i)) = false)
    (f : State → Nat → Ring → Act State) : withRing a e f = f s2 pa k := by
  simp only [withRing, ho, hr, hp, Bool.false_eq_true, if_false]

/-- What a ring that reads well is: its size is a power of two, and it lies in one frame of 64 KiB with its bitmap (R230, R231). -/
theorem readRing_some {s : State} {pa : Nat} {k : Ring} (h : readRing s pa = some k) :
    k.n = 2 ^ k.n.log2 ∧ pa % 65536 + 64 + bitmapBytes k.n.log2 ≤ 65536 := by
  unfold readRing at h
  dsimp only at h
  split at h
  · exact absurd h (by simp)
  · rename_i hok
    obtain rfl := Option.some.inj h
    simp only [not_or, not_lt] at hok
    obtain ⟨-, -, -, -, -, -, -, -, -, -, -, -, hfit⟩ := hok
    dsimp only
    rw [Nat.log2_two_pow]
    exact ⟨rfl, hfit⟩

/-- A translation that fails gives no object. -/
theorem faultStream_no_object {s s2 : State} {p : Place} {g : Group} {st : StreamId} {va : BitVec 64} {kind : BitVec 2} {c : BitVec 10} {l : BitVec 3} {pa : Nat}
    (h : faultStream s p g st va kind c l Obj.wait Obj.trap = .ok s2 pa) : False := by
  unfold faultStream at h
  dsimp only at h
  split at h
  · cases h
  · split at h <;> cases h

/-- An object is in HBM (R444). -/
theorem object_ok {e : Env} {va : BitVec 64} {align size : Nat} {kind : BitVec 2} {own : BitVec 10} {s2 : State} {pa : Nat}
    (h : object e va align size kind own = .ok s2 pa) : pa / 2 ^ 48 < 4 := by
  unfold object at h
  split at h
  · cases h
  · split at h
    · cases h
    · split at h
      · cases h
      · exact (faultStream_no_object h).elim
      · split at h
        · cases h
        · rename_i hh
          split at h
          · cases h
          · cases h
            exact window_of_memory (.inl (by simpa using hh))

/-! ## The instructions -/

section
variable {e : Env} {d a b : BitVec 6} {s2 : State} {pa : Nat} {k : Ring} (ho : object e (e.t.getX a) 64 64 1 Cause.rgDesc = .ok s2 pa)
  (hr : readRing s2 pa = some k)
  (hp : (List.range ((bitmapBytes k.n.log2 + 64 + 127 + pa % 128) / 128)).any (fun i => poisoned s2 (pa + 128 * i)) = false)
include ho hr hp

theorem rgtkt_of_ring (hf : e.t.fulls [a]) (hd : e.t.isFull d = true) : rgtkt d a e =
    if k.next - k.reld < k.n then
      .done ((homeWrite8 s2 (pa + 0x18) (BitVec.ofNat 64 (k.next + 1))).setGroup e.p
        ((e.g.holdTicket (e.t.getX a) (BitVec.ofNat 64 k.next)).setStream e.st (e.t.arrive d (BitVec.ofNat 64 k.next))))
    else .done (s2.setGroup e.p (e.g.setStream e.st (e.t.arrive d (BitVec.allOnes 64)))) := by
  rw [rgtkt, reads_of_fulls hf, writes_of_full hd, withRing_of_ring ho hr hp]

theorem rgfill_of_ring (hf : e.t.fulls [a, b]) (hrel : releaseDone e.s e.p e.t 4 = true) : rgfill a b e =
    if k.head ≤ (e.t.getX b).toNat ∧ (e.t.getX b).toNat < k.next ∧ ringBit s2 pa k (e.t.getX b).toNat = false then
      .done ((setRingBit (ringTouch s2 e (e.t.getX a) pa [bitAddr pa k (e.t.getX b).toNat] true) pa k (e.t.getX b).toNat true).setGroup e.p
        ({ e.g with tkts := e.g.tkts.filter (· ≠ (e.t.getX a, e.t.getX b)) }.setStream e.st { e.t with mark := e.t.mark + 1 }))
    else .trapIn s2 (.plain Cause.rgTicket) := by
  rw [rgfill, reads_of_fulls hf, if_neg (by rw [hrel]; decide), withRing_of_ring ho hr hp]

/-- The tickets that RGTAKE takes, at most n of them where n is given (R231). -/
def takenRun (s : State) (pa : Nat) (k : Ring) (n : Nat) : Nat :=
  filledRun s pa k k.head (Nat.min (if n = 0 ∨ k.n < n then k.n else n) (k.next - k.head))

/-- The ring once RGTAKE has taken its tickets. -/
def ringTaken (e : Env) (va : BitVec 64) (s : State) (pa : Nat) (k : Ring) (got : Nat) : State :=
  homeWrite8 (ringTouch s e va pa ((List.range (Nat.min (got + 1) (k.next - k.head))).map (fun i => bitAddr pa k (k.head + i))) false) (pa + 0x20)
    (BitVec.ofNat 64 (k.head + got))

theorem rgtake_of_ring (hf : e.t.fulls [a, b]) (hd : e.t.isFull d = true) {n got : Nat} {va : BitVec 64} (hva : e.t.getX a = va) (hn : (e.t.getX b).toNat = n)
    (hgot : takenRun s2 pa k n = got) : rgtake d a b e = .done ((ringTaken e va s2 pa k got).setGroup e.p (e.g.setStream e.st
      ((e.t.arrive d (BitVec.ofNat 64 (k.head % 2 ^ 47 * 2 ^ 17 + got))).acquire e.p e.st 4 (pairedWith (ringTaken e va s2 pa k got) e.p e.st
        ((List.range (64 + bitmapBytes k.n.log2)).map (fun i => .mem (pa + i))))))) := by
  subst hva hn hgot
  rw [rgtake, reads_of_fulls hf, writes_of_full hd, withRing_of_ring ho hr hp]
  rfl

theorem rgrel_of_ring (hf : e.t.fulls [a, b]) (hrel : releaseDone e.s e.p e.t 4 = true) : rgrel a b e =
    if k.reld + (e.t.getX b).toNat ≤ k.head then
      .done (homeWriteAll (ringTouch s2 e (e.t.getX a) pa ((releaseBytes s2 pa k (e.t.getX b).toNat).map (·.1)) true) (releaseBytes s2 pa k (e.t.getX b).toNat))
    else .trapIn s2 (.plain Cause.rgTicket) := by
  rw [rgrel, reads_of_fulls hf, if_neg (by rw [hrel]; decide), withRing_of_ring ho hr hp]

end

/-! ## The release of tickets (R104, R231) -/

/-- Whether a bit of a bitmap is that of one of the n tickets from RELD on. -/
def goneBit (k : Ring) (n i : Nat) : Bool := decide (i < k.n ∧ (i + k.n - k.reld % k.n) % k.n < n)

theorem goneBit_iff {k : Ring} {n i : Nat} (hi : i < k.n) : goneBit k n i = true ↔ ∃ j, j < n ∧ i = (k.reld + j) % k.n := by
  have hr : k.reld % k.n < k.n := Nat.mod_lt _ (by omega)
  rw [goneBit, decide_eq_true_iff]
  constructor
  · rintro ⟨-, h⟩
    refine ⟨_, h, ?_⟩
    rw [← Nat.mod_add_mod, Nat.add_mod_mod, show k.reld % k.n + (i + k.n - k.reld % k.n) = i + k.n by omega, Nat.add_mod_right, Nat.mod_eq_of_lt hi]
  · rintro ⟨j, hj, rfl⟩
    refine ⟨hi, Nat.lt_of_le_of_lt (Nat.le_of_eq ?_) (Nat.lt_of_le_of_lt (Nat.mod_le j k.n) hj)⟩
    have hq := Nat.mod_add_div (k.reld % k.n + j) k.n
    rw [Nat.mod_add_mod] at hq
    rw [← Nat.add_mul_mod_self_left _ k.n ((k.reld % k.n + j) / k.n),
      show (k.reld + j) % k.n + k.n - k.reld % k.n + k.n * ((k.reld % k.n + j) / k.n) = j + k.n by omega, Nat.add_mod_right]

/-- A byte of a bitmap with the bits of the released tickets cleared. -/
def clearedByte (k : Ring) (n j : Nat) (v : Byte) : Byte :=
  (List.range 8).foldl (fun (v : Byte) b => if goneBit k n (8 * j + b) then v &&& ~~~(1#8 <<< b) else v) v

theorem releaseBytes_eq (s : State) (pa : Nat) (k : Ring) (n : Nat) : releaseBytes s pa k n =
    ((List.range (bitmapBytes k.n.log2)).filter (fun j => (List.range 8).any (fun b => goneBit k n (8 * j + b)))).map
      (fun j => (pa + 0x40 + j, clearedByte k n j (homeByte s (pa + 0x40 + j)))) ++
    (leBytes 8 (k.reld + n)).zipIdx.map (fun x => (pa + 0x28 + x.2, x.1)) := rfl

theorem getLsbD_clear_bit (v : Byte) {b i : Nat} (hi : i < 8) : (v &&& ~~~(1#8 <<< b)).getLsbD i = (v.getLsbD i && !decide (i = b)) := by
  simp only [BitVec.getLsbD_and, BitVec.getLsbD_not, BitVec.getLsbD_shiftLeft, BitVec.getLsbD_one, hi, decide_true, Bool.true_and]
  congr 2
  by_cases h : i = b
  · simp [h]
  · by_cases hlt : i < b
    · simp [hlt, h]
    · simp [hlt, h, show ¬ i - b = 0 by omega]

/-- Clearing some bits of a byte one after the other. -/
theorem getLsbD_foldl_clear (P : Nat → Bool) (l : List Nat) (v : Byte) {i : Nat} (hi : i < 8) :
    (l.foldl (fun (v : Byte) b => if P b then v &&& ~~~(1#8 <<< b) else v) v).getLsbD i = (v.getLsbD i && !(l.contains i && P i)) := by
  induction l generalizing v with
  | nil => simp
  | cons b l ih =>
    rw [List.foldl_cons, ih, List.contains_cons]
    by_cases hib : i = b
    · subst hib
      by_cases hP : P i = true
      · simp [hP, getLsbD_clear_bit v hi]
      · simp [hP]
    · have hbeq : (i == b) = false := by simpa using hib
      rw [hbeq, Bool.false_or]
      split
      · simp [getLsbD_clear_bit v hi, hib]
      · rfl

theorem getLsbD_clearedByte (k : Ring) (n j : Nat) (v : Byte) {i : Nat} (hi : i < 8) :
    (clearedByte k n j v).getLsbD i = (v.getLsbD i && !goneBit k n (8 * j + i)) := by
  have hmem : (List.range 8).contains i = true := by simpa using hi
  rw [clearedByte, getLsbD_foldl_clear (fun b => goneBit k n (8 * j + b)) _ v hi, hmem, Bool.true_and]

/-- A byte that an update of a slice names stands in memory afterwards, if the update gives it no second value. -/
theorem standsAs_homeWriteAll (s : State) {a : Nat} {x : Byte} (ha : a < 8 * 2 ^ 48) {bs : List (Nat × Byte)} (hx : (a, x) ∈ bs)
    (hu : ∀ b ∈ bs, b.1 = a → b.2 = x) : StandsAs (homeWriteAll s bs) a x := by
  have hput : StandsAs (bs.foldl (fun s b => putHome s b.1 [b.2]) s) a x := by
    refine foldl_brings_about (P := fun s => StandsAs s a x) hx (fun b => ?_) (fun t b hb hne ht => ?_) s
    · exact standsAs_putHome_self b a x
    · have hp : b.1 ≠ a := fun e => hne (Prod.ext e (hu b hb e))
      exact ht.putHome_outside (by simp only [List.length_singleton]; omega)
  cases bs with
  | nil => exact absurd hx List.not_mem_nil
  | cons b bs => exact hput.watchTest ha _ _

/-- The cells of a release: a byte of the bitmap that holds a released ticket's bit, or a byte of RELD. -/
theorem mem_releaseBytes {s : State} {pa : Nat} {k : Ring} {n : Nat} {c : Nat × Byte} : c ∈ releaseBytes s pa k n ↔
    (∃ j, j < bitmapBytes k.n.log2 ∧ ((List.range 8).any (fun b => goneBit k n (8 * j + b))) = true ∧
      c = (pa + 0x40 + j, clearedByte k n j (homeByte s (pa + 0x40 + j)))) ∨
    ∃ i, (leBytes 8 (k.reld + n))[i]? = some c.2 ∧ c.1 = pa + 0x28 + i := by
  rw [releaseBytes_eq, List.mem_append, List.mem_map, List.mem_map]
  constructor
  · rintro (⟨j, hj, rfl⟩ | ⟨x, hx, rfl⟩)
    · obtain ⟨hj, hany⟩ := List.mem_filter.1 hj
      exact .inl ⟨j, List.mem_range.1 hj, hany, rfl⟩
    · exact .inr ⟨x.2, List.mem_zipIdx_iff_getElem?.1 hx, rfl⟩
  · rintro (⟨j, hj, hany, rfl⟩ | ⟨i, hi, hc⟩)
    · exact .inl ⟨j, List.mem_filter.2 ⟨List.mem_range.2 hj, hany⟩, rfl⟩
    · exact .inr ⟨(c.2, i), List.mem_zipIdx_iff_getElem?.2 hi, by rw [← hc]⟩

/-- A cell of a release that lies in the bitmap holds its byte with the released bits cleared. -/
theorem releaseBytes_bitmap {s : State} {pa : Nat} {k : Ring} {n : Nat} {c : Nat × Byte} (hc : c ∈ releaseBytes s pa k n) {j : Nat} (hj : c.1 = pa + 0x40 + j) :
    ((List.range 8).any (fun b => goneBit k n (8 * j + b))) = true ∧ c.2 = clearedByte k n j (homeByte s (pa + 0x40 + j)) := by
  obtain ⟨j', -, hany, rfl⟩ | ⟨i, hi, hci⟩ := mem_releaseBytes.1 hc
  · have : j' = j := by dsimp only at hj; omega
    exact this ▸ ⟨hany, rfl⟩
  · have := (List.getElem?_eq_some_iff.1 hi).1
    rw [length_leBytes] at this
    omega

theorem leNat_leBytes (n v : Nat) : leNat (leBytes n v) = v % 256 ^ n := by
  induction n generalizing v with
  | zero => simp [leBytes, leNat, Nat.mod_one]
  | succ n ih => rw [leBytes, leNat, ih, BitVec.toNat_ofNat, show 256 ^ (n + 1) = 256 * 256 ^ n from Nat.pow_succ', Nat.mod_mul]

/-- The byte of a bit lies in the bitmap (R230). -/
theorem bitByte_lt {n i : Nat} (hn : n = 2 ^ n.log2) (hi : i < n) : i / 8 < bitmapBytes n.log2 := by
  have h8 : 8 ≤ bitmapBytes n.log2 := Nat.le_max_left _ _
  have hall : 2 ^ n.log2 / 8 ≤ bitmapBytes n.log2 := Nat.le_max_right _ _
  have hwhole : n < 8 ∨ 8 ∣ n := by
    rw [hn]
    obtain h | h := Nat.lt_or_ge n.log2 3
    · exact .inl (Nat.pow_lt_pow_right (n := 3) (by decide) h)
    · exact .inr (Nat.pow_dvd_pow 2 h)
  rw [← hn] at hall
  omega

section
variable {s u : State} {pa : Nat} {k : Ring} {n : Nat} (hw : pa / 2 ^ 48 < 4) (hn : k.n = 2 ^ k.n.log2)
  (hfit : pa % 65536 + 64 + bitmapBytes k.n.log2 ≤ 65536)
include hw hfit

/-- After a release RELD has risen by the tickets released (R231). -/
theorem reld_released : homeDword (homeWriteAll u (releaseBytes s pa k n)) (pa + 0x28) = BitVec.ofNat 64 (k.reld + n) := by
  have hlen := length_leBytes 8 (k.reld + n)
  have hbyte (i : Nat) (hi : i < 8) : homeByte (homeWriteAll u (releaseBytes s pa k n)) (pa + 0x28 + i) = (leBytes 8 (k.reld + n))[i] := by
    refine (standsAs_homeWriteAll u (by omega) (mem_releaseBytes.2 (.inr ⟨i, List.getElem?_eq_getElem (by omega), rfl⟩)) ?_).homeByte_eq (by omega)
    intro c hc hca
    obtain ⟨j, -, -, rfl⟩ | ⟨i', hi', hc'⟩ := mem_releaseBytes.1 hc
    · dsimp only at hca; omega
    · have : i' = i := by omega
      subst this
      exact Option.some.inj (hi'.symm.trans (List.getElem?_eq_getElem (by omega)))
  have hbytes : homeBytes (homeWriteAll u (releaseBytes s pa k n)) (pa + 0x28) 8 = leBytes 8 (k.reld + n) := by
    refine List.ext_getElem (by rw [hlen, homeBytes, List.length_map, List.length_range]) (fun i h1 h2 => ?_)
    simp only [homeBytes, List.getElem_map, List.getElem_range]
    exact hbyte i (by omega)
  apply BitVec.eq_of_toNat_eq
  rw [homeDword, homeNat, hbytes, leNat_leBytes, BitVec.toNat_ofNat, BitVec.toNat_ofNat]
  exact Nat.mod_mod_of_dvd _ (by decide)

include hn

/-- After a release the bits of the released tickets are clear and the others stand as before (R104, R231). -/
theorem ringBit_released (hkeep : ∀ a, Keeps a s u) (hset : ∀ a, pa ≤ a → a < pa + 64 + bitmapBytes k.n.log2 → keySettled s a) (t : Nat) :
    ringBit (homeWriteAll u (releaseBytes s pa k n)) pa k t = (ringBit s pa k t && !goneBit k n (t % k.n)) := by
  have hpos : 0 < k.n := by rw [hn]; exact Nat.pow_pos (by decide)
  have hlt : t % k.n < k.n := Nat.mod_lt _ hpos
  have hj : t % k.n / 8 < bitmapBytes k.n.log2 := bitByte_lt hn hlt
  have hbit : 8 * (t % k.n / 8) + t % k.n % 8 = t % k.n := Nat.div_add_mod _ 8
  rw [ringBit, ringBit]
  by_cases hany : ((List.range 8).any (fun b => goneBit k n (8 * (t % k.n / 8) + b))) = true
  · have hstands : StandsAs (homeWriteAll u (releaseBytes s pa k n)) (pa + 0x40 + t % k.n / 8)
        (clearedByte k n (t % k.n / 8) (homeByte s (pa + 0x40 + t % k.n / 8))) := by
      exact standsAs_homeWriteAll u (by omega) (mem_releaseBytes.2 (.inl ⟨_, hj, hany, rfl⟩)) (fun c hc hca => (releaseBytes_bitmap hc hca).2)
    have hbyte := hstands.homeByte_eq (by omega)
    rw [hbyte, getLsbD_clearedByte _ _ _ _ (Nat.mod_lt _ (by decide)), hbit]
  · have hgone : goneBit k n (t % k.n) = false :=
      Bool.eq_false_iff.2 (fun h => hany (List.any_eq_true.2 ⟨t % k.n % 8, List.mem_range.2 (Nat.mod_lt _ (by decide)), by rwa [hbit]⟩))
    have hsame : Keeps (pa + 0x40 + t % k.n / 8) s (homeWriteAll u (releaseBytes s pa k n)) :=
      (hkeep _).trans (keeps_homeWriteAll u (fun c hc hca => hany (releaseBytes_bitmap hc hca).1) (.inr (by omega)))
    rw [hsame.byte (hset _ (by omega) (by omega)), hgone, Bool.not_false, Bool.and_true]

end

theorem ringTouch_keeps (s : State) (e : Env) (va : BitVec 64) (pa : Nat) (as : List Nat) (write : Bool) (a : Nat) : Keeps a s (ringTouch s e va pa as write) :=
  keeps_foldl (fun t _ _ => keeps_l2Touch a t _ _ _ _) s

/-- Settles O31: each instruction by the ring that its descriptor holds; a release by the bytes that it writes. -/
theorem ringInstructionsComplete : Obligations.RingInstructionsComplete := by
  unfold Obligations.RingInstructionsComplete
  intro s s2 g r d a b pa k hc hfull e A B ho hr hp retires got took freed
  have hfa : e.t.fulls [a] := fulls_env_of_subset hfull (by simp)
  have hfab : e.t.fulls [a, b] := fulls_env_of_subset hfull (by simp)
  have hd : e.t.isFull d = true := isFull_env_of_mem hfull (by simp)
  have hA : e.t.getX a = A := getX_taken s g r a
  have hB : e.t.getX b = (s.here g).getX b := getX_taken s g r b
  have ho' : object e (e.t.getX a) 64 64 1 Cause.rgDesc = .ok s2 pa := by rw [hA]; exact ho
  obtain ⟨hn, hfit⟩ := readRing_some hr
  have htkt := rgtkt_of_ring ho' hr hp hfa hd
  rw [hA] at htkt
  refine ⟨fun h => plain_finish hc (htkt.trans (if_pos h)), fun h => plain_finish hc (htkt.trans (if_neg (by omega))), fun hrel h1 h2 h3 => ?_,
    fun hrel h => ?_, plain_finish hc (rgtake_of_ring ho' hr hp hfab hd hA (congrArg BitVec.toNat hB) rfl), fun hrel h => ⟨?_, fun _ hset => ⟨?_, fun t => ?_⟩⟩,
    fun hrel h => ?_⟩
  · have hbody := rgfill_of_ring ho' hr hp hfab hrel
    rw [hA, hB] at hbody
    exact plain_finish hc (hbody.trans (if_pos ⟨h1, h2, h3⟩))
  · have hbody := rgfill_of_ring ho' hr hp hfab hrel
    rw [hA, hB] at hbody
    refine plain_trapIn hc (hbody.trans (if_neg ?_))
    rintro ⟨h1, h2, h3⟩
    obtain h | h | h := h
    · exact absurd h1 (Nat.not_le.2 h)
    · exact absurd h2 (Nat.not_lt.2 h)
    · exact absurd (h3.symm.trans h) Bool.false_ne_true
  · have hbody := rgrel_of_ring ho' hr hp hfab hrel
    rw [hA, hB] at hbody
    exact plain_finish hc (hbody.trans (if_pos h))
  · exact reld_released (object_ok ho) hfit
  · have hpos : 0 < k.n := by rw [hn]; exact Nat.pow_pos (by decide)
    have hbits := ringBit_released (n := B) (object_ok ho) hn hfit (ringTouch_keeps s2 e A pa ((releaseBytes s2 pa k B).map (·.1)) true) hset t
    have hgone : goneBit k B (t % k.n) = decide (∃ i, i < B ∧ t % k.n = (k.reld + i) % k.n) := by
      rw [Bool.eq_iff_iff, goneBit_iff (Nat.mod_lt _ hpos), decide_eq_true_iff]
    rw [hgone] at hbits
    exact hbits
  · have hbody := rgrel_of_ring ho' hr hp hfab hrel
    rw [hA, hB] at hbody
    exact plain_trapIn hc (hbody.trans (if_neg (Nat.not_le.2 h)))

end Sys2Proof.Machine
end

section
/-! PROOFS. SHSET, SHGET and SHLD (R65, R87, R268 to R270, R414, R440): the fields of a shape record, and an instruction that goes on after a wait. -/

namespace Sys2Proof.Machine

open Sys2Proof

/-! ## Fields of a shape record (R268, R269) -/

/-- The numbers of the fields end at 28. -/
theorem shField_lt {f : Nat} {x : Nat × Nat} (h : shField f = some x) : f < 29 := by
  by_contra hf
  rw [shField] at h
  iterate 9 rw [if_neg (by omega)] at h
  cases h

/-- A field lies in the record. -/
theorem shField_fits {f pos w : Nat} (h : shField f = some (pos, w)) : pos + w ≤ 512 := by
  have hall : ∀ f < 29, ∀ x ∈ shField f, x.1 + x.2 ≤ 512 := by decide
  exact hall f (shField_lt h) (pos, w) h

/-- Fields with different numbers have no bit in common. -/
theorem shField_disjoint {f k pos w pos' w' : Nat} (hf : shField f = some (pos, w)) (hk : shField k = some (pos', w')) (h : k ≠ f) :
    pos + w ≤ pos' ∨ pos' + w' ≤ pos := by
  have hall : ∀ f < 29, ∀ k < 29, k ≠ f → ∀ x ∈ shField f, ∀ y ∈ shField k, x.1 + x.2 ≤ y.1 ∨ y.1 + y.2 ≤ x.1 := by decide
  exact hall f (shField_lt hf) k (shField_lt hk) h (pos, w) hf (pos', w') hk

theorem shGet_of_field {f pos w : Nat} (h : shField f = some (pos, w)) (v : BitVec 512) : shGet v f = (v.extractLsb' pos w).toNat := by
  rw [shGet, h]

/-- A record with a field replaced: the field's bits are the new value's, the others as before. -/
theorem getLsbD_shPut {f pos w : Nat} (hf : shField f = some (pos, w)) (x : BitVec 512) (v : Nat) {i : Nat} (hi : i < 512) :
    (shPut x f v).getLsbD i = if pos ≤ i ∧ i < pos + w then v.testBit (i - pos) else x.getLsbD i := by
  have hfit := shField_fits hf
  simp only [shPut, hf, BitVec.getLsbD_or, BitVec.getLsbD_and, BitVec.getLsbD_not, BitVec.getLsbD_shiftLeft, BitVec.getLsbD_ofNat, hi, decide_true,
    Bool.true_and, Nat.testBit_two_pow_sub_one, Nat.testBit_mod_two_pow]
  by_cases hlow : i < pos
  · simp [hlow, show ¬ pos ≤ i by omega]
  · by_cases hhigh : i < pos + w
    · simp [hlow, hhigh, show pos ≤ i by omega, show i - pos < w by omega, show i - pos < 512 by omega]
    · simp [hlow, hhigh, show ¬ i - pos < w by omega]

/-- A replaced field reads as the value it was given (R270). -/
theorem shGet_shPut_self {f pos w v : Nat} (hf : shField f = some (pos, w)) (hv : v < 2 ^ w) (x : BitVec 512) : shGet (shPut x f v) f = v := by
  have hfit := shField_fits hf
  have hbits : (shPut x f v).extractLsb' pos w = BitVec.ofNat w v := by
    apply BitVec.eq_of_getLsbD_eq
    intro i hi
    rw [BitVec.getLsbD_extractLsb', getLsbD_shPut hf x v (by omega), if_pos (by omega), Nat.add_sub_cancel_left, BitVec.getLsbD_ofNat]
  rw [shGet_of_field hf, hbits, BitVec.toNat_ofNat, Nat.mod_eq_of_lt hv]

/-- Every other field reads as before (R270). -/
theorem shGet_shPut_ne {f k pos w : Nat} (hf : shField f = some (pos, w)) (hk : k ≠ f) (x : BitVec 512) (v : Nat) : shGet (shPut x f v) k = shGet x k := by
  cases hfield : shField k with
  | none => rw [shGet, shGet, hfield]
  | some y =>
    obtain ⟨pos', w'⟩ := y
    have hfit := shField_fits hfield
    have hapart := shField_disjoint hf hfield hk
    rw [shGet_of_field hfield, shGet_of_field hfield]
    congr 1
    apply BitVec.eq_of_getLsbD_eq
    intro i hi
    rw [BitVec.getLsbD_extractLsb', BitVec.getLsbD_extractLsb', getLsbD_shPut hf x v (by omega), if_neg (by omega)]

/-- A value that SHSET stores fits its field (R269). -/
theorem shValue_fits {f v : Nat} {x : BitVec 64} (h : shValue f x = some v) : ∃ pos w, shField f = some (pos, w) ∧ v < 2 ^ w := by
  unfold shValue at h
  split at h
  · cases h
  · rename_i pos w hf
    refine ⟨pos, w, hf, ?_⟩
    split at h <;> split at h <;> cases h
    · subst w; exact (x.extractLsb' 0 40).isLt
    · assumption

/-- What SHGET reads: a stride as the two's complement number in its 40 bits, any other field as an unsigned one (R270). -/
theorem shRead_eq (h : BitVec 512) (f : Nat) : shRead h f =
    if 16 ≤ f ∧ f ≤ 20 then BitVec.ofInt 64 ((BitVec.ofNat 40 (shGet h f)).toInt) else BitVec.ofNat 64 (shGet h f) := by
  unfold shRead
  split
  · rename_i hf
    have hfield : shField f = some (224 + 40 * (f - 16), 40) := by
      rw [shField]
      iterate 7 rw [if_neg (by omega)]
      exact if_pos hf
    rw [shGet_of_field hfield, BitVec.ofNat_toNat, BitVec.setWidth_eq, BitVec.signExtend]
  · rfl

/-- The constraints of R269 on the fields that have one. -/
theorem fieldFault_tag_reserved {v : Nat} (h : 13 ≤ v) : fieldFault 1 v = some Cause.tagRsvd := if_pos h

theorem fieldFault_rank_iff (v : Nat) : fieldFault 2 v = none ↔ 1 ≤ v ∧ v ≤ 5 := by
  show (if 1 ≤ v ∧ v ≤ 5 then none else some Cause.shInval) = none ↔ _
  split <;> simp [*]

theorem fieldFault_swizzle_iff (v : Nat) : fieldFault 4 v = none ↔ v ≤ 3 := by
  show (if v ≤ 3 then none else some Cause.shInval) = none ↔ _
  split <;> simp [*]

theorem fieldFault_stride0_iff (v : Nat) : fieldFault 16 v = none ↔ v = 0 := by
  show (if v = 0 then none else some Cause.shInval) = none ↔ _
  split <;> simp [*]

/-! ## SHSET (R270) -/

section
variable {e : Env} {h : BitVec 4} {a f : BitVec 6} {x : BitVec 64} (hf : e.t.fulls [a]) (hx : e.t.getX a = x)
include hf hx

theorem shset_out_of_range (hv : shValue f.toNat x = none) : shset h a f e = .trap (.plain Cause.shInval) := by
  rw [shset, reads_of_fulls hf, hx, hv]

theorem shset_faulty {v : Nat} {c : BitVec 10} (hv : shValue f.toNat x = some v) (hc : fieldFault f.toNat v = some c) :
    shset h a f e = .trap (.plain c) := by
  rw [shset, reads_of_fulls hf, hx, hv]
  dsimp only
  rw [hc]

theorem shset_allowed {v : Nat} (hv : shValue f.toNat x = some v) (hc : fieldFault f.toNat v = none) :
    shset h a f e = .done (e.s.setGroup e.p { e.g with h := e.g.h.set h.toNat (shPut (e.g.h.get h.toFin) f.toNat v) h.isLt }) := by
  rw [shset, reads_of_fulls hf, hx, hv]
  dsimp only
  rw [hc]

end

/-! ## SHLD (R270, R414, R440) -/

/-- SHLD once its page is open: it reads the line, and loads the record or raises its cause. -/
def shldTakes (h : BitVec 4) (va : BitVec 64) (tgt : Target) (e : Env) (s : State) : Act State :=
  let run := readRun s e.p e.g e.t e.t.storesIn tgt.loc 64
  let v := BitVec.ofNat 512 (leNat run.bytes)
  let u := waitaTouched e s va tgt
  if run.bad ≠ [] then .trapIn s (Trap.at Cause.mcEcc va 0)
  else match recordFault v with
    | some c => .trapIn u (.plain c)
    | none => .done (u.setGroup e.p ({ e.g with h := e.g.h.set h.toNat v h.isLt }.setStream e.st
        { e.t with cum := (e.t.cum ++ run.bufs).dedup, seen := (e.t.seen ++ pairedWith u e.p e.st (foreignLocs e.t tgt.loc 64)).dedup }))

section
variable {e : Env} {h : BitVec 4} {a : BitVec 6} {va : BitVec 64} (hf : e.t.fulls [a]) (hva : e.t.getX a = va)
include hf hva

theorem shld_misaligned (hal : va.toNat % 64 ≠ 0) : shld h a e = .trap (Trap.at Cause.memAlign va 0) := by
  rw [shld, reads_of_fulls hf, hva]
  exact if_pos hal

variable {s2 : State} (hal : va.toNat % 64 = 0)
include hal

theorem shld_dcr {die : DieId} {off : Nat} (hr : reach e va 0 false = .ok s2 (.dcr die off)) :
    shld h a e = .trapIn s2 (Trap.at Cause.dcrSize va 0) := by
  rw [shld, reads_of_fulls hf, hva]
  dsimp only
  rw [if_neg (by omega), hr]

variable {tgt : Target} (hr : reach e va 0 false = .ok s2 tgt) (ht : ∀ die off, tgt ≠ .dcr die off)
include hr ht

/-- SHLD of the scratchpad or of memory goes by whether its data can be there yet (R440). -/
theorem shld_reaches : shld h a e =
    if !loadTurn s2 e.p e.t || tgt.loc.locked s2 e.p 64 || !dueFrom e.now (e.t.issuedAt e.now) then e.onItsWay s2
    else match readyPages s2 e.p e.g [tgt.loc] with
      | .wait s => e.onItsWay s
      | .ready s => shldTakes h va tgt e s := by
  rw [shld, reads_of_fulls hf, hva]
  dsimp only
  rw [if_neg (by omega), hr]
  cases tgt with
  | dcr die off => exact absurd rfl (ht die off)
  | _ => rfl

theorem shld_not_due (hdue : dueFrom e.now (e.t.issuedAt e.now) = false) : shld h a e = e.onItsWay s2 := by
  rw [shld_reaches hf hva hal hr ht, if_pos (by rw [hdue, Bool.not_false, Bool.or_true])]

theorem shld_due {s3 : State} (hturn : loadTurn s2 e.p e.t = true) (hlock : tgt.loc.locked s2 e.p 64 = false)
    (hdue : dueFrom e.now (e.t.issuedAt e.now) = true) (hready : readyPages s2 e.p e.g [tgt.loc] = .ready s3) :
    shld h a e = shldTakes h va tgt e s3 := by
  rw [shld_reaches hf hva hal hr ht, if_neg (by rw [hturn, hlock, hdue]; decide), hready]

end

section
variable {e : Env} {h : BitVec 4} {va : BitVec 64} {tgt : Target} {s : State}

theorem shldTakes_poisoned (hbad : (readRun s e.p e.g e.t e.t.storesIn tgt.loc 64).bad ≠ []) :
    shldTakes h va tgt e s = .trapIn s (Trap.at Cause.mcEcc va 0) := if_pos hbad

variable {v : BitVec 512} (hbad : (readRun s e.p e.g e.t e.t.storesIn tgt.loc 64).bad = [])
  (hv : BitVec.ofNat 512 (leNat (readRun s e.p e.g e.t e.t.storesIn tgt.loc 64).bytes) = v)
include hbad hv

theorem shldTakes_faulty {c : BitVec 10} (hc : recordFault v = some c) : shldTakes h va tgt e s = .trapIn (waitaTouched e s va tgt) (.plain c) := by
  simp only [shldTakes, hbad, ne_eq, not_true_eq_false, if_false, hv, hc]

theorem shldTakes_clean (hc : recordFault v = none) : ∃ cum seen, shldTakes h va tgt e s = .done ((waitaTouched e s va tgt).setGroup e.p
    ({ e.g with h := e.g.h.set h.toNat v h.isLt }.setStream e.st { e.t with cum := cum, seen := seen })) := by
  simp only [shldTakes, hbad, ne_eq, not_true_eq_false, if_false, hv, hc]
  exact ⟨_, _, rfl⟩

end

/-- The cause of a record: that of its first failing field, or else SH_INVAL for the record (R270). -/
theorem recordFault_of_field {v : BitVec 512} {c : BitVec 10} (h : [1, 2, 4, 16].findSome? (fun k => fieldFault k (shGet v k)) = some c) :
    recordFault v = some c := by
  rw [recordFault, h]

theorem recordFault_of_fields {v : BitVec 512} (h : [1, 2, 4, 16].findSome? (fun k => fieldFault k (shGet v k)) = none) :
    recordFault v = if (Shape.of v).recordOk then none else some Cause.shInval := by
  rw [recordFault, h]

/-- The read of a record keeps every byte at its home point (R22). -/
theorem waitaTouched_keeps (a : Nat) (e : Env) (s : State) (va : BitVec 64) (tgt : Target) : Keeps a s (waitaTouched e s va tgt) := by
  cases tgt with
  | mem pa _ => exact keeps_l2Touch a s pa _ _ _
  | _ => exact .refl a s

/-! ## An instruction that goes on after a wait (R45, R65, R384) -/

/-- The destination of a waiting instruction is all that its next try puts back. -/
theorem refill_eq (t : Stream) : t.refill = { t with full := t.refill.full } := by
  unfold Stream.refill
  split <;> rfl

theorem isFull_refill {t : Stream} {i : BitVec 6} (h : t.isFull i = true) : t.refill.isFull i = true := by
  unfold Stream.refill
  split
  · exact h
  · simp only [Stream.isFull, Bool.or_eq_true, Bool.and_eq_true, BitVec.getLsbD_or] at h ⊢
    exact h.imp id (fun k => ⟨.inl k.1, k.2⟩)

/-- The stream as an instruction sees it that tries again. -/
theorem again_t (s : State) (g : Group) : (s.again g).t = (s.here g).refill := Group.stream_setStream g _ _

section
variable {s s2 : State} {g : Group} {roles : List StreamId} {r ev : BitVec 4} {body : Env → Act State} (h : CanGoOn s g roles r)
include h

/-- The next try of an instruction that has waited is what its body's answer comes to. -/
theorem plain_again : plain roles r ev body s =
    .next (settleAct (s.again g).s s (s.again g) r ev (fun _ s => s) (body (s.again g))) := by
  have ht : (g.stream s.curStream).took.isNone = false := by
    rw [← Option.not_isSome, show (g.stream s.curStream).took.isSome = true from h.taken]; rfl
  simp only [plain, plainThen, h.bound, h.issue, h.role, ht, Bool.true_eq_false, if_false, Bool.false_and, Bool.false_eq_true]
  rfl

theorem plain_again_trapIn {x : Trap} (hb : body (s.again g) = .trapIn s2 x) : plain roles r ev body s = .next (s.trapsIn s2 g x) := by
  have hpc : (s.again g).t.pc = (s.here g).pc := by rw [again_t, refill_eq]
  rw [plain_again h, hb]
  simp only [settleAct, hpc]
  rfl

theorem plain_again_finish (hb : body (s.again g) = .done s2) : plain roles r ev body s = .next (s2.finishAt s.curPlace s.curStream r ev) := by
  rw [plain_again h, hb]
  exact congrArg _ (if_pos h.place)

end

/-! ## Retirement leaves the registers (R45, R46, R185, R387, R405) -/

/-- The scalar, condition, vector, tile, predicate and shape registers that a stream of a group sees are the same in two groups. -/
structure SameRegisters (st : StreamId) (g h : Group) : Prop where
  scalars : (h.stream st).x = (g.stream st).x
  conds : (h.stream st).c = (g.stream st).c
  vectors : h.v = g.v
  tiles : h.t = g.t
  preds : h.p = g.p
  shapes : h.h = g.h

theorem SameRegisters.refl (st : StreamId) (g : Group) : SameRegisters st g g := ⟨rfl, rfl, rfl, rfl, rfl, rfl⟩

theorem SameRegisters.trans {st : StreamId} {g h k : Group} (a : SameRegisters st g h) (b : SameRegisters st h k) : SameRegisters st g k :=
  ⟨b.scalars.trans a.scalars, b.conds.trans a.conds, b.vectors.trans a.vectors, b.tiles.trans a.tiles, b.preds.trans a.preds, b.shapes.trans a.shapes⟩

/-- A stream whose scalar and condition registers stay. -/
theorem sameRegisters_setStream {st o : StreamId} {g : Group} {t : Stream} (hx : t.x = (g.stream o).x) (hc : t.c = (g.stream o).c) :
    SameRegisters st g (g.setStream o t) := by
  by_cases ho : st = o
  · subst ho
    exact ⟨by rw [Group.stream_setStream, hx], by rw [Group.stream_setStream, hc], rfl, rfl, rfl, rfl⟩
  · exact ⟨by rw [Group.stream_setStream_ne _ _ ho], by rw [Group.stream_setStream_ne _ _ ho], rfl, rfl, rfl, rfl⟩

theorem sameRegisters_returnTok (st o : StreamId) (g : Group) (r : BitVec 4) (sets : List Nat × List Nat) : SameRegisters st g (returnTok g o r sets) := by
  rw [returnTok_eq]; exact ⟨rfl, rfl, rfl, rfl, rfl, rfl⟩

theorem sameRegisters_cancelStream (st o : StreamId) (g : Group) : SameRegisters st g (cancelStream g o) := by
  have hunwait (k : Group) : SameRegisters st k (k.setStream o { (k.stream o).unwait with took := none, tookSets := ([], []), faults := [], answer := none }) :=
    sameRegisters_setStream (by rw [Stream.unwait, refill_eq]) (by rw [Stream.unwait, refill_eq])
  unfold cancelStream
  dsimp only
  split
  · exact .refl st g
  · split
    · exact (sameRegisters_returnTok st o g _ _).trans (hunwait _)
    · exact hunwait g

theorem sameRegisters_askStop (st : StreamId) (g : Group) (c : BitVec 10) : SameRegisters st g (askStop g c) := by
  have hall : SameRegisters st g (StreamId.all.foldl cancelStream g) :=
    List.foldlRecOn (motive := SameRegisters st g) _ _ (.refl st g) (fun _ h o _ => h.trans (sameRegisters_cancelStream st o _))
  unfold askStop cancelStreams
  generalize StreamId.all.foldl cancelStream g = k at hall ⊢
  exact hall.trans ⟨rfl, rfl, rfl, rfl, rfl, rfl⟩

/-- The update of the PC pair changes the pair, the loops and how old the fetched words may be (R185, R203, R206). -/
theorem advance_eq (s : State) (p : Place) (g : Group) (t : Stream) : ∃ pc npc o ls fl fn,
    advance s p g t = { t with pc := pc, npc := npc, npcOpen := o, loops := ls, floor := fl, floorNext := fn } := by
  have hgo : ∀ (u : Stream) (a : BitVec 64), ∃ pc npc o, Stream.goAt s p g u a = { u with pc := pc, npc := npc, npcOpen := o } := fun u a => by
    unfold Stream.goAt Stream.goto; split <;> exact ⟨_, _, _, rfl⟩
  have hback := loopBack_eq t t.len (loopOrder t.late)
  unfold advance
  split <;> (rename_i heq; rw [heq] at hback; dsimp only at hback; rw [hback])
  · obtain ⟨pc, npc, o, e⟩ := hgo (Stream.landAnew _) _
    exact ⟨_, _, _, _, _, _, e⟩
  · obtain ⟨pc, npc, o, e⟩ := hgo (Stream.land _) t.npc
    exact ⟨_, _, _, _, _, _, e⟩

theorem sameRegisters_retiredGroup (st : StreamId) (g : Group) (r ev : BitVec 4) {t : Stream} (hx : t.x = (g.stream st).x) (hc : t.c = (g.stream st).c) :
    SameRegisters st g (retiredGroup g st r ev t) := by
  refine (sameRegisters_setStream (t := t.retireCounts) hx hc).trans ?_
  rw [retiredGroup, postEv_eq, placeTok_eq]
  exact ⟨rfl, rfl, rfl, rfl, rfl, rfl⟩

/-- The end of a step at most asks a group to halt (R405). -/
theorem stepHalt_setGroup (s : State) (p : Place) (k : Group) :
    stepHalt (s.setGroup p k) p = s.setGroup p k ∨ stepHalt (s.setGroup p k) p = s.setGroup p (askStop k Cause.step) := by
  unfold stepHalt
  simp only [State.slot_setGroup, State.setGroup_setGroup]
  split
  · split
    · exact .inr rfl
    · exact .inl rfl
  · exact .inl rfl

/-- Retirement changes the group alone, and leaves its registers. -/
theorem finishAt_registers {s : State} {p : Place} {g : Group} (hg : s.group p = some g) (st : StreamId) (r ev : BitVec 4) :
    ∃ k, s.finishAt p st r ev = s.setGroup p k ∧ SameRegisters st g k ∧ (k.stream st).seq = (g.stream st).seq + 1 := by
  obtain ⟨j, hj, -, hseq, -⟩ := group_finishAt hg st r ev
  obtain ⟨pc, npc, o, ls, fl, fn, hadv⟩ := advance_eq s p g (g.stream st)
  have hregs : SameRegisters st g (retiredGroup g st r ev (advance s p g (g.stream st))) := by
    rw [hadv]; exact sameRegisters_retiredGroup st g r ev rfl rfl
  have hret : s.finishAt p st r ev = stepHalt (s.setGroup p (retiredGroup g st r ev (advance s p g (g.stream st)))) p := by
    simp only [State.finishAt, State.retireAt, hg]
    rw [retire_setGroup]
  have hfinish : ∃ k, s.finishAt p st r ev = s.setGroup p k ∧ SameRegisters st g k := by
    rw [hret]
    obtain h | h := stepHalt_setGroup s p (retiredGroup g st r ev (advance s p g (g.stream st)))
    · exact ⟨_, h, hregs⟩
    · exact ⟨_, h, hregs.trans (sameRegisters_askStop st _ _)⟩
  obtain ⟨k, hk, hsame⟩ := hfinish
  rw [hk, State.group_setGroup] at hj
  exact ⟨k, hk, hsame, by rw [Option.some.inj hj]; exact hseq⟩

/-! ## The statement -/

/-- Settles O40: SHSET by what its value is to its field, SHGET by the field's bits, the first try of SHLD by its address, a later one by the record it reads. -/
theorem shapeInstructionsComplete : Obligations.ShapeInstructionsComplete := by
  unfold Obligations.ShapeInstructionsComplete
  refine ⟨fun s s2 g r h d a f hc hfull _ => ?_, fun s s2 s3 g r h a began tgt hc ha hwait hage => ?_⟩
  · intro A old e traps setH
    have hf : e.t.fulls [a] := fulls_env_of_subset hfull (by simp)
    have hd : e.t.isFull d = true := isFull_env_of_mem hfull (by simp)
    have hA : e.t.getX a = A := getX_taken s g r a
    refine ⟨fun v hv hok => ?_, fun hv => plain_trap hc (shset_out_of_range hf hA hv), fun v c hv hbad => plain_trap hc (shset_faulty hf hA hv hbad),
      fun v => fieldFault_tag_reserved, rfl, fun v => ⟨fieldFault_rank_iff v, fieldFault_swizzle_iff v, fieldFault_stride0_iff v⟩, ?_,
      fun hal => plain_trap hc (shld_misaligned hf hA hal), fun die off hal hr => plain_trapIn hc (shld_dcr hf hA hal hr),
      fun tgt g2 hal hr ht hwait hcut _ _ hg2 => ?_⟩
    · obtain ⟨pos, w, hfield, hlt⟩ := shValue_fits hv
      have hbody := shset_allowed (h := h) hf hA hv hok
      rw [show e.s.setGroup e.p _ = _ from State.setGroup_setGroup s _ _ _] at hbody
      exact ⟨shPut old f.toNat v, plain_done hc hbody, shGet_shPut_self hfield hlt old, fun k hk => shGet_shPut_ne hfield hk old v⟩
    · rw [← shRead_eq]
      show execShget r d h f s = _
      exact plain_onStream (ev := 0) hc rfl (writes_of_full hd _)
    · have hissued : dueFrom e.now (e.t.issuedAt e.now) = false := by
        have hnot : e.t.waiting = none := by rw [show e.t = _ from env_t s g r]; exact hwait
        rw [Stream.issuedAt, hnot, dueFrom, BitVec.sub_self]
        rfl
      have hbody := shld_not_due (h := h) hf hA hal hr ht hissued
      rw [Env.onItsWay, show s2.group e.p = some g2 from hg2] at hbody
      exact plain_wait hc hcut hbody
  · intro A e hal hr ht hturn hlock hready run v u fields
    have het : e.t = (s.here g).refill := again_t s g
    have hf : e.t.fulls [a] := fulls_singleton (by rw [het]; exact isFull_refill ha)
    have hA : e.t.getX a = A := by rw [het, refill_eq]; rfl
    have hdue : dueFrom e.now (e.t.issuedAt e.now) = true := by
      have hissued : e.t.issuedAt e.now = began := by rw [het, refill_eq, Stream.issuedAt]; dsimp only; rw [hwait]
      rw [hissued]
      exact decide_eq_true hage
    have hbody := shld_due (h := h) hf hA hal hr ht hturn hlock hdue hready
    have htouched : waitaTouched e s3 A tgt = u := by cases tgt <;> rfl
    have faulty {c : BitVec 10} (hbad : run.bad = []) (hcause : recordFault v = some c) : exec (.shld r h a) s = .next (s.trapsIn u g (.plain c)) :=
      htouched ▸ plain_again_trapIn hc (hbody.trans (shldTakes_faulty hbad rfl hcause))
    refine ⟨fun hbad => plain_again_trapIn hc (hbody.trans (shldTakes_poisoned hbad)), fun c hbad hfield => faulty hbad (recordFault_of_field hfield),
      fun hbad hfield hrec => faulty hbad ((recordFault_of_fields hfield).trans (if_neg (by rw [hrec]; decide))), fun hbad hfield hrec => ?_⟩
    obtain ⟨cum, seen, htakes⟩ := shldTakes_clean (h := h) (va := A) hbad rfl ((recordFault_of_fields hfield).trans (if_pos hrec))
    have hex := plain_again_finish (ev := 0) hc (hbody.trans htakes)
    obtain ⟨k, hk, hsame, hseq⟩ := finishAt_registers (State.group_setGroup (waitaTouched e s3 A tgt) s.curPlace
      ({ e.g with h := e.g.h.set h.toNat v h.isLt }.setStream s.curStream { e.t with cum := cum, seen := seen })) s.curStream r 0
    rw [State.setGroup_setGroup] at hk
    obtain ⟨hx, hcond, hv, htile, hp, hh⟩ := hsame
    rw [Group.stream_setStream, het, refill_eq] at hx hcond hseq
    exact ⟨_, k, hex.trans (congrArg _ hk), State.group_setGroup _ _ k, hh, hseq, hx, hcond, hv, htile, hp,
      fun a' hs => (waitaTouched_keeps a' e s3 A tgt).byte hs⟩

end Sys2Proof.Machine
end

section
/-! PROOFS. The vector commands that their tables refuse: the checks of each result function in their order (R112, R243, R245, R247 to R253, R258 to R262). -/

namespace Sys2Proof.Machine

open Sys2Proof

/-! ## Checks -/

section
variable {α : Type} {x y : Bool} {c : BitVec 10} {p : BitVec 3} {tags : List (BitVec 4)} {k : Unit → Except (BitVec 10) α}

theorem need_refuses (h : x = false) : (need x c >>= k) = .error c := by rw [h]; rfl

theorem need_passes (h : x = true) : (need x c >>= k) = k () := by rw [h]; rfl

/-- Of two checks with one cause it does not matter which of them fails. -/
theorem needs_refuse (h : x = true → y = false) : (need x c >>= fun _ => need y c >>= k) = .error c := by
  cases x with
  | false => rfl
  | true => exact (need_passes rfl).trans (need_refuses (h rfl))

theorem needP0_refuses (hp : p ≠ 0) (h : tags.any tagBlock = true) : (needP0 p tags >>= k) = .error Cause.predBlock :=
  need_refuses (by rw [h, show (p == 0#3) = false from beq_false_of_ne hp]; rfl)

theorem differs_and {t u t0 u1 : BitVec 4} (h0 : t ≠ t0) (h1 : u ≠ u1) : (t != t0 && u != u1) = true := by simp [h0, h1]

theorem needP0_passes (h : p = 0 ∨ tags.any tagBlock = false) : (needP0 p tags >>= k) = k () :=
  need_passes (by rcases h with rfl | h <;> simp [*])

end

/-- A tag that a table's first check accepts: one of the integers or of the floating formats (R247). -/
def tagNumber (t : BitVec 4) : Prop := tagInt t = true ∨ tagFloat t = true

theorem tagNumber_iff (t : BitVec 4) : (tagInt t || tagFloat t) = true ↔ tagNumber t := Bool.or_eq_true_iff

theorem tagNumber_false {t : BitVec 4} (h : ¬ tagNumber t) : (tagInt t || tagFloat t) = false := Bool.eq_false_iff.2 (mt (tagNumber_iff t).1 h)

/-! ## The result functions refuse -/

section
variable {rs : RState} {old a b : VReg} {p : BitVec 3} {pr : BitVec 1024} {rm pos : BitVec 3} {tg : BitVec 4} {dyn : BitVec 1} {qt : BitVec 2}

theorem numbers_refuse {α : Type} {k : Unit → Except (BitVec 10) α} (h : ¬ tagNumber a.tag ∨ a.tag ≠ b.tag) :
    (need (tagInt a.tag || tagFloat a.tag) Cause.tagMismatch >>= fun _ => need (a.tag == b.tag) Cause.tagMismatch >>= k) = .error Cause.tagMismatch :=
  needs_refuse (fun ha => beq_false_of_ne (h.resolve_left (not_not.2 ((tagNumber_iff a.tag).1 ha))))

theorem vArith_refuses {fi : (w : Nat) → BitVec w → BitVec w → BitVec w} {ff : Bool → Val → Val → Val} (h : ¬ tagNumber a.tag ∨ a.tag ≠ b.tag) :
    vArith fi ff rs old a b pr = .error Cause.tagMismatch := numbers_refuse h

theorem vMinMax_refuses {mx : Bool} (h : ¬ tagNumber a.tag ∨ a.tag ≠ b.tag) : vMinMax mx old a b pr = .error Cause.tagMismatch := numbers_refuse h

theorem vFma_refuses {sub : Bool} {d : VReg} (h : tagFloat a.tag = false ∨ a.tag ≠ b.tag ∨ a.tag ≠ d.tag) : vFma sub rs d a b pr = .error Cause.tagMismatch :=
  needs_refuse (fun ha => by
    rcases h with h | h | h
    · exact absurd ha (by rw [h]; exact Bool.false_ne_true)
    · rw [beq_false_of_ne h, Bool.false_and]
    · rw [beq_false_of_ne h, Bool.and_false])

theorem vDiv_refuses (h : ¬ (a.tag = 3 ∧ b.tag = 3)) : vDiv rs old a b pr = .error Cause.tagMismatch :=
  need_refuses (Bool.eq_false_iff.2 (fun k => h (by simpa using k)))

theorem vFun_refuses {f : Rnd → Nat → Nat} (h : a.tag ≠ 3) : vFun f rs old a pr = .error Cause.tagMismatch := need_refuses (beq_false_of_ne h)

theorem vLogic_refuses {f : Nat → Nat → Nat} (h : a.tag = 11 ∨ b.tag = 11) : vLogic f old a b p pr = .error Cause.tagMismatch :=
  need_refuses (by rcases h with h | h <;> simp [h])

theorem vLogic_refuses_blocks {f : Nat → Nat → Nat} (ha : a.tag ≠ 11) (hb : b.tag ≠ 11) (hp : p ≠ 0) (h : tagBlock a.tag = true ∨ tagBlock b.tag = true) :
    vLogic f old a b p pr = .error Cause.predBlock :=
  (need_passes (differs_and ha hb)).trans (needP0_refuses (tags := [a.tag, b.tag]) hp (by simpa using h))

/-- A tag that a shift accepts (R248). -/
def tagBits (t : BitVec 4) : Prop := t = 0 ∨ tagInt t = true

theorem tagBits_iff (t : BitVec 4) : (t == 0#4 || tagInt t) = true ↔ tagBits t := by simp [tagBits]

theorem vShift_refuses {f : (w : Nat) → BitVec w → Nat → BitVec w} (h : ¬ (tagBits a.tag ∧ tagBits b.tag)) : vShift f old a b pr = .error Cause.tagMismatch :=
  need_refuses (Bool.eq_false_iff.2 (fun k => h (by rwa [Bool.and_eq_true, tagBits_iff, tagBits_iff] at k)))

theorem vSel_refuses (h : a.tag ≠ b.tag) : vSel a b p pr = .error Cause.tagMismatch := need_refuses (beq_false_of_ne h)

theorem vSel_refuses_blocks (h : a.tag = b.tag) (hp : p ≠ 0) (hb : tagBlock a.tag = true) : vSel a b p pr = .error Cause.predBlock :=
  (need_passes (beq_iff_eq.2 h)).trans (needP0_refuses hp (by simpa using hb))

theorem tagInt_of_float {t : BitVec 4} (h : tagFloat t = true) : tagInt t = false := by revert t; decide

theorem vCmp_refuses {c : BitVec 3} {o : BitVec 1024} (h : ¬ tagNumber a.tag ∨ a.tag ≠ b.tag ∨ (tagFloat a.tag = true ∧ 6 ≤ c.toNat)) :
    vCmp c o a b pr = .error Cause.tagMismatch := by
  by_cases hn : ¬ tagNumber a.tag ∨ a.tag ≠ b.tag
  · exact numbers_refuse hn
  · obtain ⟨hnum, htag⟩ := not_or.1 hn
    obtain ⟨hf, hc⟩ := (h.resolve_left hnum).resolve_left htag
    refine (need_passes ((tagNumber_iff a.tag).2 (not_not.1 hnum))).trans ((need_passes (beq_iff_eq.2 (not_not.1 htag))).trans (need_refuses ?_))
    rw [tagInt_of_float hf, decide_eq_false (Nat.not_lt.2 hc)]
    rfl

theorem vMov_refuses (hp : p ≠ 0) (hb : tagBlock a.tag = true) : vMov old a p pr = .error Cause.predBlock := needP0_refuses hp (by simpa using hb)

theorem vLanes_refuses {f : Nat → Option Nat} (hp : p ≠ 0) (hb : tagBlock a.tag = true) : vLanes f old a p pr = .error Cause.predBlock :=
  needP0_refuses hp (by simpa using hb)

theorem vSign_refuses {neg : Bool} (h : ¬ tagNumber a.tag) : vSign neg old a pr = .error Cause.tagMismatch := need_refuses (tagNumber_false h)

theorem vRed_refuses {o : BitVec 2} (h : ¬ (a.tag = 1 ∨ tagFloat a.tag = true)) : vRed o a pr = .error Cause.tagMismatch :=
  need_refuses (Bool.eq_false_iff.2 (fun k => h (by simpa using k)))

theorem vScl_refuses (h : ¬ ((tagFloat a.tag = true ∨ tagBlock a.tag = true) ∧ b.tag = 1)) : vScl rs old a b p pr = .error Cause.tagMismatch :=
  need_refuses (Bool.eq_false_iff.2 (fun k => h (by simpa using k)))

theorem vScl_refuses_blocks (h : b.tag = 1) (hp : p ≠ 0) (hb : tagBlock a.tag = true) : vScl rs old a b p pr = .error Cause.predBlock :=
  (need_passes (by simp [hb, h])).trans (needP0_refuses hp (by simpa using hb))

theorem vPack_refuses (h : ¬ ((a.tag = 1 ∨ a.tag = 12) ∧ a.tag = b.tag)) : vPack old a b pr = .error Cause.tagMismatch :=
  need_refuses (Bool.eq_false_iff.2 (fun k => h (by simpa using k)))

theorem vUnpk_refuses {h : BitVec 1} (ht : ¬ (a.tag = 12 ∨ a.tag = 2)) : vUnpk h old a pr = .error Cause.tagMismatch :=
  need_refuses (Bool.eq_false_iff.2 (fun k => ht (by simpa using k)))

theorem tagRsvd_eq (t : BitVec 4) : tagRsvd t = decide (13 ≤ t.toNat) := rfl

theorem tagRsvd_true {t : BitVec 4} (h : 13 ≤ t.toNat) : tagRsvd t = true := decide_eq_true h

theorem tagRsvd_false {t : BitVec 4} (h : t.toNat ≤ 12) : tagRsvd t = false := decide_eq_false (by omega)

theorem vTag_refuses (h : 13 ≤ tg.toNat) : vTag tg a = .error Cause.tagRsvd := need_refuses (by rw [tagRsvd_true h]; rfl)

theorem vBcast_refuses_reserved {x : BitVec 64} (h : 13 ≤ tg.toNat) : vBcast tg x old pr = .error Cause.tagRsvd := need_refuses (by rw [tagRsvd_true h]; rfl)

theorem vBcast_refuses {x : BitVec 64} (h8 : 8 ≤ tg.toNat) (h11 : tg.toNat ≤ 11) : vBcast tg x old pr = .error Cause.tagMismatch := by
  refine (need_passes (by rw [tagRsvd_false (by omega)]; rfl)).trans (need_refuses ?_)
  have hne : tg ≠ 12#4 := fun h => by subst h; exact absurd h11 (by decide)
  rw [decide_eq_false (Nat.not_lt.2 h8), beq_false_of_ne hne]
  rfl

/-! ## VCVT (R253, R254; the order of its checks log 47) -/

theorem blocks_pass (hp : ¬ (p ≠ 0 ∧ (tagBlock a.tag = true ∨ tagBlock tg = true))) : p = 0 ∨ [a.tag, tg].any tagBlock = false := by
  by_cases hz : p = 0
  · exact .inl hz
  · exact .inr (Bool.eq_false_iff.2 (fun k => hp ⟨hz, by simpa using k⟩))

theorem vCvt_refuses_reserved (h : 13 ≤ tg.toNat) : vCvt tg dyn rm pos qt rs old a p pr = .error Cause.tagRsvd := need_refuses (by rw [tagRsvd_true h]; rfl)

section
variable (ht : tg.toNat ≤ 12)
include ht

theorem vCvt_refuses (h : a.tag = 0 ∨ a.tag = 11) : vCvt tg dyn rm pos qt rs old a p pr = .error Cause.tagMismatch :=
  (need_passes (by rw [tagRsvd_false ht]; rfl)).trans (need_refuses (by rcases h with h | h <;> simp [h]))

variable (h0 : a.tag ≠ 0) (h11 : a.tag ≠ 11)
include h0 h11

theorem vCvt_refuses_blocks (hp : p ≠ 0) (hb : tagBlock a.tag = true ∨ tagBlock tg = true) : vCvt tg dyn rm pos qt rs old a p pr = .error Cause.predBlock :=
  (need_passes (by rw [tagRsvd_false ht]; rfl)).trans ((need_passes (differs_and h0 h11)).trans (needP0_refuses hp (by simpa using hb)))

variable (hp : ¬ (p ≠ 0 ∧ (tagBlock a.tag = true ∨ tagBlock tg = true)))
include hp
theorem vCvt_refuses_result (h : tg = 0 ∨ tg = 11 ∨ Nat.max (tagWidth a.tag) (tagWidth tg) / Nat.min (tagWidth a.tag) (tagWidth tg) ≤ pos.toNat) :
    vCvt tg dyn rm pos qt rs old a p pr = .error Cause.opRange := by
  refine (need_passes (by rw [tagRsvd_false ht]; rfl)).trans ((need_passes (differs_and h0 h11)).trans ((needP0_passes (blocks_pass hp)).trans ?_))
  refine needs_refuse (fun k => decide_eq_false (Nat.not_lt.2 ?_))
  rcases h with h | h | h
  · simp [h] at k
  · simp [h] at k
  · exact h

theorem vCvt_refuses_mode (ht0 : tg ≠ 0) (ht11 : tg ≠ 11) (hpos : pos.toNat < Nat.max (tagWidth a.tag) (tagWidth tg) / Nat.min (tagWidth a.tag) (tagWidth tg))
    (hd : dyn = 0) (hr : 6 ≤ rm.toNat) : vCvt tg dyn rm pos qt rs old a p pr = .error Cause.rmRsvd := by
  refine (need_passes (by rw [tagRsvd_false ht]; rfl)).trans ((need_passes (differs_and h0 h11)).trans ((needP0_passes (blocks_pass hp)).trans ?_))
  refine (need_passes (differs_and ht0 ht11)).trans ((need_passes (decide_eq_true hpos)).trans (need_refuses ?_))
  rw [hd, decide_eq_false (Nat.not_lt.2 hr)]
  rfl

end

end

/-! ## The commands at the head -/

section
variable {v : QEnv} {d a b x : BitVec 6} {tg : BitVec 4} {p : BitVec 3}

/-- A command answers as its instruction says. -/
theorem startCommand_of_instr {i : Instr} (h : v.e.instr = i) : startCommand v = startCommand { v with e := { v.e with instr := i } } := by
  subst h; rfl

theorem vres_refuses {r : VRes} {c : BitVec 10} (h : r = .error c) : v.vres d r = .trap (.plain c) := by rw [h]; rfl

theorem pres_refuses {d : BitVec 3} {r : Except (BitVec 10) (BitVec 1024)} {c : BitVec 10} (h : r = .error c) : v.pres d r = .trap (.plain c) := by rw [h]; rfl

theorem startVld_refuses_reserved (h : 13 ≤ tg.toNat) : startVld v d tg p = .trap (.plain Cause.tagRsvd) := if_pos (tagRsvd_true h)

theorem startVld_refuses (h : tg = 11) : startVld v d tg p = .trap (.plain Cause.tagMismatch) := by subst h; rfl

theorem startVld_refuses_blocks (hb : tagBlock tg = true) (hp : p ≠ 0) : startVld v d tg p = .trap (.plain Cause.predBlock) := by
  have hr : tagRsvd tg = false := by revert hb; revert tg; decide
  have h11 : tg ≠ 11#4 := fun h => by subst h; exact absurd hb (by decide)
  unfold startVld
  dsimp only
  rw [hr, if_neg Bool.false_ne_true, if_neg h11, if_pos ⟨hp, hb⟩]

theorem startVlds_refuses (h : tagBlock (v.v d).tag = true ∨ (v.v d).tag = 11) : startVlds v d p = .trap (.plain Cause.tagMismatch) :=
  if_pos (by rcases h with h | h <;> simp [h])

theorem startVgat_refuses (h : ¬ (((v.v d).tag = 0 ∨ (v.v d).tag = 1 ∨ (v.v d).tag = 3) ∧ (v.v b).tag = 1)) :
    startVgat v d b p = .trap (.plain Cause.tagMismatch) :=
  if_pos (Bool.of_not_eq_false (fun k => h (by
    simp only [Bool.or_eq_false_iff, Bool.not_eq_false', Bool.or_eq_true, beq_iff_eq, bne_eq_false_iff_eq, or_assoc] at k
    exact k)))

theorem startVst_refuses (hp : p ≠ 0) (hb : tagBlock (v.v x).tag = true) : startVst v x p = .trap (.plain Cause.predBlock) := if_pos ⟨hp, hb⟩

end

/-- VPERM at the head, by the tag of its index register (R256). -/
theorem vperm_of_tag {v : QEnv} {r : BitVec 4} {d a b : BitVec 6} {p : BitVec 3} (h : v.e.instr = .vperm r d a b p) : startCommand v =
    if (v.v b).tag ≠ 1#4 then .trap (.plain Cause.tagMismatch)
    else v.vres d (vLanes (fun i => some (elemAt (v.v b).data 32 i % 512)) (v.v d) (v.v a) p (v.pr p)) := startCommand_of_instr h

/-- Settles O38: each command's result function refuses by the first of its checks that fails, and the cause is raised at the head. -/
theorem vectorChecksRaiseTheirCauses : Obligations.VectorChecksRaiseTheirCauses := by
  unfold Obligations.VectorChecksRaiseTheirCauses
  intro s pl g e r ev tg d a b p c pd rm pos o qt dyn hi h v A B D raises number three logic shift function bits blocked
  have refuses : ∀ {i : Instr} {c : BitVec 10}, e.instr = i → startCommand { v with e := { v.e with instr := i } } = .trap (.plain c) → raises c :=
    fun hi hs => engineHeadStart_trap h ((startCommand_of_instr hi).trans hs)
  refine ⟨?three, ?fused, ?divide, ?function, ?logic, ?shift, ?select, ?compare, ?move, ?permute, ?sign, ?reduce, ?scale, ?pack, ?unpack, ?reserved, ?broadcast,
    ?convert, ?load, ?loadStrided, ?gather, ?store⟩
  case three =>
    intro hi ht
    rcases hi with hi | hi | hi | hi | hi
    · exact refuses hi (vres_refuses (vArith_refuses ht))
    · exact refuses hi (vres_refuses (vArith_refuses ht))
    · exact refuses hi (vres_refuses (vArith_refuses ht))
    · exact refuses hi (vres_refuses (vMinMax_refuses ht))
    · exact refuses hi (vres_refuses (vMinMax_refuses ht))
  case fused => rintro (hi | hi) ht <;> exact refuses hi (vres_refuses (vFma_refuses ht))
  case divide => exact fun hi ht => refuses hi (vres_refuses (vDiv_refuses ht))
  case function => rintro (hi | hi | hi | hi | hi) ht <;> exact refuses hi (vres_refuses (vFun_refuses ht))
  case logic =>
    rintro (hi | hi | hi) <;>
    exact ⟨fun ht => refuses hi (vres_refuses (vLogic_refuses ht)), fun ha hb hp ht => refuses hi (vres_refuses (vLogic_refuses_blocks ha hb hp ht))⟩
  case shift => rintro (hi | hi | hi) ht <;> exact refuses hi (vres_refuses (vShift_refuses ht))
  case select => exact fun hi => ⟨fun ht => refuses hi (vres_refuses (vSel_refuses ht)), fun ht hb => refuses hi (vres_refuses (vSel_refuses_blocks ht hb.1 hb.2))⟩
  case compare => exact fun hi ht => refuses hi (pres_refuses (vCmp_refuses ht))
  case move =>
    rintro (hi | hi | hi) ⟨hp, hb⟩
    · exact refuses hi (vres_refuses (vMov_refuses hp hb))
    · exact refuses hi (vres_refuses (vLanes_refuses hp hb))
    · exact refuses hi (vres_refuses (vLanes_refuses hp hb))
  case permute =>
    exact fun hi => ⟨fun ht => engineHeadStart_trap h ((vperm_of_tag hi).trans (if_pos ht)),
      fun ht hb => engineHeadStart_trap h ((vperm_of_tag hi).trans ((if_neg (not_not.2 ht)).trans (vres_refuses (vLanes_refuses hb.1 hb.2))))⟩
  case sign => rintro (hi | hi) ht <;> exact refuses hi (vres_refuses (vSign_refuses ht))
  case reduce => exact fun hi ht => refuses hi (vres_refuses (vRed_refuses ht))
  case scale => exact fun hi => ⟨fun ht => refuses hi (vres_refuses (vScl_refuses ht)), fun ht hb => refuses hi (vres_refuses (vScl_refuses_blocks ht hb.1 hb.2))⟩
  case pack => exact fun hi ht => refuses hi (vres_refuses (vPack_refuses ht))
  case unpack => exact fun hi ht => refuses hi (vres_refuses (vUnpk_refuses ht))
  case reserved =>
    rintro ht (hi | hi | hi | hi)
    · exact refuses hi (vres_refuses (vTag_refuses ht))
    · exact refuses hi (vres_refuses (vBcast_refuses_reserved ht))
    · exact refuses hi (startVld_refuses_reserved ht)
    · exact refuses hi (vres_refuses (vCvt_refuses_reserved ht))
  case broadcast => exact fun h8 h11 hi => refuses hi (vres_refuses (vBcast_refuses h8 h11))
  case convert =>
    intro hi ht parts blocks
    refine ⟨fun h0 => refuses hi (vres_refuses (vCvt_refuses ht h0)), fun h0 h11 => ⟨fun hb => refuses hi (vres_refuses (vCvt_refuses_blocks ht h0 h11 hb.1 hb.2)), fun hb => ?_⟩⟩
    exact ⟨fun hr => refuses hi (vres_refuses (vCvt_refuses_result ht h0 h11 hb hr)),
      fun ht0 ht11 hpos hd hr => refuses hi (vres_refuses (vCvt_refuses_mode ht h0 h11 hb ht0 ht11 hpos hd hr))⟩
  case load => exact fun hi => ⟨fun ht => refuses hi (startVld_refuses ht), fun hb hp => refuses hi (startVld_refuses_blocks hb hp)⟩
  case loadStrided => exact fun hi ht => refuses hi (startVlds_refuses ht)
  case gather => exact fun hi ht => refuses hi (startVgat_refuses ht)
  case store => exact fun hi hp hb => refuses hi (startVst_refuses hp hb)

end Sys2Proof.Machine
end

section
/-! PROOFS. VEXT of a register whose tag uses no scale byte: the sideband of the result is zero, whatever the source's holds (R114, R256). -/

namespace Sys2Proof.Machine

open Sys2Proof

/-- VEXT v3, v1 stands at the head, and v1 carries INT32 beside a sideband that is not zero. R114 keeps the scale bytes that a tag does not use at zero, so that
no step leaves a register like this v1; but a state is plain data and may hold one, and the statement asks nothing of the sideband. -/
def sidebandUnderInt32 : State :=
  let g := tTags [(1, 1)]
  tWith .vec (tQueued { g with v := g.v.set 1 { g.v.get 1 with side := 1 } } .vector .vec (.vext 0 3 1 5 0) [0] [])

theorem sidebandUnderInt32_head : tHead sidebandUnderInt32 0 .vector (fun g e _ =>
    decide (e.instr = .vext 0 3 1 5 0 ∧ (g.v.get 1).side = 1 ∧ e.id = tGroup.nextId)) = true := by decide +kernel

/-- The sidebands of the results with which the entry id of the vector queue in slot 0 has started. -/
def startedSidebands (id : Nat) (t : State) : List (BitVec 1024) :=
  match t.group 0 with
  | some g => (g.queue .vector).flatMap (fun x => if x.id = id then x.work.elim [] (fun w => w.vw.map (fun y => y.2.side)) else [])
  | none => []

/-- The command starts with a result whose sideband is zero. -/
theorem sidebandUnderInt32_cleared :
    tRun (exec (.engineHeadStart 0 .vector) sidebandUnderInt32) (fun t => startedSidebands tGroup.nextId t == [0]) = true := by decide +kernel

/-- Refutes O37: the statement has VEXT, VLANE and VPERM keep the sideband of v(a) whatever its tag. In the state sidebandUnderInt32 the result of a VEXT has
the zero sideband that R114 asks for, and v(a) has another. -/
theorem not_vectorElementCommandsGiveTheirResults : ¬ Obligations.VectorElementCommandsGiveTheirResults := by
  unfold Obligations.VectorElementCommandsGiveTheirResults
  intro h
  obtain ⟨g, e, hready, hfacts⟩ := tHead_ok sidebandUnderInt32_head
  obtain ⟨hinstr, hside, hid⟩ := of_decide_eq_true hfacts
  obtain ⟨-, -, -, -, -, -, -, hlanes, -⟩ := h sidebandUnderInt32 0 g e 0 0 0 3 1 5 0 0 0 0 0 0 0 0 0 hready
  obtain ⟨hvext, -, -⟩ := hlanes (.inl rfl)
  obtain ⟨reg, -, -, hkept, hgives, -⟩ := hvext hinstr
  obtain ⟨k, hk, -, hstarted⟩ := began_entry (q := .vector) (e := (headEnv sidebandUnderInt32 0 .vector g e).e) (w := { Work.none with vw := [(3, reg)] })
    (State.group_setGroup sidebandUnderInt32 0 (headGroup g .vector e)) (fun _ _ _ hc => by cases hinstr.symm.trans hc)
  have hone : ∀ y ∈ startedSidebands tGroup.nextId (began (sidebandUnderInt32.setGroup 0 (headGroup g .vector e)) 0 .vector
      (headEnv sidebandUnderInt32 0 .vector g e).e { Work.none with vw := [(3, reg)] }), y = 1 := by
    intro y hy
    rw [startedSidebands, hk] at hy
    obtain ⟨x, hx, hy⟩ := List.mem_flatMap.1 hy
    by_cases hxid : x.id = tGroup.nextId
    · rw [if_pos hxid, (hstarted x hx (hxid.trans hid.symm)).2] at hy
      exact (List.mem_singleton.1 hy).trans (hkept.trans hside)
    · rw [if_neg hxid] at hy
      cases hy
  have hzero := sidebandUnderInt32_cleared
  rw [hgives] at hzero
  have hlist : startedSidebands tGroup.nextId _ = [0] := beq_iff_eq.1 hzero
  have hzeroOne : (0 : BitVec 1024) = 1 := hone 0 ((congrArg (fun l => (0 : BitVec 1024) ∈ l) hlist).mpr (List.mem_singleton_self 0))
  exact absurd hzeroOne (by simp)

end Sys2Proof.Machine
end

section
/-! PROOFS. Accumulator words and step sums: saturation, the addition and the rounding of W48 words (R121), and the sums of a step's products (R122). -/

namespace Sys2Proof.Machine

open Sys2Proof

/-! ## Words (R121) -/

theorem toInt_ofInt48 {m : Int} (hlo : -2 ^ 47 ≤ m) (hhi : m < 2 ^ 47) : (BitVec.ofInt 48 m).toInt = m := by
  rw [BitVec.toInt_ofInt, Int.bmod_eq_of_le (by omega) (by omega)]

/-- An integer in the finite range is held as it is. -/
theorem w48Sat_of_fits {m : Int} (hlo : -(2 ^ 47 - 1) ≤ m) (hhi : m ≤ 2 ^ 47 - 1) : (w48Sat m).1.toInt = m ∧ (w48Sat m).2 = false := by
  rw [w48Sat, if_neg (by omega), if_neg (by omega)]
  exact ⟨toInt_ofInt48 (by omega) (by omega), rfl⟩

theorem w48Sat_of_above {m : Int} (h : 2 ^ 47 - 1 < m) : (w48Sat m).1.toInt = 2 ^ 47 - 1 ∧ (w48Sat m).2 = true := by
  rw [w48Sat, if_pos h]
  exact ⟨toInt_ofInt48 (by omega) (by omega), rfl⟩

theorem w48Sat_of_below {m : Int} (h : m < -(2 ^ 47 - 1)) : (w48Sat m).1.toInt = -(2 ^ 47 - 1) ∧ (w48Sat m).2 = true := by
  rw [w48Sat, if_neg (by omega), if_pos h]
  exact ⟨toInt_ofInt48 (by omega) (by omega), rfl⟩

theorem w48Add_of_nan {a b : BitVec 48} (h : a = w48Nan ∨ b = w48Nan) : w48Add a b = (w48Nan, false) := if_pos h

theorem w48Add_of_numbers {a b : BitVec 48} (ha : a ≠ w48Nan) (hb : b ≠ w48Nan) : w48Add a b = w48Sat (a.toInt + b.toInt) :=
  if_neg (not_or.2 ⟨ha, hb⟩)

/-! ## Rounding to nearest even (R121) -/

/-- The multiple of 2^q, in units of it, that is nearest to m × 2^f, the even one of two (R121, R125). -/
def nearestEven (neg : Bool) (m : Nat) (f q : Int) : Nat :=
  let c := cutAt m f q
  if Rnd.rne.up neg (c.1 % 2 == 1) c.2.1 c.2.2 then c.1 + 1 else c.1

theorem w48Round_fin (neg : Bool) (m : Nat) (f : Int) (e : BitVec 16) : w48Round (.fin neg m f) e =
    w48Sat (if neg then -(nearestEven neg m f (e.toInt - 32) : Int) else nearestEven neg m f (e.toInt - 32)) := rfl

/-- When rounding to nearest even goes up: past the middle, or at the middle from an odd quotient. -/
theorem rne_up_iff (neg lsb : Bool) (n d : Nat) : Rnd.rne.up neg lsb n d = true ↔ n ≠ 0 ∧ (d < 2 * n ∨ (2 * n = d ∧ lsb = true)) := by
  unfold Rnd.up
  by_cases hn : n = 0
  · simp [hn]
  · rw [if_neg hn]
    show (decide (d < 2 * n) || (decide (2 * n = d) && lsb)) = true ↔ _
    simp [hn]

/-- A quotient with its rest n over d, rounded to nearest even, is a nearest one, and the even one where two are as near. -/
theorem nearest_of_rest {x n d k : Nat} (hn : n < d) (hk : k = if n ≠ 0 ∧ (d < 2 * n ∨ (2 * n = d ∧ x % 2 = 1)) then x + 1 else x) :
    2 * (k * d) ≤ 2 * (x * d + n) + d ∧ 2 * (x * d + n) ≤ 2 * (k * d) + d ∧
    (2 * (k * d) = 2 * (x * d + n) + d ∨ 2 * (x * d + n) = 2 * (k * d) + d → k % 2 = 0) := by
  by_cases hup : n ≠ 0 ∧ (d < 2 * n ∨ (2 * n = d ∧ x % 2 = 1))
  · rw [if_pos hup] at hk
    subst hk
    rw [Nat.succ_mul x d]
    generalize x * d = y
    omega
  · rw [if_neg hup] at hk
    subst hk
    generalize k * d = y
    omega

/-- A number rounded to a multiple of 2^q is as R121 rounds it. -/
theorem nearestEven_spec (neg : Bool) (m : Nat) (f q : Int) :
    let n := if q ≤ f then m * 2 ^ (f - q).toNat else m
    let d := if q ≤ f then 1 else 2 ^ (q - f).toNat
    let k := nearestEven neg m f q
    2 * (k * d) ≤ 2 * n + d ∧ 2 * n ≤ 2 * (k * d) + d ∧ (2 * (k * d) = 2 * n + d ∨ 2 * n = 2 * (k * d) + d → k % 2 = 0) := by
  intro n d k
  have hk : k = if (cutAt m f q).2.1 ≠ 0 ∧ ((cutAt m f q).2.2 < 2 * (cutAt m f q).2.1 ∨
      (2 * (cutAt m f q).2.1 = (cutAt m f q).2.2 ∧ (cutAt m f q).1 % 2 = 1)) then (cutAt m f q).1 + 1 else (cutAt m f q).1 := by
    show (if Rnd.rne.up neg _ _ _ = true then _ else _) = _
    simp only [rne_up_iff, beq_iff_eq]
  by_cases h : q ≤ f
  · have hcut : cutAt m f q = (m * 2 ^ (f - q).toNat, 0, 1) := if_pos h
    have hn : n = m * 2 ^ (f - q).toNat := if_pos h
    have hd : d = 1 := if_pos h
    rw [hcut] at hk
    rw [hn, hd]
    have hspec := nearest_of_rest Nat.one_pos hk
    dsimp only at hspec
    rw [Nat.mul_one k] at hspec ⊢
    rwa [Nat.mul_one, Nat.add_zero] at hspec
  · have hcut : cutAt m f q = (m / 2 ^ (q - f).toNat, m % 2 ^ (q - f).toNat, 2 ^ (q - f).toNat) := if_neg h
    have hn : n = m := if_neg h
    have hd : d = 2 ^ (q - f).toNat := if_neg h
    rw [hcut] at hk
    rw [hn, hd]
    have hspec := nearest_of_rest (Nat.mod_lt m (Nat.two_pow_pos (q - f).toNat)) hk
    rwa [Nat.div_add_mod'] at hspec

/-- A signed magnitude within the finite range, or beyond it. -/
theorem w48Sat_signed (neg : Bool) (k : Nat) :
    let signed := fun (k : Nat) => if neg then -(k : Int) else (k : Int)
    (k ≤ 2 ^ 47 - 1 → (w48Sat (signed k)).1.toInt = signed k ∧ (w48Sat (signed k)).2 = false) ∧
    (2 ^ 47 - 1 < k → (w48Sat (signed k)).1.toInt = signed (2 ^ 47 - 1) ∧ (w48Sat (signed k)).2 = true) := by
  intro signed
  cases neg with
  | false => exact ⟨fun h => w48Sat_of_fits (m := (k : Int)) (by omega) (by omega), fun h => w48Sat_of_above (m := (k : Int)) (by omega)⟩
  | true => exact ⟨fun h => w48Sat_of_fits (m := -(k : Int)) (by omega) (by omega), fun h => w48Sat_of_below (m := -(k : Int)) (by omega)⟩

/-! ## Step sums (R122) -/

/-- A dyadic number in units of 2^low. -/
def Dyad.units (low : Int) (d : Dyad) : Int := d.i * 2 ^ (d.e - low).toNat

theorem Dyad.units_of_zero {low : Int} {d : Dyad} (h : d.i = 0) : d.units low = 0 := by rw [Dyad.units, h, Int.zero_mul]

theorem Dyad.low_add {low : Int} {a b : Dyad} (ha : low ≤ a.e) (hb : low ≤ b.e) : low ≤ (a.add b).e := by
  unfold Dyad.add; split <;> assumption

/-- The exponent of a power of two in steps, for exponents that rise. -/
theorem two_pow_steps {low e f : Int} (h : low ≤ e) (k : e ≤ f) : (2 : Int) ^ (f - low).toNat = 2 ^ (f - e).toNat * 2 ^ (e - low).toNat := by
  rw [← pow_add]
  congr 1
  omega

theorem Dyad.units_add {low : Int} {a b : Dyad} (ha : low ≤ a.e) (hb : low ≤ b.e) : (a.add b).units low = a.units low + b.units low := by
  by_cases h : a.e ≤ b.e
  · have hadd : a.add b = { i := a.i + b.i * 2 ^ (b.e - a.e).toNat, e := a.e } := if_pos h
    rw [hadd, Dyad.units, Dyad.units, Dyad.units, two_pow_steps ha h]
    ring
  · have hadd : a.add b = { i := a.i * 2 ^ (a.e - b.e).toNat + b.i, e := b.e } := if_neg h
    rw [hadd, Dyad.units, Dyad.units, Dyad.units, two_pow_steps hb (by omega : b.e ≤ a.e)]
    ring

/-- One addend of an exact sum. -/
def sumStep (acc : Dyad) (p : Val) : Dyad := if p.isZero then acc else if acc.i = 0 then p.dyad else acc.add p.dyad

theorem exactSum_eq (ps : List Val) :
    exactSum ps = .fin (decide ((ps.foldl sumStep { i := 0, e := 0 }).i < 0)) (ps.foldl sumStep { i := 0, e := 0 }).i.natAbs (ps.foldl sumStep { i := 0, e := 0 }).e := rfl

theorem dyad_natAbs (i e : Int) : (Val.fin (decide (i < 0)) i.natAbs e).dyad = { i := i, e := e } := by
  unfold Val.dyad
  by_cases h : i < 0
  · simp [h, abs_of_neg h]
  · simp [h, abs_of_nonneg (not_lt.1 h)]

theorem dyad_of_isZero {p : Val} (h : p.isZero = true) : p.dyad.i = 0 := by
  cases p with
  | nan => rfl
  | inf n => rfl
  | fin n m e =>
    have hm : m = 0 := by simpa [Val.isZero] using h
    subst hm
    cases n <;> rfl

theorem sumStep_units {low : Int} {acc : Dyad} {p : Val} (ha : low ≤ acc.e) (hp : low ≤ p.dyad.e) :
    (sumStep acc p).units low = acc.units low + p.dyad.units low ∧ low ≤ (sumStep acc p).e := by
  unfold sumStep
  split
  · rename_i hz
    rw [Dyad.units_of_zero (dyad_of_isZero hz), add_zero]
    exact ⟨rfl, ha⟩
  · split
    · rename_i hz
      rw [Dyad.units_of_zero hz, zero_add]
      exact ⟨rfl, hp⟩
    · exact ⟨Dyad.units_add ha hp, Dyad.low_add ha hp⟩

theorem foldl_sumStep_units {low : Int} (ps : List Val) (acc : Dyad) (ha : low ≤ acc.e) (hp : ∀ p ∈ ps, low ≤ p.dyad.e) :
    (ps.foldl sumStep acc).units low = acc.units low + (ps.map (fun p => p.dyad.units low)).sum := by
  induction ps generalizing acc with
  | nil => rw [List.foldl_nil, List.map_nil, List.sum_nil, add_zero]
  | cons p ps ih =>
    obtain ⟨hu, hlow⟩ := sumStep_units ha (hp p List.mem_cons_self)
    rw [List.foldl_cons, ih _ hlow (fun x hx => hp x (List.mem_cons_of_mem p hx)), hu, List.map_cons, List.sum_cons, add_assoc]

/-- The exact sum, in units of any power of two that divides every product and is at most 1. -/
theorem exactSum_units {low : Int} {ps : List Val} (h0 : low ≤ 0) (hp : ∀ p ∈ ps, low ≤ p.dyad.e) :
    (exactSum ps).dyad.units low = (ps.map (fun p => p.dyad.units low)).sum := by
  rw [exactSum_eq, dyad_natAbs]
  exact (foldl_sumStep_units ps { i := 0, e := 0 } h0 hp).trans (by rw [Dyad.units_of_zero rfl, zero_add])

/-- The exponent of the leading bit of a finite value other than zero. -/
def leadOf : Val → Option Int
  | .fin _ m e => if m = 0 then none else some (log2Of m e)
  | _ => none

/-- The highest leading bit so far (align16 of R122). -/
def leadStep (acc : Option Int) (p : Val) : Option Int :=
  match p with
  | .fin _ m e => if m = 0 then acc else (match acc with
    | none => some (log2Of m e)
    | some a => if a < log2Of m e then some (log2Of m e) else some a)
  | _ => acc

/-- A product cut at a multiple of 2^q, with its sign (R122). -/
def cutSigned (q : Int) : Val → Int
  | .fin n m e => if n then -((cutAt m e q).1 : Int) else (cutAt m e q).1
  | _ => 0

/-- The cut products added up. -/
def cutStep (q : Int) (acc : Int) (p : Val) : Int :=
  match p with
  | .fin n m e => let k : Int := (cutAt m e q).1; if n then acc - k else acc + k
  | _ => acc

theorem align16_eq (ps : List Val) : align16 ps = match ps.foldl leadStep none with
    | none => .fin false 0 0
    | some t => .fin (decide (ps.foldl (cutStep (t - 46)) 0 < 0)) (ps.foldl (cutStep (t - 46)) 0).natAbs (t - 46) := rfl

theorem cutStep_eq (q acc : Int) (p : Val) : cutStep q acc p = acc + cutSigned q p := by
  cases p with
  | nan => exact (add_zero acc).symm
  | inf n => exact (add_zero acc).symm
  | fin n m e => cases n with
    | false => rfl
    | true => exact sub_eq_add_neg acc _

theorem foldl_cutStep (q : Int) (ps : List Val) (acc : Int) : ps.foldl (cutStep q) acc = acc + (ps.map (cutSigned q)).sum := by
  induction ps generalizing acc with
  | nil => exact (add_zero acc).symm
  | cons p ps ih => rw [List.foldl_cons, ih, cutStep_eq, List.map_cons, List.sum_cons, add_assoc]

theorem align16_of_lead {ps : List Val} {top : Int} (h : ps.foldl leadStep none = some top) :
    (align16 ps).dyad = { i := (ps.map (cutSigned (top - 46))).sum, e := top - 46 } := by
  rw [align16_eq, h]
  dsimp only
  rw [dyad_natAbs, foldl_cutStep, zero_add]

theorem leadStep_of_none {p : Val} (h : leadOf p = none) (acc : Option Int) : leadStep acc p = acc := by
  cases p with
  | nan => rfl
  | inf n => rfl
  | fin n m e =>
    by_cases hm : m = 0
    · exact if_pos hm
    · exact absurd ((if_neg hm).symm.trans h) (Option.some_ne_none _)

theorem leadStep_of_some {p : Val} {a : Int} (h : leadOf p = some a) (acc : Option Int) :
    leadStep acc p = match acc with | none => some a | some b => if b < a then some a else some b := by
  cases p with
  | nan => cases h
  | inf n => cases h
  | fin n m e =>
    by_cases hm : m = 0
    · exact absurd ((if_pos hm).symm.trans h) (Option.some_ne_none _).symm
    · obtain rfl := Option.some.inj ((if_neg hm).symm.trans h)
      exact (if_neg hm).trans (by cases acc <;> rfl)

/-- A leading bit that some addend has and none exceeds is the highest. -/
theorem foldl_leadStep {top : Int} (ps : List Val) (acc : Option Int) (hmem : acc = some top ∨ ∃ p ∈ ps, leadOf p = some top) (hacc : ∀ a, acc = some a → a ≤ top)
    (hps : ∀ p ∈ ps, ∀ a, leadOf p = some a → a ≤ top) : ps.foldl leadStep acc = some top := by
  induction ps generalizing acc with
  | nil => exact hmem.resolve_right (fun ⟨p, hp, _⟩ => absurd hp List.not_mem_nil)
  | cons p ps ih =>
    have hle := hps p List.mem_cons_self
    have htail := fun x hx => hps x (List.mem_cons_of_mem p hx)
    rw [List.foldl_cons]
    refine ih _ ?_ ?_ htail
    · rcases hmem with rfl | ⟨x, hx, htop⟩
      · refine .inl ?_
        cases hl : leadOf p with
        | none => exact leadStep_of_none hl _
        | some a => exact (leadStep_of_some hl _).trans (if_neg (not_lt.2 (hle a hl)))
      · rcases List.mem_cons.1 hx with rfl | hx
        · refine .inl ((leadStep_of_some htop _).trans ?_)
          cases acc with
          | none => rfl
          | some b =>
            by_cases hlt : b < top
            · exact if_pos hlt
            · exact (if_neg hlt).trans (congrArg some (le_antisymm (hacc b rfl) (not_lt.1 hlt)))
        · exact .inr ⟨x, hx, htop⟩
    · intro a ha
      cases hl : leadOf p with
      | none => exact hacc a ((leadStep_of_none hl _).symm.trans ha)
      | some b =>
        rw [leadStep_of_some hl] at ha
        cases acc with
        | none => exact Option.some.inj ha ▸ hle b hl
        | some c =>
          dsimp only at ha
          split at ha
          · exact Option.some.inj ha ▸ hle b hl
          · exact Option.some.inj ha ▸ hacc c rfl

theorem leadOf_eq_some {p : Val} {top : Int} (h : leadOf p = some top) : ∃ n m e, p = .fin n m e ∧ m ≠ 0 ∧ log2Of m e = top := by
  cases p with
  | nan => cases h
  | inf n => cases h
  | fin n m e =>
    by_cases hm : m = 0
    · exact absurd ((if_pos hm).symm.trans h) (Option.some_ne_none _).symm
    · exact ⟨n, m, e, rfl, hm, Option.some.inj ((if_neg hm).symm.trans h)⟩

/-- The aligned sum: every product is cut at 46 places below the highest leading bit (R122). -/
theorem align16_dyad {ps : List Val} {top : Int} (hmem : ∃ n m e, Val.fin n m e ∈ ps ∧ m ≠ 0 ∧ log2Of m e = top)
    (hle : ∀ n m e, Val.fin n m e ∈ ps → m ≠ 0 → log2Of m e ≤ top) : (align16 ps).dyad = { i := (ps.map (cutSigned (top - 46))).sum, e := top - 46 } := by
  obtain ⟨n, m, e, hp, hm, htop⟩ := hmem
  refine align16_of_lead (foldl_leadStep ps none (.inr ⟨_, hp, (if_neg hm).trans (congrArg some htop)⟩) (fun a ha => absurd ha.symm (Option.some_ne_none a)) (fun p hp a ha => ?_))
  obtain ⟨n, m, e, rfl, hm, hlog⟩ := leadOf_eq_some ha
  exact hlog ▸ hle n m e hp hm

theorem stepSum_of_infinite {al : Bool} {xs ys : List Val} (h : ¬ ((∀ x ∈ xs, x.isFin = true) ∧ ∀ y ∈ ys, y.isFin = true)) : stepSum al xs ys = .nan := by
  have hany : (xs.any (fun x => !x.isFin) || ys.any (fun y => !y.isFin)) = true := by
    refine Bool.of_not_eq_false (fun k => h ?_)
    simpa using k
  exact if_pos hany

theorem stepSum_of_finite {al : Bool} {xs ys : List Val} (hx : ∀ x ∈ xs, x.isFin = true) (hy : ∀ y ∈ ys, y.isFin = true) :
    stepSum al xs ys = if al then align16 (List.zipWith Val.mul xs ys) else exactSum (List.zipWith Val.mul xs ys) := by
  have hany : (xs.any (fun x => !x.isFin) || ys.any (fun y => !y.isFin)) = false := by simpa using ⟨hx, hy⟩
  exact if_neg (by rw [hany]; exact Bool.false_ne_true)

end Sys2Proof.Machine
end

section
/-! PROOFS. A chain whose link has changed (R142, R146, R147, R158), and what a contribution makes of a link (R134, R141). -/

namespace Sys2Proof.Machine

open Sys2Proof

/-! ## Chains -/

/-- A chain replaced is found under its number. -/
theorem findChain_setChain {s : State} {n : BitVec 12} {c d : Chain} (h : findChain s n = some c) (hn : d.num = c.num) : findChain (setChain s d) n = some d := by
  have hsame : ((fun x : Chain => x.num == n) ∘ fun x => if x.num = d.num then d else x) = fun x => x.num == n := by
    funext x
    by_cases hx : x.num = d.num
    · simp only [Function.comp, hx, if_true]
    · simp only [Function.comp, if_neg hx]
  have hfind : s.chains.find? (fun x => x.num == n) = some c := h
  show (s.chains.map (fun x => if x.num = d.num then d else x)).find? (fun x => x.num == n) = some d
  rw [List.find?_map, hsame, hfind]
  exact congrArg some (if_pos hn.symm)

theorem Chain.setLink_self {c : Chain} {i : Nat} {l : Link} (h : c.links[i]? = some l) (x : Link) : (c.setLink i x).links[i]? = some x := by
  have hi : i < c.links.length := (List.getElem?_eq_some_iff.1 h).1
  exact List.getElem?_set_self hi

/-! ## Settled links -/

/-- A tree link that is DONE asks for its children's nodes (R147, R157). -/
def Link.asking (s : State) (c : Chain) (i : Nat) (l : Link) : Link := if c.isTree l && !l.noded then l.ask s (c.treeKids i) else l

/-- A tree link that has its children's nodes computes its own (R146). -/
def Link.noding (c : Chain) (i : Nat) (l : Link) : Link :=
  if c.isTree l && !l.noded && (c.treeKids i).all (fun k => l.reads.any (fun x => x.1 == k.1)) then c.computeNode i l else l

/-- A link that is DONE forwards or gives notice once (R142, R147). -/
def Link.sending (s : State) (c : Chain) (i : Nat) (l : Link) : Link :=
  if i = 0 || l.flight.isSome || l.landed then l else l.send s (c.dieAt l.parent)

/-- A link as its chain holds it after it has changed. -/
def Link.settled (s : State) (c : Chain) (i : Nat) (l : Link) : Link :=
  if l.state = .done then (({ l with holders := [] } : Link).asking s c i |>.noding c i).sending s c i else l

theorem settleLink_eq (s : State) (c : Chain) (i : Nat) (l : Link) : settleLink s c i l = setChain s (c.setLink i (l.settled s c i)) := by
  unfold settleLink Link.settled
  split <;> rfl

section
variable {s : State} {c : Chain} {i : Nat} {l : Link}

theorem Link.settled_of_open (h : l.state ≠ .done) : l.settled s c i = l := if_neg h

/-- What the asking, the node and the message of a link leave as it is, settling leaves. -/
theorem Link.settled_keeps {β : Type} (π : Link → β) (hh : ∀ l : Link, π { l with holders := [] } = π l) (ha : ∀ (l : Link) k, π (l.ask s k) = π l)
    (hn : ∀ l, π (c.computeNode i l) = π l) (hs : ∀ (l : Link) d, π (l.send s d) = π l) : π (l.settled s c i) = π l := by
  have hask : ∀ l : Link, π (l.asking s c i) = π l := fun l => by unfold Link.asking; split <;> simp only [ha]
  have hnode : ∀ l : Link, π (l.noding c i) = π l := fun l => by unfold Link.noding; split <;> simp only [hn]
  have hsend : ∀ l : Link, π (l.sending s c i) = π l := fun l => by unfold Link.sending; split <;> simp only [hs]
  unfold Link.settled
  split
  · rw [hsend, hnode, hask, hh]
  · rfl

@[simp] theorem Link.settled_recv : (l.settled s c i).recv = l.recv := settled_keeps Link.recv (fun _ => rfl) (fun _ _ => rfl) (fun _ => rfl) (fun _ _ => rfl)
@[simp] theorem Link.settled_mask : (l.settled s c i).mask = l.mask := settled_keeps Link.mask (fun _ => rfl) (fun _ _ => rfl) (fun _ => rfl) (fun _ _ => rfl)
@[simp] theorem Link.settled_e : (l.settled s c i).e = l.e := settled_keeps Link.e (fun _ => rfl) (fun _ _ => rfl) (fun _ => rfl) (fun _ _ => rfl)
@[simp] theorem Link.settled_ovr : (l.settled s c i).ovr = l.ovr := settled_keeps Link.ovr (fun _ => rfl) (fun _ _ => rfl) (fun _ => rfl) (fun _ _ => rfl)
@[simp] theorem Link.settled_state : (l.settled s c i).state = l.state := settled_keeps Link.state (fun _ => rfl) (fun _ _ => rfl) (fun _ => rfl) (fun _ _ => rfl)

/-- On reaching DONE no group holds a link (R158). -/
theorem Link.settled_holders (h : l.state = .done) : (l.settled s c i).holders = [] := by
  rw [Link.settled, if_pos h]
  unfold Link.sending Link.noding Link.asking
  split <;> split <;> split <;> rfl

/-- A link without a node of its own keeps its words. -/
theorem Link.settled_m (h : c.isTree l = false) : (l.settled s c i).m = l.m := by
  have htree : c.isTree { l with holders := [] } = false := h
  unfold Link.settled
  split
  · have hask : ({ l with holders := [] } : Link).asking s c i = { l with holders := [] } := if_neg (by rw [htree]; exact Bool.false_ne_true)
    have hnode : ({ l with holders := [] } : Link).noding c i = { l with holders := [] } := if_neg (by rw [htree]; exact Bool.false_ne_true)
    rw [hask, hnode]
    unfold Link.sending
    split <;> rfl
  · rfl

/-- Below the root a link that is DONE sends its contribution, tagged with the incarnations of both dies (R142, R147, R428). -/
theorem Link.settled_flight (h : l.state = .done) (hi : i ≠ 0) (hf : l.flight = none) (hl : l.landed = false) :
    (l.settled s c i).flight = some { src := incOf s l.die l.die, dst := incOf s l.die (c.dieAt l.parent) } := by
  have hbefore : ∀ x : Link, x = (({ l with holders := [] } : Link).asking s c i).noding c i → x.flight = none ∧ x.landed = false ∧ x.die = l.die ∧ x.parent = l.parent := by
    rintro x rfl
    unfold Link.noding Link.asking
    split <;> split <;> exact ⟨hf, hl, rfl, rfl⟩
  obtain ⟨hxf, hxl, hdie, hparent⟩ := hbefore _ rfl
  rw [Link.settled, if_pos h]
  generalize (({ l with holders := [] } : Link).asking s c i).noding c i = x at hxf hxl hdie hparent
  rw [Link.sending, hxf, hxl, if_neg (by simp [hi]), Link.send, hdie, hparent]

/-- A tree link that is DONE asks for the node of each of its tree children (R147, R157). -/
theorem Link.settled_asks (h : l.state = .done) (ht : c.isTree l = true) (hn : l.noded = false) (ha : l.asks = []) :
    (l.settled s c i).asks = (c.treeKids i).map (fun x => (x.1, some { src := incOf s x.2.die x.2.die, dst := incOf s x.2.die l.die })) := by
  have hask : ({ l with holders := [] } : Link).asking s c i = ({ l with holders := [] } : Link).ask s (c.treeKids i) :=
    if_pos (by rw [show c.isTree { l with holders := [] } = true from ht, hn]; rfl)
  rw [Link.settled, if_pos h, hask]
  have hasks : ∀ x : Link, (x.noding c i).asks = x.asks ∧ (x.sending s c i).asks = x.asks := fun x => by
    constructor
    · unfold Link.noding; split <;> rfl
    · unfold Link.sending; split <;> rfl
  rw [(hasks _).2, (hasks _).1, Link.ask, ha]
  simp

end

/-! ## Contributions (R134, R141) -/

/-- A row of a contribution of 64 rows of n words, given by its words. -/
def wordRows (n : Nat) (f : Nat → Nat → BitVec 48 × Bool) : List (List (BitVec 48 × Bool)) := (List.range 64).map (fun r => (List.range n).map (f r))

/-- A word received is added to an old one: the sum with its overflow, and the overflow of the word received. -/
def addWord (a : BitVec 48) (b : BitVec 48 × Bool) : (BitVec 48 × Bool) × Bool := (w48Add a b.1, b.2)

section
variable {l : Link} {n : Nat} {f : Nat → Nat → BitVec 48 × Bool} (hm : l.m.length = 64) (hrows : ∀ row ∈ l.m, row.length = n)
include hm

/-- The rows that a contribution adds into a link. -/
theorem addedRows_getElem? {r : Nat} (hr : r < 64) :
    (List.zipWith addRow l.m (wordRows n f))[r]? = some (addRow (l.m.getD r []) ((List.range n).map (f r))) := by
  have hrow : l.m[r]? = some (l.m.getD r []) := by
    rw [List.getD_eq_getElem?_getD, List.getElem?_eq_getElem (hm ▸ hr)]
    rfl
  have hnew : (wordRows n f)[r]? = some ((List.range n).map (f r)) := by
    rw [wordRows, List.getElem?_map, List.getElem?_range hr]
    rfl
  rw [List.getElem?_zipWith, hrow, hnew]

include hrows

theorem row_length {r : Nat} (hr : r < 64) : (l.m.getD r []).length = n := by
  have h : r < l.m.length := hm ▸ hr
  rw [List.getD_eq_getElem l.m [] h]
  exact hrows _ (List.getElem_mem h)

/-- The words of a row with a contribution added, each with what overflowed. -/
theorem addedWords_getElem? {r col : Nat} (hr : r < 64) (hcol : col < n) :
    (List.zipWith addWord (l.m.getD r []) ((List.range n).map (f r)))[col]? = some (addWord (rowWord l.m r col) (f r col)) := by
  have hlen := row_length hm hrows hr
  have hold : (l.m.getD r [])[col]? = some (rowWord l.m r col) := by
    rw [rowWord]
    generalize l.m.getD r [] = row at hlen
    rw [List.getD_eq_getElem _ _ (hlen.symm ▸ hcol), List.getElem?_eq_getElem]
  have hnew : ((List.range n).map (f r))[col]? = some (f r col) := by
    rw [List.getElem?_map, List.getElem?_range hcol]
    rfl
  rw [List.getElem?_zipWith, hold, hnew]

/-- Each word of a link that receives is the W48 sum of the old word and the word received (R141). -/
theorem receive_word {r col : Nat} (hr : r < 64) (hcol : col < n) (o : BitVec 64) (k : Option (BitVec 3)) :
    rowWord (l.receive (wordRows n f) o k).m r col = (w48Add (rowWord l.m r col) (f r col).1).1 := by
  have hrow : (l.receive (wordRows n f) o k).m[r]? = some (addRow (l.m.getD r []) ((List.range n).map (f r))).1 := by
    show ((List.zipWith addRow l.m (wordRows n f)).map (·.1))[r]? = _
    rw [List.getElem?_map, addedRows_getElem? hm hr]
    rfl
  have hword : (addRow (l.m.getD r []) ((List.range n).map (f r))).1[col]? = some (w48Add (rowWord l.m r col) (f r col).1).1 := by
    show ((List.zipWith addWord _ _).map (fun x => x.1.1))[col]? = _
    rw [List.getElem?_map, addedWords_getElem? hm hrows hr hcol]
    rfl
  rw [rowWord, List.getD_eq_getElem?_getD (l := (l.receive (wordRows n f) o k).m), hrow, Option.getD_some, List.getD_eq_getElem?_getD, hword, Option.getD_some]

/-- A row overflows where a word received, or a sum, leaves the range (R121, R134). -/
theorem addedRow_overflows {r : Nat} (hr : r < 64) : (addRow (l.m.getD r []) ((List.range n).map (f r))).2 = true ↔
    ∃ col < n, (w48Add (rowWord l.m r col) (f r col).1).2 = true ∨ (f r col).2 = true := by
  have hlen := row_length hm hrows hr
  show (List.zipWith addWord _ _).any (fun x => x.1.2 || x.2) = true ↔ _
  rw [List.any_eq_true]
  constructor
  · rintro ⟨x, hx, hover⟩
    obtain ⟨col, hcol, rfl⟩ := List.mem_iff_getElem.1 hx
    have hn : col < n := by
      rw [List.length_zipWith, List.length_map, List.length_range] at hcol
      exact (Nat.lt_min.1 hcol).2
    have hget := addedWords_getElem? (f := f) hm hrows hr hn
    rw [List.getElem?_eq_getElem hcol] at hget
    rw [Option.some.inj hget] at hover
    exact ⟨col, hn, Bool.or_eq_true_iff.1 hover⟩
  · rintro ⟨col, hn, hover⟩
    exact ⟨_, List.mem_of_getElem? (addedWords_getElem? hm hrows hr hn), Bool.or_eq_true_iff.2 hover⟩

omit hm hrows in
/-- The overflow flags of numbered rows gathered into a word. -/
theorem foldl_flags {β : Type} (rows : List ((β × Bool) × Nat)) (o : BitVec 64) {r : Nat} (hr : r < 64) :
    (rows.foldl (fun (acc : BitVec 64) x => if x.1.2 then acc ||| (1#64 <<< x.2) else acc) o).getLsbD r = true ↔
      o.getLsbD r = true ∨ ∃ x ∈ rows, x.1.2 = true ∧ x.2 = r := by
  induction rows generalizing o with
  | nil => simp
  | cons x rows ih =>
    have hbit : (1#64 <<< x.2).getLsbD r = true ↔ x.2 = r := by
      rw [BitVec.getLsbD_shiftLeft]
      simp [hr]
      omega
    rw [List.foldl_cons, ih]
    by_cases hx : x.1.2 = true
    · rw [if_pos hx, BitVec.getLsbD_or, Bool.or_eq_true, hbit]
      simp [hx, or_assoc]
    · rw [if_neg hx]
      simp [hx]

/-- OVR is set where it was, where the contribution brings it, and for a row where a word received or a sum leaves the range (R121, R134). -/
theorem receive_ovr {r : Nat} (hr : r < 64) (o : BitVec 64) (k : Option (BitVec 3)) : (l.receive (wordRows n f) o k).ovr.getLsbD r = true ↔
    (l.ovr ||| o).getLsbD r = true ∨ ∃ col < n, (w48Add (rowWord l.m r col) (f r col).1).2 = true ∨ (f r col).2 = true := by
  refine (foldl_flags (List.zipWith addRow l.m (wordRows n f)).zipIdx (l.ovr ||| o) hr).trans (or_congr Iff.rfl ?_)
  rw [← addedRow_overflows hm hrows hr]
  have hget := addedRows_getElem? (f := f) (n := n) hm hr
  constructor
  · rintro ⟨⟨x, j⟩, hx, hover, rfl⟩
    rw [List.mem_zipIdx_iff_getElem?, hget] at hx
    rw [Option.some.inj hx]
    exact hover
  · intro hover
    exact ⟨(_, r), List.mem_zipIdx_iff_getElem?.2 hget, hover, rfl⟩

end

end Sys2Proof.Machine
end

section
/-! PROOFS. The completion of a step, its rerun and the self-test of an array (R134, R141, R417 to R423). -/

namespace Sys2Proof.Machine

open Sys2Proof

/-! ## What the records of a mismatch leave as it is -/

/-- The second state has the chains, incarnations and step counts of the first, and no line more is poisoned. -/
structure StepsAlike (s t : State) : Prop where
  chains : t.chains = s.chains
  incs : ∀ h d, incOf t h d = incOf s h d
  poison : t.poison ⊆ s.poison
  steps : ∀ c, (t.cores.get c).steps = (s.cores.get c).steps

theorem StepsAlike.refl (s : State) : StepsAlike s s := ⟨rfl, fun _ _ => rfl, List.Subset.refl _, fun _ => rfl⟩

theorem StepsAlike.trans {s t u : State} (h : StepsAlike s t) (k : StepsAlike t u) : StepsAlike s u :=
  ⟨k.chains.trans h.chains, fun a b => (k.incs a b).trans (h.incs a b), List.Subset.trans k.poison h.poison, fun c => (k.steps c).trans (h.steps c)⟩

theorem stepsAlike_foldl {α : Type} {f : State → α → State} (hf : ∀ t x, StepsAlike t (f t x)) (l : List α) (s : State) : StepsAlike s (l.foldl f s) :=
  foldl_relates StepsAlike.refl StepsAlike.trans (fun t x _ _ => hf t x)

theorem stepsAlike_setGroup (s : State) (p : Place) (g : Group) : StepsAlike s (s.setGroup p g) := ⟨rfl, fun _ _ => rfl, List.Subset.refl _, fun _ => rfl⟩

theorem stepsAlike_fresh (s : State) : StepsAlike s { s with fresh := s.fresh + 1 } := ⟨rfl, fun _ _ => rfl, List.Subset.refl _, fun _ => rfl⟩

/-- What a die's L2 holds does not bear on its incarnations. -/
theorem incOf_of_l2 {s t : State} {i : DieId} {l : List L2Line} (ht : t.dies = s.dies.set i.val { s.dies.get i with l2 := l }) (h d : DieId) : incOf t h d = incOf s h d := by
  by_cases hi : i = h
  · subst hi
    simp [incOf, ht, Vector.get_eq_getElem]
  · have hne : i.val ≠ h.val := fun k => hi (Fin.ext k)
    simp [incOf, ht, Vector.get_eq_getElem, hne]

theorem chains_refreshLine (s : State) (line : Nat) : (refreshLine s line).chains = s.chains ∧ (refreshLine s line).dies = s.dies := by
  unfold refreshLine; dsimp only; split <;> exact ⟨rfl, rfl⟩

theorem incs_dirtyLine (s : State) (pa : Nat) (h d : DieId) : incOf (dirtyLine s pa) h d = incOf s h d := by
  unfold dirtyLine
  split
  · exact incOf_of_l2 rfl h d
  · rfl

theorem stepsAlike_putHome (s : State) (pa : Nat) (bs : List Byte) : StepsAlike s (putHome s pa bs) := by
  have hside := homeSide_putHome s pa bs
  obtain ⟨hchains, hdies⟩ := chains_refreshLine s (pa / 128)
  refine ⟨?_, fun h d => ?_, hside.poison, fun c => by rw [hside.cores]⟩
  · show (dirtyLine (refreshLine s (pa / 128)) pa).chains = s.chains
    rw [← hchains]
    unfold dirtyLine
    split <;> rfl
  · show incOf (dirtyLine (refreshLine s (pa / 128)) pa) h d = incOf s h d
    rw [incs_dirtyLine, incOf, hdies]
    rfl

theorem stepsAlike_logErr (s : State) (e : ErrRec) : StepsAlike s (logErr s e) := by
  unfold logErr
  generalize e.dwords = ds
  unfold logDwords
  split
  · exact ⟨rfl, fun _ _ => rfl, List.Subset.refl _, fun _ => rfl⟩
  · dsimp only
    have hrec := stepsAlike_putHome s (dawnAddr (0x20000000 + 0x40 + 64 * (s.dawn.logNext.toNat % 16383))) (dwordBytes ds)
    generalize putHome s _ (dwordBytes ds) = u at hrec ⊢
    have hnext := stepsAlike_putHome u (dawnAddr 0x20000008) (leBytes 8 (u.dawn.logNext + 1).toNat)
    generalize putHome u _ _ = v at hnext ⊢
    exact (hrec.trans hnext).trans ⟨rfl, fun _ _ => rfl, List.Subset.refl _, fun _ => rfl⟩

theorem stepsAlike_arrayRecord (s : State) (c : CoreId) (m : Fin 2) (strip : Nat) (kind : BitVec 4) (cause : BitVec 10) (lid : BitVec 64) :
    StepsAlike s (arrayRecord s c m strip kind cause lid) := (stepsAlike_fresh s).trans (stepsAlike_logErr _ _)

theorem slots_arrayRecord (s : State) (c : CoreId) (m : Fin 2) (strip : Nat) (kind : BitVec 4) (cause : BitVec 10) (lid : BitVec 64) :
    (arrayRecord s c m strip kind cause lid).slots = s.slots := slots_logErr _ _

theorem stepsAlike_recordZeroFill (was s : State) (p : Place) (g : Group) (l : Loc) : StepsAlike s (recordZeroFill was s p g l) := by
  unfold recordZeroFill
  cases l with
  | spad off => exact (stepsAlike_fresh s).trans (stepsAlike_logErr _ _)
  | mem pa =>
    show StepsAlike s (recordZeroRead was s g.lr.id pa)
    unfold recordZeroRead
    exact (stepsAlike_fresh s).trans (stepsAlike_logErr _ _)

/-! ## The health of the arrays -/

theorem healthOf_setHealth (s : State) (c : CoreId) (m : Fin 2) (h : Health) : healthOf (setHealth s c m h) c m = h := by
  simp [healthOf, setHealth, State.setCore, Vector.get_eq_getElem]

theorem healthOf_of_cores {s t : State} (h : t.cores = s.cores) (c : CoreId) (m : Fin 2) : healthOf t c m = healthOf s c m := by rw [healthOf, healthOf, h]

theorem steps_setHealth (s : State) (c d : CoreId) (m : Fin 2) (h : Health) : ((setHealth s c m h).cores.get d).steps = (s.cores.get d).steps := by
  by_cases hd : c = d
  · subst hd
    simp [setHealth, State.setCore, Vector.get_eq_getElem]
  · have hne : c.val ≠ d.val := fun k => hd (Fin.ext k)
    simp [setHealth, State.setCore, Vector.get_eq_getElem, hne]

theorem stepsAlike_setHealth (s : State) (c : CoreId) (m : Fin 2) (h : Health) : StepsAlike s (setHealth s c m h) :=
  ⟨rfl, fun _ _ => rfl, List.Subset.refl _, fun d => steps_setHealth s c d m h⟩

theorem stepsAlike_startTests (s : State) (c : CoreId) (lid : BitVec 64) (due : List (Fin 2 × Nat)) : StepsAlike s (startTests s c lid due) :=
  stepsAlike_foldl (fun _ _ => (stepsAlike_arrayRecord _ _ _ _ _ _ _).trans (stepsAlike_setHealth _ _ _ _)) due s

theorem slots_setHealth (s : State) (c : CoreId) (m : Fin 2) (h : Health) : (setHealth s c m h).slots = s.slots := rfl

theorem slots_startTests (s : State) (c : CoreId) (lid : BitVec 64) (due : List (Fin 2 × Nat)) : (startTests s c lid due).slots = s.slots := by
  refine slots_foldl (fun t x => ?_) due s
  dsimp only
  rw [slots_setHealth, slots_arrayRecord]

theorem countSite_sites (s : State) (src : BitVec 4) (d : DieId) (key window limit : Nat) :
    ∃ l, (countSite s src d key window limit).1 = { s with sites := l } := ⟨_, rfl⟩

/-- The count of a mismatch leaves the slots, and all that a completion looks at. -/
theorem countMismatch_alike (s : State) (c : CoreId) (sites : List (Fin 2 × Nat)) :
    StepsAlike s (countMismatch s c sites).1 ∧ (countMismatch s c sites).1.slots = s.slots := by
  refine List.foldlRecOn (motive := fun acc : State × List (Fin 2 × Nat) => StepsAlike s acc.1 ∧ acc.1.slots = s.slots) sites _ ⟨.refl s, rfl⟩ ?_
  rintro ⟨t, l⟩ ⟨halike, hslots⟩ x -
  obtain ⟨sites, hcount⟩ := countSite_sites t 7 (dieOfCore c) (arrayKey c x.1 x.2) (2 ^ 24) 2
  dsimp only at halike hslots ⊢
  generalize countSite t 7 (dieOfCore c) (arrayKey c x.1 x.2) (2 ^ 24) 2 = counted at hcount
  obtain ⟨u, n, lasting⟩ := counted
  subst hcount
  have hsites : StepsAlike t { t with sites := sites } := ⟨rfl, fun _ _ => rfl, List.Subset.refl _, fun _ => rfl⟩
  exact ⟨(halike.trans hsites).trans (stepsAlike_setHealth _ _ _ _), hslots⟩

/-! ## A started step and the end of a step (R41, R141) -/

theorem stepAt_some {s : State} {p : Place} {k : Nat} {g : Group} {e : QEntry} {w : StepWork} (h : stepAt s p k = some (g, e, w)) :
    s.group p = some g ∧ (g.queue .matrix)[k]? = some e ∧ e.work.bind (·.step) = some w ∧ e.started = true ∧ e.done = false := by
  unfold stepAt at h
  cases hg : s.group p with
  | none => rw [hg] at h; cases h
  | some g' =>
    rw [hg] at h
    dsimp only at h
    cases he : (g'.queue .matrix)[k]? with
    | none => rw [he] at h; cases h
    | some e' =>
      rw [he] at h
      dsimp only at h
      cases hw : e'.work.bind (·.step) with
      | none => rw [hw] at h; cases h
      | some w' =>
        rw [hw] at h
        dsimp only at h
        split at h
        · rename_i hs
          cases h
          rw [Bool.and_eq_true, Bool.not_eq_true'] at hs
          exact ⟨rfl, he, hw, hs.1, hs.2⟩
        · cases h

theorem stepAt_eq {s : State} {p : Place} {k : Nat} {g : Group} {e : QEntry} {w : StepWork} (hg : s.group p = some g) (he : (g.queue .matrix)[k]? = some e)
    (hw : e.work.bind (·.step) = some w) (hs : e.started = true) (hd : e.done = false) : stepAt s p k = some (g, e, w) := by
  rw [stepAt, hg]
  dsimp only
  rw [he]
  dsimp only
  rw [hw]
  dsimp only
  rw [hs, hd]
  rfl

/-- The work of a command that runs a step and nothing else. -/
def stepOnly (w : Option StepWork) (locks : List (Nat × Nat)) : Work := { Work.none with step := w, locks := locks }

/-- In a group whose matrix queue holds each identifier once, a started command runs a step and nothing else. -/
structure RunsStep (g : Group) (id : Nat) : Prop where
  nodup : ((g.queue .matrix).map (·.id)).Nodup
  entry : ∃ e ∈ g.queue .matrix, e.id = id ∧ e.started = true ∧ e.done = false ∧ ∃ w locks, e.work = some (stepOnly w locks)

/-- Every entry of the matrix queue under an identifier is done. -/
def DoneIn (g : Group) (id : Nat) : Prop := ∀ x ∈ g.queue .matrix, x.id = id → x.done = true

theorem mapEntry_ids {g : Group} {q : QueueId} {id : Nat} {f : QEntry → QEntry} (hf : ∀ e, (f e).id = e.id) :
    ((g.mapEntry q id f).queue q).map (·.id) = (g.queue q).map (·.id) := by
  rw [Group.mapEntry, Group.queue_setQueue, List.map_map]
  refine List.map_congr_left (fun e _ => ?_)
  by_cases he : e.id = id
  · exact (congrArg QEntry.id (if_pos he)).trans (hf e)
  · exact congrArg QEntry.id (if_neg he)

theorem mem_mapEntry {g : Group} {q : QueueId} {id : Nat} {f : QEntry → QEntry} {e : QEntry} (he : e ∈ g.queue q) (hi : e.id = id) :
    f e ∈ (g.mapEntry q id f).queue q := by
  rw [Group.mapEntry, Group.queue_setQueue]
  exact List.mem_map.2 ⟨e, he, if_pos hi⟩

/-- An entry with another step in its work. -/
def QEntry.withStep (w : Option StepWork) (e : QEntry) : QEntry := { e with work := e.work.map (fun x => { x with step := w }) }

theorem RunsStep.mapEntry {g : Group} {id : Nat} (h : RunsStep g id) (w : Option StepWork) : RunsStep (g.mapEntry .matrix id (QEntry.withStep w)) id := by
  obtain ⟨e, he, hid, hs, hd, w0, locks, hw⟩ := h.entry
  have hids := mapEntry_ids (g := g) (q := .matrix) (id := id) (f := QEntry.withStep w) (fun _ => rfl)
  exact ⟨hids ▸ h.nodup, _, mem_mapEntry he hid, hid, hs, hd, w, locks, congrArg (Option.map _) hw⟩

/-- In a list that holds each identifier once, the first entry under an identifier is the only one. -/
theorem getElem?_findIdx {l : List QEntry} (hn : (l.map (·.id)).Nodup) {e : QEntry} (he : e ∈ l) : l[l.findIdx (fun x => x.id == e.id)]? = some e := by
  have hlt : l.findIdx (fun x => x.id == e.id) < l.length := List.findIdx_lt_length_of_exists ⟨e, he, beq_iff_eq.2 rfl⟩
  have hid : (l[l.findIdx (fun x => x.id == e.id)]).id = e.id := beq_iff_eq.1 (List.findIdx_getElem (w := hlt))
  rw [List.getElem?_eq_getElem hlt, List.inj_on_of_nodup_map hn (List.getElem_mem hlt) he hid]

theorem deliverFront_done (id n : Nat) (g : Group) (h : DoneIn g id) : DoneIn (deliverFront .matrix n g) id := by
  induction n generalizing g with
  | zero => exact h
  | succ n ih =>
    unfold deliverFront
    cases hq : g.queue .matrix with
    | nil => exact h
    | cons e rest =>
      have htail : ∀ x ∈ rest, x.id = id → x.done = true := fun x hx => h x (hq ▸ List.mem_cons_of_mem e hx)
      have hhead : e.id = id → e.done = true := h e (hq ▸ List.mem_cons_self)
      dsimp only
      split
      · intro x hx
        rw [Group.queue_setQueue] at hx
        rcases List.mem_cons.1 hx with rfl | hx
        · exact hhead
        · exact htail x hx
      · refine ih _ ?_
        show DoneIn (delivered .matrix (pushElems g e.elems).1 e rest) id
        intro x hx
        rw [delivered_queue] at hx
        exact htail x hx

theorem numberElement_queue (g : Group) (i : Instr) (status : BitVec 8) (q : QueueId) : (numberElement g i status).1.queue q = g.queue q := by
  unfold numberElement; split <;> rfl

theorem settleCopies_of_no_copies {g : Group} {q : QueueId} {e : QEntry} {w : Work} (h : w.copies = []) : settleCopies g q e w = (g, e, w) := by
  have hwork : { w with copies := [] } = w := by rw [← h]
  simp only [settleCopies, finishCopies, h, List.foldl_nil, List.takeWhile_nil, List.map_nil, List.append_nil, List.drop_nil]
  rw [hwork]

theorem writeRegs_of_stepOnly (g : Group) (st : StreamId) (w : Option StepWork) (locks : List (Nat × Nat)) : writeRegs g st (stepOnly w locks) = g := rfl

/-- A command whose step is over completes. -/
theorem completeEntry_of_step_over {s : State} {p : Place} {g : Group} {k : Nat} {e : QEntry} {locks : List (Nat × Nat)} (hg : s.group p = some g)
    (he : (g.queue .matrix)[k]? = some e) (hw : e.work = some (stepOnly none locks)) (hs : e.started = true) (hd : e.done = false) :
    ∃ g', completeEntry s p .matrix k = s.setGroup p g' ∧ DoneIn g' e.id := by
  have hready : workReady s p g e (stepOnly none locks) = true := rfl
  refine ⟨(numberElement g e.instr 0).1.mapEntry .matrix e.id
    (fun _ => { e with work := none, done := true, elems := e.elems ++ (numberElement g e.instr 0).2 }), ?_, ?_⟩
  · rw [completeEntry, hg]
    dsimp only
    rw [he]
    dsimp only
    rw [hw]
    dsimp only
    rw [show (!e.started || e.done) = false by rw [hs, hd]; rfl, settleCopies_of_no_copies rfl]
    simp only [hready, show (stepOnly none locks).copies = [] from rfl, show (stepOnly none locks).close = none from rfl,
      show (stepOnly none locks).cause = none from rfl, show (stepOnly none locks).status = 0 from rfl,
      writeRegs_of_stepOnly, Bool.not_true, Bool.or_self, List.isEmpty_nil, Bool.false_eq_true, if_false]
  · intro x hx hid
    obtain ⟨y, hy⟩ := mapEntry_of_mem hx hid
    rw [hy]

/-- The end of a step raises the step count of its core, and its command is complete. -/
theorem endStep_spec {s : State} {p : Place} {g : Group} {e : QEntry} (hg : s.group p = some g) (hrun : RunsStep g e.id) :
    ∃ g', endStep s p e = (s.setCore (coreOf p) { s.cores.get (coreOf p) with steps := (s.cores.get (coreOf p)).steps + 1 }).setGroup p g' ∧ DoneIn g' e.id := by
  obtain ⟨x, hx, hxid, hs, hd, w, locks, hw⟩ := hrun.entry
  have hfind := getElem?_findIdx (hrun.mapEntry none).nodup (mem_mapEntry (f := QEntry.withStep none) hx hxid)
  rw [show (x.withStep none).id = e.id from hxid] at hfind
  rw [endStep, hg]
  dsimp only
  rw [State.group_setGroup]
  dsimp only
  generalize s.setCore (coreOf p) _ = u
  change ((g.mapEntry .matrix e.id (QEntry.withStep none)).queue .matrix)[_]? = _ at hfind
  obtain ⟨g', hcomplete, hdone⟩ := completeEntry_of_step_over (State.group_setGroup u p _) hfind (congrArg (Option.map _) hw) hs hd
  refine ⟨deliverFront .matrix 17 g', ?_, deliverFront_done e.id 17 g' (hxid ▸ hdone)⟩
  change deliverSignals (completeEntry (u.setGroup p (g.mapEntry .matrix e.id (QEntry.withStep none))) p .matrix
    (((g.mapEntry .matrix e.id (QEntry.withStep none)).queue .matrix).findIdx (fun x => x.id == e.id))) p .matrix = _
  rw [hcomplete, State.setGroup_setGroup, deliverSignals_setGroup]

end Sys2Proof.Machine
end

section
/-! PROOFS. A step received, and a step refused (R134, R141, R389, R420, R423). -/

namespace Sys2Proof.Machine

open Sys2Proof

/-! ## A step received -/

/-- What a step received makes of a state: the count of its core, its link, and its command. -/
def StepReceived (s : State) (p : Place) (e : QEntry) (w : StepWork) (c : Chain) (l : Link) (t : State) (f : Link → Prop) : Prop :=
  (t.cores.get (coreOf p)).steps = (s.cores.get (coreOf p)).steps + 1 ∧
  (∃ c' l', findChain t w.chain = some c' ∧ c'.links[w.idx]? = some l' ∧ l'.recv = l.recv + 1 ∧ l'.mask = l.mask ∧ l'.e = l.e ∧
    (¬ l.recv + 1 = l.decl → l'.state = .open ∧ l'.holders = l.holders ∧ l'.flight = l.flight) ∧
    (l.recv + 1 = l.decl → l'.state = .done ∧ l'.holders = [] ∧
      (w.idx ≠ 0 → l.flight = none → l.landed = false → l'.flight = some { src := incOf s l.die l.die, dst := incOf s l.die (c.dieAt l.parent) }) ∧
      (c.isTree l = true → l.noded = false → l.asks = [] → l'.asks = (c.treeKids w.idx).map (fun x =>
        (x.1, some { src := incOf s x.2.die x.2.die, dst := incOf s x.2.die l.die })))) ∧ f l') ∧
  ∀ g', t.group p = some g' → ∀ x ∈ g'.queue .matrix, x.id = e.id → x.done = true

/-- The link that has received a contribution of a step. -/
def Link.afterStep (s : State) (c : Chain) (i : Nat) (l : Link) (rows : List (List (BitVec 48 × Bool))) : Link := (l.receive rows 0 none).settled s c i

theorem receive_state_of_more {l : Link} {rows : List (List (BitVec 48 × Bool))} {o : BitVec 64} {k : Option (BitVec 3)} (h : ¬ l.recv + 1 = l.decl) :
    (l.receive rows o k).state = .open := if_neg h

theorem receive_state_of_full {l : Link} {rows : List (List (BitVec 48 × Bool))} {o : BitVec 64} {k : Option (BitVec 3)} (h : l.recv + 1 = l.decl) :
    (l.receive rows o k).state = .done := if_pos h

/-- The end of a step after its link has received it: the step is received. -/
theorem endStep_received {s u : State} {p : Place} {g : Group} {e : QEntry} {w : StepWork} {c : Chain} {l : Link} (halike : StepsAlike s u) (hg : u.group p = some g)
    (hrun : RunsStep g e.id) (hc : findChain u w.chain = some c) (hl : c.links[w.idx]? = some l) (rows : List (List (BitVec 48 × Bool))) {f : Link → Prop}
    (hf : f (l.afterStep u c w.idx rows)) : StepReceived s p e w c l (endStep (settleLink u c w.idx (l.receive rows 0 none)) p e) f := by
  rw [settleLink_eq]
  change f ((l.receive rows 0 none).settled u c w.idx) at hf
  generalize hr : l.receive rows 0 none = r at hf ⊢
  obtain ⟨g', hend, hdone⟩ := endStep_spec (s := setChain u (c.setLink w.idx (r.settled u c w.idx))) (p := p) (g := g) hg hrun
  have hrecv : r.recv = l.recv + 1 ∧ r.mask = l.mask ∧ r.e = l.e ∧ r.holders = l.holders ∧ r.flight = l.flight := hr ▸ ⟨rfl, rfl, rfl, rfl, rfl⟩
  obtain ⟨hrecv, hmask, he, hholders, hflight⟩ := hrecv
  rw [hend]
  refine ⟨?_, ⟨_, r.settled u c w.idx, findChain_setChain hc rfl, Chain.setLink_self hl _, by rw [Link.settled_recv, hrecv], by rw [Link.settled_mask, hmask],
    by rw [Link.settled_e, he], fun hmore => ?_, fun hfull => ?_, hf⟩, ?_⟩
  · have hset : ((u.cores.set (coreOf p).val { u.cores.get (coreOf p) with steps := (u.cores.get (coreOf p)).steps + 1 }).get (coreOf p)).steps =
        (u.cores.get (coreOf p)).steps + 1 := by simp [Vector.get_eq_getElem]
    exact hset.trans (by rw [halike.steps])
  · have hopen : r.state = .open := hr ▸ receive_state_of_more hmore
    rw [Link.settled_of_open (by rw [hopen]; decide)]
    exact ⟨hopen, hholders, hflight⟩
  · have hstate : r.state = .done := hr ▸ receive_state_of_full hfull
    refine ⟨by rw [Link.settled_state, hstate], Link.settled_holders hstate, fun hi hfl hla => ?_, fun ht hn ha => ?_⟩
    · rw [Link.settled_flight hstate hi (hflight.trans hfl) (by subst hr; exact hla), halike.incs, halike.incs]
      subst hr
      rfl
    · rw [Link.settled_asks hstate (by subst hr; exact ht) (by subst hr; exact hn) (by subst hr; exact ha)]
      subst hr
      refine List.map_congr_left (fun x _ => ?_)
      rw [halike.incs, halike.incs]
      rfl
  · intro x hx
    rw [State.group_setGroup] at hx
    cases hx
    exact hdone

/-! ## The B operand at the end of a step (R416) -/

theorem poisoned_of_subset {s t : State} (h : t.poison ⊆ s.poison) {a : Nat} (ha : poisoned s a = false) : poisoned t a = false := by
  refine Bool.of_not_eq_true (fun k => ?_)
  have hmem : a / 128 ∈ s.poison := h (List.contains_iff_mem.1 k)
  exact absurd ((List.contains_iff_mem.2 hmem).symm.trans ha) Bool.noConfusion

theorem slotBad_eq_nil {s : State} {c : CoreId} {m : Fin 2} {slot : Nat} {t : BitVec 4} : slotBad s c m slot t = [] ↔
    ∀ i < (if tagBlock t then 136 else 128), poisoned s (slotAddr c m slot (128 * i)) = false := by
  rw [slotBad, List.map_eq_nil_iff, List.filter_eq_nil_iff]
  exact ⟨fun h i hi => Bool.of_not_eq_true (h i (List.mem_range.2 hi)), fun h i hi => by rw [h i (List.mem_range.1 hi)]; exact Bool.false_ne_true⟩

theorem slotBad_of_subset {s t : State} (h : t.poison ⊆ s.poison) {c : CoreId} {m : Fin 2} {slot : Nat} {tag : BitVec 4} (hs : slotBad s c m slot tag = []) :
    slotBad t c m slot tag = [] := slotBad_eq_nil.2 (fun i hi => poisoned_of_subset h (slotBad_eq_nil.1 hs i hi))

theorem slotBytes_length (s : State) (c : CoreId) (m : Fin 2) (slot : Nat) : (slotBytes s c m slot).length = 17408 := by
  rw [slotBytes, List.length_append, homeBytes, homeBytes, List.length_map, List.length_map, List.length_range, List.length_range]

/-- A slot whose bytes have not changed since the step started, and of which none is poisoned, gives those bytes. -/
theorem slotTaken_of_same {s : State} {c : CoreId} {m : Fin 2} {slot : Nat} (h : ∀ i < 17408, poisoned s (slotAddr c m slot i) = false) :
    slotTaken s c m slot (slotBytes s c m slot) = slotBytes s c m slot := by
  have hlen := slotBytes_length s c m slot
  unfold slotTaken
  dsimp only
  generalize slotBytes s c m slot = bs at hlen
  refine List.ext_getElem (by simp) (fun i h1 h2 => ?_)
  simp [h i (hlen ▸ h2)]

/-- The arrays that a step uses. -/
def StepWork.sides (w : StepWork) : List (Fin 2) := (List.finRange 2).filter (fun m => w.arrays.getLsbD m.val)

/-- No line of the slots that a step reads is poisoned. -/
def StepClean (s : State) (c : CoreId) (w : StepWork) : Prop := ∀ m : Fin 2, w.arrays.getLsbD m.val = true → slotBad s c m w.slot w.bTag = []

theorem StepClean.of_subset {s t : State} (h : t.poison ⊆ s.poison) {c : CoreId} {w : StepWork} (hs : StepClean s c w) : StepClean t c w :=
  fun m hm => slotBad_of_subset h (hs m hm)

theorem StepClean.bad {s : State} {c : CoreId} {w : StepWork} (h : StepClean s c w) : w.sides.flatMap (fun m => slotBad s c m w.slot w.bTag) = [] :=
  List.flatMap_eq_nil_iff.2 (fun m hm => h m (List.mem_filter.1 hm).2)

/-- The bytes of B by array, as a step takes them when it completes. -/
def StepWork.taken (s : State) (c : CoreId) (w : StepWork) : List (Array Byte) := (w.sides.zip w.bOld).map (fun x => (slotTaken s c x.1 w.slot x.2).toArray)

/-- A word of a step's contribution: the dot product of a row of A and a column of B under the exponent of the row, rounded (R122, R134). -/
def stepTerm (w : StepWork) (slots : List (Array Byte)) (l : Link) (r col : Nat) : BitVec 48 × Bool :=
  w48Round (stepSum (stepDepth w.aTag == 64) ((List.range (stepDepth w.aTag)).map (fun j => elemVal w.aTag w.aData w.aSide (r * stepDepth w.aTag + j)))
    ((List.range (stepDepth w.aTag)).map (fun j => bValue w.bTag (slots.getD (col / 128) #[]) j (col % 128)))) (l.e.getD r 0)

theorem stepRows_eq (w : StepWork) (slots : List (Array Byte)) (l : Link) : stepRows w slots l = wordRows l.ncol (stepTerm w slots l) := rfl

theorem taken_of_same {s : State} {c : CoreId} {w : StepWork} (hold : w.bOld = w.sides.map (fun m => slotBytes s c m w.slot))
    (hgood : ∀ m ∈ w.sides, ∀ i < 17408, poisoned s (slotAddr c m w.slot i) = false) : w.taken s c = w.sides.map (fun m => (slotBytes s c m w.slot).toArray) := by
  have hzip : w.sides.zip (w.sides.map (fun m => slotBytes s c m w.slot)) = w.sides.map (fun m => (m, slotBytes s c m w.slot)) := by
    rw [List.map_prod_left_eq_zip]
  rw [StepWork.taken, hold, hzip, List.map_map]
  exact List.map_congr_left (fun m hm => congrArg List.toArray (slotTaken_of_same (hgood m hm)))

/-- A step whose link can receive it, and whose operand B is clean, ends with its contribution in the link. -/
theorem receiveStep_of_clean {u : State} {p : Place} {g : Group} {e : QEntry} {w : StepWork} {c : Chain} {l : Link} (hg : u.group p = some g)
    (hc : findChain u w.chain = some c) (hb : c.born = w.born) (hl : c.links[w.idx]? = some l) (hh : l.home = w.home) (hst : l.state = .built ∨ l.state = .open)
    (hclean : StepClean u (coreOf p) w) : receiveStep u p e w =
      endStep (settleLink { u with fresh := u.fresh + 1 } c w.idx (l.receive (stepRows w (w.taken u (coreOf p)) l) 0 none)) p e := by
  have hfrozen : l.state ≠ .frozen := by rcases hst with k | k <;> rw [k] <;> decide
  have hdone : l.state ≠ .done := by rcases hst with k | k <;> rw [k] <;> decide
  have hbad := hclean.bad
  rw [StepWork.sides] at hbad
  rw [receiveStep, hc]
  dsimp only
  rw [if_neg (not_not.2 hb), hl]
  dsimp only
  rw [if_neg (not_or.2 ⟨hfrozen, not_not.2 hh⟩), if_neg hdone, hg]
  dsimp only
  rw [hbad, if_neg (fun k => k.1 rfl)]
  rfl

/-- A step that is received, in a state that a mismatch or nothing has come to (R41, R134, R141). -/
theorem finishStep_received {s u : State} {p : Place} {g : Group} {e : QEntry} {w : StepWork} {c : Chain} {l : Link} (halike : StepsAlike s u) (hg : u.group p = some g)
    (hrun : RunsStep g e.id) (hself : w.self = none) (hc : findChain s w.chain = some c) (hb : c.born = w.born) (hl : c.links[w.idx]? = some l) (hh : l.home = w.home)
    (hst : l.state = .built ∨ l.state = .open) (hclean : StepClean s (coreOf p) w) {f : Link → Prop}
    (hf : f (l.afterStep { u with fresh := u.fresh + 1 } c w.idx (stepRows w (w.taken u (coreOf p)) l))) : StepReceived s p e w c l (finishStep u p e w) f := by
  have hcu : findChain u w.chain = some c := by rw [findChain, halike.chains]; exact hc
  rw [finishStep, hself]
  dsimp only
  rw [receiveStep_of_clean hg hcu hb hl hh hst (hclean.of_subset halike.poison)]
  exact endStep_received (halike.trans (stepsAlike_fresh u)) hg hrun hcu hl _ hf

/-- The words and the overflow of a link after a step (R121, R134). -/
theorem afterStep_words {s : State} {c : Chain} {i : Nat} {l : Link} {term : Nat → Nat → BitVec 48 × Bool} (hm : l.m.length = 64)
    (hrows : ∀ row ∈ l.m, row.length = l.ncol) (htree : l.recv + 1 = l.decl → c.isTree l = false) {r : Nat} (hr : r < 64) :
    (∀ col < l.ncol, rowWord (l.afterStep s c i (wordRows l.ncol term)).m r col = (w48Add (rowWord l.m r col) (term r col).1).1) ∧
    ((l.afterStep s c i (wordRows l.ncol term)).ovr.getLsbD r = true ↔
      l.ovr.getLsbD r = true ∨ ∃ col < l.ncol, (term r col).2 = true ∨ (w48Add (rowWord l.m r col) (term r col).1).2 = true) := by
  have hwords : (l.afterStep s c i (wordRows l.ncol term)).m = (l.receive (wordRows l.ncol term) 0 none).m := by
    by_cases hfull : l.recv + 1 = l.decl
    · exact Link.settled_m (htree hfull)
    · rw [Link.afterStep, Link.settled_of_open (by rw [receive_state_of_more hfull]; decide)]
  refine ⟨fun col hcol => ?_, ?_⟩
  · rw [hwords, receive_word hm hrows hr hcol]
  · rw [Link.afterStep, Link.settled_ovr, receive_ovr hm hrows hr, show l.ovr ||| (0 : BitVec 64) = l.ovr from BitVec.or_zero]
    simp only [or_comm]

/-! ## A step refused (R386, R389) -/

/-- The identifiers of the matrix queue, each with whether its command has started. -/
def Group.startedIds (g : Group) : List (Nat × Bool) := (g.queue .matrix).map (fun x => (x.id, x.started))

theorem startedIds_returnTok (g : Group) (st : StreamId) (r : BitVec 4) (sets : List Nat × List Nat) : (returnTok g st r sets).startedIds = g.startedIds := by
  rw [returnTok_eq]; rfl

theorem startedIds_foldl {α : Type} {f : Group → α → Group} (hf : ∀ g x, (f g x).startedIds = g.startedIds) (l : List α) (g : Group) :
    (l.foldl f g).startedIds = g.startedIds := by
  induction l generalizing g with
  | nil => rfl
  | cons x l ih => exact (ih (f g x)).trans (hf g x)

theorem startedIds_cancelStream (g : Group) (st : StreamId) : (cancelStream g st).startedIds = g.startedIds := by
  unfold cancelStream
  dsimp only
  split
  · rfl
  · split
    · exact startedIds_returnTok g st _ _
    · rfl

theorem startedIds_cancelStreams (g : Group) : (cancelStreams g).startedIds = g.startedIds := by
  have hstreams := startedIds_foldl startedIds_cancelStream StreamId.all g
  unfold cancelStreams
  generalize StreamId.all.foldl cancelStream g = h at hstreams ⊢
  exact hstreams

theorem startedIds_returnEntry (g : Group) (e : QEntry) : (returnEntry g e).startedIds = g.startedIds := by
  unfold returnEntry
  split
  · exact startedIds_returnTok g _ _ _
  · rfl

theorem untake_started (e : QEntry) : (e.untake.id, e.untake.started) = (e.id, e.started) := by unfold QEntry.untake; split <;> rfl

theorem startedIds_cancelQueue (g : Group) (q : QueueId) : (cancelQueue g q).startedIds = g.startedIds := by
  have hreturn := startedIds_foldl startedIds_returnEntry (g.queue q) g
  unfold cancelQueue
  by_cases hq : q = .matrix
  · subst hq
    rw [Group.startedIds, Group.queue_setQueue, List.map_map]
    exact List.map_congr_left (fun e _ => untake_started e)
  · rw [Group.startedIds, Group.queue_setQueue_ne _ _ (Ne.symm hq)]
    exact hreturn

theorem startedIds_cancelAll (g : Group) : (cancelAll g).startedIds = g.startedIds :=
  (startedIds_foldl startedIds_cancelQueue QueueId.all _).trans (startedIds_cancelStreams g)

/-- A cause that a queue raises in a running group is its primary cause, and the group is cut (R386, R389). -/
theorem raise_at_queue {s : State} {p : Place} {g : Group} {w : RaisedAt} {q : QueueId} {t : Trap} (hg : s.group p = some g) (hrun : (s.slot p).state = .running)
    (hno : g.stopping = .no) (hq : w.queue = some q) : ∃ g' cut, (raise s p w t).group p = some g' ∧ g'.stopping = .trap cut ∧ cut.cause = t.cause ∧
      cut.isq = true ∧ g'.startedIds = g.startedIds := by
  have hslot : (s.slot p).group = some g := hg
  have hhalt : (s.slot p).state ≠ .halted := by rw [hrun]; decide
  unfold raise
  dsimp only
  rw [hslot]
  dsimp only
  rw [if_neg hhalt, hno, hq]
  dsimp only
  refine ⟨_, _, congrArg Slot.group (State.slot_setSlot s p _), rfl, rfl, rfl, ?_⟩
  show Group.startedIds (if (s.slot p).dbg.att then cancelStreams g else cancelAll g) = g.startedIds
  split
  · exact startedIds_cancelStreams g
  · exact startedIds_cancelAll g

end Sys2Proof.Machine
end

section
/-! PROOFS. The events of a matrix step (R121, R122, R134, R141, R417 to R423). -/

namespace Sys2Proof.Machine

open Sys2Proof

/-! ## A step that is due -/

/-- A started step of a chain whose link can receive it. -/
structure StepDue (s : State) (p : Place) (k : Nat) (g : Group) (e : QEntry) (w : StepWork) (ks : List (Nat × Nat)) (c : Chain) (l : Link) : Prop where
  started : stepAt s p k = some (g, e, w)
  work : e.work = some (stepOnly (some w) ks)
  nodup : ((g.queue .matrix).map (·.id)).Nodup
  self : w.self = none
  refused : w.refused = none
  due : w.due = []
  chain : findChain s w.chain = some c
  born : c.born = w.born
  link : c.links[w.idx]? = some l
  home : l.home = w.home
  state : l.state = .built ∨ l.state = .open

section
variable {s : State} {p : Place} {k : Nat} {g : Group} {e : QEntry} {w : StepWork} {ks : List (Nat × Nat)} {c : Chain} {l : Link}

theorem StepDue.runs (h : StepDue s p k g e w ks c l) : RunsStep g e.id := by
  obtain ⟨-, he, -, hs, hd⟩ := stepAt_some h.started
  exact ⟨h.nodup, e, List.mem_of_getElem? he, rfl, hs, hd, some w, ks, h.work⟩

theorem badSites_of_agreeing (arrays : BitVec 2) : badSites arrays 0 = [] := by simp [badSites]

/-- A step whose sums agree is received (R417). -/
theorem StepDue.completes (h : StepDue s p k g e w ks c l) (hr : w.rerun = none) (hclean : StepClean s (coreOf p) w) {f : Link → Prop}
    (hf : f (l.afterStep { s with fresh := s.fresh + 1 } c w.idx (wordRows l.ncol (stepTerm w (w.taken s (coreOf p)) l)))) :
    ∃ t, exec (.matrixStepComplete p k 0) s = .next t ∧ StepReceived s p e w c l t f := by
  refine ⟨finishStep s p e w, ?_,
    finishStep_received (.refl s) (stepAt_some h.started).1 h.runs h.self h.chain h.born h.link h.home h.state hclean hf⟩
  show execMatrixStepComplete p k 0 s = _
  rw [execMatrixStepComplete, h.started]
  dsimp only
  rw [hr, h.refused, badSites_of_agreeing]
  rfl

/-- A step whose sums disagree waits until its operand A can be read again. -/
theorem StepDue.rerun_waits (h : StepDue s p k g e w ks c l) (hr : w.rerun = none) {bad : BitVec 10} (hbad : badSites w.arrays bad ≠ [])
    (ha : rereadA s p g e w = none) : exec (.matrixStepComplete p k bad) s = .next s := by
  show execMatrixStepComplete p k bad s = _
  rw [execMatrixStepComplete, h.started]
  dsimp only
  rw [hr, h.refused]
  dsimp only
  rw [if_neg hbad, ha]
  rfl

/-- A state in which the damaged lines of operand A have been filled with zeros, where the launch asks for it (R416). -/
def filledA (a : StepA) (p : Place) (g : Group) : State := if g.lr.ecc = 1#2 then a.bad.foldl (fun s x => recordZeroFill a.s s p g x) a.s else a.s

theorem stepsAlike_filledA (a : StepA) (p : Place) (g : Group) : StepsAlike a.s (filledA a p g) := by
  unfold filledA
  split
  · exact stepsAlike_foldl (fun t x => stepsAlike_recordZeroFill a.s t p g x) a.bad a.s
  · exact .refl _

/-- The step as its rerun runs it: the operands read again, and the sites that have become lasting (R418). -/
def StepWork.rerunning (w : StepWork) (p : Place) (g : Group) (e : QEntry) (a : StepA) (bad : BitVec 10) (t : State) (due : List (Fin 2 × Nat)) : StepWork :=
  { w with
    rerun := some bad, due := due, aData := a.data, aSide := a.side
    refused := if (a.bad ≠ [] ∧ g.lr.ecc ≠ 1#2) ∨ readsDamaged g (regUse e.instr) = true then some Cause.mcEcc else none
    bOld := if w.self.isSome then [] else ((List.finRange 2).filter (fun m => w.arrays.getLsbD m.val)).map (fun m => slotBytes t (coreOf p) m w.slot) }

theorem getElem?_mapEntry {q : QueueId} {id : Nat} {f : QEntry → QEntry} (he : (g.queue q)[k]? = some e) (hi : e.id = id) :
    ((g.mapEntry q id f).queue q)[k]? = some (f e) := by
  rw [Group.mapEntry, Group.queue_setQueue, List.getElem?_map, he]
  exact congrArg some (if_pos hi)

/-- The first mismatch starts a rerun and leaves the chains (R418). -/
theorem StepDue.reruns (h : StepDue s p k g e w ks c l) (hr : w.rerun = none) {bad : BitVec 10} (hbad : badSites w.arrays bad ≠ []) {a : StepA}
    (ha : rereadA s p g e w = some a) : ∃ t g' e' w', exec (.matrixStepComplete p k bad) s = .next t ∧ t.chains = a.s.chains ∧
      stepAt t p k = some (g', e', w') ∧ w'.rerun = some bad ∧ w'.aData = a.data ∧ w'.aSide = a.side ∧ w'.chain = w.chain ∧
      (a.bad ≠ [] → g.lr.ecc ≠ 1#2 → w'.refused = some Cause.mcEcc) := by
  obtain ⟨-, he, -, hs, hd⟩ := stepAt_some h.started
  obtain ⟨hcount, -⟩ := countMismatch_alike (filledA a p g) (coreOf p) (badSites w.arrays bad)
  have hrun : exec (.matrixStepComplete p k bad) s = .next
      ((countMismatch (filledA a p g) (coreOf p) (badSites w.arrays bad)).1.setGroup p (g.mapEntry .matrix e.id (QEntry.withStep
        (some (w.rerunning p g e a bad (countMismatch (filledA a p g) (coreOf p) (badSites w.arrays bad)).1
          (countMismatch (filledA a p g) (coreOf p) (badSites w.arrays bad)).2))))) := by
    show execMatrixStepComplete p k bad s = _
    rw [execMatrixStepComplete, h.started]
    dsimp only
    rw [hr, h.refused]
    dsimp only
    rw [if_neg hbad, ha]
    rfl
  generalize (countMismatch (filledA a p g) (coreOf p) (badSites w.arrays bad)).2 = due at hrun
  generalize (countMismatch (filledA a p g) (coreOf p) (badSites w.arrays bad)).1 = u at hrun hcount
  exact ⟨_, _, _, w.rerunning p g e a bad u due, hrun, ((stepsAlike_filledA a p g).trans hcount).chains,
    stepAt_eq (State.group_setGroup _ _ _) (getElem?_mapEntry he rfl) (by rw [QEntry.withStep, h.work]; rfl) hs hd, rfl, rfl, rfl, rfl,
    fun hlines hecc => if_pos (.inl ⟨hlines, hecc⟩)⟩

theorem stepsAlike_records (sites : List (Fin 2 × Nat)) (d : CoreId) (kind : BitVec 4) (cause : BitVec 10) (lid : BitVec 64) (s : State) :
    StepsAlike s (sites.foldl (fun s x => arrayRecord s d x.1 x.2 kind cause lid) s) := stepsAlike_foldl (fun _ _ => stepsAlike_arrayRecord _ _ _ _ _ _ _) sites s

theorem slots_records (sites : List (Fin 2 × Nat)) (d : CoreId) (kind : BitVec 4) (cause : BitVec 10) (lid : BitVec 64) (s : State) :
    (sites.foldl (fun s x => arrayRecord s d x.1 x.2 kind cause lid) s).slots = s.slots := slots_foldl (fun _ _ => slots_arrayRecord _ _ _ _ _ _ _) sites s

/-- A rerun that agrees receives the step (R419). -/
theorem StepDue.rerun_completes (h : StepDue s p k g e w ks c l) {old : BitVec 10} (hr : w.rerun = some old) (hclean : StepClean s (coreOf p) w) :
    ∃ t, exec (.checksumRerunEnd p k 0) s = .next t ∧ StepReceived s p e w c l t (fun _ => True) := by
  have hrecords := (stepsAlike_records (badSites w.arrays old) (coreOf p) 3 0 g.lr.id s).trans (stepsAlike_startTests _ (coreOf p) g.lr.id w.due)
  have hrun : exec (.checksumRerunEnd p k 0) s = .next (finishStep ((startTests ((badSites w.arrays old).foldl
      (fun s x => arrayRecord s (coreOf p) x.1 x.2 3 0 g.lr.id) s) (coreOf p) g.lr.id w.due).setGroup p
        (g.mapEntry .matrix e.id (QEntry.withStep (some { w with rerun := none, due := [] })))) p e { w with rerun := none, due := [] }) := by
    show execChecksumRerunEnd p k 0 s = _
    rw [execChecksumRerunEnd, h.started]
    dsimp only
    rw [hr]
    dsimp only
    rw [h.refused, badSites_of_agreeing]
    rfl
  exact ⟨_, hrun, finishStep_received (w := { w with rerun := none, due := [] }) (hrecords.trans (stepsAlike_setGroup _ p _)) (State.group_setGroup _ _ _)
    (h.runs.mapEntry _) h.self h.chain h.born h.link h.home h.state hclean trivial⟩

/-- A step refused whose link is frozen raises its cause at the head, and the chains stay as they are (R420, R423). -/
theorem refuseStep_of_frozen {u : State} {l' : Link} {c' : Chain} (hg : u.group p = some g) (hself : w.self = none) (hlink : stepLink u w = some (c', l')) (hf : l'.state = .frozen)
    (hrun : (u.slot p).state = .running) (hno : g.stopping = .no) (cause : BitVec 10) : (refuseStep u p e w cause).chains = u.chains ∧
      ∃ g' cut, (refuseStep u p e w cause).group p = some g' ∧ g'.stopping = .trap cut ∧ cut.cause = cause ∧ cut.isq = true ∧
        ∀ x ∈ g'.queue .matrix, x.id = e.id → x.started = false := by
  have hrefuse : refuseStep u p e w cause = refuseEntry u p .matrix e (.plain cause) := by
    rw [refuseStep, hg, hself]
    dsimp only [Option.isSome]
    rw [if_neg Bool.false_ne_true, hlink]
    dsimp only
    rw [if_pos hf]
  have hkeeps : (returnTok g e.stream e.instr.ring e.tookSets).stopping = .no := by rw [returnTok_eq]; exact hno
  rw [hrefuse, refuseEntry, hg]
  dsimp only
  generalize returnTok g e.stream e.instr.ring e.tookSets = back at hkeeps
  have hback : ∀ x ∈ (back.mapEntry .matrix e.id (fun e => { e with took := false, tookSets := ([], []), started := false, work := none })).queue .matrix,
      x.id = e.id → x.started = false := by
    intro x hx hid
    obtain ⟨y, hy⟩ := mapEntry_of_mem hx hid
    rw [hy]
  generalize hunstarted : back.mapEntry .matrix e.id (fun e => { e with took := false, tookSets := ([], []), started := false, work := none }) = g1 at hback
  have hstop : g1.stopping = .no := hunstarted ▸ hkeeps
  have hstate : ((u.setGroup p g1).slot p).state = .running := by rw [State.setGroup, State.slot_setSlot]; exact hrun
  obtain ⟨g', cut, hgroup, htrap, hcause, hisq, hids⟩ := raise_at_queue (w := { stream := e.stream, queue := some .matrix, async := false, fpc := e.fpc })
    (t := .plain cause) (State.group_setGroup u p g1) hstate hstop rfl
  refine ⟨?_, g', cut, hgroup, htrap, hcause, hisq, fun x hx hid => ?_⟩
  · obtain ⟨sl, hraise⟩ := raise_slot (u.setGroup p g1) p { stream := e.stream, queue := some .matrix, async := false, fpc := e.fpc } (.plain cause)
    rw [hraise]
    rfl
  · have hmem : (x.id, x.started) ∈ g1.startedIds := hids ▸ List.mem_map.2 ⟨x, hx, rfl⟩
    obtain ⟨y, hy, hxy⟩ := List.mem_map.1 hmem
    obtain ⟨hyid, hys⟩ := Prod.mk.inj hxy
    exact hys ▸ hback y hy (hyid.trans hid)

/-- A state in which a rerun that disagrees has frozen the link of its step (R423). -/
def frozenBy (s : State) (w : StepWork) : State :=
  match (if w.self.isSome then none else stepLink s w) with
  | some (c, l) => if l.state = .frozen then s else freezeLink s c w.idx l
  | none => s

theorem frozenBy_of_open {u : State} (hself : w.self = none) (hlink : stepLink u w = some (c, l)) (hopen : l.state ≠ .frozen) : frozenBy u w = freezeLink u c w.idx l := by
  rw [frozenBy, hself]
  dsimp only [Option.isSome]
  rw [if_neg Bool.false_ne_true, hlink]
  exact if_neg hopen

/-- A rerun that disagrees freezes the link and raises MC_CKSUM at the head (R420, R423). -/
theorem StepDue.rerun_refuses (h : StepDue s p k g e w ks c l) {old bad : BitVec 10} (hr : w.rerun = some old) (hbad : badSites w.arrays bad ≠ [])
    (hrun : (s.slot p).state = .running) (hno : g.stopping = .no) : ∃ t g' c' l' cut, exec (.checksumRerunEnd p k bad) s = .next t ∧
      findChain t w.chain = some c' ∧ c'.links[w.idx]? = some l' ∧ l'.state = .frozen ∧ l'.flight = none ∧ t.group p = some g' ∧ g'.stopping = .trap cut ∧
      cut.cause = Cause.mcCksum ∧ cut.isq = true ∧ ∀ x ∈ g'.queue .matrix, x.id = e.id → x.started = false := by
  obtain ⟨hcount, hslots⟩ := countMismatch_alike s (coreOf p) (badSites w.arrays bad)
  have hopen : l.state ≠ .frozen := by rcases h.state with k | k <;> rw [k] <;> decide
  have hevent : ∃ u, StepsAlike s u ∧ u.slots = s.slots ∧
      exec (.checksumRerunEnd p k bad) s = .next (refuseStep (frozenBy u w) p e w Cause.mcCksum) := by
    refine ⟨startTests ((badSites w.arrays bad).foldl (fun s x => arrayRecord s (coreOf p) x.1 x.2 2 Cause.mcCksum g.lr.id)
      (countMismatch s (coreOf p) (badSites w.arrays bad)).1) (coreOf p) g.lr.id (w.due ++ (countMismatch s (coreOf p) (badSites w.arrays bad)).2),
      (hcount.trans (stepsAlike_records _ _ _ _ _ _)).trans (stepsAlike_startTests _ _ _ _), (slots_startTests _ _ _ _).trans ((slots_records _ _ _ _ _ _).trans hslots), ?_⟩
    show execChecksumRerunEnd p k bad s = _
    rw [execChecksumRerunEnd, h.started]
    dsimp only
    rw [hr]
    dsimp only
    rw [h.refused]
    dsimp only
    rw [if_neg hbad]
    rfl
  obtain ⟨u, halike, huslots, hexec⟩ := hevent
  have hfound : findChain u w.chain = some c := by
    rw [findChain, halike.chains]
    exact h.chain
  have hlink : stepLink u w = some (c, l) := by
    rw [stepLink, hfound]
    dsimp only
    rw [h.link]
    exact if_pos ⟨h.born, h.home⟩
  rw [frozenBy_of_open h.self hlink hopen] at hexec
  have hchain : findChain (freezeLink u c w.idx l) w.chain = some (c.setLink w.idx { l with state := .frozen, flight := none }) := findChain_setChain hfound rfl
  have hat := Chain.setLink_self h.link { l with state := .frozen, flight := none }
  have hfrozen : stepLink (freezeLink u c w.idx l) w = some (c.setLink w.idx { l with state := .frozen, flight := none }, { l with state := .frozen, flight := none }) := by
    rw [stepLink, hchain]
    dsimp only
    rw [hat]
    exact if_pos ⟨h.born, h.home⟩
  have hgroup : (freezeLink u c w.idx l).group p = some g := (group_of_slots (t := freezeLink u c w.idx l) huslots p).trans (stepAt_some h.started).1
  have hstate : ((freezeLink u c w.idx l).slot p).state = .running := by
    show (u.slots.get p).state = .running
    rw [huslots]
    exact hrun
  obtain ⟨hchains, g', cut, hg', htrap, hcause, hisq, hstarted⟩ := refuseStep_of_frozen (e := e) hgroup h.self hfrozen rfl hstate hno Cause.mcCksum
  exact ⟨_, g', _, _, cut, hexec, by rw [findChain, hchains]; exact hchain, hat, rfl, rfl, hg', htrap, hcause, hisq, hstarted⟩

end

/-! ## The sums (R121, R122) -/

theorem cutAt_whole (m : Nat) (e q : Int) : (cutAt m e q).1 = if q ≤ e then m * 2 ^ (e - q).toNat else m / 2 ^ (q - e).toNat := apply_ite Prod.fst _ _ _

theorem cutSigned_fin (q : Int) (n : Bool) (m : Nat) (e : Int) : cutSigned q (.fin n m e) =
    if n then -((if q ≤ e then m * 2 ^ (e - q).toNat else m / 2 ^ (q - e).toNat : Nat) : Int) else (if q ≤ e then m * 2 ^ (e - q).toNat else m / 2 ^ (q - e).toNat : Nat) := by
  rw [← cutAt_whole]
  rfl

/-! ## The end of a self-test (R421) -/

/-- The health of an array of which a self-test fences strips. -/
def Health.fencing (h : Health) : List Nat → Health
  | [] => h
  | [j] => if h.spu then { h with ret := true } else { h with spu := true, scg := BitVec.ofNat 2 j }
  | _ => { h with ret := true }

/-- The strips that a self-test fences: those it names, and those under suspicion. -/
def Health.fenced (h : Health) (bad : BitVec 4) : List Nat := (List.range 4).filter (fun j => bad.getLsbD j || h.under.any (fun u => u.toNat == j))

theorem Health.mem_fenced {h : Health} {bad : BitVec 4} {j : Nat} : j ∈ h.fenced bad ↔ j < 4 ∧ (bad.getLsbD j = true ∨ ∃ u ∈ h.under, u.toNat = j) := by
  simp [Health.fenced]

theorem Health.fencing_of_one {h : Health} {l : List Nat} {j : Nat} (hl : l = [j]) (hs : h.spu = false) :
    h.fencing l = { h with spu := true, scg := BitVec.ofNat 2 j } := by
  subst hl
  exact if_neg (by rw [hs]; exact Bool.false_ne_true)

/-- An array with its spare in use, or with two strips to fence, is retired. -/
theorem Health.fencing_retires {h : Health} {l : List Nat} {j : Nat} (hj : j ∈ l) (hl : h.spu = true ∨ ∃ i ∈ l, i ≠ j) : (h.fencing l).ret = true := by
  match l with
  | [] => exact absurd hj List.not_mem_nil
  | [x] =>
    have hs : h.spu = true := hl.resolve_right (fun ⟨i, hi, hne⟩ => hne ((List.mem_singleton.1 hi).trans (List.mem_singleton.1 hj).symm))
    exact congrArg Health.ret (if_pos hs)
  | _ :: _ :: _ => rfl

/-- The end of a self-test leaves the array with its strips fenced, and no test. -/
theorem selfTestEnd_health {s : State} {core : CoreId} {m : Fin 2} (bad : BitVec 4) (h : (healthOf s core m).test = true) :
    ∃ t, exec (.arraySelfTestEnd core m bad) s = .next t ∧
      healthOf t core m = { (healthOf s core m).fencing ((healthOf s core m).fenced bad) with test := false, under := [] } := by
  refine ⟨_, ?_, healthOf_setHealth (((List.range 4).filter (fun j => bad.getLsbD j)).foldl (fun s j => arrayRecord s core m j 2 Cause.mcCksum 0) s) core m _⟩
  show execArraySelfTestEnd core m bad s = _
  unfold execArraySelfTestEnd
  dsimp only
  rw [if_neg (by rw [h]; exact Bool.noConfusion)]
  rfl

/-- Settles O51, by what the end of a step, its rerun and the end of a self-test leave of the state, and the values of the sums. -/
theorem matrixStepEventsComplete : Obligations.MatrixStepEventsComplete := by
  unfold Obligations.MatrixStepEventsComplete
  refine ⟨?_, ?_, ?_, ?_, ?_⟩
  · intro s p k g e w ks c l hat hwork hnodup hself hrefused hdue hchain hborn hlink hhome hstate core full ms depth slots xs ys term sum received clean
    have h : StepDue s p k g e w ks c l := ⟨hat, hwork, hnodup, hself, hrefused, hdue, hchain, hborn, hlink, hhome, hstate⟩
    refine ⟨fun hr hclean => h.completes hr hclean ?_, fun bad hr hbad => ⟨h.rerun_waits hr hbad, fun a => h.reruns hr hbad⟩,
      fun old hr hclean => h.rerun_completes hr hclean, fun old bad hr hbad hrun hno => h.rerun_refuses hr hbad hrun hno⟩
    intro hold hgood hm hrows htree r hrow
    rw [taken_of_same hold hgood]
    exact afterStep_words hm hrows htree hrow
  · intro a b sum top
    refine ⟨w48Add_of_nan, fun ha hb => ?_⟩
    rw [w48Add_of_numbers ha hb]
    exact ⟨w48Sat_of_fits, w48Sat_of_above, w48Sat_of_below⟩
  · intro neg m f e q n d signed
    obtain ⟨hlow, hhigh, heven⟩ := nearestEven_spec neg m f q
    exact ⟨rfl, nearestEven neg m f q, hlow, hhigh, heven, w48Sat_signed neg (nearestEven neg m f q)⟩
  · intro xs ys ps finite
    refine ⟨fun h al => stepSum_of_infinite h, fun ⟨hx, hy⟩ => ⟨?_, ?_⟩⟩
    · intro low h0 hlow units
      rw [stepSum_of_finite hx hy]
      exact exactSum_units h0 hlow
    · intro top hmem hle cut
      rw [stepSum_of_finite hx hy, if_pos rfl, align16_dyad hmem hle]
      have hcut : ∀ x, cut x = cutSigned (top - 46) x := fun x => by
        cases x with
        | nan => rfl
        | inf n => rfl
        | fin n m e => exact (cutSigned_fin (top - 46) n m e).symm
      rw [show cut = cutSigned (top - 46) from funext hcut]
  · intro s core m bad h fence htest
    obtain ⟨t, hexec, hhealth⟩ := selfTestEnd_health bad htest
    have hmem : ∀ j, j ∈ h.fenced bad ↔ j < 4 ∧ fence j := fun j => Health.mem_fenced
    refine ⟨t, hexec, by rw [hhealth], by rw [hhealth], fun hnone => ?_, fun j hj hothers hs => ?_, fun j hj hmore => ?_⟩
    · have hfenced : h.fenced bad = [] := List.eq_nil_iff_forall_not_mem.2 (fun j hj => hnone j ((hmem j).1 hj).1 ((hmem j).1 hj).2)
      rw [hhealth, hfenced]
      exact ⟨rfl, rfl⟩
    · have hone : h.fenced bad = [j.val] := by
        have hiff : ∀ i, i ∈ h.fenced bad ↔ i ∈ [j.val] := fun i => by
          rw [hmem, List.mem_singleton]
          refine ⟨fun ⟨hi, hf⟩ => by_contra (fun hne => hothers i hi hne hf), ?_⟩
          rintro rfl
          exact ⟨j.isLt, hj⟩
        exact List.perm_singleton.1 ((List.perm_ext_iff_of_nodup (List.nodup_range.filter _) (List.nodup_singleton _)).2 hiff)
      rw [hhealth, Health.fencing_of_one hone hs]
      refine ⟨rfl, ?_, rfl⟩
      show (BitVec.ofNat 2 j.val).toNat = j.val
      rw [BitVec.toNat_ofNat, Nat.mod_eq_of_lt j.isLt]
    · have hretires : (h.fencing (h.fenced bad)).ret = true :=
        Health.fencing_retires ((hmem _).2 ⟨j.isLt, hj⟩) (hmore.imp id (fun ⟨i, hi, hne, hf⟩ => ⟨i, (hmem i).2 ⟨hi, hf⟩, hne⟩))
      rw [hhealth]
      exact hretires

end Sys2Proof.Machine
end

section
/-! PROOFS. A chain one of whose links is replaced, and the messages between links (R142, R146, R147, R157, R423, R425, R428). -/

namespace Sys2Proof.Machine

open Sys2Proof

/-! ## Chains by their numbers, and links by their indices -/

theorem findChain_num {s : State} {n : BitVec 12} {c : Chain} (h : findChain s n = some c) : c.num = n := by
  have hnum := List.find?_some (p := fun x : Chain => x.num == n) h
  exact beq_iff_eq.1 hnum

theorem findChain_of_chains {s t : State} (h : t.chains = s.chains) (n : BitVec 12) : findChain t n = findChain s n := by rw [findChain, findChain, h]

/-- A chain replaced leaves those of other numbers. -/
theorem findChain_setChain_ne {s : State} {n : BitVec 12} {d : Chain} (h : n ≠ d.num) : findChain (setChain s d) n = findChain s n := by
  show (s.chains.map (fun x => if x.num = d.num then d else x)).find? (fun x => x.num == n) = s.chains.find? (fun x => x.num == n)
  induction s.chains with
  | nil => rfl
  | cons x l ih =>
    by_cases hx : x.num = d.num
    · have hd : (d.num == n) = false := beq_false_of_ne h.symm
      rw [List.map_cons, if_pos hx, List.find?_cons, hd, List.find?_cons, hx, hd]
      exact ih
    · rw [List.map_cons, if_neg hx, List.find?_cons, List.find?_cons, ih]

theorem Chain.setLink_ne {c : Chain} {i j : Nat} (h : j ≠ i) (x : Link) : (c.setLink i x).links[j]? = c.links[j]? := List.getElem?_set_ne (Ne.symm h)

/-- A link replaced by one of its die leaves the dies of the chain's links. -/
theorem Chain.dieAt_setLink {c : Chain} {i : Nat} {l x : Link} (h : c.links[i]? = some l) (hx : x.die = l.die) (j : Nat) : (c.setLink i x).dieAt j = c.dieAt j := by
  by_cases hj : j = i
  · subst hj
    rw [Chain.dieAt, Chain.dieAt, Chain.setLink_self h, h, Option.map_some, Option.map_some, hx]
  · rw [Chain.dieAt, Chain.dieAt, Chain.setLink_ne hj]

/-! ## Settled links: what they have received, and their nodes (R146) -/

section
variable {s : State} {c : Chain} {i : Nat} {l : Link}

@[simp] theorem Link.settled_reads : (l.settled s c i).reads = l.reads := settled_keeps Link.reads (fun _ => rfl) (fun _ _ => rfl) (fun _ => rfl) (fun _ _ => rfl)
@[simp] theorem Link.settled_decl : (l.settled s c i).decl = l.decl := settled_keeps Link.decl (fun _ => rfl) (fun _ _ => rfl) (fun _ => rfl) (fun _ _ => rfl)

/-- A tree link that is DONE has its node once it has read those of all its tree children (R146). -/
theorem Link.settled_noded (h : l.state = .done) (hn : l.noded = false) :
    (l.settled s c i).noded = true ↔ c.isTree l = true ∧ ∀ x ∈ c.treeKids i, ∃ y ∈ l.reads, y.1 = x.1 := by
  have hsend : ∀ x : Link, (x.sending s c i).noded = x.noded := fun x => by unfold Link.sending; split <;> rfl
  have hask : ∀ x : Link, c.isTree (x.asking s c i) = c.isTree x ∧ (x.asking s c i).noded = x.noded ∧ (x.asking s c i).reads = x.reads := fun x => by
    unfold Link.asking; split <;> exact ⟨rfl, rfl, rfl⟩
  have hnode : ∀ x : Link, x.noded = false →
      ((x.noding c i).noded = true ↔ c.isTree x = true ∧ ∀ k ∈ c.treeKids i, ∃ y ∈ x.reads, y.1 = k.1) := fun x hx => by
    unfold Link.noding
    rw [hx, Bool.not_false, Bool.and_true]
    split
    · rename_i hall
      refine ⟨fun _ => ?_, fun _ => rfl⟩
      simpa using hall
    · rename_i hall
      rw [hx]
      refine ⟨fun k => absurd k Bool.false_ne_true, fun k => absurd ?_ hall⟩
      simpa using k
  obtain ⟨htree, hnoded, hreads⟩ := hask { l with holders := [] }
  rw [Link.settled, if_pos h, hsend, hnode _ (hnoded.trans hn), htree, hreads]
  rfl

end

/-! ## A stale message (R428) -/

theorem stale_putHome (s : State) (pa : Nat) (bs : List Byte) (d : DieId) : ((putHome s pa bs).dies.get d).stale = (s.dies.get d).stale := by
  have hdirty : ((dirtyLine (refreshLine s (pa / 128)) pa).dies.get d).stale = ((refreshLine s (pa / 128)).dies.get d).stale :=
    (congrArg Die.stale ((above_dirtyLine (F := 0) (refreshLine s (pa / 128)) pa).dies d)).trans rfl
  rw [(chains_refreshLine s (pa / 128)).2] at hdirty
  exact hdirty

theorem stale_logErr (s : State) (e : ErrRec) (d : DieId) : ((logErr s e).dies.get d).stale = (s.dies.get d).stale := by
  unfold logErr logDwords
  split
  · rfl
  · dsimp only
    rw [stale_putHome, stale_putHome]

/-- A stale message leaves the chains, and is counted at the die that discards it. -/
theorem staleDiscard_spec (s : State) (d peer : DieId) : (staleDiscard s d peer).chains = s.chains ∧
    ((s.dies.get d).stale ≠ BitVec.allOnes 32 → ((staleDiscard s d peer).dies.get d).stale = (s.dies.get d).stale + 1) := by
  unfold staleDiscard
  dsimp only
  rw [stale_logErr]
  refine ⟨(stepsAlike_logErr _ _).chains, fun h => ?_⟩
  show ((s.setDie d _).dies.get d).stale = _
  rw [State.die_setDie]
  exact if_neg h

/-! ## A message from a link to its parent -/

/-- A link of a chain that is found, and its parent. -/
structure HasParent (s : State) (num : BitVec 12) (i : Nat) (c : Chain) (l pr : Link) : Prop where
  chain : findChain s num = some c
  link : c.links[i]? = some l
  parent : c.links[l.parent]? = some pr
  apart : i ≠ l.parent

/-- The links of a chain at two indices satisfy f. -/
def LinksAre (t : State) (num : BitVec 12) (i j : Nat) (f : Link → Link → Prop) : Prop :=
  ∃ c' l' q, findChain t num = some c' ∧ c'.links[i]? = some l' ∧ c'.links[j]? = some q ∧ f l' q

/-- A message comes from or for an incarnation that the parent's die does not hold (R428). -/
def Flight.staleAt (f : Flight) (s : State) (l pr : Link) : Prop := f.src ≠ incOf s pr.die l.die ∨ f.dst ≠ incOf s pr.die pr.die

/-- The rows that a forward or a notice of a link brings its parent: the words of a forward rounded to the parent's exponents, of a notice none (R142, R147). -/
def Link.brings (l pr : Link) (tree : Bool) : List (List (BitVec 48 × Bool)) :=
  if tree then l.m.map (fun row => row.map (fun _ => ((0 : BitVec 48), false)))
  else l.m.zipIdx.map (fun row => row.1.map (fun w => w48Round (w48Value w (l.e.getD row.2 0)) (pr.e.getD row.2 0)))

/-- A link whose message has been received. -/
def Link.received (l : Link) : Link := { l with flight := none, landed := true }

/-- The parent of a link with the link's contribution, before the chain settles. -/
def Link.joined (pr l : Link) (tree : Bool) : Link := pr.receive (l.brings pr tree) l.ovr (some l.cslot)

/-- The same as its chain holds it. -/
def Link.joinedSettled (s : State) (c : Chain) (i : Nat) (l pr : Link) (tree : Bool) : Link :=
  (pr.joined l tree).settled (setChain s (c.setLink i l.received)) (c.setLink i l.received) l.parent

section
variable {s : State} {num : BitVec 12} {i : Nat} {c : Chain} {l pr : Link} {tree : Bool} {f : Flight}

/-- The parent replaced, the links are the child as it was and the new parent. -/
theorem HasParent.links_of_parent (h : HasParent s num i c l pr) (q : Link) {g : Link → Link → Prop} (hg : g l q) :
    LinksAre (setChain s (c.setLink l.parent q)) num i l.parent g :=
  ⟨_, l, q, findChain_setChain h.chain rfl, (Chain.setLink_ne h.apart q).trans h.link, Chain.setLink_self h.parent q, hg⟩

/-- The link replaced, the links are the new one and the parent as it was. -/
theorem HasParent.links_of_child (h : HasParent s num i c l pr) (x : Link) {g : Link → Link → Prop} (hg : g x pr) :
    LinksAre (setChain s (c.setLink i x)) num i l.parent g :=
  ⟨_, x, pr, findChain_setChain h.chain rfl, Chain.setLink_self h.link x, (Chain.setLink_ne h.apart.symm x).trans h.parent, hg⟩

theorem LinksAre.of_chains {t u : State} {j : Nat} {g : Link → Link → Prop} (hu : u.chains = t.chains) (h : LinksAre t num i j g) : LinksAre u num i j g := by
  obtain ⟨c', l', q, hc, hl, hq, hg⟩ := h
  exact ⟨c', l', q, (findChain_of_chains hu num).trans hc, hl, hq, hg⟩

section
variable (h : HasParent s num i c l pr) (hi : i ≠ 0) (ht : c.isTree l = tree)
include h hi ht

/-- What the arrival of a message comes to, for a link below the root and a message of its kind. -/
theorem HasParent.receiveAt_eq (hf : l.flight = some f) : receiveAt num i tree s =
    if linkHeld s l.die pr.die then s
    else if f.src ≠ incOf s pr.die l.die ∨ f.dst ≠ incOf s pr.die pr.die then staleDiscard (setChain s (c.setLink i { l with flight := none })) pr.die l.die
    else if pr.state = .frozen then s
    else if pr.mask.getLsbD l.cslot.toNat then setChain s (c.setLink i l.received)
    else if pr.state ≠ .built ∧ pr.state ≠ .open then s
    else setChain (setChain s (c.setLink i l.received)) ((c.setLink i l.received).setLink l.parent (l.joinedSettled s c i pr tree)) := by
  have hkind : (decide (i = 0) || c.isTree l != tree) = false := by simp [hi, ht]
  rw [receiveAt, h.chain]
  dsimp only
  rw [h.link, Option.map_some, Option.getD_some, h.parent]
  dsimp only
  rw [hkind, hf, if_neg Bool.false_ne_true]
  dsimp only
  rw [settleLink_eq]
  rfl

omit hi ht in
theorem HasParent.receiveAt_of_no_flight (hf : l.flight = none) : receiveAt num i tree s = s := by
  rw [receiveAt, h.chain]
  dsimp only
  rw [h.link, Option.map_some, Option.getD_some, h.parent]
  dsimp only
  rw [hf]
  exact ite_self s

/-- A link between dies that is being retrained holds a message up (R430). -/
theorem HasParent.receiveAt_of_held (hheld : linkHeld s l.die pr.die = true) : receiveAt num i tree s = s := by
  cases hf : l.flight with
  | none => exact h.receiveAt_of_no_flight hf
  | some f => exact (h.receiveAt_eq hi ht hf).trans (if_pos hheld)

section
variable (hf : l.flight = some f) (hheld : linkHeld s l.die pr.die = false)
include hf hheld

theorem HasParent.receiveAt_of_stale (hs : f.staleAt s l pr) :
    receiveAt num i tree s = staleDiscard (setChain s (c.setLink i { l with flight := none })) pr.die l.die := by
  exact (h.receiveAt_eq hi ht hf).trans ((if_neg (by rw [hheld]; exact Bool.false_ne_true)).trans (if_pos hs))

/-- A message of the incarnations that the parent's die holds: what it finds there decides. -/
theorem HasParent.receiveAt_of_fresh (hs : ¬ f.staleAt s l pr) : receiveAt num i tree s =
    if pr.state = .frozen then s
    else if pr.mask.getLsbD l.cslot.toNat then setChain s (c.setLink i l.received)
    else if pr.state ≠ .built ∧ pr.state ≠ .open then s
    else setChain (setChain s (c.setLink i l.received)) ((c.setLink i l.received).setLink l.parent (l.joinedSettled s c i pr tree)) := by
  exact (h.receiveAt_eq hi ht hf).trans ((if_neg (by rw [hheld]; exact Bool.false_ne_true)).trans (if_neg hs))

end

end

/-- Both links as a contribution received leaves them. -/
theorem HasParent.links_of_joined (h : HasParent s num i c l pr) {g : Link → Link → Prop} (hg : g l.received (l.joinedSettled s c i pr tree)) :
    LinksAre (setChain (setChain s (c.setLink i l.received)) ((c.setLink i l.received).setLink l.parent (l.joinedSettled s c i pr tree))) num i l.parent g := by
  have hjoined : HasParent (setChain s (c.setLink i l.received)) num i (c.setLink i l.received) l.received pr :=
    ⟨findChain_setChain h.chain rfl, Chain.setLink_self h.link _, (Chain.setLink_ne h.apart.symm _).trans h.parent, h.apart⟩
  exact hjoined.links_of_parent _ hg

/-! ## The parent with the contribution (R134, R141, R142) -/

theorem joinedSettled_of_more (h : ¬ pr.recv + 1 = pr.decl) : l.joinedSettled s c i pr tree = pr.joined l tree :=
  Link.settled_of_open (by rw [Link.joined, receive_state_of_more h]; decide)

/-- A contribution raises the count of the parent, marks the child's slot, and leaves the exponents (R134). -/
theorem joinedSettled_counts : (l.joinedSettled s c i pr tree).recv = pr.recv + 1 ∧ (l.joinedSettled s c i pr tree).mask = pr.mask ||| (1#8 <<< l.cslot.toNat) ∧
    (l.joinedSettled s c i pr tree).e = pr.e ∧ (l.joinedSettled s c i pr tree).decl = pr.decl :=
  ⟨Link.settled_recv, Link.settled_mask, Link.settled_e, Link.settled_decl⟩

/-- Short of its count the parent is OPEN (R134). -/
theorem joinedSettled_open (h : ¬ pr.recv + 1 = pr.decl) : (l.joinedSettled s c i pr tree).state = .open ∧
    (l.joinedSettled s c i pr tree).holders = pr.holders ∧ (l.joinedSettled s c i pr tree).flight = pr.flight := by
  rw [joinedSettled_of_more h]
  exact ⟨receive_state_of_more h, rfl, rfl⟩

/-- At its count the parent is DONE, no group holds it, and its own message sets off (R142, R158). -/
theorem HasParent.joinedSettled_done (hp : HasParent s num i c l pr) (h : pr.recv + 1 = pr.decl) : (l.joinedSettled s c i pr tree).state = .done ∧
    (l.joinedSettled s c i pr tree).holders = [] ∧ (l.parent ≠ 0 → pr.flight = none → pr.landed = false →
      (l.joinedSettled s c i pr tree).flight = some { src := incOf s pr.die pr.die, dst := incOf s pr.die (c.dieAt pr.parent) }) := by
  have hdone : (pr.joined l tree).state = .done := receive_state_of_full h
  refine ⟨Link.settled_state.trans hdone, Link.settled_holders hdone, fun hj hf hl => ?_⟩
  have hdie := Chain.dieAt_setLink (x := l.received) hp.link rfl pr.parent
  refine (Link.settled_flight hdone hj hf hl).trans ?_
  rw [show (pr.joined l tree).parent = pr.parent from rfl, hdie]
  rfl

/-- The words of a parent without a node of its own are those of the contribution received. -/
theorem joinedSettled_m (h : pr.recv + 1 = pr.decl → c.isTree pr = false) : (l.joinedSettled s c i pr tree).m = (pr.joined l tree).m := by
  by_cases hfull : pr.recv + 1 = pr.decl
  · exact Link.settled_m (h hfull)
  · rw [joinedSettled_of_more hfull]

theorem joinedSettled_ovr : (l.joinedSettled s c i pr tree).ovr = (pr.joined l tree).ovr := Link.settled_ovr

/-! ## The words that a forward and a notice bring (R141, R142, R147) -/

/-- The word of a link rounded to its parent's exponent of the row (R142). -/
def Link.forwarded (l pr : Link) (r col : Nat) : BitVec 48 × Bool := w48Round (w48Value (rowWord l.m r col) (l.e.getD r 0)) (pr.e.getD r 0)

/-- A list of 64 rows of n words, worked on word by word. -/
theorem mapRows_eq {n : Nat} {m : List (List (BitVec 48))} (hm : m.length = 64) (hrows : ∀ row ∈ m, row.length = n) (f : Nat → BitVec 48 → BitVec 48 × Bool) :
    m.zipIdx.map (fun row => row.1.map (f row.2)) = wordRows n (fun r col => f r (rowWord m r col)) := by
  refine List.ext_getElem (by simp [wordRows, hm]) (fun r h1 h2 => ?_)
  have hr : r < m.length := by simpa using h1
  have hrow : (m[r]).length = n := hrows _ (List.getElem_mem hr)
  rw [List.getElem_map, List.getElem_zipIdx]
  simp only [wordRows, List.getElem_map, List.getElem_range, Nat.zero_add]
  refine List.ext_getElem (by simp [hrow]) (fun col h3 h4 => ?_)
  have hcol : col < (m[r]).length := by simpa using h3
  simp only [List.getElem_map, List.getElem_range, rowWord, List.getD_eq_getElem _ _ hr, List.getD_eq_getElem _ _ hcol]

theorem brings_forward {n : Nat} (hm : l.m.length = 64) (hrows : ∀ row ∈ l.m, row.length = n) : l.brings pr false = wordRows n (l.forwarded pr) :=
  mapRows_eq hm hrows (fun r w => w48Round (w48Value w (l.e.getD r 0)) (pr.e.getD r 0))

theorem brings_notice {n : Nat} (hm : l.m.length = 64) (hrows : ∀ row ∈ l.m, row.length = n) : l.brings pr true = wordRows n (fun _ _ => (0, false)) := by
  have hmap : l.m.zipIdx.map (fun row => row.1.map (fun _ => ((0 : BitVec 48), false))) = (l.m.zipIdx.map Prod.fst).map (fun row => row.map (fun _ => (0, false))) :=
    List.map_map.symm
  rw [List.zipIdx_map_fst] at hmap
  exact hmap.symm.trans (mapRows_eq hm hrows (fun _ _ => (0, false)))

/-- The integer that an element word other than W48_NAN holds lies in the finite range (R120). -/
theorem w48_toInt_bounds {x : BitVec 48} (h : x ≠ w48Nan) : -(2 ^ 47 - 1) ≤ x.toInt ∧ x.toInt ≤ 2 ^ 47 - 1 := by
  have hnan : x.toInt ≠ (w48Nan).toInt := fun k => h (BitVec.eq_of_toInt_eq k)
  rw [show (w48Nan).toInt = -(2 ^ 47) from by decide] at hnan
  have hlow := BitVec.le_toInt x
  have hhigh := BitVec.toInt_lt (x := x)
  omega

/-- Zero added to an element word leaves it, and nothing overflows (R121). -/
theorem w48Add_zero (x : BitVec 48) : w48Add x 0 = (x, false) := by
  by_cases h : x = w48Nan
  · rw [h]; exact if_pos (.inl rfl)
  · obtain ⟨hlow, hhigh⟩ := w48_toInt_bounds h
    have hno : ¬ (x = w48Nan ∨ (0 : BitVec 48) = w48Nan) := not_or.2 ⟨h, by decide⟩
    rw [w48Add, if_neg hno, show (0 : BitVec 48).toInt = 0 from rfl, add_zero, w48Sat, if_neg (not_lt.2 hhigh), if_neg (not_lt.2 hlow), BitVec.ofInt_toInt]

section
variable (hpm : pr.m.length = 64) (hprows : ∀ row ∈ pr.m, row.length = pr.ncol) (hlm : l.m.length = 64) (hlrows : ∀ row ∈ l.m, row.length = pr.ncol)
include hpm hprows hlm hlrows

/-- A forward adds the child's words, rounded, and its overflows (R121, R142). -/
theorem joined_forward {r : Nat} (hr : r < 64) :
    (∀ col < pr.ncol, rowWord (pr.joined l false).m r col = (w48Add (rowWord pr.m r col) (l.forwarded pr r col).1).1) ∧
    ((pr.joined l false).ovr.getLsbD r = true ↔ pr.ovr.getLsbD r = true ∨ l.ovr.getLsbD r = true ∨
      ∃ col < pr.ncol, (l.forwarded pr r col).2 = true ∨ (w48Add (rowWord pr.m r col) (l.forwarded pr r col).1).2 = true) := by
  rw [Link.joined, brings_forward hlm hlrows]
  refine ⟨fun col hcol => receive_word hpm hprows hr hcol l.ovr _, (receive_ovr hpm hprows hr l.ovr _).trans ?_⟩
  rw [BitVec.getLsbD_or, Bool.or_eq_true, or_assoc]
  simp only [or_comm]

/-- A notice leaves the words, and brings the child's overflows (R147). -/
theorem joined_notice : (∀ r < 64, ∀ col < pr.ncol, rowWord (pr.joined l true).m r col = rowWord pr.m r col) ∧ (pr.joined l true).ovr = pr.ovr ||| l.ovr := by
  rw [Link.joined, brings_notice hlm hlrows]
  refine ⟨fun r hr col hcol => by rw [receive_word hpm hprows hr hcol, w48Add_zero], BitVec.eq_of_getLsbD_eq (fun r hr => Bool.eq_iff_iff.2 ?_)⟩
  rw [receive_ovr hpm hprows hr]
  have hnone : ¬ ∃ col < pr.ncol, (w48Add (rowWord pr.m r col) (0 : BitVec 48)).2 = true ∨ false = true := by
    rintro ⟨col, -, k | k⟩
    · rw [w48Add_zero] at k; exact Bool.false_ne_true k
    · exact Bool.false_ne_true k
  exact or_iff_left hnone

end

/-! ## The arrival of a forward or a notice -/

/-- What the statement says of the arrival of a message of link i at its parent, whatever values it brings. -/
def Arrives (s : State) (num : BitVec 12) (i : Nat) (c : Chain) (l pr : Link) (j : Instr) (value : Link → Prop) : Prop :=
  (l.flight = none → exec j s = .next s) ∧ (linkHeld s l.die pr.die = true → exec j s = .next s) ∧
  (∀ f, l.flight = some f → linkHeld s l.die pr.die = false →
    (f.staleAt s l pr → ∃ t, exec j s = .next t ∧ LinksAre t num i l.parent (fun l' q => l'.flight = none ∧ l'.landed = l.landed ∧ q = pr) ∧
      ((s.dies.get pr.die).stale ≠ BitVec.allOnes 32 → (t.dies.get pr.die).stale = (s.dies.get pr.die).stale + 1)) ∧
    (¬ f.staleAt s l pr →
      (pr.state = .frozen → exec j s = .next s) ∧
      (pr.state ≠ .frozen → pr.mask.getLsbD l.cslot.toNat = true →
        ∃ t, exec j s = .next t ∧ LinksAre t num i l.parent (fun l' q => l'.flight = none ∧ l'.landed = true ∧ q = pr)) ∧
      (pr.state = .done → pr.mask.getLsbD l.cslot.toNat = false → exec j s = .next s) ∧
      ((pr.state = .built ∨ pr.state = .open) → pr.mask.getLsbD l.cslot.toNat = false → ∃ t, exec j s = .next t ∧
        LinksAre t num i l.parent (fun l' q => l'.flight = none ∧ l'.landed = true ∧ q.recv = pr.recv + 1 ∧ q.mask = pr.mask ||| (1#8 <<< l.cslot.toNat) ∧ q.e = pr.e ∧
          q.decl = pr.decl ∧ (¬ pr.recv + 1 = pr.decl → q.state = .open ∧ q.holders = pr.holders ∧ q.flight = pr.flight) ∧
          (pr.recv + 1 = pr.decl → q.state = .done ∧ q.holders = [] ∧ (l.parent ≠ 0 → pr.flight = none → pr.landed = false →
            q.flight = some { src := incOf s pr.die pr.die, dst := incOf s pr.die (c.dieAt pr.parent) })) ∧
          ((pr.recv + 1 = pr.decl → c.isTree pr = false) → value q)))))

theorem HasParent.arrives (h : HasParent s num i c l pr) {j : Instr} {value : Link → Prop} (hj : exec j s = .next (receiveAt num i tree s))
    (hv : (pr.recv + 1 = pr.decl → c.isTree pr = false) → value (l.joinedSettled s c i pr tree)) (hi : i ≠ 0) (ht : c.isTree l = tree) :
    Arrives s num i c l pr j value := by
  refine ⟨fun hf => ?_, fun hheld => ?_, fun f hf hheld => ⟨fun hs => ?_, fun hs => ⟨fun hp => ?_, fun hp hm => ?_, fun hp hm => ?_, fun hp hm => ?_⟩⟩⟩
  · rw [hj, h.receiveAt_of_no_flight hf]
  · rw [hj, h.receiveAt_of_held hi ht hheld]
  · obtain ⟨hchains, hcount⟩ := staleDiscard_spec (setChain s (c.setLink i { l with flight := none })) pr.die l.die
    rw [hj, h.receiveAt_of_stale hi ht hf hheld hs]
    exact ⟨_, rfl, (h.links_of_child _ ⟨rfl, rfl, rfl⟩).of_chains hchains, hcount⟩
  all_goals rw [hj, h.receiveAt_of_fresh hi ht hf hheld hs]
  · rw [if_pos hp]
  · rw [if_neg hp, if_pos hm]
    exact ⟨_, rfl, h.links_of_child _ ⟨rfl, rfl, rfl⟩⟩
  · have hfrozen : pr.state ≠ .frozen := by rw [hp]; decide
    have hclosed : pr.state ≠ .built ∧ pr.state ≠ .open := by rw [hp]; decide
    rw [if_neg hfrozen, if_neg (by rw [hm]; exact Bool.false_ne_true), if_pos hclosed]
  · have hfrozen : pr.state ≠ .frozen := by rcases hp with k | k <;> rw [k] <;> decide
    have htakes : ¬ (pr.state ≠ .built ∧ pr.state ≠ .open) := fun k => hp.elim k.1 k.2
    rw [if_neg hfrozen, if_neg (by rw [hm]; exact Bool.false_ne_true), if_neg htakes]
    obtain ⟨hrecv, hmask, he, hdecl⟩ := joinedSettled_counts (s := s) (c := c) (i := i) (l := l) (pr := pr) (tree := tree)
    exact ⟨_, rfl, h.links_of_joined ⟨rfl, rfl, hrecv, hmask, he, hdecl, joinedSettled_open, h.joinedSettled_done, hv⟩⟩

/-! ## The arrival of a node (R146, R147, R157) -/

/-- The parent of a tree child has asked for the child's node, which is computed, and has not received it. -/
structure NodeDue (s : State) (num : BitVec 12) (i : Nat) (c : Chain) (l pr : Link) (f : Flight) : Prop extends HasParent s num i c l pr where
  below : i ≠ 0
  tree : c.isTree l = true
  noded : l.noded = true
  done : l.state = .done
  parentDone : pr.state = .done
  parentOpen : pr.noded = false
  unread : pr.reads.any (fun x => x.1 == i) = false
  clear : linkHeld s l.die pr.die = false
  asked : ∃ k, pr.asks.find? (fun a => a.1 == i) = some (k, some f)

/-- A parent with the node of a child that it has asked for. -/
def Link.withRead (pr : Link) (i : Nat) (m : List (List (BitVec 48))) : Link := { pr with reads := (i, m) :: pr.reads }

/-- A parent whose request for the node of a child has been discarded. -/
def Link.withoutRead (pr : Link) (i : Nat) : Link := { pr with asks := pr.asks.map (fun a => if a.1 = i then (i, none) else a) }

theorem NodeDue.nodeRead_eq (h : NodeDue s num i c l pr f) : exec (.nodeReadReceive num i) s =
    if f.src ≠ incOf s pr.die l.die ∨ f.dst ≠ incOf s pr.die pr.die then .next (staleDiscard (setChain s (c.setLink l.parent (pr.withoutRead i))) pr.die l.die)
    else .next (setChain s (c.setLink l.parent ((pr.withRead i l.m).settled s c l.parent))) := by
  obtain ⟨k, hk⟩ := h.asked
  have hdue : (decide (i = 0) || !c.isTree l || !l.noded || l.state != .done || pr.state != .done || pr.noded || pr.reads.any (fun x => x.1 == i) ||
      linkHeld s l.die pr.die) = false := by
    rw [h.tree, h.noded, h.done, h.parentDone, h.parentOpen, h.unread, h.clear, decide_eq_false h.below]
    rfl
  show execNodeReadReceive num i s = _
  rw [execNodeReadReceive, h.chain]
  dsimp only
  rw [h.link, Option.map_some, Option.getD_some, h.parent]
  dsimp only
  rw [hdue, hk, if_neg Bool.false_ne_true]
  dsimp only
  rw [settleLink_eq]
  rfl

/-- The parent keeps the node that it reads, and computes its own with the last of them. -/
theorem NodeDue.read (h : NodeDue s num i c l pr f) (hs : ¬ f.staleAt s l pr) : ∃ t, exec (.nodeReadReceive num i) s = .next t ∧
    LinksAre t num i l.parent (fun l' q => l' = l ∧ q.reads = (i, l.m) :: pr.reads ∧ q.state = .done ∧ q.recv = pr.recv ∧
      (q.noded = true ↔ c.isTree pr = true ∧ ∀ x ∈ c.treeKids l.parent, x.1 = i ∨ ∃ y ∈ pr.reads, y.1 = x.1)) := by
  refine ⟨_, h.nodeRead_eq.trans (if_neg hs), h.links_of_parent _ ⟨rfl, Link.settled_reads, Link.settled_state.trans h.parentDone, Link.settled_recv, ?_⟩⟩
  rw [Link.settled_noded (l := pr.withRead i l.m) h.parentDone h.parentOpen]
  have hread : ∀ k, (∃ y ∈ (pr.withRead i l.m).reads, y.1 = k) ↔ k = i ∨ ∃ y ∈ pr.reads, y.1 = k := fun k => by
    rw [show (pr.withRead i l.m).reads = (i, l.m) :: pr.reads from rfl, List.exists_mem_cons_iff]
    exact or_congr_left eq_comm
  simp only [hread]
  rfl

/-- A node read of another incarnation is discarded (R428). -/
theorem NodeDue.read_stale (h : NodeDue s num i c l pr f) (hs : f.staleAt s l pr) : ∃ t, exec (.nodeReadReceive num i) s = .next t ∧
    LinksAre t num i l.parent (fun l' q => l' = l ∧ q.reads = pr.reads ∧ q.noded = false ∧ q.state = .done) ∧
    ((s.dies.get pr.die).stale ≠ BitVec.allOnes 32 → (t.dies.get pr.die).stale = (s.dies.get pr.die).stale + 1) := by
  obtain ⟨hchains, hcount⟩ := staleDiscard_spec (setChain s (c.setLink l.parent (pr.withoutRead i))) pr.die l.die
  exact ⟨_, h.nodeRead_eq.trans (if_pos hs), (h.links_of_parent _ ⟨rfl, rfl, h.parentOpen, h.parentDone⟩).of_chains hchains, hcount⟩

end

/-! ## A link that freezes (R408, R409, R423) -/

theorem chains_entryRecords (s : State) (c : CoreId) (m : Fin 2) (slot : Nat) (addr lid : BitVec 64) : (entryRecords s c m slot addr lid).chains = s.chains :=
  ((stepsAlike_logErr _ _).chains).trans (stepsAlike_logErr _ _).chains

theorem chains_refuseEntry (s : State) (p : Place) (q : QueueId) (e : QEntry) (t : Trap) : (refuseEntry s p q e t).chains = s.chains := by
  unfold refuseEntry
  split
  · rfl
  · dsimp only
    generalize s.setGroup p _ = u, hu : s.setGroup p _ = u
    obtain ⟨sl, hraise⟩ := raise_slot u p { stream := e.stream, queue := some q, async := false, fpc := e.fpc } t
    rw [hraise]
    subst hu
    rfl

/-- What freezing makes of a link: FROZEN, an entry of it lasting, its message stopped, and its counts as they were. -/
structure FrozenFrom (l l' : Link) : Prop where
  state : l'.state = .frozen
  single : l.fused = false → l'.lasting.getLsbD l.array.val = true
  lasting : l'.lasting ≠ 0
  flight : l'.flight = none
  recv : l'.recv = l.recv
  mask : l'.mask = l.mask
  ovr : l'.ovr = l.ovr

theorem lasting_marked (x : BitVec 2) (m : Fin 2) : (x ||| (1#2 <<< m.val)).getLsbD m.val = true ∧ x ||| (1#2 <<< m.val) ≠ 0 := by
  revert x m; decide

theorem freezeItem_chains (s : State) (c : Chain) (i : Nat) (l : Link) :
    ∃ l', FrozenFrom l l' ∧ (freezeItem s c i l).chains = (setChain s (c.setLink i l')).chains := by
  unfold freezeItem
  dsimp only
  generalize Config.freeBits s.fresh 17 = b
  generalize hx : (if (b.extractLsb' 15 2).toNat = 0 then _ else _ : Link) = x
  generalize hm : (if !l.fused then l.array else _ : Fin 2) = m
  have hkept : x.recv = l.recv ∧ x.mask = l.mask ∧ x.ovr = l.ovr ∧ x.lasting = l.lasting := by
    subst hx
    split
    · exact ⟨rfl, rfl, rfl, rfl⟩
    · split <;> exact ⟨rfl, rfl, rfl, rfl⟩
  obtain ⟨hrecv, hmask, hovr, -⟩ := hkept
  obtain ⟨hbit, hsome⟩ := lasting_marked x.lasting m
  refine ⟨{ x with lasting := x.lasting ||| (1#2 <<< m.val), state := .frozen, flight := none }, ⟨rfl, fun hf => ?_, hsome, rfl, hrecv, hmask, hovr⟩, chains_entryRecords _ _ _ _ _ _⟩
  have hone : m = l.array := by rw [← hm, hf]; rfl
  rw [← hone]
  exact hbit

section
variable {s : State} {num : BitVec 12} {i : Nat} {c : Chain} {l : Link} (hc : findChain s num = some c) (hl : c.links[i]? = some l)
include hc hl

theorem linkFreeze_of_frozen (hf : l.state = .frozen) : exec (.linkFreeze num i) s = .next s := by
  show execLinkFreeze num i s = _
  rw [execLinkFreeze, hc]
  dsimp only
  rw [hl]
  exact if_pos hf

/-- A step into the link that is refused leaves the chains as the freezing does. -/
theorem linkFreeze_chains (hf : l.state ≠ .frozen) :
    ∃ t, exec (.linkFreeze num i) s = .next t ∧ t.chains = (freezeItem { s with fresh := s.fresh + 1 } c i l).chains := by
  show ∃ t, execLinkFreeze num i s = .next t ∧ _
  rw [execLinkFreeze, hc]
  dsimp only
  rw [hl]
  dsimp only
  rw [if_neg hf]
  generalize freezeItem { s with fresh := s.fresh + 1 } c i l = u
  split
  · exact ⟨u, rfl, rfl⟩
  · split
    · exact ⟨_, rfl, (chains_refuseEntry _ _ _ _ _).trans (stepsAlike_startTests _ _ _ _).chains⟩
    · exact ⟨u, rfl, rfl⟩

theorem linkFreeze_freezes (hf : l.state ≠ .frozen) : ∃ t c' l', exec (.linkFreeze num i) s = .next t ∧ findChain t num = some c' ∧ c'.links[i]? = some l' ∧
    FrozenFrom l l' ∧ ∀ j, j ≠ i → c'.links[j]? = c.links[j]? := by
  obtain ⟨t, hexec, ht⟩ := linkFreeze_chains hc hl hf
  obtain ⟨l', hfrozen, hitem⟩ := freezeItem_chains { s with fresh := s.fresh + 1 } c i l
  refine ⟨t, c.setLink i l', l', hexec, ?_, Chain.setLink_self hl l', hfrozen, fun j hj => Chain.setLink_ne hj l'⟩
  rw [findChain_of_chains (ht.trans hitem)]
  exact findChain_setChain (s := { s with fresh := s.fresh + 1 }) hc rfl

end

/-- Settles O52: a link that freezes, what the arrival of a message comes to with the words it brings, and the arrival of a node. -/
theorem linkEventsComplete : Obligations.LinkEventsComplete := by
  unfold Obligations.LinkEventsComplete
  refine ⟨fun s num i c l hc hl => ⟨linkFreeze_of_frozen hc hl, fun hf => ?_⟩, ?_⟩
  · obtain ⟨t, c', l', hexec, hfound, hlink, hfrozen, hothers⟩ := linkFreeze_freezes hc hl hf
    exact ⟨t, c', l', hexec, hfound, hlink, hfrozen.state, hfrozen.single, hfrozen.lasting, hfrozen.flight, hfrozen.recv, hfrozen.mask, hfrozen.ovr, hothers⟩
  · intro s num i c l pr hc hl hp hne links stale counted full arrives shaped term sum
    have h : HasParent s num i c l pr := ⟨hc, hl, hp, hne⟩
    refine ⟨h.arrives rfl fun htree hsl hsp r hr => ?_, h.arrives rfl fun htree hsl hsp => ?_, ?_⟩
    · rw [joinedSettled_m htree, joinedSettled_ovr]
      exact joined_forward hsp.1 hsp.2 hsl.1 hsl.2 hr
    · rw [joinedSettled_m htree, joinedSettled_ovr]
      exact joined_notice hsp.1 hsp.2 hsl.1 hsl.2
    · intro hi ht hn hd hpd hpn hunread hclear f k hask
      have hdue : NodeDue s num i c l pr f := ⟨h, hi, ht, hn, hd, hpd, hpn, hunread, hclear, k, hask⟩
      exact ⟨hdue.read, hdue.read_stale⟩

end Sys2Proof.Machine
end

section
/-! PROOFS. The commands that name a chain or a link of one, at a ready head: CHSTAT, CHFREE, LSET and LNORM (R155, R276, R278, R280). -/

namespace Sys2Proof.Machine

open Sys2Proof

section
variable {v : QEnv} {r ev d4 out : BitVec 4} {d a b k6 cr : BitVec 6} {xp : BitVec 16} {plane smode qt : BitVec 2} {part : BitVec 5} {keep dst sp : BitVec 1} {chain : BitVec 12}

theorem startCommand_chstat (h : v.e.instr = .chstat r d a) : startCommand v = startChstat v d := by simp only [startCommand, h]
theorem startCommand_chfree (h : v.e.instr = .chfree r a) : startCommand v = startChfree v := by simp only [startCommand, h]
theorem startCommand_lset (h : v.e.instr = .lset r ev a b xp) : startCommand v = startLset v xp := by simp only [startCommand, h]
theorem startCommand_lnorm (h : v.e.instr = .lnorm r ev a b k6) : startCommand v = startLnorm v k6 := by simp only [startCommand, h]
theorem startCommand_chrd (h : v.e.instr = .chrd r ev d a sp plane part) : startCommand v = startChrd v d sp plane part := by simp only [startCommand, h]
theorem startCommand_chsplice (h : v.e.instr = .chsplice r a b) : startCommand v = startChsplice v := by simp only [startCommand, h]
theorem startCommand_chbld (h : v.e.instr = .chbld r a) : startCommand v = startChbld v := by simp only [startCommand, h]
theorem startCommand_chclose (h : v.e.instr = .chclose r ev d4 a b keep dst chain out smode qt cr) :
    startCommand v = startChclose v d4 keep dst chain out smode qt := by simp only [startCommand, h]

end

/-! ## Selectors (R276, R385) -/

/-- A selector names link l of chain c, which is of the launch of the command. -/
structure Selects (v : QEnv) (x : BitVec 64) (c : Chain) (l : Link) : Prop where
  chain : findChain v.s (x.extractLsb' 0 12) = some c
  link : c.links[fieldOf x 17 12]? = some l
  own : c.owner = v.g.lr.id

section
variable {v : QEnv} {x : BitVec 64} {first : Bool} {k : Chain → Nat → Link → QAct} {c : Chain} {l : Link}

theorem Selects.withLink_eq (h : Selects v x c l) : withLink v x first k = k c (fieldOf x 17 12) l := by
  rw [withLink, h.chain]
  dsimp only
  rw [h.link]
  exact if_neg (not_not.2 h.own)

theorem withLink_of_other_owner (hc : findChain v.s (x.extractLsb' 0 12) = some c) (hi : fieldOf x 17 12 < c.links.length) (ho : c.owner ≠ v.g.lr.id) :
    withLink v x first k = .trap (.plain Cause.chOwner) := by
  rw [withLink, hc]
  dsimp only
  rw [List.getElem?_eq_getElem hi]
  exact if_pos ho

theorem withLink_of_range (hc : findChain v.s (x.extractLsb' 0 12) = some c) (hi : c.links.length ≤ fieldOf x 17 12) :
    withLink v x false k = .trap (.plain Cause.opRange) := by
  rw [withLink, hc]
  dsimp only
  rw [List.getElem?_eq_none hi]
  rfl

end

/-! ## CHSTAT (R278) -/

section
variable {v : QEnv} {d : BitVec 6} {c : Chain} {l : Link}

theorem startChstat_of_none (h : findChain v.s ((v.x 0).extractLsb' 0 12) = none) : startChstat v d = .start v.s { Work.none with xw := some (d, 0) } := by
  rw [startChstat, h]

theorem startChstat_of_some (h : findChain v.s ((v.x 0).extractLsb' 0 12) = some c) :
    startChstat v d = withLink v (v.x 0) false (fun _ _ l => .start v.s { Work.none with xw := some (d, l.status) }) := by
  rw [startChstat, h]

theorem Selects.startChstat_eq (h : Selects v (v.x 0) c l) : startChstat v d = .start v.s { Work.none with xw := some (d, l.status) } :=
  (startChstat_of_some h.chain).trans h.withLink_eq

theorem getLsbD_append_high {m n : Nat} (x : BitVec m) (y : BitVec n) {i : Nat} (h : n ≤ i) : (x ++ y).getLsbD i = x.getLsbD (i - n) := by
  rw [BitVec.getLsbD_append, if_neg (Nat.not_lt.2 h)]

theorem getLsbD_append_low {m n : Nat} (x : BitVec m) (y : BitVec n) {i : Nat} (h : i < n) : (x ++ y).getLsbD i = y.getLsbD i := by
  rw [BitVec.getLsbD_append, if_pos h]

/-- The upper part of the status word: the bit of a built chain, the state, the mask, and whether a row has overflowed (R278). -/
def Link.statusHigh (l : Link) : BitVec 13 := 1#1 ++ l.state.code ++ l.mask ++ BitVec.ofBool (l.ovr != 0)

theorem Link.status_eq (l : Link) : l.status = l.statusHigh ++ 0#11 ++ l.decl ++ l.recv := rfl

theorem Link.status_high (l : Link) {s n : Nat} (h : 51 ≤ s) : l.status.extractLsb' s n = l.statusHigh.extractLsb' (s - 51) n := by
  have h20 : l.status.extractLsb' s n = (l.statusHigh ++ 0#11 ++ l.decl).extractLsb' (s - 20) n := Laws.extract_high _ l.recv s n (by omega)
  rw [h20, Laws.extract_high _ l.decl _ n (by omega), Laws.extract_high l.statusHigh _ _ n (by omega)]
  congr 1

theorem Link.status_bit (l : Link) {i : Nat} (h : 51 ≤ i) : l.status.getLsbD i = l.statusHigh.getLsbD (i - 51) := by
  have h20 : l.status.getLsbD i = (l.statusHigh ++ 0#11 ++ l.decl).getLsbD (i - 20) := getLsbD_append_high _ l.recv (by omega)
  rw [h20, getLsbD_append_high _ l.decl (by omega), getLsbD_append_high l.statusHigh _ (by omega)]
  congr 1

/-- The fields of the status word (R278). -/
theorem Link.status_fields (l : Link) : l.status.getLsbD 63 = true ∧ l.status.extractLsb' 60 3 = l.state.code ∧ l.status.extractLsb' 52 8 = l.mask ∧
    l.status.getLsbD 51 = (l.ovr != 0) ∧ l.status.extractLsb' 40 11 = 0 ∧ l.status.extractLsb' 20 20 = l.decl ∧ l.status.extractLsb' 0 20 = l.recv := by
  have hcode : l.statusHigh.extractLsb' 9 3 = l.state.code :=
    (Laws.extract_high _ (BitVec.ofBool (l.ovr != 0)) 9 3 (by decide)).trans ((Laws.extract_high _ l.mask 8 3 (by decide)).trans
      ((Laws.extract_low _ l.state.code 0 3 (by decide)).trans (Laws.whole _)))
  have hmask : l.statusHigh.extractLsb' 1 8 = l.mask :=
    (Laws.extract_high _ (BitVec.ofBool (l.ovr != 0)) 1 8 (by decide)).trans ((Laws.extract_low _ l.mask 0 8 (by decide)).trans (Laws.whole _))
  have hbuilt : l.statusHigh.getLsbD 12 = true :=
    (getLsbD_append_high _ (BitVec.ofBool (l.ovr != 0)) (by decide)).trans ((getLsbD_append_high _ l.mask (by decide)).trans (getLsbD_append_high _ l.state.code (by decide)))
  have hovr : l.statusHigh.getLsbD 0 = (l.ovr != 0) := (getLsbD_append_low _ (BitVec.ofBool (l.ovr != 0)) (by decide)).trans (by simp)
  refine ⟨(l.status_bit (by decide)).trans hbuilt, (l.status_high (by decide)).trans hcode, (l.status_high (by decide)).trans hmask,
    (l.status_bit (by decide)).trans hovr, ?_, ?_, ?_⟩
  · exact (Laws.extract_high _ l.recv 40 11 (by decide)).trans ((Laws.extract_high _ l.decl 20 11 (by decide)).trans
      ((Laws.extract_low l.statusHigh 0#11 0 11 (by decide)).trans (Laws.whole _)))
  · exact (Laws.extract_high _ l.recv 20 20 (by decide)).trans ((Laws.extract_low _ l.decl 0 20 (by decide)).trans (Laws.whole _))
  · exact (Laws.extract_low _ l.recv 0 20 (by decide)).trans (Laws.whole _)

end

/-! ## CHFREE (R155, R425) -/

theorem retireEntries_cores (s : State) (l : Link) : ∃ x, retireEntries s l = { s with cores := x } := by
  unfold retireEntries
  refine List.foldlRecOn (motive := fun t : State => ∃ x, t = { s with cores := x }) _ _ ⟨s.cores, rfl⟩ ?_
  rintro t ⟨x, rfl⟩ m -
  split
  · exact ⟨_, rfl⟩
  · exact ⟨x, rfl⟩

theorem retireEntries_foldl_cores (s : State) (ls : List Link) : ∃ x, ls.foldl retireEntries s = { s with cores := x } := by
  refine List.foldlRecOn (motive := fun t : State => ∃ x, t = { s with cores := x }) ls retireEntries ⟨s.cores, rfl⟩ ?_
  rintro t ⟨x, rfl⟩ l -
  obtain ⟨y, hy⟩ := retireEntries_cores { s with cores := x } l
  exact ⟨y, hy⟩

/-- A chain freed is gone, every other is as it was, and so is the memory. -/
theorem freeChain_spec {s : State} {n : BitVec 12} {c : Chain} (h : findChain s n = some c) :
    findChain (freeChain s n) n = none ∧ (∀ m, m ≠ n → findChain (freeChain s n) m = findChain s m) ∧ (freeChain s n).mem = s.mem := by
  obtain ⟨x, hx⟩ := retireEntries_foldl_cores s c.links
  rw [freeChain, h]
  dsimp only
  rw [hx]
  refine ⟨?_, fun m hm => ?_, rfl⟩
  · show (s.chains.filter (fun c => c.num ≠ n)).find? (fun c => c.num == n) = none
    rw [List.find?_eq_none]
    intro y hy
    have hne := (List.mem_filter.1 hy).2
    simpa using hne
  · show (s.chains.filter (fun c => c.num ≠ n)).find? (fun c => c.num == m) = s.chains.find? (fun c => c.num == m)
    rw [List.find?_filter]
    congr 1
    funext y
    by_cases hy : y.num = m
    · simp [hy, hm]
    · simp [hy]

section
variable {v : QEnv} {c : Chain}

theorem startChfree_of_none (h : findChain v.s ((v.x 0).extractLsb' 0 12) = none) : startChfree v = .start v.s Work.none := by
  unfold startChfree
  dsimp only
  rw [h]

theorem startChfree_of_some (h : findChain v.s ((v.x 0).extractLsb' 0 12) = some c) : startChfree v =
    if c.owner ≠ v.g.lr.id then .trap (.plain Cause.chOwner) else .start (freeChain v.s ((v.x 0).extractLsb' 0 12)) Work.none := by
  unfold startChfree
  dsimp only
  rw [h]

end

/-! ## A link replaced -/

/-- The chains of a state in which one link of one chain has been replaced. -/
structure LinkReplaced (s u : State) (n : BitVec 12) (i : Nat) (c c' : Chain) (x : Link) : Prop where
  chain : findChain u n = some c'
  link : c'.links[i]? = some x
  links : ∀ j, j ≠ i → c'.links[j]? = c.links[j]?
  chains : ∀ m, m ≠ n → findChain u m = findChain s m

theorem linkReplaced {s : State} {n : BitVec 12} {c : Chain} {i : Nat} {l : Link} (hc : findChain s n = some c) (hl : c.links[i]? = some l) (x : Link) :
    LinkReplaced s (setChain s (c.setLink i x)) n i c (c.setLink i x) x :=
  ⟨findChain_setChain hc rfl, Chain.setLink_self hl x, fun _ hj => Chain.setLink_ne hj x,
    fun _ hm => findChain_setChain_ne (fun k => hm (k.trans (show c.num = n from findChain_num hc)))⟩

/-! ## LSET and LNORM (R280) -/

/-- A link whose masked rows have the exponent x. -/
def Link.withExponent (l : Link) (mask : BitVec 64) (x : BitVec 16) : Link :=
  { l with e := l.e.zipIdx.map (fun y => if mask.getLsbD y.2 then x else y.1) }

/-- A link whose masked rows have their exponents raised by k and their words rounded to them. -/
def Link.normed (l : Link) (mask : BitVec 64) (k : BitVec 6) : Link :=
  { l with
    m := l.m.zipIdx.map (fun row => if mask.getLsbD row.2 then
      row.1.map (fun w => (w48Round (w48Value w (l.e.getD row.2 0)) (l.e.getD row.2 0 + BitVec.ofNat 16 k.toNat)).1) else row.1)
    e := l.e.zipIdx.map (fun x => if mask.getLsbD x.2 then x.1 + BitVec.ofNat 16 k.toNat else x.1) }

/-- An exponent of a masked row would pass 32767. -/
def Link.passes (l : Link) (mask : BitVec 64) (k : BitVec 6) : Prop := ∃ i, i < 64 ∧ mask.getLsbD i = true ∧ 32767 < (l.e.getD i 0).toInt + k.toNat

theorem Link.passes_iff_any (l : Link) (mask : BitVec 64) (k : BitVec 6) :
    (List.range 64).any (fun r => mask.getLsbD r && decide (32767 < (l.e.getD r 0).toInt + (k.toNat : Int))) = true ↔ l.passes mask k := by
  simp only [List.any_eq_true, List.mem_range, Bool.and_eq_true, decide_eq_true_eq]
  rfl

theorem getElem?_zipIdx_map {α β : Type} (l : List α) (f : α × Nat → β) (i : Nat) : (l.zipIdx.map f)[i]? = l[i]?.map (fun x => f (x, i)) := by
  rw [List.getElem?_map, List.getElem?_zipIdx, Option.map_map, Nat.zero_add]
  rfl

theorem Link.withExponent_getElem? {l : Link} {mask : BitVec 64} {x : BitVec 16} {k : Nat} (hk : k < l.e.length) :
    (l.withExponent mask x).e[k]? = if mask.getLsbD k then some x else l.e[k]? := by
  rw [Link.withExponent, getElem?_zipIdx_map, List.getElem?_eq_getElem hk]
  exact apply_ite some _ _ _

theorem Link.normed_e {l : Link} {mask : BitVec 64} {k : BitVec 6} {i : Nat} {x : BitVec 16} (h : l.e[i]? = some x) :
    (l.normed mask k).e[i]? = some (if mask.getLsbD i then x + BitVec.ofNat 16 k.toNat else x) := by
  rw [Link.normed, getElem?_zipIdx_map, h]
  rfl

theorem Link.normed_m {l : Link} {mask : BitVec 64} {k : BitVec 6} {i : Nat} {row : List (BitVec 48)} (h : l.m[i]? = some row) :
    (l.normed mask k).m[i]? = some (if mask.getLsbD i then
      row.map (fun w => (w48Round (w48Value w (l.e.getD i 0)) (l.e.getD i 0 + BitVec.ofNat 16 k.toNat)).1) else row) := by
  rw [Link.normed, getElem?_zipIdx_map, h]
  rfl

section
variable {v : QEnv} {c : Chain} {l : Link} {x : BitVec 16} {k : BitVec 6}

theorem Selects.startLset_eq (h : Selects v (v.x 0) c l) : startLset v x =
    if l.coreId ≠ coreOf v.p then .trap (.plain Cause.chRemote)
    else if l.state ≠ .built then .trap (.plain Cause.chState)
    else .start (setChain v.s (c.setLink (fieldOf (v.x 0) 17 12) (l.withExponent (v.x 1) x))) Work.none := h.withLink_eq

section
variable (h : Selects v (v.x 0) c l)
include h

theorem Selects.startLnorm_of_remote (hr : l.coreId ≠ coreOf v.p) : startLnorm v k = .trap (.plain Cause.chRemote) := h.withLink_eq.trans (if_pos hr)

section
variable (hr : l.coreId = coreOf v.p)
include hr

theorem Selects.startLnorm_of_state (hs : ¬ (l.state = .built ∨ l.state = .open)) : startLnorm v k = .trap (.plain Cause.chState) :=
  h.withLink_eq.trans ((if_neg (not_not.2 hr)).trans (if_pos (not_or.1 hs)))

theorem Selects.startLnorm_of_may (hs : l.state = .built ∨ l.state = .open) : startLnorm v k =
    if (List.range 64).any (fun r => (v.x 1).getLsbD r && decide (32767 < (l.e.getD r 0).toInt + (k.toNat : Int))) then .trap (.plain Cause.opRange)
    else .start (setChain v.s (c.setLink (fieldOf (v.x 0) 17 12) (l.normed (v.x 1) k))) Work.none :=
  h.withLink_eq.trans ((if_neg (not_not.2 hr)).trans (if_neg (fun n => not_or.2 n hs)))

theorem Selects.startLnorm_of_high (hs : l.state = .built ∨ l.state = .open) (hh : l.passes (v.x 1) k) : startLnorm v k = .trap (.plain Cause.opRange) :=
  (h.startLnorm_of_may hr hs).trans (if_pos ((l.passes_iff_any _ _).2 hh))

theorem Selects.startLnorm_of_low (hs : l.state = .built ∨ l.state = .open) (hh : ¬ l.passes (v.x 1) k) :
    startLnorm v k = .start (setChain v.s (c.setLink (fieldOf (v.x 0) 17 12) (l.normed (v.x 1) k))) Work.none :=
  (h.startLnorm_of_may hr hs).trans (if_neg (fun n => hh ((l.passes_iff_any _ _).1 n)))

end

end

end

end Sys2Proof.Machine
end

section
/-! PROOFS. CHRD at a ready head: the words of a plane of a link in a vector register (R279). -/

namespace Sys2Proof.Machine

open Sys2Proof

/-! ## Elements of a register that is built of them (R242) -/

theorem elemAt_ofNat {n : Nat} (x : Nat) {w i : Nat} (h : w * i + w ≤ n) : elemAt (BitVec.ofNat n x) w i = x / (2 ^ w) ^ i % 2 ^ w := by
  have hn : 2 ^ n = 2 ^ (w * i) * 2 ^ (n - w * i) := by rw [← pow_add]; congr 1; omega
  have hdvd : 2 ^ w ∣ 2 ^ (n - w * i) := Nat.pow_dvd_pow 2 (by omega)
  rw [elemAt, BitVec.extractLsb'_toNat, BitVec.toNat_ofNat, Nat.shiftRight_eq_div_pow, hn, Nat.mod_mul_right_div_self, Nat.mod_mod_of_dvd _ hdvd, pow_mul]

theorem foldr_digits {w : Nat} (f : Nat → Nat) (l : List Nat) : l.foldr (fun i acc => acc * 2 ^ w + f i % 2 ^ w) 0 = Nat.ofDigits (2 ^ w) (l.map (fun i => f i % 2 ^ w)) := by
  induction l with
  | nil => rfl
  | cons i l ih =>
    rw [List.foldr_cons, List.map_cons, Nat.ofDigits_cons, ih]
    ring

theorem ofDigits_digit {b : Nat} (hb : 0 < b) {l : List Nat} (hl : ∀ x ∈ l, x < b) {i : Nat} (hi : i < l.length) : Nat.ofDigits b l / b ^ i % b = l[i] := by
  rw [Nat.ofDigits_div_pow_eq_ofDigits_drop i hb l hl, Nat.ofDigits_mod_eq_head!, List.drop_eq_getElem_cons hi]
  exact Nat.mod_eq_of_lt (hl _ (List.getElem_mem hi))

/-- Element i of a register of elements that are all given. -/
theorem elemAt_putElems {n w : Nat} (old : BitVec n) (f : Nat → Nat) {i : Nat} (hi : i < n / w) : elemAt (putElems old w (fun e => some (f e))) w i = f i % 2 ^ w := by
  have hfit : w * i + w ≤ n := by
    have hle := Nat.mul_le_mul_left w (Nat.succ_le_of_lt hi)
    have hdiv := Nat.mul_div_le n w
    rw [Nat.mul_succ] at hle
    omega
  have hsmall : ∀ x ∈ (List.range (n / w)).map (fun i => f i % 2 ^ w), x < 2 ^ w := fun x hx => by
    obtain ⟨y, -, rfl⟩ := List.mem_map.1 hx
    exact Nat.mod_lt _ (by positivity)
  have hlen : i < ((List.range (n / w)).map (fun i => f i % 2 ^ w)).length := by simpa using hi
  unfold putElems
  rw [elemAt_ofNat _ hfit, foldr_digits, ofDigits_digit (by positivity) hsmall hlen]
  simp

/-! ## The words of a plane -/

/-- In rows of one length a word stands at its row and its column. -/
theorem flatten_getD {α : Type} {n : Nat} (hn : 0 < n) (m : List (List α)) (hm : ∀ row ∈ m, row.length = n) (k : Nat) (x : α) :
    m.flatten.getD k x = (m.getD (k / n) []).getD (k % n) x := by
  induction m generalizing k with
  | nil => simp
  | cons row m ih =>
    have hrow : row.length = n := hm row List.mem_cons_self
    rw [List.flatten_cons]
    by_cases hk : k < n
    · rw [Nat.div_eq_of_lt hk, Nat.mod_eq_of_lt hk, List.getD_cons_zero, List.getD_append _ _ _ _ (hrow.symm ▸ hk)]
    · have hk' : n ≤ k := Nat.not_lt.1 hk
      have hdiv : k / n = (k - n) / n + 1 := Nat.div_eq_sub_div hn hk'
      have hmod : k % n = (k - n) % n := Nat.mod_eq_sub_mod hk'
      rw [List.getD_append_right _ _ _ _ (hrow.symm ▸ hk'), hrow, ih (fun r hr => hm r (List.mem_cons_of_mem row hr)), hdiv, hmod, List.getD_cons_succ]

/-- The number of words in a plane of a link (R279). -/
def Link.planeWords (l : Link) (pl : BitVec 2) : Nat := if pl = 0 ∨ pl = 1 then 64 * l.ncol else 128

/-- Word i of a plane of a link (R279). -/
def Link.planeWord (l : Link) (pl : BitVec 2) (i : Nat) : Nat :=
  let w := rowWord l.m (i / l.ncol) (i % l.ncol)
  if l.planeWords pl ≤ i then 0 else if pl = 0 then (w.extractLsb' 0 32).toNat else if pl = 1 then (w.extractLsb' 32 16).toNat
  else if i < 64 then (l.e.getD i 0).toNat else (l.ovr.getLsbD (i - 64)).toNat

theorem Link.ncol_pos (l : Link) : 0 < l.ncol := by unfold Link.ncol; split <;> decide

theorem plane_cases {pl : BitVec 2} (h : pl ≠ 3) : pl = 0 ∨ pl = 1 ∨ pl = 2 := by revert pl; decide

theorem getD_map {α β : Type} (l : List α) (f : α → β) (k : Nat) (x : α) (y : β) (h : f x = y) : (l.map f).getD k y = f (l.getD k x) := by
  rw [← h, List.getD_map]

section
variable {l : Link} {pl : BitVec 2}

theorem Link.plane_getD (hp : pl ≠ 3) (hm : l.m.length = 64) (hrows : ∀ row ∈ l.m, row.length = l.ncol) (he : l.e.length = 64) (i : Nat) :
    (l.plane pl).1.getD i 0 = l.planeWord pl i := by
  have hflat : l.m.flatten.length = 64 * l.ncol := by
    rw [List.length_flatten, List.map_congr_left (g := fun _ => l.ncol) (fun row hr => hrows row hr), List.map_const', List.sum_replicate, hm, smul_eq_mul]
  unfold Link.planeWord
  dsimp only
  split
  · rename_i hi
    refine List.getD_eq_default _ _ (le_trans (le_of_eq ?_) hi)
    rcases plane_cases hp with rfl | rfl | rfl
    · exact (List.length_map _).trans hflat
    · exact (List.length_map _).trans hflat
    · simp [Link.plane, Link.planeWords, he]
  · rename_i hi
    rcases plane_cases hp with rfl | rfl | rfl
    · rw [if_pos rfl, rowWord, ← flatten_getD l.ncol_pos l.m hrows]
      exact getD_map _ _ _ 0 0 rfl
    · rw [if_neg (by decide), if_pos rfl, rowWord, ← flatten_getD l.ncol_pos l.m hrows]
      exact getD_map _ _ _ 0 0 rfl
    · rw [if_neg (by decide), if_neg (by decide)]
      have hlen : (l.e.map BitVec.toNat).length = 64 := (List.length_map _).trans he
      show (l.e.map BitVec.toNat ++ (List.range 64).map (fun r => (l.ovr.getLsbD r).toNat)).getD i 0 = _
      split
      · rename_i hlt
        rw [List.getD_append _ _ _ _ (hlen.symm ▸ hlt)]
        exact getD_map _ _ _ 0 0 rfl
      · rename_i hge
        have hlt : i - 64 < 64 := by
          have hwords : ¬ 128 ≤ i := hi
          omega
        rw [List.getD_append_right _ _ _ _ (hlen.symm ▸ Nat.not_lt.1 hge), hlen, List.getD_eq_getElem _ _ (by simpa using hlt)]
        simp

theorem Link.planeWord_lt (hp : pl ≠ 3) (i : Nat) : l.planeWord pl i < 2 ^ (8 * (l.plane pl).2) := by
  unfold Link.planeWord
  dsimp only
  split
  · positivity
  · rcases plane_cases hp with rfl | rfl | rfl
    · exact BitVec.isLt _
    · exact BitVec.isLt _
    · rw [if_neg (by decide), if_neg (by decide)]
      split
      · exact BitVec.isLt _
      · exact lt_of_le_of_lt (Bool.toNat_le _) (by decide : 1 < 2 ^ (8 * 2))

theorem Link.plane_bytes (hp : pl ≠ 3) : (l.plane pl).2 = if pl = 0 then 4 else 2 := by rcases plane_cases hp with rfl | rfl | rfl <;> rfl

/-- The bits of a word of a plane (R279). -/
def planeBits (pl : BitVec 2) : Nat := if pl = 0 then 32 else 16

theorem Link.plane_bits (hp : pl ≠ 3) : 8 * (l.plane pl).2 = planeBits pl ∧ 2048 / (l.plane pl).2 = 16384 / planeBits pl := by
  rw [l.plane_bytes hp, planeBits]
  split <;> exact ⟨rfl, rfl⟩

/-- The parts of a plane, each a register (R279). -/
def Link.planeParts (l : Link) (pl : BitVec 2) : Nat := if pl = 0 ∨ pl = 1 then l.planeWords pl / (16384 / planeBits pl) else 1

theorem Link.planeParts_eq (hp : pl ≠ 3) : (if pl = 2#2 then 1 else 64 * l.ncol / (2048 / (l.plane pl).2)) = l.planeParts pl := by
  rw [(l.plane_bits hp).2, Link.planeParts, Link.planeWords]
  rcases plane_cases hp with rfl | rfl | rfl <;> simp

/-- The register that CHRD gives for a part of a plane. -/
def Link.planeReg (l : Link) (pl : BitVec 2) (part : BitVec 5) : VReg :=
  { data := putElems 0 (8 * (l.plane pl).2) (fun e => some ((((l.plane pl).1.drop (2048 / (l.plane pl).2 * part.toNat)).take (2048 / (l.plane pl).2)).toArray.getD e 0)),
    tag := 11, full := true, side := 0 }

theorem Link.planeReg_elem (hp : pl ≠ 3) (hm : l.m.length = 64) (hrows : ∀ row ∈ l.m, row.length = l.ncol) (he : l.e.length = 64) (part : BitVec 5) {k : Nat}
    (hk : k < 16384 / planeBits pl) : elemAt (l.planeReg pl part).data (planeBits pl) k = l.planeWord pl (16384 / planeBits pl * part.toNat + k) := by
  obtain ⟨hbits, hper⟩ := l.plane_bits hp
  have hsmall := l.planeWord_lt hp (16384 / planeBits pl * part.toNat + k)
  have hword : (((l.plane pl).1.drop (16384 / planeBits pl * part.toNat)).take (16384 / planeBits pl)).toArray.getD k 0 =
      (l.plane pl).1.getD (16384 / planeBits pl * part.toNat + k) 0 := by
    rw [Array.getD_eq_getD_getElem?, List.getElem?_toArray, List.getElem?_take_of_lt hk, List.getElem?_drop, List.getD_eq_getElem?_getD]
  unfold Link.planeReg
  rw [hbits] at hsmall
  dsimp only
  rw [hbits, hper, elemAt_putElems _ _ hk, hword, l.plane_getD hp hm hrows he, Nat.mod_eq_of_lt hsmall]

end

/-! ## CHRD to a register (R279) -/

/-- A group in which a vector register is empty. -/
def Group.emptyV (g : Group) (d : BitVec 6) : Group := { g with v := g.v.set d.toNat { g.v.get d.toFin with full := false } d.isLt }

theorem Group.emptyV_full (g : Group) (d : BitVec 6) : ((g.emptyV d).v.get d.toFin).full = false := by simp [Group.emptyV, Vector.get_eq_getElem]

theorem Selects.startChrd_eq {v : QEnv} {d : BitVec 6} {plane : BitVec 2} {part : BitVec 5} {c : Chain} {l : Link} {g : Group} (h : Selects v (v.x 0) c l)
    (hg : v.s.group v.p = some g) (hp : plane ≠ 3) : startChrd v d 0 plane part =
      if l.planeParts plane ≤ part.toNat then .trap (.plain Cause.opRange)
      else .start (v.s.setGroup v.p (g.emptyV d)) { Work.none with vw := [(d, l.planeReg plane part)] } := by
  refine ((h.withLink_eq (first := true)).trans (if_pos (rfl : (0 : BitVec 1) = 0#1))).trans ?_
  rw [← l.planeParts_eq hp, hg]
  rfl

end Sys2Proof.Machine
end

section
/-! PROOFS. CHSPLICE and CHBLD at a ready head: a spare takes a frozen link's place, a chain is built (R135 to R139, R281, R425). -/

namespace Sys2Proof.Machine

open Sys2Proof

/-! ## Links as built (R134, R139) -/

theorem rowWord_replicate_zero (n k i j : Nat) : rowWord (List.replicate n (List.replicate k 0)) i j = 0 := by
  simp only [rowWord, List.getD_eq_getElem?_getD, List.getElem?_replicate]
  split
  · rw [Option.getD_some, List.getElem?_replicate]
    split <;> rfl
  · rfl

/-- A link as built holds zero words under the chain's exponent. -/
theorem Link.rebuilt_zero (l : Link) (e0 : BitVec 16) : (∀ y ∈ (l.rebuilt e0).e, y = e0) ∧ ∀ i j, rowWord (l.rebuilt e0).m i j = 0 :=
  ⟨fun _ hy => List.eq_of_mem_replicate hy, rowWord_replicate_zero 64 l.ncol⟩

/-! ## CHSPLICE (R281, R425) -/

/-- A spare's place y fits a link: its die is live, its slot a spare one, it is fused as the link is and then at array 0, and no array of it is retired. -/
def SpareFits (s : State) (l : Link) (y : BitVec 64) : Prop :=
  (∃ h : fieldOf y 51 48 < 4, dieLive s ⟨fieldOf y 51 48, h⟩ = true) ∧ 14 ≤ (readLink y 0).slot ∧ (readLink y 0).fused = l.fused ∧
    ¬ ((readLink y 0).fused = true ∧ (readLink y 0).array = 1) ∧ ∀ z ∈ (readLink y 0).entries, entryRetired s z = false

theorem not_spareFits_iff (s : State) (l : Link) (y : BitVec 64) :
    ((if h : fieldOf y 51 48 < 4 then dieLive s ⟨fieldOf y 51 48, h⟩ else false) = false ∨ (readLink y 0).slot < 14 ∨ (readLink y 0).fused ≠ l.fused ∨
      ((readLink y 0).fused = true ∧ (readLink y 0).array = 1) ∨ (readLink y 0).entries.any (entryRetired s) = true) ↔ ¬ SpareFits s l y := by
  have hlive : (if h : fieldOf y 51 48 < 4 then dieLive s ⟨fieldOf y 51 48, h⟩ else false) = false ↔
      ¬ ∃ h : fieldOf y 51 48 < 4, dieLive s ⟨fieldOf y 51 48, h⟩ = true := by
    split
    · rename_i h
      simp [h]
    · rename_i h
      simp [h]
  have hretired : (readLink y 0).entries.any (entryRetired s) = true ↔ ¬ ∀ z ∈ (readLink y 0).entries, entryRetired s z = false := by
    rw [← Bool.not_eq_false, List.any_eq_false]
    simp only [Bool.not_eq_true]
  have hslot : (readLink y 0).slot < 14 ↔ ¬ 14 ≤ (readLink y 0).slot := Nat.not_le.symm
  unfold SpareFits
  rw [hlive, hslot, hretired]
  tauto

/-- The spare in the place y that takes a link's place. -/
def Link.spare (l : Link) (y : BitVec 64) (e0 : BitVec 16) : Link :=
  { ({ l with die := (readLink y 0).die, core := (readLink y 0).core, array := (readLink y 0).array, slot := (readLink y 0).slot } : Link).rebuilt e0 with lasting := 0 }

/-- What a link of a chain becomes when a spare x takes the place of link i: a DONE child of link i sends again, its parent asks again (R425, R426). -/
def Chain.afterSplice (c : Chain) (s : State) (i parent : Nat) (x : Link) (k : Link × Nat) : Link :=
  if 0 < k.2 ∧ k.1.parent = i ∧ k.1.state = .done then k.1.send s x.die
  else if 0 < i ∧ k.2 = parent then k.1.askAgain s i x (c.isTree k.1 && c.isTree x)
  else k.1

/-- A chain in which a spare x has taken the place of link i. -/
def Chain.spliced (c : Chain) (s : State) (i parent : Nat) (x : Link) : Chain := { c with links := (c.setLink i x).links.zipIdx.map (c.afterSplice s i parent x) }

theorem Chain.spliced_getElem? (c : Chain) (s : State) (i parent : Nat) (x : Link) (j : Nat) :
    (c.spliced s i parent x).links[j]? = (c.setLink i x).links[j]?.map (fun l => c.afterSplice s i parent x (l, j)) := getElem?_zipIdx_map _ _ _

/-- The spare itself is as built. -/
theorem Chain.spliced_spare {c : Chain} {i : Nat} {l : Link} (hl : c.links[i]? = some l) (s : State) {parent : Nat} (hp : i ≠ parent) {x : Link} (hx : x.state = .built) :
    (c.spliced s i parent x).links[i]? = some x := by
  rw [Chain.spliced_getElem?, Chain.setLink_self hl, Option.map_some, Chain.afterSplice, if_neg (fun k => by rw [hx] at k; cases k.2.2), if_neg (fun k => hp k.2)]

/-- A DONE child of the link sends its contribution to the spare. -/
theorem Chain.spliced_child {c : Chain} {i j : Nat} {k : Link} (hk : c.links[j]? = some k) (hj : j ≠ i) (h0 : 0 < j) (hp : k.parent = i) (hd : k.state = .done)
    (s : State) (parent : Nat) (x : Link) : (c.spliced s i parent x).links[j]? = some (k.send s x.die) := by
  rw [Chain.spliced_getElem?, Chain.setLink_ne hj, hk, Option.map_some, Chain.afterSplice, if_pos ⟨h0, hp, hd⟩]

section
variable {v : QEnv} {c : Chain} {l : Link}

theorem Selects.startChsplice_eq (h : Selects v (v.x 0) c l) : startChsplice v =
    if l.state ≠ .frozen then .trap (.plain Cause.chState)
    else if (if h : fieldOf (v.x 1) 51 48 < 4 then dieLive v.s ⟨fieldOf (v.x 1) 51 48, h⟩ else false) = false ∨ (readLink (v.x 1) 0).slot < 14 ∨
        (readLink (v.x 1) 0).fused ≠ l.fused ∨ ((readLink (v.x 1) 0).fused = true ∧ (readLink (v.x 1) 0).array = 1) ∨
        (readLink (v.x 1) 0).entries.any (entryRetired v.s) = true then .trap (.plain Cause.chPlace)
    else if (readLink (v.x 1) 0).entries.any (fun e => !entryFree v.s e) then .trap (.plain Cause.chBusy)
    else .start (setChain (retireEntries v.s l) (c.spliced (retireEntries v.s l) (fieldOf (v.x 0) 17 12) l.parent (l.spare (v.x 1) c.e0)))
      { Work.none with splice := some (c.num, fieldOf (v.x 0) 17 12) } := by
  unfold startChsplice
  dsimp only
  rw [h.chain]
  exact h.withLink_eq

section
variable (h : Selects v (v.x 0) c l)
include h

theorem Selects.startChsplice_of_sound (hs : l.state ≠ .frozen) : startChsplice v = .trap (.plain Cause.chState) := h.startChsplice_eq.trans (if_pos hs)

section
variable (hs : l.state = .frozen)
include hs

theorem Selects.startChsplice_of_misfit (hf : ¬ SpareFits v.s l (v.x 1)) : startChsplice v = .trap (.plain Cause.chPlace) :=
  h.startChsplice_eq.trans ((if_neg (not_not.2 hs)).trans (if_pos ((not_spareFits_iff _ _ _).2 hf)))

section
variable (hf : SpareFits v.s l (v.x 1))
include hf

theorem Selects.startChsplice_of_fit : startChsplice v =
    if (readLink (v.x 1) 0).entries.any (fun e => !entryFree v.s e) then .trap (.plain Cause.chBusy)
    else .start (setChain (retireEntries v.s l) (c.spliced (retireEntries v.s l) (fieldOf (v.x 0) 17 12) l.parent (l.spare (v.x 1) c.e0)))
      { Work.none with splice := some (c.num, fieldOf (v.x 0) 17 12) } :=
  h.startChsplice_eq.trans ((if_neg (not_not.2 hs)).trans (if_neg (fun k => (not_spareFits_iff _ _ _).1 k hf)))

theorem Selects.startChsplice_of_busy (hb : ∃ z ∈ (readLink (v.x 1) 0).entries, entryFree v.s z = false) : startChsplice v = .trap (.plain Cause.chBusy) := by
  refine (h.startChsplice_of_fit hs hf).trans (if_pos (List.any_eq_true.2 ?_))
  obtain ⟨z, hz, hfree⟩ := hb
  exact ⟨z, hz, by rw [hfree]; rfl⟩

theorem Selects.startChsplice_of_free (hb : ∀ z ∈ (readLink (v.x 1) 0).entries, entryFree v.s z = true) : startChsplice v =
    .start (setChain (retireEntries v.s l) (c.spliced (retireEntries v.s l) (fieldOf (v.x 0) 17 12) l.parent (l.spare (v.x 1) c.e0)))
      { Work.none with splice := some (c.num, fieldOf (v.x 0) 17 12) } := by
  refine (h.startChsplice_of_fit hs hf).trans (if_neg (fun k => ?_))
  obtain ⟨z, hz, hbusy⟩ := List.any_eq_true.1 k
  rw [hb z hz] at hbusy
  exact absurd hbusy Bool.false_ne_true

end

end

end

end

/-- The chain is found with the spare in it: the entries that are retired lie in the cores. -/
theorem findChain_spliced {s : State} {n : BitVec 12} {c : Chain} (h : findChain s n = some c) (l : Link) {c' : Chain} (hc : c'.num = c.num) :
    findChain (setChain (retireEntries s l) c') n = some c' := by
  obtain ⟨x, hx⟩ := retireEntries_cores s l
  rw [hx]
  exact findChain_setChain (s := { s with cores := x }) h hc

/-- The entries that are retired do not bear on the incarnations that a message carries. -/
theorem send_retireEntries (s : State) (l k : Link) (d : DieId) : k.send (retireEntries s l) d = k.send s d := by
  obtain ⟨x, hx⟩ := retireEntries_cores s l
  rw [hx]
  rfl

/-! ## CHBLD (R135 to R139) -/

/-- A link entry that passes its checks declares a contribution (R138). -/
theorem decl_pos_of_entryOk {i : Nat} {w0 w1 w2 w3 : BitVec 64} (h : entryOk i w0 w1 w2 w3 = true) : 0 < (readLink w0 w1).decl.toNat := by
  unfold entryOk at h
  dsimp only at h
  obtain ⟨-, hdecl⟩ := Bool.and_eq_true_iff.1 h
  have hne : (readLink w0 w1).decl ≠ 0#20 := by simpa using hdecl
  exact Nat.pos_of_ne_zero (fun k => hne (BitVec.eq_of_toNat_eq k))

/-- What CHBLD builds: a chain of the launch under a number that was free, every link BUILT and zero. -/
structure ChainBuilt (s : State) (owner : BitVec 64) (hd : List (BitVec 64)) (c : Chain) : Prop where
  fresh : findChain s c.num = none
  owner : c.owner = owner
  num : c.num = (hd.getD 1 0).extractLsb' 0 12
  length : c.links.length = fieldOf (hd.getD 1 0) 21 16 + 1
  links : ∀ l ∈ c.links, l.state = .built ∧ l.recv = 0 ∧ l.mask = 0 ∧ l.ovr = 0 ∧ (∀ y ∈ l.e, y = c.e0) ∧ (∀ i j, rowWord l.m i j = 0) ∧ 0 < l.decl.toNat

theorem buildChain_ok {s : State} {owner : BitVec 64} {hd ls : List (BitVec 64)} {c : Chain} (h : buildChain s owner hd ls = .ok c) : ChainBuilt s owner hd c := by
  unfold buildChain at h
  dsimp only at h
  split at h
  · cases h
  rename_i hentries
  split at h
  · cases h
  rename_i hlive
  split at h
  · cases h
  split at h
  · cases h
  split at h
  · cases h
  split at h
  · cases h
  cases h
  refine ⟨Option.not_isSome_iff_eq_none.1 hlive, rfl, rfl, by simp, fun l hl => ?_⟩
  obtain ⟨raw, hraw, rfl⟩ := List.mem_map.1 hl
  obtain ⟨i, hi, rfl⟩ := List.mem_map.1 hraw
  obtain ⟨hexp, hzero⟩ := Link.rebuilt_zero (readLink (ls.getD (4 * i + 0) 0) (ls.getD (4 * i + 1) 0)) ((hd.getD 2 0).extractLsb' 0 16)
  have hok : entryOk i (ls.getD (4 * i + 0) 0) (ls.getD (4 * i + 1) 0) (ls.getD (4 * i + 2) 0) (ls.getD (4 * i + 3) 0) = true := by
    rw [Bool.or_eq_true, not_or, Bool.not_eq_true', Bool.not_eq_false] at hentries
    exact List.all_eq_true.1 hentries.1 i hi
  exact ⟨rfl, rfl, rfl, rfl, hexp, hzero, decl_pos_of_entryOk hok⟩

/-- CHBLD whose header is sound reads the link entries and builds the chain, or raises its cause. -/
def buildFromEntries (v : QEnv) (s : State) (hd : List (BitVec 64)) : QAct :=
  match readStruct v s (v.x 0 + 64) ((fieldOf (hd.getD 1 0) 21 16 + 2) / 2) with
  | .no a => a
  | .ok s ls =>
    match buildChain s v.g.lr.id hd ls with
    | .error c => .trapIn s (.plain c)
    | .ok c => .start { s with chains := s.chains ++ [c], fresh := s.fresh + 1 } Work.none

section
variable {v : QEnv}

theorem startChbld_of_away (h : directoryAway v.s (dieOfPlace v.p) = true) : startChbld v = .wait v.s := by
  unfold startChbld
  exact if_pos h

section
variable (h : directoryAway v.s (dieOfPlace v.p) = false) {s2 s3 : State} {hd ls : List (BitVec 64)} (hr : readStruct v v.s (v.x 0) 1 = .ok s2 hd)
include h hr

/-- CHBLD with its header read. -/
theorem startChbld_of_header : startChbld v = if !headOk hd then .trapIn s2 (.plain Cause.chDesc) else buildFromEntries v s2 hd := by
  have haway : ¬ directoryAway v.s (dieOfPlace v.p) = true := by rw [h]; exact Bool.false_ne_true
  unfold startChbld
  rw [if_neg haway, hr]
  rfl

theorem startChbld_of_bad_header (hk : headOk hd = false) : startChbld v = .trapIn s2 (.plain Cause.chDesc) := by
  rw [startChbld_of_header h hr, hk]
  rfl

theorem startChbld_of_sound_header (hk : headOk hd = true) : startChbld v = buildFromEntries v s2 hd := by
  rw [startChbld_of_header h hr, hk]
  rfl

section
variable (hk : headOk hd = true) (hl : readStruct v s2 (v.x 0 + 64) ((fieldOf (hd.getD 1 0) 21 16 + 2) / 2) = .ok s3 ls)
include hk hl

theorem startChbld_of_error {y : BitVec 10} (hb : buildChain s3 v.g.lr.id hd ls = .error y) : startChbld v = .trapIn s3 (.plain y) := by
  rw [startChbld_of_sound_header h hr hk, buildFromEntries, hl]
  dsimp only
  rw [hb]

theorem startChbld_of_built {c : Chain} (hb : buildChain s3 v.g.lr.id hd ls = .ok c) :
    startChbld v = .start { s3 with chains := s3.chains ++ [c], fresh := s3.fresh + 1 } Work.none := by
  rw [startChbld_of_sound_header h hr hk, buildFromEntries, hl]
  dsimp only
  rw [hb]

end

end

end

end Sys2Proof.Machine
end

section
/-! PROOFS. CHCLOSE to tile registers at a ready head, and what the chain commands leave (R153, R154, R282 to R284). -/

namespace Sys2Proof.Machine

open Sys2Proof

/-! ## The rows of a close (R126, R284) -/

theorem convert1_eq (t : BitVec 4) (r : Rnd) (x : Val) : convert1 t r x =
    if t = 1 then (roundInt 32 r x).toNat else if t = 2 then (roundInt 8 r x).toNat else if t = 12 then (roundInt 16 r x).toNat else (tagFmt t).round r x := by
  unfold convert1
  split
  · rename_i h
    rw [if_pos (BitVec.eq_of_toNat_eq h)]
  · rename_i h
    have ht : t = 2 := BitVec.eq_of_toNat_eq h
    subst ht
    rfl
  · rename_i h
    have ht : t = 12 := BitVec.eq_of_toNat_eq h
    subst ht
    rfl
  · rename_i h1 h2 h12
    rw [if_neg (fun k => h1 (congrArg BitVec.toNat k)), if_neg (fun k => h2 (congrArg BitVec.toNat k)), if_neg (fun k => h12 (congrArg BitVec.toNat k))]
    rfl

/-- The rows of a close whose scale is one number. -/
def closeRows (rs : RState) (c : Chain) (l : Link) (out : BitVec 4) (qt : BitVec 2) (scale : Val) : List CloseRow :=
  (List.range 64).map (closeRow rs c l out qt (fun _ _ => scale))

/-- Without blocks an element of a row is the link's value times the scale, rounded once to the output format (R284). -/
theorem closeRows_elements {rs : RState} {c : Chain} {l : Link} {out : BitVec 4} {qt : BitVec 2} {scale : Val} (hb : tagBlock out = false) {i : Nat} {row : CloseRow}
    (hrow : (closeRows rs c l out qt scale)[i]? = some row) : row.scs = [] ∧ row.els.length = l.ncol ∧
      ∀ j < l.ncol, row.els.getD j 0 = convert1 out (closeRnd rs c.num i j) (Val.mul (closeValue c l i j) scale) := by
  have hi : i < 64 := by
    obtain ⟨hlt, -⟩ := List.getElem?_eq_some_iff.1 hrow
    simpa [closeRows] using hlt
  rw [closeRows, List.getElem?_map, List.getElem?_range hi] at hrow
  cases hrow
  unfold closeRow
  dsimp only
  rw [hb]
  refine ⟨rfl, by simp, fun j hj => ?_⟩
  show ((List.range l.ncol).map _).getD j 0 = _
  rw [List.getD_eq_getElem _ _ (by simpa using hj), List.getElem_map, List.getElem_range]

/-- The tiles of a close carry the output format and are full. -/
theorem closeTiles_full {d out : BitVec 4} {ncol : Nat} {rows : List CloseRow} {x : BitVec 2 × TReg} (hx : x ∈ closeTiles d out ncol rows) :
    x.2.tag = out ∧ x.2.full = true := by
  unfold closeTiles at hx
  obtain ⟨p, -, rfl⟩ := List.mem_map.1 hx
  exact ⟨rfl, rfl⟩

theorem chains_emptyTile (s : State) (p : Place) (ts : List (BitVec 2)) : (emptyTile s p ts).chains = s.chains := by
  unfold emptyTile
  split <;> rfl

/-! ## CHCLOSE to tile registers at the head (R283, R284) -/

section
variable {v : QEnv} {d out : BitVec 4} {keep : BitVec 1} {chain : BitVec 12} {smode qt : BitVec 2} {c : Chain} {l : Link}

theorem startChclose_of_none (h : findChain v.s chain = none) : startChclose v d keep 0 chain out smode qt = .wait v.s := by
  rw [startChclose, h]

theorem startChclose_of_other_owner (h : findChain v.s chain = some c) (ho : c.owner ≠ v.g.lr.id) :
    startChclose v d keep 0 chain out smode qt = .trap (.plain Cause.chOwner) := by
  rw [startChclose, h]
  exact if_pos ho

/-- CHCLOSE names a chain of its launch, with link 0, and a tag that is not reserved. -/
structure Closes (v : QEnv) (chain : BitVec 12) (out : BitVec 4) (c : Chain) (l : Link) : Prop where
  chain : findChain v.s chain = some c
  own : c.owner = v.g.lr.id
  tag : out.toNat < 13
  root : c.links.head? = some l

/-- Link 0 of a chain that can be closed is DONE, and has its node where it is a tree link. -/
def Chain.closable (c : Chain) (l : Link) : Prop := l.state = .done ∧ (c.isTree l = true → l.noded = true)

theorem closable_iff : c.closable l ↔ ¬ (l.state ≠ .done ∨ (c.isTree l && !l.noded) = true) := by
  unfold Chain.closable
  rw [not_or, not_not, Bool.and_eq_true, Bool.not_eq_true', not_and, Bool.not_eq_false]

theorem any_frozen_iff (c : Chain) : c.links.any (fun x => x.state == .frozen) = true ↔ ∃ x ∈ c.links, x.state = .frozen := by simp

/-- A close to tile registers whose checks have passed resolves the addresses of its scales, and runs. -/
def closeScaled (v : QEnv) (d out : BitVec 4) (keep : BitVec 1) (smode qt : BitVec 2) (c : Chain) (l : Link) : QAct :=
  match resolveAll v v.s (scaleAccs v smode l.ncol) 0 with
  | .no a => a
  | .ok s sl =>
    if regionsBlocked v s (spadRegions (sl.map (fun x => (x.1, 128)))) then .wait s
    else runClose v s c l d out (keep == 1#1) smode qt sl none

section
variable (h : Closes v chain out c l)
include h

theorem Closes.startChclose_eq : startChclose v d keep 0 chain out smode qt =
    if l.coreId ≠ coreOf v.p then .trap (.plain Cause.chNotroot)
    else if c.links.any (fun x => x.state == .frozen) then .trap (.plain Cause.chFrozen)
    else if l.state ≠ .done ∨ (c.isTree l && !l.noded) = true then .wait v.s
    else if !c.satok && l.ovr != 0 then .trap (.plain Cause.chOverflow)
    else if 4 < d.toNat + Nat.max 1 (l.ncol * tagWidth out / 1024) then .trap (.plain Cause.opRange)
    else if !unitsFree v.s v.p v.e then .wait v.s
    else closeScaled v d out keep smode qt c l := by
  have htag : ¬ tagRsvd out = true := fun k => absurd (of_decide_eq_true k) (by have := h.tag; omega)
  have hown : ¬ c.owner ≠ v.g.lr.id := not_not.2 h.own
  have htiles : ((0 : BitVec 1) = 0#1 ∧ 4 < d.toNat + Nat.max 1 (l.ncol * tagWidth out / 1024)) = (4 < d.toNat + Nat.max 1 (l.ncol * tagWidth out / 1024)) :=
    propext (and_iff_right rfl)
  have hbox : ¬ ((0 : BitVec 1) = 1#1 ∧ l.ncol < (v.shape 0).boxAt 0) := fun k => absurd k.1 (by decide)
  rw [startChclose, h.chain]
  dsimp only
  rw [if_neg hown, h.root]
  dsimp only
  rw [if_neg htag, if_neg hbox]
  simp only [htiles]
  rfl

theorem Closes.startChclose_of_remote (hr : l.coreId ≠ coreOf v.p) : startChclose v d keep 0 chain out smode qt = .trap (.plain Cause.chNotroot) :=
  h.startChclose_eq.trans (if_pos hr)

section
variable (hr : l.coreId = coreOf v.p)
include hr

theorem Closes.startChclose_of_frozen (hf : ∃ x ∈ c.links, x.state = .frozen) : startChclose v d keep 0 chain out smode qt = .trap (.plain Cause.chFrozen) :=
  h.startChclose_eq.trans ((if_neg (not_not.2 hr)).trans (if_pos ((any_frozen_iff c).2 hf)))

section
variable (hf : ¬ ∃ x ∈ c.links, x.state = .frozen)
include hf

theorem Closes.startChclose_of_unready (hc : ¬ c.closable l) : startChclose v d keep 0 chain out smode qt = .wait v.s :=
  h.startChclose_eq.trans ((if_neg (not_not.2 hr)).trans ((if_neg (mt (any_frozen_iff c).1 hf)).trans (if_pos (not_not.1 (mt closable_iff.2 hc)))))

section
variable (hc : c.closable l)
include hc

theorem Closes.startChclose_of_overflow (hs : c.satok = false) (ho : l.ovr ≠ 0) : startChclose v d keep 0 chain out smode qt = .trap (.plain Cause.chOverflow) := by
  refine h.startChclose_eq.trans ((if_neg (not_not.2 hr)).trans ((if_neg (mt (any_frozen_iff c).1 hf)).trans ((if_neg (closable_iff.1 hc)).trans (if_pos ?_))))
  rw [hs]
  simpa using ho

section
variable (hs : c.satok = true ∨ l.ovr = 0)
include hs

/-- A close that may round its words: its tiles must be there, and its units free. -/
theorem Closes.startChclose_of_within : startChclose v d keep 0 chain out smode qt =
    if 4 < d.toNat + Nat.max 1 (l.ncol * tagWidth out / 1024) then .trap (.plain Cause.opRange)
    else if !unitsFree v.s v.p v.e then .wait v.s
    else closeScaled v d out keep smode qt c l := by
  refine h.startChclose_eq.trans ((if_neg (not_not.2 hr)).trans ((if_neg (mt (any_frozen_iff c).1 hf)).trans ((if_neg (closable_iff.1 hc)).trans (if_neg ?_))))
  rcases hs with k | k <;> rw [k] <;> simp

theorem Closes.startChclose_of_range (hd : 4 < d.toNat + Nat.max 1 (l.ncol * tagWidth out / 1024)) :
    startChclose v d keep 0 chain out smode qt = .trap (.plain Cause.opRange) := (h.startChclose_of_within hr hf hc hs).trans (if_pos hd)

/-- With a scale from its operand a close reads no memory: it empties its tiles and begins (R266, R284). -/
theorem Closes.startChclose_of_scalar (hd : d.toNat + Nat.max 1 (l.ncol * tagWidth out / 1024) ≤ 4) (hu : unitsFree v.s v.p v.e = true) :
    startChclose v d keep 0 chain out 0 qt = closeToTiles v v.s { Work.none with close := some (c.num, c.born, keep == 1#1) } d out l.ncol
      (closeRows v.e.rs c l out qt (FFmt.fp32.decode ((v.x 0).extractLsb' 0 32).toNat)) := by
  have hbusy : ¬ (!unitsFree v.s v.p v.e) = true := by rw [hu]; exact Bool.false_ne_true
  exact (h.startChclose_of_within hr hf hc hs).trans ((if_neg (Nat.not_lt.2 hd)).trans (if_neg hbusy))

end

end

end

end

end

end

end Sys2Proof.Machine
end

section
/-! PROOFS. What the chain commands come to at a ready head, command by command (R138, R139, R154, R155, R276 to R284, R425). -/

namespace Sys2Proof.Machine

open Sys2Proof

/-- A cause raised at a ready head of the matrix queue. -/
def HeadRaises (s : State) (p : Place) (g : Group) (e : QEntry) (y : BitVec 10) : Prop :=
  exec (.engineHeadStart p .matrix) s = .next (raiseHead (headEnv s p .matrix g e).s p .matrix (headEnv s p .matrix g e).e (.plain y))

/-- The command at a ready head of the matrix queue begins, with its work. -/
def HeadGives (s : State) (p : Place) (g : Group) (e : QEntry) (u : State) (w : Work) : Prop :=
  exec (.engineHeadStart p .matrix) s = .next (began u p .matrix (headEnv s p .matrix g e).e w)

section
variable {s : State} {p : Place} {q : QueueId} {g : Group} {e : QEntry}

theorem headEnv_x0 : (headEnv s p q g e).x 0 = e.xops.get 0 := QEnv.x_eq_get _ 0
theorem headEnv_x1 : (headEnv s p q g e).x 1 = e.xops.get 1 := QEnv.x_eq_get _ 1

theorem headRaises_of_trap (h : HeadReady s p .matrix g e) {y : BitVec 10} (hs : startCommand (headEnv s p .matrix g e) = .trap (.plain y)) : HeadRaises s p g e y :=
  engineHeadStart_trap h hs

theorem headGives_of_start (h : HeadReady s p .matrix g e) {u : State} {w : Work} (hs : startCommand (headEnv s p .matrix g e) = .start u w) : HeadGives s p g e u w :=
  engineHeadStart_start h hs

end

/-! ## Commands that name no link of a chain of their launch (R276, R278, R385) -/

section
variable {s : State} {p : Place} {g : Group} {e : QEntry} {r ev : BitVec 4} {d a b : BitVec 6} {xp : BitVec 16} {c : Chain} (h : HeadReady s p .matrix g e)
include h

theorem chstat_of_no_chain (hc : findChain s ((e.xops.get 0).extractLsb' 0 12) = none) (hi : e.instr = .chstat r d a) :
    HeadGives s p g e (headEnv s p .matrix g e).s { Work.none with xw := some (d, 0) } := by
  rw [← headEnv_x0 (s := s) (p := p) (q := .matrix) (g := g)] at hc
  exact headGives_of_start h ((startCommand_chstat hi).trans (startChstat_of_none hc))

theorem chfree_of_no_chain (hc : findChain s ((e.xops.get 0).extractLsb' 0 12) = none) (hi : e.instr = .chfree r a) :
    HeadGives s p g e (headEnv s p .matrix g e).s Work.none := by
  rw [← headEnv_x0 (s := s) (p := p) (q := .matrix) (g := g)] at hc
  exact headGives_of_start h ((startCommand_chfree hi).trans (startChfree_of_none hc))

section
variable (hc : findChain s ((e.xops.get 0).extractLsb' 0 12) = some c)
include hc

/-- What the selector of CHSTAT or LSET answers without a link is the answer of the command. -/
theorem chstat_lset_of_withLink (hi : e.instr = .chstat r d a ∨ e.instr = .lset r ev a b xp) {y : BitVec 10}
    (hw : ∀ k, withLink (headEnv s p .matrix g e) ((headEnv s p .matrix g e).x 0) false k = .trap (.plain y)) : HeadRaises s p g e y := by
  rw [← headEnv_x0 (s := s) (p := p) (q := .matrix) (g := g)] at hc
  rcases hi with hi | hi
  · exact headRaises_of_trap h ((startCommand_chstat hi).trans ((startChstat_of_some (c := c) hc).trans (hw _)))
  · exact headRaises_of_trap h ((startCommand_lset hi).trans (hw _))

theorem chstat_lset_of_other_owner (ho : c.owner ≠ g.lr.id) (hlt : fieldOf (e.xops.get 0) 17 12 < c.links.length)
    (hi : e.instr = .chstat r d a ∨ e.instr = .lset r ev a b xp) : HeadRaises s p g e Cause.chOwner := by
  refine chstat_lset_of_withLink h hc hi (fun k => ?_)
  rw [headEnv_x0]
  exact withLink_of_other_owner hc hlt ho

theorem chstat_lset_of_range (hle : c.links.length ≤ fieldOf (e.xops.get 0) 17 12) (hi : e.instr = .chstat r d a ∨ e.instr = .lset r ev a b xp) :
    HeadRaises s p g e Cause.opRange := by
  refine chstat_lset_of_withLink h hc hi (fun k => ?_)
  rw [headEnv_x0]
  exact withLink_of_range hc hle

/-- CHFREE frees a chain of its launch alone (R155). -/
theorem chfree_at_head (hi : e.instr = .chfree r a) : (c.owner ≠ g.lr.id → HeadRaises s p g e Cause.chOwner) ∧
    (c.owner = g.lr.id → ∃ u, HeadGives s p g e u Work.none ∧ findChain u ((e.xops.get 0).extractLsb' 0 12) = none ∧
      (∀ n, n ≠ (e.xops.get 0).extractLsb' 0 12 → findChain u n = findChain s n) ∧ u.mem = (headEnv s p .matrix g e).s.mem) := by
  rw [← headEnv_x0 (s := s) (p := p) (q := .matrix) (g := g)] at hc ⊢
  have hrun := (startCommand_chfree (v := headEnv s p .matrix g e) hi).trans (startChfree_of_some (c := c) hc)
  exact ⟨fun ho => headRaises_of_trap h (hrun.trans (if_pos ho)),
    fun ho => ⟨_, headGives_of_start h (hrun.trans (if_neg (not_not.2 ho))), freeChain_spec (s := (headEnv s p .matrix g e).s) hc⟩⟩

end

end

/-! ## Commands that name a link of a chain of their launch -/

/-- The command at a ready head names link l of chain c of its launch. -/
structure HeadNames (s : State) (p : Place) (g : Group) (e : QEntry) (c : Chain) (l : Link) : Prop where
  ready : HeadReady s p .matrix g e
  chain : findChain s ((e.xops.get 0).extractLsb' 0 12) = some c
  own : c.owner = g.lr.id
  link : c.links[fieldOf (e.xops.get 0) 17 12]? = some l

section
variable {s : State} {p : Place} {g : Group} {e : QEntry} {r ev : BitVec 4} {d a b k6 : BitVec 6} {xp : BitVec 16} {plane : BitVec 2} {part : BitVec 5} {c : Chain} {l : Link}
  (h : HeadNames s p g e c l)
include h

theorem HeadNames.selects : Selects (headEnv s p .matrix g e) ((headEnv s p .matrix g e).x 0) c l := by
  rw [headEnv_x0]
  exact ⟨h.chain, h.link, h.own⟩

/-- CHSTAT gives the status word (R278). -/
theorem HeadNames.chstat (hi : e.instr = .chstat r d a) : HeadGives s p g e (headEnv s p .matrix g e).s { Work.none with xw := some (d, l.status) } :=
  headGives_of_start h.ready ((startCommand_chstat hi).trans h.selects.startChstat_eq)

theorem HeadNames.replaced (x : Link) : LinkReplaced s (setChain (headEnv s p .matrix g e).s (c.setLink (fieldOf (e.xops.get 0) 17 12) x))
    ((e.xops.get 0).extractLsb' 0 12) (fieldOf (e.xops.get 0) 17 12) c (c.setLink (fieldOf (e.xops.get 0) 17 12) x) x := by
  obtain ⟨hchain, hlink, hlinks, hchains⟩ := linkReplaced (s := (headEnv s p .matrix g e).s) h.chain h.link x
  exact ⟨hchain, hlink, hlinks, hchains⟩

/-- LSET sets the exponents of a BUILT link of its core (R280). -/
theorem HeadNames.lset (hi : e.instr = .lset r ev a b xp) : (l.coreId ≠ coreOf p → HeadRaises s p g e Cause.chRemote) ∧
    (l.coreId = coreOf p → l.state ≠ .built → HeadRaises s p g e Cause.chState) ∧
    (l.coreId = coreOf p → l.state = .built →
      HeadGives s p g e (setChain (headEnv s p .matrix g e).s (c.setLink (fieldOf (e.xops.get 0) 17 12) (l.withExponent (e.xops.get 1) xp))) Work.none) := by
  have hrun := (startCommand_lset hi).trans h.selects.startLset_eq
  rw [headEnv_x0, headEnv_x1] at hrun
  exact ⟨fun hr => headRaises_of_trap h.ready (hrun.trans (if_pos hr)), fun hr hs => headRaises_of_trap h.ready (hrun.trans ((if_neg (not_not.2 hr)).trans (if_pos hs))),
    fun hr hs => headGives_of_start h.ready (hrun.trans ((if_neg (not_not.2 hr)).trans (if_neg (not_not.2 hs))))⟩

/-- LNORM raises the exponents of a BUILT or OPEN link of its core, where none would pass 32767 (R280). -/
theorem HeadNames.lnorm (hi : e.instr = .lnorm r ev a b k6) : (l.coreId ≠ coreOf p → HeadRaises s p g e Cause.chRemote) ∧
    (l.coreId = coreOf p → ¬ (l.state = .built ∨ l.state = .open) → HeadRaises s p g e Cause.chState) ∧
    (l.coreId = coreOf p → (l.state = .built ∨ l.state = .open) → l.passes (e.xops.get 1) k6 → HeadRaises s p g e Cause.opRange) ∧
    (l.coreId = coreOf p → (l.state = .built ∨ l.state = .open) → ¬ l.passes (e.xops.get 1) k6 →
      HeadGives s p g e (setChain (headEnv s p .matrix g e).s (c.setLink (fieldOf (e.xops.get 0) 17 12) (l.normed (e.xops.get 1) k6))) Work.none) := by
  have hcmd := startCommand_lnorm (v := headEnv s p .matrix g e) hi
  have hsel := h.selects
  rw [← headEnv_x0 (s := s) (p := p) (q := .matrix) (g := g), ← headEnv_x1 (s := s) (p := p) (q := .matrix) (g := g)]
  exact ⟨fun hr => headRaises_of_trap h.ready (hcmd.trans (hsel.startLnorm_of_remote hr)), fun hr hs => headRaises_of_trap h.ready (hcmd.trans (hsel.startLnorm_of_state hr hs)),
    fun hr hs hh => headRaises_of_trap h.ready (hcmd.trans (hsel.startLnorm_of_high hr hs hh)),
    fun hr hs hh => headGives_of_start h.ready (hcmd.trans (hsel.startLnorm_of_low hr hs hh))⟩

/-- CHRD gives a part of a plane, its register empty meanwhile (R279). -/
theorem HeadNames.chrd (hi : e.instr = .chrd r ev d a 0 plane part) (hp : plane ≠ 3) : (l.planeParts plane ≤ part.toNat → HeadRaises s p g e Cause.opRange) ∧
    (part.toNat < l.planeParts plane → ∃ u, HeadGives s p g e u { Work.none with vw := [(d, l.planeReg plane part)] } ∧ u.chains = s.chains ∧
      ∀ k, u.group p = some k → (k.v.get d.toFin).full = false) := by
  have hrun := (startCommand_chrd hi).trans (h.selects.startChrd_eq (d := d) (part := part) (State.group_setGroup s p (headGroup g .matrix e)) hp)
  refine ⟨fun hpart => headRaises_of_trap h.ready (hrun.trans (if_pos hpart)),
    fun hpart => ⟨_, headGives_of_start h.ready (hrun.trans (if_neg (Nat.not_le.2 hpart))), rfl, fun k hk => ?_⟩⟩
  obtain rfl := Option.some.inj ((State.group_setGroup _ _ _).symm.trans hk)
  exact Group.emptyV_full _ d

/-- CHSPLICE puts a spare that fits, and whose entries are free, in the place of a frozen link (R281, R425). -/
theorem HeadNames.chsplice (hi : e.instr = .chsplice r a b) : (l.state ≠ .frozen → HeadRaises s p g e Cause.chState) ∧
    (l.state = .frozen → ¬ SpareFits s l (e.xops.get 1) → HeadRaises s p g e Cause.chPlace) ∧
    (l.state = .frozen → SpareFits s l (e.xops.get 1) → (∃ z ∈ (readLink (e.xops.get 1) 0).entries, entryFree s z = false) → HeadRaises s p g e Cause.chBusy) ∧
    (l.state = .frozen → SpareFits s l (e.xops.get 1) → (∀ z ∈ (readLink (e.xops.get 1) 0).entries, entryFree s z = true) → ∃ t,
      HeadGives s p g e (setChain (retireEntries (headEnv s p .matrix g e).s l) (c.spliced t (fieldOf (e.xops.get 0) 17 12) l.parent (l.spare (e.xops.get 1) c.e0)))
        { Work.none with splice := some ((e.xops.get 0).extractLsb' 0 12, fieldOf (e.xops.get 0) 17 12) } ∧ ∀ k d, Link.send k t d = k.send s d) := by
  have hcmd := startCommand_chsplice (v := headEnv s p .matrix g e) hi
  have hsel := h.selects
  have hchain := findChain_num h.chain
  rw [← headEnv_x0 (s := s) (p := p) (q := .matrix) (g := g)] at hchain ⊢
  rw [← headEnv_x1 (s := s) (p := p) (q := .matrix) (g := g)]
  refine ⟨fun hs => headRaises_of_trap h.ready (hcmd.trans (hsel.startChsplice_of_sound hs)), fun hs hf => headRaises_of_trap h.ready (hcmd.trans (hsel.startChsplice_of_misfit hs hf)),
    fun hs hf hb => headRaises_of_trap h.ready (hcmd.trans (hsel.startChsplice_of_busy hs hf hb)), fun hs hf hb => ?_⟩
  have hrun := hcmd.trans (hsel.startChsplice_of_free hs hf hb)
  rw [hchain] at hrun
  exact ⟨_, headGives_of_start h.ready hrun, fun k d => send_retireEntries (headEnv s p .matrix g e).s l k d⟩

end

/-- Settles O43, command by command: each answers as its selector, its chain and its link say, and what it leaves is read off the answer. -/
theorem chainHeadsReadSetAndFreeLinks : Obligations.ChainHeadsReadSetAndFreeLinks := by
  unfold Obligations.ChainHeadsReadSetAndFreeLinks
  intro s p g e r ev d4 out d a b k6 cr xp plane smode qt part keep chain h v num idx raises gives
  refine ⟨fun hc => ⟨chstat_of_no_chain h hc, chfree_of_no_chain h hc⟩, fun c hc ho => ⟨fun hi => (chfree_at_head h hc hi).1 ho, fun hlt => chstat_lset_of_other_owner h hc ho hlt⟩,
    fun c hc hle => chstat_lset_of_range h hc hle, fun c hc ho => ⟨fun hi => (chfree_at_head h hc hi).2 ho, fun l hl => ?_⟩, fun hi => ?_, fun hi => ?_⟩
  · have hn : HeadNames s p g e c l := ⟨h, hc, ho, hl⟩
    refine ⟨fun hi => ?_, fun hi => ?_, fun hi => ?_, fun hi hp hm hrows he => ?_, fun hi => ?_⟩
    · obtain ⟨hbuilt, hcode, hrest⟩ := l.status_fields
      exact ⟨l.status, hn.chstat hi, hbuilt, hcode.trans (by cases l.state <;> rfl), hrest⟩
    · obtain ⟨hremote, hstate, hset⟩ := hn.lset hi
      obtain ⟨hchain, hlink, hlinks, hchains⟩ := hn.replaced (l.withExponent (e.xops.get 1) xp)
      exact ⟨hremote, hstate, fun hr hs => ⟨_, _, _, hset hr hs, hchain, hlink, fun k hk => Link.withExponent_getElem? hk, rfl, hs, hlinks, hchains⟩⟩
    · obtain ⟨hremote, hstate, hhigh, hnorm⟩ := hn.lnorm hi
      obtain ⟨hchain, hlink, hlinks, -⟩ := hn.replaced (l.normed (e.xops.get 1) k6)
      exact ⟨hremote, hstate, hhigh, fun hr hs hh => ⟨_, _, _, hnorm hr hs hh, hchain, hlink, fun i x => Link.normed_e, fun i row => Link.normed_m, rfl, rfl, rfl, hlinks⟩⟩
    · obtain ⟨hrange, hread⟩ := hn.chrd hi hp
      refine ⟨hrange, fun hpart => ?_⟩
      obtain ⟨u, hgives, hchains, hempty⟩ := hread hpart
      exact ⟨u, _, hgives, rfl, rfl, rfl, fun k hk => Link.planeReg_elem hp hm hrows he part hk, hchains, hempty⟩
    · obtain ⟨hstate, hplace, hbusy, hsplice⟩ := hn.chsplice hi
      refine ⟨hstate, hplace, hbusy, fun hs hf hb hparent => ?_⟩
      obtain ⟨t, hgives, hsend⟩ := hsplice hs hf hb
      obtain ⟨hexp, hzero⟩ := Link.rebuilt_zero (l.spare (e.xops.get 1) c.e0) c.e0
      refine ⟨_, _, _, hgives, findChain_spliced (s := v.s) hc l rfl, Chain.spliced_spare hl _ hparent rfl, rfl, rfl, rfl, rfl, rfl, rfl, hexp, hzero, rfl, rfl, rfl, rfl, rfl, rfl,
        fun j x hj h0 hx hxp hxs => ⟨_, Chain.spliced_child hx hj h0 hxp hxs _ _ _, ?_⟩⟩
      rw [hsend]
      exact ⟨rfl, rfl⟩
  · intro x
    have hcmd := startCommand_chbld (v := v) hi
    have hx0 : v.x 0 = x := headEnv_x0
    refine ⟨fun haway => engineHeadStart_wait h (hcmd.trans (startChbld_of_away haway)), fun haway s2 hd hr => ?_⟩
    intro fails
    rw [← hx0] at hr
    refine ⟨fun hk => engineHeadStart_trapIn h (hcmd.trans (startChbld_of_bad_header haway hr hk)), fun hk s3 ls hl => ?_⟩
    rw [← hx0] at hl
    refine ⟨fun y hb => engineHeadStart_trapIn h (hcmd.trans (startChbld_of_error haway hr hk hl hb)), fun c hb => ?_⟩
    obtain ⟨hfresh, howner, hcnum, hlength, hlinks⟩ := buildChain_ok hb
    exact ⟨headGives_of_start h (hcmd.trans (startChbld_of_built haway hr hk hl hb)), hfresh, howner, hcnum, hlength, hlinks⟩
  · have hcmd := startCommand_chclose (v := v) hi
    refine ⟨fun hc => engineHeadStart_wait h (hcmd.trans (startChclose_of_none hc)),
      fun c l hc => ⟨fun ho => headRaises_of_trap h (hcmd.trans (startChclose_of_other_owner hc ho)), fun ho ht hl => ?_⟩⟩
    intro tiles frozen ready
    have hcl : Closes v chain out c l := ⟨hc, ho, ht, hl⟩
    refine ⟨fun hr => headRaises_of_trap h (hcmd.trans (hcl.startChclose_of_remote hr)), fun hr hf => headRaises_of_trap h (hcmd.trans (hcl.startChclose_of_frozen hr hf)),
      fun hr hf hd => engineHeadStart_wait h (hcmd.trans (hcl.startChclose_of_unready hr hf hd)),
      fun hr hf hd hs hov => headRaises_of_trap h (hcmd.trans (hcl.startChclose_of_overflow hr hf hd hs hov)), fun hr hf hd hs => ⟨fun hrange => ?_, fun hrange hu hsm => ?_⟩⟩
    · exact headRaises_of_trap h (hcmd.trans (hcl.startChclose_of_range hr hf hd hs hrange))
    · intro scale value hash rnd
      subst hsm
      have hrun := hcmd.trans (hcl.startChclose_of_scalar (d := d4) (keep := keep) (qt := qt) hr hf hd hs hrange hu)
      rw [show v.x 0 = e.xops.get 0 from headEnv_x0] at hrun
      refine ⟨_, closeRows v.e.rs c l out qt scale, headGives_of_start h hrun, by simp [closeRows], chains_emptyTile _ _ _, fun x hx => closeTiles_full hx, fun hb i row hrow => ?_⟩
      obtain ⟨hscs, hlen, hels⟩ := closeRows_elements hb hrow
      exact ⟨hscs, hlen, fun j hj => (hels j hj).trans (convert1_eq _ _ _)⟩

end Sys2Proof.Machine
end

section
/-! PROOFS. The decoder accepts well-formed instructions alone (R161, R165), the words written out decode, and a step runs what it decodes (R160, R185). -/

namespace Sys2Proof

/-! ## What the decoder accepts (R161, R165) -/

/-- A decoding that accepts, if at all, an instruction that has an encoding and is well formed: a refusal, a choice between two such decodings, or the pick of
an instruction whose checks make it well formed (R165). -/
inductive AcceptsWellFormed : Except EncError Instr → Prop where
  | refusal (x : EncError) : AcceptsWellFormed (.error x)
  | choice {c : Prop} [Decidable c] {x y : Except EncError Instr} (hx : AcceptsWellFormed x) (hy : AcceptsWellFormed y) : AcceptsWellFormed (if c then x else y)
  | picked {v z : Bool} {i : Instr} (he : i.encodable = true) (hw : v = true → z = true → i.wf = true) : AcceptsWellFormed (pick v z i)

theorem AcceptsWellFormed.ok {x : Except EncError Instr} (h : AcceptsWellFormed x) : ∀ {i : Instr}, x = .ok i → i.encodable = true ∧ i.wf = true := by
  induction h with
  | refusal x => intro i hi; cases hi
  | choice _ _ ihx ihy =>
    split
    · exact ihx
    · exact ihy
  | @picked v z j he hw =>
    intro i hi
    cases v <;> cases z <;> cases hi
    exact ⟨he, hw rfl rfl⟩

/-- Every major's rows are choices between picks; the rows with a coded field pick by the checks of `Instr.wf`. -/
theorem decodeBoxes_acceptsWellFormed (r : BitVec 4) (maj : BitVec 7) (d a b : BitVec 6) (f : BitVec 3) (ev : BitVec 4) (e : BitVec 28) :
    AcceptsWellFormed (decodeBoxes r maj d a b f ev e) := by
  unfold decodeBoxes
  split
  all_goals repeat' with_reducible constructor
  all_goals try exact fun _ _ => rfl
  all_goals try rfl
  all_goals
    simp only [Instr.wf, decide_eq_true_eq]
    tauto

theorem decodeWords_wellFormed {w0 w1 : BitVec 32} {i : Instr} (h : decodeWords w0 w1 = .ok i) : i.encodable = true ∧ i.wf = true :=
  (decodeBoxes_acceptsWellFormed ..).ok h

/-- Settles O2: the words that the length names are decoded, and what they are picked as is well formed. -/
theorem decodedInstructionIsWellFormed : Obligations.DecodedInstructionIsWellFormed := by
  unfold Obligations.DecodedInstructionIsWellFormed
  intro b0 b1 b2 b3 bs rest i h
  rw [decode.eq_def] at h
  dsimp only at h
  rw [lengthOf]
  by_cases htwo : isTwoWordMajor (majorOf (wordOfBytes b0 b1 b2 b3)) = true
  · rw [if_pos htwo] at h ⊢
    split at h
    · cases hw : decodeWords (wordOfBytes b0 b1 b2 b3) (wordOfBytes _ _ _ _) with
      | ok j =>
        rw [hw] at h
        cases h
        exact ⟨(decodeWords_wellFormed hw).1, (decodeWords_wellFormed hw).2, rfl⟩
      | error x =>
        rw [hw] at h
        cases h
    · cases h
  · rw [if_neg htwo] at h ⊢
    cases hw : decodeWords (wordOfBytes b0 b1 b2 b3) 0#32 with
    | ok j =>
      rw [hw] at h
      cases h
      exact ⟨(decodeWords_wellFormed hw).1, (decodeWords_wellFormed hw).2, rfl⟩
    | error x =>
      rw [hw] at h
      cases h

/-- Settles O3: each row is decoded by evaluation. -/
theorem writtenOutWordsDecodeToTheirInstructions : Obligations.WrittenOutWordsDecodeToTheirInstructions := by
  unfold Obligations.WrittenOutWordsDecodeToTheirInstructions
  decide +kernel

end Sys2Proof

namespace Sys2Proof.Machine

open Sys2Proof

/-- The instruction or event that a decoding gives a stream to run (R165). -/
def instrOf : Except EncError Instr → Instr
  | .ok i => i
  | .error x => .illegalEncoding x

/-- The state in which a stream runs the instruction of a length that it has fetched: NPC is fixed (R185; log 17). -/
def State.fetched (s : State) (p : Place) (st : StreamId) (g : Group) (len : Nat) : State :=
  s.setGroup p (g.setStream st { (g.stream st).settle len with len := len })

section
variable {s s1 : State} {g g1 : Group} {w : BitVec 32} (hturns : s.turns = []) (hg : s.group s.curPlace = some g)
  (hissue : canIssue (s.slot s.curPlace) (g.setStream s.curStream { s.here g with npcOpen := false }) s.curStream = true)
  (hfetch : fetch s s.curPlace g s.curStream (s.here g).pc = .word s1 w)
include hturns hg hissue hfetch

/-- A step with no turn given runs the one-word instruction that it fetches (R160, R165). -/
theorem step_of_one_word (hlen : lengthOf w = 4) (hg1 : s1.group s.curPlace = some g1) :
    step s = exec (instrOf (decodeWords w 0)) (s1.fetched s.curPlace s.curStream g1 4) := by
  rw [State.here] at hissue hfetch
  simp only [step, takeTurn, hturns, nextInstr, hg, hissue, hfetch, hlen, hg1]
  cases decodeWords w 0 <;> rfl

/-- A step with no turn given runs the two-word instruction that it fetches (R160, R161, R165). -/
theorem step_of_two_words {s2 : State} {w1 : BitVec 32} (hlen : lengthOf w = 8)
    (hfetch2 : fetch s1 s.curPlace g s.curStream ((s.here g).pc + 4) = .word s2 w1) (hg2 : s2.group s.curPlace = some g1) :
    step s = exec (instrOf (decodeWords w w1)) (s2.fetched s.curPlace s.curStream g1 8) := by
  rw [State.here] at hissue hfetch hfetch2
  simp only [step, takeTurn, hturns, nextInstr, hg, hissue, hfetch, hlen, hfetch2, hg2]
  cases decodeWords w w1 <;> rfl

end

/-- Settles O4: the step of a one-word and of a two-word instruction, whether or not the words decode. -/
theorem stepRunsTheDecodedInstruction : Obligations.StepRunsTheDecodedInstruction := by
  unfold Obligations.StepRunsTheDecodedInstruction
  intro s s1 g g1 w hturns hg hissue hfetch
  refine ⟨fun hlen hg1 => ?_, fun s2 w1 hlen hfetch2 hg2 => ?_⟩
  · have hstep := step_of_one_word hturns hg hissue hfetch hlen hg1
    exact ⟨fun i hi => by rw [hstep, hi]; rfl, fun x hx => by rw [hstep, hx]; rfl⟩
  · have hstep := step_of_two_words hturns hg hissue hfetch hlen hfetch2 hg2
    exact ⟨fun i hi => by rw [hstep, hi]; rfl, fun x hx => by rw [hstep, hx]; rfl⟩

end Sys2Proof.Machine
end

section
/-! PROOFS. x0 and p0 (R35, R163), and the system registers (R168 to R171, R212, R399). -/

namespace Sys2Proof.Machine

open Sys2Proof

/-- Settles O12: each access asks first whether the register is x0 or p0. -/
theorem writesOfZeroRegistersAreDiscarded : Obligations.WritesOfZeroRegistersAreDiscarded := by
  unfold Obligations.WritesOfZeroRegistersAreDiscarded
  refine ⟨fun t v => ⟨rfl, rfl, rfl, rfl⟩, fun g v => ⟨rfl, rfl⟩, fun t d i v hd => ⟨?_, hasFull_setX_self t d v⟩⟩
  split
  · subst_vars
    exact getX_setX_self t hd v
  · exact getX_setX_ne t ‹_› v

/-! ## SYSR (R168 to R171) -/

/-- A word of two parts, the lower as it stands. -/
theorem toNat_append_eq_add {v w : Nat} (x : BitVec v) (y : BitVec w) : (x ++ y).toNat = x.toNat * 2 ^ w + y.toNat := by
  rw [BitVec.toNat_append, ← Nat.shiftLeft_add_eq_or_of_lt y.isLt, Nat.shiftLeft_eq]

/-- IDENT's fields stand side by side (R169). -/
theorem ident_eq (p : Place) (st : StreamId) (gi : BitVec 16) :
    ident p st gi = BitVec.ofNat 64 (st.toFin.val * 2 ^ 32 + p.val % 4 * 2 ^ 30 + p.val / 4 * 2 ^ 23 + gi.toNat) := by
  have hst : st.toFin.val < 2 ^ 3 := by omega
  have hslot : p.val % 4 < 2 ^ 2 := by omega
  have hcore : p.val / 4 < 2 ^ 7 := by omega
  have hgi := gi.isLt
  apply BitVec.eq_of_toNat_eq
  simp only [ident, toNat_append_eq_add, BitVec.toNat_ofNat, Nat.mod_eq_of_lt hst, Nat.mod_eq_of_lt hslot, Nat.mod_eq_of_lt hcore]
  omega

/-- The index of the trapped group, under the bit that says that there is one (R171). -/
theorem trappedWord_eq (gi : BitVec 16) : (1#1 ++ 0#47 ++ gi : BitVec 64) = BitVec.ofNat 64 (2 ^ 63 + gi.toNat) := by
  have hgi := gi.isLt
  apply BitVec.eq_of_toNat_eq
  simp only [toNat_append_eq_add, BitVec.toNat_ofNat]
  omega

/-- DCNT in the low half of its word (R124). -/
theorem RState.word1_eq (rs : RState) : rs.word1 = rs.dcnt.zeroExtend 64 := by
  have hdcnt := rs.dcnt.isLt
  apply BitVec.eq_of_toNat_eq
  rw [RState.word1, toNat_append_eq_add, BitVec.toNat_setWidth, BitVec.toNat_ofNat]
  omega

/-- What an instruction sees of its system registers does not depend on the tokens it has taken. -/
theorem sysRead_env (s : State) (g : Group) (r : BitVec 4) (n : BitVec 12) :
    sysRead (s.env g r) n = sysRead { s := s, p := s.curPlace, st := s.curStream, g := g, t := s.here g } n := by
  rw [State.env, here_taken]
  rfl

/-- A number that R168 does not assign. -/
theorem sysRead_of_unassigned (e : Env) {n : BitVec 12} (hn : n.toNat ∉ [0x000, 0x001, 0x002, 0x003, 0x005, 0x010, 0x011, 0x012, 0x013, 0x020, 0x021, 0x022,
    0x023, 0x040, 0x041, 0x042, 0x043, 0x080]) : sysRead e n = none := by
  simp only [List.mem_cons, List.not_mem_nil, or_false, not_or] at hn
  unfold sysRead
  split
  iterate 18 · omega
  rfl

/-- A number of no register that SYSW may write (R168, R212). -/
theorem sysWrite_of_unwritable (g : Group) (st : StreamId) {n : BitVec 12} (hn : n.toNat ∉ [0x000, 0x005, 0x040]) (v : BitVec 64) : sysWrite g st n v = none := by
  simp only [List.mem_cons, List.not_mem_nil, or_false, not_or] at hn
  unfold sysWrite
  dsimp only
  split
  iterate 3 · omega
  rfl

section
variable {s : State} {g : Group} {r : BitVec 4} {d : BitVec 6} {n : BitVec 12} (hc : CanRun s g anyStream r) (hd : (s.here g).isFull d = true)

include hc in
theorem execSysr_of_unassigned (hn : sysRead (s.env g r) n = none) : exec (.sysr r d n) s = .next (s.traps g (.plain Cause.sysNum)) := by
  show execSysr r d n s = _
  unfold execSysr
  exact plain_trap hc (by rw [hn])

include hc hd

/-- SYSR of an assigned number retires with x(d) the register's value (R168). -/
theorem execSysr_of_value {v : BitVec 64} (hv : sysRead (s.env g r) n = some v) : exec (.sysr r d n) s = .next (s.after g r 0 (fun t => t.setX d v)) := by
  show execSysr r d n s = _
  unfold execSysr
  exact plain_onStream hc (by rw [hv]) (writes_of_full ((isFull_taken s g r d).trans hd) _)

/-- SYSW of a register that may be written retires with the group that the write gives (R168). -/
theorem execSysw_of_value {f : Group → Group} (hf : sysWrite (s.taken g r) s.curStream n ((s.here g).getX d) = some (f (s.taken g r))) :
    exec (.sysw r d n) s = .next (s.afterGroup g r 0 f) := by
  show execSysw r d n s = _
  unfold execSysw
  refine plain_done hc ?_
  rw [reads_of_fulls (fulls_env (fulls_singleton hd)), show (s.env g r).t.getX d = (s.here g).getX d from getX_taken s g r d]
  show (match sysWrite (s.taken g r) s.curStream n _ with | none => _ | some h => onGroup (fun _ => .done h) (s.env g r)) = _
  rw [hf]
  show Act.done ((s.began g r).setGroup s.curPlace _) = _
  rw [State.began, State.setGroup_setGroup]

theorem execSysw_of_unwritable (hn : n.toNat ∉ [0x000, 0x005, 0x040]) : exec (.sysw r d n) s = .next (s.traps g (.plain Cause.sysNum)) := by
  show execSysw r d n s = _
  unfold execSysw
  refine plain_trap hc ?_
  rw [reads_of_fulls (fulls_env (fulls_singleton hd)), sysWrite_of_unwritable _ _ hn]

end

/-- Settles O20: SYSR by the number of its register, SYSW by the three that it may write. -/
theorem systemRegisterAccessesComplete : Obligations.SystemRegisterAccessesComplete := by
  unfold Obligations.SystemRegisterAccessesComplete
  intro s g r d hc hd t0 core gives ctl
  have hread {n : BitVec 12} {v : BitVec 64} (hv : sysRead { s := s, p := s.curPlace, st := s.curStream, g := g, t := t0 } n = some v) :
      exec (.sysr r d n) s = gives v := execSysr_of_value hc hd ((sysRead_env s g r n).trans hv)
  have hident := congrArg some (ident_eq s.curPlace s.curStream g.gindex)
  refine ⟨hread rfl, hread hident, hread rfl, hread rfl, hread rfl, hread rfl, hread (congrArg some g.mrs.word1_eq), hread rfl, hread (congrArg some g.vrs.word1_eq),
    hread rfl, hread rfl, hread rfl, hread rfl, hread rfl, hread rfl, hread rfl, hread rfl, hread (congrArg some ?_),
    execSysw_of_value hc hd rfl, execSysw_of_value hc hd rfl, execSysw_of_value hc hd rfl,
    fun n hn => execSysr_of_unassigned hc (sysRead_of_unassigned _ hn), fun n hn => execSysw_of_unwritable hc hd hn⟩
  cases g.trapped with
  | none => rfl
  | some x => exact trappedWord_eq x.gindex

end Sys2Proof.Machine
end

section
/-! PROOFS. LOOP and LOOPI (R170, R205, R208), and the retirement of an instruction that leaves NPC to the word at its new PC (R185). -/

namespace Sys2Proof.Machine

open Sys2Proof

/-! ## A PC that is set without an NPC (R185) -/

section
variable {s s2 : State} {g g2 : Group} {roles : List StreamId} {r ev : BitVec 4} {body : Env → Act State} {after : Env → State → State} {pc : BitVec 64}
  (h : CanRun s g roles r) (hb : body (s.env g r) = .jump s2 pc none) (hg : s2.group s.curPlace = some g2)
include h hb hg

/-- An instruction whose body sets PC and leaves NPC to follow the instruction there: what follows its retirement comes before the end of a step (R405). -/
theorem plainThen_jumpOn : plainThen roles r ev body after s = .next (stepHalt (after (s.env g r) (retire (s2.setGroup s.curPlace (g2.setStream s.curStream
      (Stream.goAt s2 s.curPlace g2 (g2.stream s.curStream).land pc))) s.curPlace s.curStream r ev)) s.curPlace) := by
  have hroom : canPlace (s.env g r).g (s.env g r).st r = true := h.place
  have hg' : s2.group (s.env g r).p = some g2 := hg
  rw [plainThen_run h, hb]
  simp only [settleAct, hroom, if_true, retireIn, hg']
  rfl

/-- The same where the length of the instruction at the new PC is known and words may be as old there as they were. -/
theorem plain_jumpOn {n : Nat} (hland : (g2.stream s.curStream).land = g2.stream s.curStream)
    (hn : lengthAt s2 s.curPlace g2 (g2.stream s.curStream) pc = some n) :
    plain roles r ev body s = .next (s2.jumpAt s.curPlace s.curStream r ev pc (pc + BitVec.ofNat 64 n)) := by
  rw [plain, plainThen_jumpOn h hb hg, hland, Stream.goAt, hn]
  simp only [State.jumpAt, State.retireAt, hg]
  rfl

end

/-- A body that changes only its stream and raises a cause. -/
theorem onStream_trap {s : State} {g : Group} {roles : List StreamId} {r ev : BitVec 4} {k : Stream → Act Stream} {x : Trap} (h : CanRun s g roles r)
    (hk : k (s.here (s.taken g r)) = .trap x) : plain roles r ev (onStream k) s = .next (s.traps g x) :=
  plain_trap h (congrArg (Act.map _) hk)

/-! ## The body of a loop (R205, R208) -/

/-- Whether a body of so many words, after an instruction of a size, lies in the body of the other pair where that is active (R208). -/
def Nests (t : Stream) (l : BitVec 1) (size L : Nat) : Prop :=
  (t.loops.get (1 - l).toFin).act = false ∨
    t.pc.toNat + size + 4 * L ≤ (t.loops.get (1 - l).toFin).start.toNat + 4 * (t.loops.get (1 - l).toFin).len.toNat

/-- A stream whose pair has become active (R205). -/
def Stream.loopOpened (t : Stream) (l : BitVec 1) (len : BitVec 12) (k : BitVec 32) (start : BitVec 57) : Stream :=
  { t with loops := t.loops.set l.toNat { act := true, len := len, count := k, start := start } l.isLt, late := l }

/-- The address past a body. -/
def loopStop (pc : BitVec 64) (size : Nat) (len : BitVec 12) : BitVec 64 := BitVec.ofNat 64 (pc.toNat + size + 4 * len.toNat)

section
variable {t : Stream} {l : BitVec 1} {size : Nat} {len : BitVec 12} {n : BitVec 32} (hfits : t.pc.toNat + size + 4 * len.toNat < 2 ^ 57)

omit hfits in
/-- The address past a body, as a sum of addresses. -/
theorem loopStop_eq : t.pc + BitVec.ofNat 64 size + 4 * len.zeroExtend 64 = loopStop t.pc size len := by
  have hlen := len.isLt
  apply BitVec.eq_of_toNat_eq
  simp only [loopStop, BitVec.ofNat_eq_ofNat, BitVec.toNat_add, BitVec.toNat_mul, BitVec.toNat_ofNat, BitVec.toNat_setWidth]
  omega

omit hfits in
theorem openLoop_of_empty (h : len = 0) : openLoop l size len n t = .trap (.plain Cause.loopLen) := if_pos h

omit hfits in
theorem openLoop_of_busy (h0 : len ≠ 0) (h : (t.loops.get l.toFin).act = true) : openLoop l size len n t = .trap (.plain Cause.loopBusy) := by
  rw [openLoop, if_neg h0, if_pos h]

section
variable (h0 : len ≠ 0) (hidle : (t.loops.get l.toFin).act = false)
include h0 hidle hfits

theorem openLoop_of_outlasting (h : ¬ Nests t l size len.toNat) : openLoop l size len n t = .trap (.plain Cause.loopNest) := by
  have hstop : (loopStop t.pc size len).toNat = t.pc.toNat + size + 4 * len.toNat := Nat.mod_eq_of_lt (by omega)
  rw [Nests, not_or, Bool.not_eq_false] at h
  simp only [openLoop, loopStop_eq, hstop, if_neg h0, hidle, Bool.false_eq_true, if_false]
  exact if_pos ⟨h.1, by omega⟩

/-- Where the loop nests, the count decides. -/
theorem openLoop_of_nesting (h : Nests t l size len.toNat) : openLoop l size len n t =
    if n = 0 then .jump t.landAnew (loopStop t.pc size len) none else .done (t.loopOpened l len n (BitVec.ofNat 57 (t.pc.toNat + size))) := by
  have hstop : (loopStop t.pc size len).toNat = t.pc.toNat + size + 4 * len.toNat := Nat.mod_eq_of_lt (by omega)
  have hstart : (t.pc + BitVec.ofNat 64 size).extractLsb' 0 57 = BitVec.ofNat 57 (t.pc.toNat + size) := by
    apply BitVec.eq_of_toNat_eq
    simp only [BitVec.extractLsb'_toNat, BitVec.toNat_add, BitVec.toNat_ofNat]
    omega
  have hin : ¬ ((t.loops.get (1 - l).toFin).act = true ∧
      (t.loops.get (1 - l).toFin).start.toNat + 4 * (t.loops.get (1 - l).toFin).len.toNat < t.pc.toNat + size + 4 * len.toNat) := by
    rintro ⟨hact, hlt⟩
    rcases h with h | h
    · rw [hact] at h; cases h
    · omega
  simp only [openLoop, loopStop_eq, hstop, if_neg h0, hidle, Bool.false_eq_true, if_false, if_neg hin, hstart]
  rfl

end
end

/-! ## LOOP and LOOPI -/

theorem pc_taken (s : State) (g : Group) (r : BitVec 4) : (s.here (s.taken g r)).pc = (s.here g).pc := by rw [here_taken]

theorem loops_taken (s : State) (g : Group) (r : BitVec 4) : (s.here (s.taken g r)).loops = (s.here g).loops := by rw [here_taken]

theorem nests_taken (s : State) (g : Group) (r : BitVec 4) (l : BitVec 1) (size L : Nat) : Nests (s.here (s.taken g r)) l size L ↔ Nests (s.here g) l size L := by
  rw [Nests, Nests, pc_taken, loops_taken]

section
variable {s : State} {g : Group} {r ev : BitVec 4} {l : BitVec 1} {size : Nat} {len : BitVec 12} {n : BitVec 32} {k : Stream → Act Stream}
  (hc : CanRun s g anyStream r)
  (hk : k (s.here (s.taken g r)) = openLoop l size len n (s.here (s.taken g r)))
include hc hk

theorem loop_of_empty (h : len = 0) : plain anyStream r ev (onStream k) s = .next (s.traps g (.plain Cause.loopLen)) :=
  onStream_trap hc (hk.trans (openLoop_of_empty h))

section
variable (h0 : len ≠ 0)
include h0

theorem loop_of_busy (h : ((s.here g).loops.get l.toFin).act = true) : plain anyStream r ev (onStream k) s = .next (s.traps g (.plain Cause.loopBusy)) :=
  onStream_trap hc (hk.trans (openLoop_of_busy h0 (by rw [loops_taken]; exact h)))

variable (hfits : (s.here g).pc.toNat + size + 4 * len.toNat < 2 ^ 57) (hidle : ((s.here g).loops.get l.toFin).act = false)
include hfits hidle

theorem loop_of_outlasting (h : ¬ Nests (s.here g) l size len.toNat) :
    plain anyStream r ev (onStream k) s = .next (s.traps g (.plain Cause.loopNest)) := by
  rw [← pc_taken s g r] at hfits
  rw [← loops_taken s g r] at hidle
  exact onStream_trap hc (hk.trans (openLoop_of_outlasting hfits h0 hidle (mt (nests_taken ..).1 h)))

variable (hnest : Nests (s.here g) l size len.toNat)
include hnest

omit hc in
/-- Where the loop nests, the count decides. -/
theorem loop_of_nesting : k (s.here (s.taken g r)) =
    if n = 0 then .jump (s.here (s.taken g r)).landAnew (loopStop (s.here g).pc size len) none
    else .done ((s.here (s.taken g r)).loopOpened l len n (BitVec.ofNat 57 ((s.here g).pc.toNat + size))) := by
  rw [← pc_taken s g r] at hfits ⊢
  rw [← loops_taken s g r] at hidle
  exact hk.trans (openLoop_of_nesting hfits h0 hidle ((nests_taken ..).2 hnest))

theorem loop_of_count (hn : n ≠ 0) : plain anyStream r ev (onStream k) s =
    .next (s.after g r ev (fun t => t.loopOpened l len n (BitVec.ofNat 57 ((s.here g).pc.toNat + size)))) := by
  exact onStream_done hc ((loop_of_nesting hk h0 hfits hidle hnest).trans (if_neg hn))

/-- A count of 0 skips the body: both halves of the PC pair lie past it (R205). -/
theorem loop_of_no_count (hn : n = 0) {m : Nat} :
    let h := (s.taken g r).setStream s.curStream (s.here (s.taken g r)).landAnew
    lengthAt (s.setGroup s.curPlace h) s.curPlace h (s.here h) (loopStop (s.here g).pc size len) = some m →
    plain anyStream r ev (onStream k) s =
      .next ((s.setGroup s.curPlace h).jumpAt s.curPlace s.curStream r ev (loopStop (s.here g).pc size len) (loopStop (s.here g).pc size len + BitVec.ofNat 64 m)) := by
  intro h hm
  have hbody : onStream k (s.env g r) = .jump (s.setGroup s.curPlace h) (loopStop (s.here g).pc size len) none := by
    show Act.map _ (k (s.here (s.taken g r))) = _
    rw [loop_of_nesting hk h0 hfits hidle hnest, if_pos hn]
    show Act.jump ((s.began g r).setGroup s.curPlace _) _ _ = _
    rw [State.began, State.setGroup_setGroup]
    rfl
  exact plain_jumpOn hc hbody (State.group_setGroup s s.curPlace h) (by rw [Group.stream_setStream]; rfl) hm

end
end

/-- The body of LOOP once x(a) has been read. -/
def loopBody (l : BitVec 1) (a : BitVec 6) (len : BitVec 12) (t : Stream) : Act Stream := t.reads [a] (openLoop l 4 len ((t.getX a).extractLsb' 0 32) t)

theorem exec_loop (r : BitVec 4) (l : BitVec 1) (a : BitVec 6) (len : BitVec 12) (s : State) :
    exec (.loop r l a len) s = plain anyStream r 0 (onStream (loopBody l a len)) s := rfl

theorem exec_loopi (r ev : BitVec 4) (l : BitVec 1) (len : BitVec 12) (n : BitVec 28) (s : State) :
    exec (.loopi r ev l len n) s = plain anyStream r ev (onStream (openLoop l 8 len (n.zeroExtend 32))) s := rfl

/-- LOOP takes the low word of a full x(a) as its count (R205). -/
theorem loopBody_of_full {s : State} {g : Group} {r : BitVec 4} {a : BitVec 6} (ha : (s.here g).isFull a = true) (l : BitVec 1) (len : BitVec 12) :
    loopBody l a len (s.here (s.taken g r)) = openLoop l 4 len (BitVec.ofNat 32 ((s.here g).getX a).toNat) (s.here (s.taken g r)) := by
  rw [loopBody, reads_of_fulls (fulls_singleton ((isFull_taken s g r a).trans ha)), getX_taken]
  rfl

/-- Settles O18: LOOP and LOOPI are the same body over the length of the instruction and the count. -/
theorem loopsOpenSkipOrTrap : Obligations.LoopsOpenSkipOrTrap := by
  unfold Obligations.LoopsOpenSkipOrTrap
  intro s g r ev a l len n hc ha t0 pc L other nests opened hfits
  have hk := loopBody_of_full (r := r) ha l len
  have hi : openLoop l 8 len (n.zeroExtend 32) (s.here (s.taken g r)) = openLoop l 8 len (n.zeroExtend 32) (s.here (s.taken g r)) := rfl
  have hsome : 0 < L → len ≠ 0 := fun h e => by subst e; exact absurd h (by decide)
  have hnone : L = 0 → len = 0 := fun h => BitVec.eq_of_toNat_eq h
  have hcount : BitVec.ofNat 32 (t0.getX a).toNat = 0 ↔ (t0.getX a).toNat % 2 ^ 32 = 0 := by
    rw [← BitVec.toNat_inj, BitVec.toNat_ofNat]
    rfl
  have hcounti : n.zeroExtend 32 = 0 ↔ n = 0 := by
    have hn := n.isLt
    rw [← BitVec.toNat_inj, ← BitVec.toNat_inj, BitVec.toNat_setWidth, Nat.mod_eq_of_lt (by omega)]
    rfl
  have hfits4 : t0.pc.toNat + 4 + 4 * len.toNat < 2 ^ 57 := by omega
  simp only [exec_loop, exec_loopi]
  refine ⟨fun h => ⟨loop_of_empty hc hk (hnone h), loop_of_empty hc hi (hnone h)⟩,
    fun h hb => ⟨loop_of_busy hc hk (hsome h) hb, loop_of_busy hc hi (hsome h) hb⟩,
    fun h hidle hn => loop_of_outlasting hc hk (hsome h) hfits4 hidle hn, fun h hidle hn => loop_of_outlasting hc hi (hsome h) hfits hidle hn,
    fun h hidle hn hcnt => loop_of_count hc hk (hsome h) hfits4 hidle hn (hcount.not.2 hcnt),
    fun h hidle hn hcnt => loop_of_count hc hi (hsome h) hfits hidle hn (hcounti.not.2 hcnt),
    fun h hidle hn hcnt m hm => ?_, fun h hidle hn hcnt m hm => ?_⟩
  · rw [BitVec.ofNat_add (pc + 4 + 4 * L) m]
    rw [show BitVec.ofNat 64 (pc + 4 + 4 * L) = loopStop t0.pc 4 len from rfl] at hm ⊢
    exact loop_of_no_count hc hk (hsome h) hfits4 hidle hn (hcount.2 hcnt) hm
  · rw [BitVec.ofNat_add (pc + 8 + 4 * L) m]
    rw [show BitVec.ofNat 64 (pc + 8 + 4 * L) = loopStop t0.pc 8 len from rfl] at hm ⊢
    exact loop_of_no_count hc hi (hsome h) hfits hidle hn (hcounti.2 hcnt) hm

end Sys2Proof.Machine
end

section
/-! PROOFS. What a cancel, a cause, a retirement and the end of a step leave of a group and of the state (R163, R167, R313, R386, R387, R405). -/

namespace Sys2Proof.Machine

open Sys2Proof

/-! ## Cancelled groups (R313, R386) -/

/-- A stream without what a cancel touches: its wait, its destination's full bit, and what it took. -/
def Stream.kept (t : Stream) : Stream := { t with full := 0, waiting := none, took := none, tookSets := ([], []), faults := [], answer := none }

/-- A group in which waits have been cancelled and tokens given back: nothing else of a stream, and of the group only its tokens, queues and event waits
differ. -/
structure Cancelled (g h : Group) : Prop where
  streams : ∀ o, (h.stream o).kept = (g.stream o).kept
  rest : h = { g with streams := h.streams, tokens := h.tokens, tokSets := h.tokSets, queues := h.queues, evwait := h.evwait }

theorem Cancelled.refl (g : Group) : Cancelled g g := ⟨fun _ => rfl, rfl⟩

theorem Cancelled.trans {g h k : Group} (a : Cancelled g h) (b : Cancelled h k) : Cancelled g k :=
  ⟨fun o => (b.streams o).trans (a.streams o), b.rest.trans (congrArg
    (fun x : Group => { x with streams := k.streams, tokens := k.tokens, tokSets := k.tokSets, queues := k.queues, evwait := k.evwait }) a.rest)⟩

theorem Cancelled.foldl {α : Type} {f : Group → α → Group} (hf : ∀ g x, Cancelled g (f g x)) (l : List α) (g : Group) : Cancelled g (l.foldl f g) :=
  List.foldlRecOn (motive := Cancelled g) _ _ (.refl g) (fun _ h _ _ => h.trans (hf _ _))

theorem cancelled_setStream {g : Group} {o : StreamId} {t : Stream} (h : t.kept = (g.stream o).kept) : Cancelled g (g.setStream o t) := by
  refine ⟨fun k => ?_, rfl⟩
  by_cases hk : k = o
  · rw [hk, Group.stream_setStream, h]
  · rw [Group.stream_setStream_ne _ _ hk]

theorem cancelled_returnTok (g : Group) (st : StreamId) (r : BitVec 4) (sets : List Nat × List Nat) : Cancelled g (returnTok g st r sets) := by
  rw [returnTok_eq]
  exact ⟨fun _ => rfl, rfl⟩

theorem cancelled_cancelStream (g : Group) (o : StreamId) : Cancelled g (cancelStream g o) := by
  have hunwait (k : Group) : Cancelled k (k.setStream o { (k.stream o).unwait with took := none, tookSets := ([], []), faults := [], answer := none }) :=
    cancelled_setStream (by rw [Stream.unwait, refill_eq]; rfl)
  unfold cancelStream
  dsimp only
  split
  · exact .refl g
  · split
    · exact (cancelled_returnTok g o _ _).trans (hunwait _)
    · exact hunwait g

theorem cancelled_cancelStreams (g : Group) : Cancelled g (cancelStreams g) := by
  have hall := Cancelled.foldl cancelled_cancelStream StreamId.all g
  unfold cancelStreams
  generalize StreamId.all.foldl cancelStream g = k at hall ⊢
  exact hall.trans ⟨fun _ => rfl, rfl⟩

theorem cancelled_returnEntry (g : Group) (e : QEntry) : Cancelled g (returnEntry g e) := by
  unfold returnEntry
  split
  · exact cancelled_returnTok g _ _ _
  · exact .refl g

theorem cancelled_cancelQueue (g : Group) (q : QueueId) : Cancelled g (cancelQueue g q) := by
  unfold cancelQueue
  exact (Cancelled.foldl cancelled_returnEntry (g.queue q) g).trans ⟨fun _ => rfl, rfl⟩

theorem cancelled_cancelAll (g : Group) : Cancelled g (cancelAll g) :=
  (cancelled_cancelStreams g).trans (Cancelled.foldl cancelled_cancelQueue QueueId.all _)

/-! ## The registers of a group (R163, R167) -/

/-- What a stream holds of its own for its instructions: scalar registers, conditions, target registers with their prepared bits, FEMODE. -/
def Stream.operands (t : Stream) : Vector (BitVec 64) 64 × BitVec 8 × Vector (BitVec 57) 8 × BitVec 8 × BitVec 1 := (t.x, t.c, t.b, t.prepd, t.femode)

/-- What the streams of a group share: vector, tile, predicate and shape registers, rounding states, the page list, the sync words and the copy channels. -/
def Group.shared (g : Group) : Vector VReg 64 × Vector TReg 4 × Vector (BitVec 1024) 8 × Vector (BitVec 512) 16 × RState × RState × Vector PageEntry 64 ×
    BitVec 8192 × Vector Chan 8 := (g.v, g.t, g.p, g.h, g.mrs, g.vrs, g.pages, g.syncf, g.chans)

/-- Two groups that hold the same in the registers of every stream and in what the streams share. -/
structure SameHoldings (g h : Group) : Prop where
  streams : ∀ o, (h.stream o).operands = (g.stream o).operands
  shared : h.shared = g.shared

theorem SameHoldings.refl (g : Group) : SameHoldings g g := ⟨fun _ => rfl, rfl⟩

theorem SameHoldings.trans {g h k : Group} (a : SameHoldings g h) (b : SameHoldings h k) : SameHoldings g k :=
  ⟨fun o => (b.streams o).trans (a.streams o), b.shared.trans a.shared⟩

theorem Cancelled.sameHoldings {g h : Group} (c : Cancelled g h) : SameHoldings g h := by
  refine ⟨fun o => ?_, ?_⟩
  · show (h.stream o).kept.operands = (g.stream o).kept.operands
    rw [c.streams o]
  · rw [c.rest]
    rfl

theorem sameHoldings_setStream {g : Group} {o : StreamId} {t : Stream} (h : t.operands = (g.stream o).operands) : SameHoldings g (g.setStream o t) := by
  refine ⟨fun k => ?_, rfl⟩
  by_cases hk : k = o
  · rw [hk, Group.stream_setStream, h]
  · rw [Group.stream_setStream_ne _ _ hk]

theorem sameHoldings_taken (s : State) (g : Group) (r : BitVec 4) : SameHoldings g (s.taken g r) :=
  SameHoldings.trans (h := takeTok g s.curStream r) ⟨fun _ => rfl, rfl⟩ (sameHoldings_setStream rfl)

theorem sameHoldings_refill (g : Group) (o : StreamId) : SameHoldings g (g.setStream o (g.stream o).refill) :=
  sameHoldings_setStream (by rw [refill_eq]; rfl)

theorem sameHoldings_retiredGroup {g : Group} {st : StreamId} (r ev : BitVec 4) {t : Stream} (h : t.operands = (g.stream st).operands) :
    SameHoldings g (retiredGroup g st r ev t) := by
  refine (sameHoldings_setStream (o := st) (t := t.retireCounts) h).trans ?_
  rw [retiredGroup, postEv_eq, placeTok_eq]
  exact ⟨fun _ => rfl, rfl⟩

theorem sameHoldings_askStop (g : Group) (c : BitVec 10) : SameHoldings g (askStop g c) := by
  have hcancel := (cancelled_cancelStreams g).sameHoldings
  unfold askStop
  generalize cancelStreams g = k at hcancel ⊢
  exact hcancel.trans ⟨fun _ => rfl, rfl⟩

/-! ## Causes and retirement -/

theorem sameHoldings_stopping (g : Group) (x : Stopping) : SameHoldings g { g with stopping := x } := ⟨fun _ => rfl, rfl⟩

/-- A cause leaves the registers of the group in which it is raised as they were (R386). -/
theorem raise_sameHoldings {s : State} {p : Place} {g : Group} (hg : s.group p = some g) (w : RaisedAt) (t : Trap) :
    ∃ h, (raise s p w t).group p = some h ∧ SameHoldings g h := by
  have hslot : (s.slot p).group = some g := hg
  have hraised (k : Group) (o : StreamId) : SameHoldings k (k.setStream o { k.stream o with raised := true }) := sameHoldings_setStream rfl
  unfold raise
  dsimp only
  rw [hslot]
  dsimp only
  split
  · exact ⟨g, congrArg Slot.group (State.slot_setSlot s p _), .refl g⟩
  · have hmarked (k : Group) : SameHoldings k (match w.queue with | some _ => k | none => k.setStream w.stream { k.stream w.stream with raised := true }) := by
      split
      · exact .refl k
      · exact hraised k w.stream
    split
    · refine ⟨_, State.group_setGroup _ _ _, ?_⟩
      refine SameHoldings.trans ?_ (sameHoldings_stopping _ _)
      split
      · exact .refl g
      · exact (cancelled_cancelStream g w.stream).sameHoldings.trans (hraised _ w.stream)
    · exact ⟨g, hg, .refl g⟩
    · refine ⟨_, congrArg Slot.group (State.slot_setSlot s p _), ?_⟩
      refine SameHoldings.trans ?_ (sameHoldings_stopping _ _)
      refine SameHoldings.trans ?_ (hmarked _)
      split
      · exact (cancelled_cancelStreams g).sameHoldings
      · exact (cancelled_cancelAll g).sameHoldings

/-- Retirement, and the end of a step, change the group alone and leave its registers (R45, R46, R185, R387, R405). -/
theorem finishAt_sameHoldings {s : State} {p : Place} {g : Group} (hg : s.group p = some g) (st : StreamId) (r ev : BitVec 4) :
    ∃ h, s.finishAt p st r ev = s.setGroup p h ∧ SameHoldings g h := by
  obtain ⟨pc, npc, o, ls, fl, fn, hadv⟩ := advance_eq s p g (g.stream st)
  have hretired : SameHoldings g (retiredGroup g st r ev (advance s p g (g.stream st))) := by
    rw [hadv]; exact sameHoldings_retiredGroup r ev rfl
  simp only [State.finishAt, State.retireAt, hg]
  rw [retire_setGroup]
  obtain h | h := stepHalt_setGroup s p (retiredGroup g st r ev (advance s p g (g.stream st)))
  · exact ⟨_, h, hretired⟩
  · exact ⟨_, h, hretired.trans (sameHoldings_askStop _ _)⟩

end Sys2Proof.Machine
end

section
/-! PROOFS. The frame of the scalar, constant, bit-field, move and condition instructions (R163, R167, R186 to R194). -/

namespace Sys2Proof.Machine

open Sys2Proof

/-! ## Bodies that write one register of their stream -/

/-- A stream in which at most x(dst) and c(cdst) differ from another's registers (R163). -/
structure Stream.Keeps (dst : Option (BitVec 6)) (cdst : Option (BitVec 3)) (t u : Stream) : Prop where
  scalars : ∀ j, dst ≠ some j → u.getX j = t.getX j
  conds : ∀ j, cdst ≠ some j → u.getC j = t.getC j
  targets : u.b = t.b
  prepared : u.prepd = t.prepd
  mode : u.femode = t.femode

theorem Stream.Keeps.of_operands {dst : Option (BitVec 6)} {cdst : Option (BitVec 3)} {t u : Stream} (h : u.operands = t.operands) : t.Keeps dst cdst u := by
  simp only [Stream.operands, Prod.mk.injEq] at h
  obtain ⟨hx, hcond, hb, hprep, hmode⟩ := h
  exact ⟨fun _ _ => by rw [Stream.getX, Stream.getX, hx], fun _ _ => by rw [Stream.getC, Stream.getC, hcond], hb, hprep, hmode⟩

theorem Stream.Keeps.trans {dst : Option (BitVec 6)} {cdst : Option (BitVec 3)} {t u v : Stream} (a : t.Keeps dst cdst u) (b : u.Keeps dst cdst v) :
    t.Keeps dst cdst v :=
  ⟨fun j h => (b.scalars j h).trans (a.scalars j h), fun j h => (b.conds j h).trans (a.conds j h), b.targets.trans a.targets, b.prepared.trans a.prepared,
    b.mode.trans a.mode⟩

theorem keeps_setX (t : Stream) (d : BitVec 6) (v : BitVec 64) : t.Keeps (some d) none (t.setX d v) := by
  have hrest : (t.setX d v).c = t.c ∧ (t.setX d v).b = t.b ∧ (t.setX d v).prepd = t.prepd ∧ (t.setX d v).femode = t.femode := by
    unfold Stream.setX
    split <;> exact ⟨rfl, rfl, rfl, rfl⟩
  obtain ⟨hcond, hb, hprep, hmode⟩ := hrest
  exact ⟨fun _ h => getX_setX_ne t (fun e => h (congrArg some e.symm)) v, fun _ _ => by rw [Stream.getC, Stream.getC, hcond], hb, hprep, hmode⟩

theorem getC_setC_ne (t : Stream) {i j : BitVec 3} (h : j ≠ i) (v : Bool) : (t.setC i v).getC j = t.getC j := by
  have hne : j.toNat ≠ i.toNat := fun e => h (BitVec.eq_of_toNat_eq e)
  have hj : j.toNat < 8 := j.isLt
  have hbit : (1#8 <<< i.toNat).getLsbD j.toNat = false := by
    rw [← BitVec.twoPow_eq, BitVec.getLsbD_twoPow]
    simp [Ne.symm hne]
  cases v <;> simp only [Stream.getC, Stream.setC, BitVec.getLsbD_or, BitVec.getLsbD_and, BitVec.getLsbD_not, hbit, hj, if_true, Bool.false_eq_true, if_false] <;> simp

theorem keeps_setC (t : Stream) (c : BitVec 3) (v : Bool) : t.Keeps none (some c) (t.setC c v) :=
  ⟨fun _ _ => rfl, fun _ h => getC_setC_ne t (fun e => h (congrArg some e.symm)) v, rfl, rfl, rfl⟩

/-- What a body over its stream may answer that writes at most x(dst) and c(cdst): it does not issue, raises a cause, or completes. -/
inductive Writes (dst : Option (BitVec 6)) (cdst : Option (BitVec 3)) (t : Stream) : Act Stream → Prop where
  | hold : Writes dst cdst t .hold
  | trap (x : Trap) : Writes dst cdst t (.trap x)
  | done {u : Stream} (h : t.Keeps dst cdst u) : Writes dst cdst t (.done u)

section
variable {dst : Option (BitVec 6)} {cdst : Option (BitVec 3)} {t : Stream} {k : Act Stream}

theorem Writes.reads (h : Writes dst cdst t k) (rs : List (BitVec 6)) : Writes dst cdst t (t.reads rs k) := by
  unfold Stream.reads
  split
  · exact h
  · split
    · exact .trap _
    · exact .hold

theorem Writes.writes (h : Writes dst cdst t k) (d : BitVec 6) : Writes dst cdst t (t.writes d k) := by
  unfold Stream.writes
  split
  · exact h
  · exact .hold

theorem Writes.checked (h : Writes dst cdst t k) (x : Trap) (c : Prop) [Decidable c] : Writes dst cdst t (if c then .trap x else k) := by
  split
  · exact .trap x
  · exact h

theorem writes_setX (t : Stream) (d : BitVec 6) (v : BitVec 64) : Writes (some d) none t (t.writes d (.done (t.setX d v))) := (Writes.done (keeps_setX t d v)).writes d

theorem writes_op1 (t : Stream) (d a : BitVec 6) (f : BitVec 64 → BitVec 64) : Writes (some d) none t (t.op1 d a f) := (writes_setX t d _).reads [a]

theorem writes_op2 (t : Stream) (d a b : BitVec 6) (f : BitVec 64 → BitVec 64 → BitVec 64) : Writes (some d) none t (t.op2 d a b f) := (writes_setX t d _).reads [a, b]

theorem writes_setC (t : Stream) (c : BitVec 3) (v : Bool) : Writes none (some c) t (.done (t.setC c v)) := .done (keeps_setC t c v)

theorem writes_moveTag (d : BitVec 6) (full : Bool) (tag : BitVec 4) (t : Stream) : Writes (some d) none t (moveTag d full tag t) := by
  unfold moveTag
  split
  · exact writes_setX t d _
  · exact Writes.hold.checked _ _

end

/-- An instruction of any stream whose body writes at most x(dst) and c(cdst) of that stream. -/
def WritesAtMost (dst : Option (BitVec 6)) (cdst : Option (BitVec 3)) (i : Instr) : Prop :=
  ∃ r ev body, (∀ s, exec i s = plain anyStream r ev body s) ∧ ∀ e : Env, ∃ k : Act Stream, Writes dst cdst e.t k ∧ body e = onStream (fun _ => k) e

theorem WritesAtMost.of_onStream {dst : Option (BitVec 6)} {cdst : Option (BitVec 3)} {i : Instr} {r ev : BitVec 4} {k : Stream → Act Stream}
    (h : ∀ s, exec i s = plain anyStream r ev (onStream k) s) (hk : ∀ t, Writes dst cdst t (k t)) : WritesAtMost dst cdst i :=
  ⟨r, ev, _, h, fun e => ⟨k e.t, hk e.t, rfl⟩⟩

/-- The moves of a tag, which read a shared register (R190). -/
theorem writesAtMost_of_moveTag {i : Instr} {r : BitVec 4} {d : BitVec 6} {full : Env → Bool} {tag : Env → BitVec 4}
    (h : ∀ s, exec i s = plain anyStream r 0 (fun e => onStream (moveTag d (full e) (tag e)) e) s) : WritesAtMost (some d) none i :=
  ⟨r, 0, _, h, fun e => ⟨_, writes_moveTag d (full e) (tag e) e.t, rfl⟩⟩

/-- VANY and VALL, whose predicate may be damaged (R194, R416). -/
theorem writesAtMost_of_pred {i : Instr} {r : BitVec 4} {a c : BitVec 3} {f : BitVec 1024 → Stream → Bool}
    (h : ∀ s, exec i s = plain anyStream r 0 (readPred a (fun p t => t.setC c (f p t))) s) : WritesAtMost none (some c) i := by
  refine ⟨r, 0, _, h, fun e => ?_⟩
  unfold readPred
  split
  · exact ⟨_, .trap (.plain Cause.mcEcc), rfl⟩
  · exact ⟨_, writes_setC e.t c (f (e.g.pred a) e.t), rfl⟩

/-! ## The frame -/

/-- What an instruction leaves that writes at most x(dst) and c(cdst) of the current stream: the state but for the slot, and of the group every other
register. -/
structure LeavesAllBut (dst : Option (BitVec 6)) (cdst : Option (BitVec 3)) (s u : State) (g : Group) : Prop where
  slot : ∃ sl, u = s.setSlot s.curPlace sl
  group : ∃ h, u.group s.curPlace = some h ∧ (∀ o, o ≠ s.curStream → (h.stream o).operands = (g.stream o).operands) ∧
    h.shared = g.shared ∧ (s.here g).Keeps dst cdst (s.here h)

section
variable {dst : Option (BitVec 6)} {cdst : Option (BitVec 3)} {s u : State} {g g1 : Group}

/-- A change of the slot that keeps the registers of the group. -/
theorem leavesAllBut_of_sameHoldings {h : Group} (hslot : ∃ sl, u = s.setSlot s.curPlace sl) (hu : u.group s.curPlace = some h) (hk : SameHoldings g h) :
    LeavesAllBut dst cdst s u g := ⟨hslot, h, hu, fun o _ => hk.streams o, hk.shared, .of_operands (hk.streams s.curStream)⟩

theorem leavesAllBut_refl (hg : s.group s.curPlace = some g) : LeavesAllBut dst cdst s s g :=
  leavesAllBut_of_sameHoldings ⟨_, (setSlot_self s s.curPlace).symm⟩ hg (.refl g)

/-- A cause that is raised with the tokens taken, or before. -/
theorem leavesAllBut_raise {back : State} (hslot : ∃ sl, back = s.setSlot s.curPlace sl) (hb : back.group s.curPlace = some g1) (hk : SameHoldings g g1) (w : RaisedAt) (x : Trap) :
    LeavesAllBut dst cdst s (raise back s.curPlace w x) g := by
  obtain ⟨h, hu, hsame⟩ := raise_sameHoldings hb w x
  obtain ⟨sl, rfl⟩ := hslot
  obtain ⟨sl', e⟩ := raise_slot (s.setSlot s.curPlace sl) s.curPlace w x
  exact leavesAllBut_of_sameHoldings ⟨sl', by rw [e, State.setSlot_setSlot]⟩ hu (hk.trans hsame)

/-- The retirement of an instruction that has written its register. -/
theorem leavesAllBut_finishAt {t : Stream} (hk : SameHoldings g g1) (hw : (s.here g1).Keeps dst cdst t) (r ev : BitVec 4) :
    LeavesAllBut dst cdst s ((s.setGroup s.curPlace (g1.setStream s.curStream t)).finishAt s.curPlace s.curStream r ev) g := by
  obtain ⟨h, hu, hsame⟩ := finishAt_sameHoldings (State.group_setGroup s s.curPlace (g1.setStream s.curStream t)) s.curStream r ev
  rw [hu, State.setGroup_setGroup]
  have hself := hsame.streams s.curStream
  rw [Group.stream_setStream] at hself
  refine ⟨⟨_, rfl⟩, h, State.group_setGroup _ _ _, fun o ho => ?_, hsame.shared.trans hk.shared, ?_⟩
  · rw [hsame.streams o, Group.stream_setStream_ne _ _ ho, hk.streams o]
  · exact (Stream.Keeps.of_operands (hk.streams s.curStream)).trans (hw.trans (.of_operands hself))

/-- Whatever the issue of such an instruction comes to, it leaves all but the register that it writes. -/
theorem WritesAtMost.leavesAllBut {i : Instr} (h : WritesAtMost dst cdst i) (hg : s.group s.curPlace = some g) (he : exec i s = .next u) :
    LeavesAllBut dst cdst s u g := by
  obtain ⟨r, ev, body, hexec, hbody⟩ := h
  rw [hexec] at he
  rcases plainThen_cases he with rfl | ⟨w, x, rfl⟩ | ⟨k, g1, back, hk, hg1, hback, rfl⟩
  · exact leavesAllBut_refl hg
  · exact leavesAllBut_raise ⟨_, (setSlot_self s s.curPlace).symm⟩ hg (.refl g) w x
  · cases hg.symm.trans hk
    have hsame : SameHoldings g g1 := by
      rcases hg1 with rfl | rfl
      · exact sameHoldings_taken s g r
      · exact sameHoldings_refill g s.curStream
    obtain ⟨a, ha, hb⟩ := hbody (s.envOf g1)
    rw [hb]
    cases ha with
    | hold => exact leavesAllBut_refl hg
    | trap x =>
      show LeavesAllBut dst cdst s (raise back s.curPlace { stream := s.curStream, queue := none, async := false, fpc := (s.envOf g1).t.pc } x) g
      rcases hback with hback | hback <;> rw [hback]
      · exact leavesAllBut_raise ⟨_, (setSlot_self s s.curPlace).symm⟩ hg (.refl g) _ x
      · exact leavesAllBut_raise ⟨_, rfl⟩ (State.group_setGroup s s.curPlace g1) hsame _ x
    | done hw =>
      show LeavesAllBut dst cdst s (if canPlace g1 s.curStream r = true then
        ((s.setGroup s.curPlace g1).setGroup s.curPlace (g1.setStream s.curStream _)).finishAt s.curPlace s.curStream r ev else s.setGroup s.curPlace g1) g
      split
      · rw [State.setGroup_setGroup]
        exact leavesAllBut_finishAt hsame hw r ev
      · exact leavesAllBut_of_sameHoldings ⟨_, rfl⟩ (State.group_setGroup s s.curPlace g1) hsame

end

/-- Settles O15: the body of each of the instructions writes at most its register, and issue, a cause and retirement leave every other. -/
theorem scalarInstructionsChangeNothingElse : Obligations.ScalarInstructionsChangeNothingElse := by
  unfold Obligations.ScalarInstructionsChangeNothingElse
  intro s u g g' i dst cdst hi he hg hg'
  have hwrites : WritesAtMost dst cdst i := by
    rcases hi with ⟨r, d, a, b, rfl, rfl, hi⟩ | ⟨r, d, a, rfl, rfl, hi⟩ | ⟨r, ev, d, rfl, rfl, hi⟩ | ⟨r, c, rfl, rfl, hi⟩
    · rcases hi with rfl | rfl | rfl | rfl | rfl | rfl | rfl | rfl | rfl | rfl | rfl | rfl | rfl | rfl | rfl | rfl | rfl | rfl | rfl | ⟨k, rfl⟩ <;>
        exact .of_onStream (fun _ => rfl) (fun t => writes_op2 t d a b _)
    · rcases hi with rfl | rfl | rfl | rfl | ⟨k, rfl | rfl | rfl | rfl⟩ | ⟨k, rfl | rfl | rfl⟩ | rfl
      case inr.inr.inr.inr.inr.inr => exact writesAtMost_of_moveTag (full := fun e => (e.g.v.get a.toFin).full) (tag := fun e => (e.g.v.get a.toFin).tag) (fun _ => rfl)
      all_goals exact .of_onStream (fun _ => rfl) (fun t => writes_op1 t d a _)
    · rcases hi with ⟨k, rfl⟩ | ⟨h, l, rfl⟩ | ⟨v, rfl⟩ | ⟨a, rfl | rfl⟩ | ⟨a, rfl⟩ | ⟨a, p, l, k, rfl⟩ | ⟨a, b, p, l, rfl⟩ | ⟨a, b, c, rfl⟩
      · exact .of_onStream (fun _ => rfl) (fun t => writes_setX t d _)
      · exact .of_onStream (fun _ => rfl) (fun t => writes_setX t d _)
      · exact .of_onStream (fun _ => rfl) (fun t => (Writes.done (keeps_setX t d _)).reads [d])
      · exact .of_onStream (fun _ => rfl) (fun t => writes_setX t d _)
      · exact .of_onStream (fun _ => rfl) (fun t => writes_setX t d _)
      · exact writesAtMost_of_moveTag (full := fun e => (e.g.t.get a.toFin).full) (tag := fun e => (e.g.t.get a.toFin).tag) (fun _ => rfl)
      · exact .of_onStream (fun _ => rfl) (fun t => ((writes_setX t d _).checked _ _).reads [a])
      · exact .of_onStream (fun _ => rfl) (fun t => ((writes_setX t d _).checked _ _).reads [a, b])
      · exact .of_onStream (fun _ => rfl) (fun t => writes_op2 t d a b _)
    · rcases hi with ⟨a, b, k, rfl⟩ | ⟨a, k, n, rfl⟩ | ⟨a, b, rfl | rfl⟩ | ⟨a, rfl⟩ | ⟨a, w, rfl | rfl⟩
      · exact .of_onStream (fun _ => rfl) (fun t => (writes_setC t c _).reads [a, b])
      · exact .of_onStream (fun _ => rfl) (fun t => (writes_setC t c _).reads [a])
      · exact .of_onStream (fun _ => rfl) (fun t => writes_setC t c _)
      · exact .of_onStream (fun _ => rfl) (fun t => writes_setC t c _)
      · exact .of_onStream (fun _ => rfl) (fun t => writes_setC t c _)
      · exact writesAtMost_of_pred (fun _ => rfl)
      · exact writesAtMost_of_pred (fun _ => rfl)
  obtain ⟨⟨sl, rfl⟩, h, hh, hothers, hshared, hown⟩ := hwrites.leavesAllBut hg he
  cases hg'.symm.trans hh
  simp only [Group.shared, Prod.mk.injEq] at hshared
  obtain ⟨hv, ht, hp, hhh, hmrs, hvrs, hpages, hsync, hchans⟩ := hshared
  refine ⟨fun _ => rfl, fun _ => rfl, fun q hq => State.slot_setSlot_ne s _ hq, rfl, rfl, rfl, rfl, rfl, rfl, rfl, fun st hst => ?_,
    hv, ht, hp, hhh, hmrs, hvrs, hpages, hsync, hchans, hown.scalars, hown.conds, hown.targets, hown.prepared, hown.mode⟩
  have hst := hothers st hst
  simp only [Stream.operands, Prod.mk.injEq] at hst
  exact ⟨hst.1, hst.2.1⟩

end Sys2Proof.Machine
end

section
/-! PROOFS. TRAP, BRK, TRET and words that do not decode (R68, R71, R102, R165, R206, R210, R211, R383, R385, R392, R407). -/

namespace Sys2Proof.Machine

open Sys2Proof

/-! ## The end of a step where a group stops (R405) -/

/-- A group that is being stopped is not halted by a step. -/
theorem stepHalt_of_stopping {s : State} {p : Place} {g : Group} (hg : s.group p = some g) (h : g.stopping ≠ .no) : stepHalt s p = s := by
  have hslot : (s.slot p).group = some g := hg
  unfold stepHalt
  dsimp only
  rw [hslot]
  dsimp only
  split
  · exact absurd ‹_› h
  · rfl

/-- A slot that does not run is not halted by a step. -/
theorem stepHalt_of_not_running {s : State} {p : Place} (h : (s.slot p).state ≠ .running) : stepHalt s p = s := by
  unfold stepHalt
  dsimp only
  split
  · rfl
  · split
    · rw [beq_eq_false_iff_ne.2 h, Bool.false_and, Bool.false_and, if_neg Bool.false_ne_true]
    · rfl

/-- After a cause the end of a step halts nothing: the group stops for the cause, or was over or halted before. -/
theorem stepHalt_raise (s : State) (p : Place) (w : RaisedAt) (t : Trap) : stepHalt (raise s p w t) p = raise s p w t := by
  unfold raise
  dsimp only
  split
  · exact stepHalt_of_none ‹_›
  · split
    · exact stepHalt_of_not_running (by rw [State.slot_setSlot]; simp [*])
    · split
      · exact stepHalt_of_stopping (State.group_setGroup _ _ _) (by simp)
      · exact stepHalt_of_stopping ‹_› (by simp [*])
      · exact stepHalt_of_stopping (congrArg Slot.group (State.slot_setSlot s p _)) (by simp)

/-! ## TRAP and BRK (R210, R211) -/

/-- An instruction that goes on to NPC and raises a cause retires first (R206, R210). -/
theorem plainThen_pastTrap {s : State} {g : Group} {r : BitVec 4} {x : Env → State → Trap} (hc : CanRun s g anyStream r) :
    let e := s.env g r
    let u := retire (e.s.setGroup s.curPlace (e.g.setStream s.curStream (e.t.land.goto e.t.npc (lengthAt e.s s.curPlace e.g e.t.land e.t.npc)))) s.curPlace s.curStream r 0
    plainThen anyStream r 0 pastTrap (fun e s => raise s e.p { stream := e.st, queue := none, async := false, fpc := e.t.pc } (x e s)) s =
      .next (raise u s.curPlace { stream := s.curStream, queue := none, async := false, fpc := (s.here g).pc } (x e u)) := by
  intro e u
  rw [plainThen_jumpOn hc (s2 := e.s) (pc := e.t.npc) rfl (State.group_setGroup s s.curPlace (s.taken g r)), ← pc_taken s g r]
  exact congrArg _ (stepHalt_raise ..)

/-! ## TRET (R392) -/

/-- What TRET waits for before it looks at its image: the other traps of its cycle, the group's stores to the scratchpad, its releases, and the banks of the
image's pages (R71, R102, R407; log 32). -/
def tretWaits (e : Env) : Bool :=
  (match e.g.stopping with | .trap _ => true | _ => false) ||
  StreamId.all.any (fun st => (e.g.stream st).stores.any (fun q => q.parts.any (fun y => (match y.loc with | .spad _ => true | .mem _ => false) ||
    (match y.scale with | some z => (match z.loc with | .spad _ => true | .mem _ => false) | none => false)))) ||
  !releaseDone e.s e.p e.t 4 || bankLocked e.s e.p none 0x200000 objLen

/-- The places of the image's pages in the window (R391). -/
def imagePlaces : List Loc := (List.range 4).map (fun i => .spad (0x200000 + 65536 * i))

section
variable {e : Env} {x : Trapped} (hx : e.g.trapped = some x)
include hx

theorem tret_of_waits (h : tretWaits e = true) : tret e = .wait e.s := by
  simp only [tret, hx]
  exact if_pos h

/-- TRET where it need not wait for the group: the dies of the image's pages, then their frames, then the checks. -/
theorem tret_of_clear (h : tretWaits e = false) : tret e =
    match imageDead e.s e.p e.g with
    | some off => .trap (Trap.at Cause.paNodie (BitVec.ofNat 64 (windowBase + off)) 0)
    | none =>
      match readyPages e.s e.p e.g imagePlaces with
      | .wait s0 => .wait s0
      | .ready s0 =>
        if imageOk (writeImage s0 e.p e.g x.frame) (objPages x.frame) then .done (writeImage s0 e.p e.g x.frame) else .trapIn s0 (.plain Cause.coDesc) := by
  simp only [tret, hx]
  exact if_neg (show ¬ tretWaits e = true by rw [h]; exact Bool.false_ne_true)

section
variable (hw : tretWaits e = false)
include hw

theorem tret_of_dead {off : Nat} (h : imageDead e.s e.p e.g = some off) : tret e = .trap (Trap.at Cause.paNodie (BitVec.ofNat 64 (windowBase + off)) 0) := by
  rw [tret_of_clear hx hw, h]

variable (hd : imageDead e.s e.p e.g = none) {s0 : State}
include hd

theorem tret_of_unready (h : readyPages e.s e.p e.g imagePlaces = .wait s0) : tret e = .wait s0 := by
  rw [tret_of_clear hx hw, hd, h]

theorem tret_of_ready (h : readyPages e.s e.p e.g imagePlaces = .ready s0) : tret e =
    if imageOk (writeImage s0 e.p e.g x.frame) (objPages x.frame) then .done (writeImage s0 e.p e.g x.frame) else .trapIn s0 (.plain Cause.coDesc) := by
  rw [tret_of_clear hx hw, hd, h]

end
end

/-! ## The slots after the image's pages have been touched and written -/

/-- A page that is ready leaves the slots as they were. -/
theorem slots_of_ensureFrame_ready {s s0 : State} {p : Place} {g : Group} {page : Fin 64} (h : ensureFrame s p g page = .ready s0) : s0.slots = s.slots := by
  unfold ensureFrame at h
  split at h
  · split at h
    · cases h
    · cases h; rfl
  · split at h
    · split at h <;> cases h
    · cases h; rfl

/-- What a page of the window adds to what the pages before it came to (R68). -/
def afterPage (p : Place) (g : Group) : FrameRes → Loc → FrameRes
  | .ready s, .spad off => ensureFrame s p g (pageOf off)
  | .wait s, .spad off => (match ensureFrame s p g (pageOf off) with | .ready s => .wait s | .wait s => .wait s)
  | acc, .mem _ => acc

theorem readyPages_eq (s : State) (p : Place) (g : Group) (locs : List Loc) : readyPages s p g locs = locs.foldl (afterPage p g) (.ready s) := by
  unfold readyPages
  congr 1
  funext acc l
  cases acc <;> cases l <;> rfl

/-- A page comes out ready only where those before it did, and it leaves the slots as they were. -/
theorem afterPage_ready {p : Place} {g : Group} {acc : FrameRes} {l : Loc} {s0 : State} (h : afterPage p g acc l = .ready s0) :
    ∃ s1, acc = .ready s1 ∧ s0.slots = s1.slots := by
  match acc, l with
  | .ready s1, .spad off => exact ⟨s1, rfl, slots_of_ensureFrame_ready h⟩
  | .ready s1, .mem _ => cases h; exact ⟨_, rfl, rfl⟩
  | .wait _, .spad off => simp only [afterPage] at h; split at h <;> cases h
  | .wait _, .mem _ => cases h

/-- Pages that are all ready leave the slots as they were. -/
theorem slots_of_readyPages_ready {p : Place} {g : Group} {locs : List Loc} {s s0 : State} (h : readyPages s p g locs = .ready s0) : s0.slots = s.slots := by
  rw [readyPages_eq] at h
  refine List.foldlRecOn (motive := fun acc => ∀ u, acc = FrameRes.ready u → u.slots = s.slots) _ _ ?_ (fun acc hacc l _ u hu => ?_) s0 h
  · rintro _ ⟨⟩
    rfl
  · obtain ⟨s1, h1, hs⟩ := afterPage_ready hu
    exact hs.trans (hacc s1 h1)

theorem slots_putPoison (s : State) (pa : Nat) : (putPoison s pa).slots = s.slots := by
  unfold putPoison
  split <;> rfl

theorem slots_writeImage (s : State) (p : Place) (g : Group) (frame : Nat) : (writeImage s p g frame).slots = s.slots := by
  refine slots_foldl (fun s i => ?_) _ s
  dsimp only
  split
  · exact (slots_putPoison ..).trans ((slots_homeWrite ..).trans (slots_l2Touch ..))
  · exact (slots_homeWrite ..).trans (slots_l2Touch ..)

/-! ## The handler group that TRET stops -/

/-- A handler group as TRET leaves it (R392). -/
def handlerStopped (g : Group) : Group := { cancelAll g with stopping := .tret }

/-- The slot of a handler group as TRET leaves it (R392). -/
def slotStopped (sl : Slot) (g : Group) : Slot := { sl with group := some (handlerStopped g), gen := sl.gen + 1, state := .fencing }

theorem stopHandler_setGroup (e : Env) (s : State) (g : Group) : stopHandler e (s.setGroup e.p g) = s.setSlot e.p (slotStopped (s.slot e.p) g) := by
  unfold stopHandler
  rw [State.slot_setGroup]
  exact State.setSlot_setSlot s e.p _ _

/-- TRET of an image that passes the checks: the group retires and stops, and the end of the step halts nothing. -/
theorem exec_tret_of_done {s w : State} {g k : Group} {r : BitVec 4} (hc : CanRun s g anyStream r) (hb : tret (s.env g r) = .done w)
    (hg : w.group s.curPlace = some k) : exec (.tret r) s = .next (w.setSlot s.curPlace (slotStopped (w.slot s.curPlace)
      (retiredGroup k s.curStream r 0 (advance w s.curPlace k (k.stream s.curStream))))) := by
  show plainThen anyStream r 0 tret stopHandler s = _
  rw [plainThen_retire hc hb hg, retire_setGroup]
  have hstop := stopHandler_setGroup (s.env g r) w (retiredGroup k s.curStream r 0 (advance w s.curPlace k (k.stream s.curStream)))
  rw [show (s.env g r).p = s.curPlace from rfl] at hstop
  rw [hstop]
  exact congrArg _ (stepHalt_of_stopping (congrArg Slot.group (State.slot_setSlot w s.curPlace _)) (by simp [handlerStopped]))

/-- What the stop of a handler group keeps of it. -/
theorem handlerStopped_keeps (g : Group) : (handlerStopped g).trapped = g.trapped ∧ (∀ o, ((handlerStopped g).stream o).seq = (g.stream o).seq) ∧
    (handlerStopped g).v = g.v ∧ (handlerStopped g).t = g.t := by
  have hcancel := cancelled_cancelAll g
  unfold handlerStopped
  generalize cancelAll g = k at hcancel ⊢
  obtain ⟨hstreams, hrest⟩ := hcancel
  show k.trapped = g.trapped ∧ (∀ o, (k.stream o).seq = (g.stream o).seq) ∧ k.v = g.v ∧ k.t = g.t
  exact ⟨(congrArg Group.trapped hrest :), fun o => (congrArg Stream.seq (hstreams o) :), (congrArg Group.v hrest :), (congrArg Group.t hrest :)⟩

/-- What a retirement keeps of its group. -/
theorem retiredGroup_keeps (g : Group) (st : StreamId) (r ev : BitVec 4) (t : Stream) :
    (retiredGroup g st r ev t).trapped = g.trapped ∧ (retiredGroup g st r ev t).v = g.v ∧ (retiredGroup g st r ev t).t = g.t := by
  rw [retiredGroup, postEv_eq, placeTok_eq]
  exact ⟨rfl, rfl, rfl⟩

/-- A retirement counts one instruction. -/
theorem retiredGroup_seq (s w : State) (g : Group) (r ev : BitVec 4) :
    ((retiredGroup (s.taken g r) s.curStream r ev (advance w s.curPlace (s.taken g r) ((s.taken g r).stream s.curStream))).stream s.curStream).seq =
      (s.here g).seq + 1 := by
  rw [retiredGroup_stream, Stream.retireCounts, advance_seq]
  exact (congrArg (fun t : Stream => t.seq + 1) (here_taken s g r) :)

/-- TRET of an image that passes the checks retires its group, one instruction the further, and stops it (R392). -/
theorem exec_tret_of_good {s w : State} {g : Group} {r : BitVec 4} {x : Trapped} (hc : CanRun s g anyStream r) (hx : g.trapped = some x)
    (hb : tret (s.env g r) = .done w) (hslot : w.slot s.curPlace = (s.began g r).slot s.curPlace) :
    ∃ t g', exec (.tret r) s = .next t ∧ t.group s.curPlace = some g' ∧ g'.stopping = .tret ∧ g'.trapped = some x ∧
      (t.slot s.curPlace).state = .fencing ∧ (t.slot s.curPlace).gen = (s.slot s.curPlace).gen + 1 ∧ t.mem = w.mem ∧ t.poison = w.poison ∧
      (s.here g').seq = (s.here g).seq + 1 ∧ g'.v = g.v ∧ g'.t = g.t := by
  rw [State.began, State.slot_setGroup] at hslot
  have hexec := exec_tret_of_done hc hb (congrArg Slot.group hslot)
  have hseq := retiredGroup_seq s w g r 0
  obtain ⟨htrapped, hv, ht⟩ := retiredGroup_keeps (s.taken g r) s.curStream r 0 (advance w s.curPlace (s.taken g r) ((s.taken g r).stream s.curStream))
  generalize retiredGroup _ _ r 0 _ = k at hexec hseq htrapped hv ht
  obtain ⟨htrapped', hseq', hv', ht'⟩ := handlerStopped_keeps k
  have hstopped : (w.setSlot s.curPlace (slotStopped (w.slot s.curPlace) k)).slot s.curPlace = slotStopped (w.slot s.curPlace) k := State.slot_setSlot ..
  refine ⟨_, handlerStopped k, hexec, congrArg Slot.group hstopped, rfl, (htrapped'.trans htrapped).trans hx,
    congrArg Slot.state hstopped, (congrArg Slot.gen hstopped).trans ?_, State.setSlot_mem .., State.setSlot_poison ..,
    (hseq' s.curStream).trans hseq, hv'.trans hv, ht'.trans ht⟩
  exact (congrArg (fun sl : Slot => sl.gen + 1) hslot :)

/-! ## Words that do not decode (R165) -/

/-- The cause of an encoding error (R165, R385). -/
def encCause : EncError → BitVec 10
  | .zero => Cause.encZero
  | .perm => Cause.encPerm
  | .major => Cause.encMajor
  | .func => Cause.encFunc
  | .rsvd | .truncated => Cause.encRsvd

/-- A word that does not decode, in a stream that may issue, raises its cause there. -/
theorem exec_illegalEncoding {s : State} {g : Group} (hg : s.group s.curPlace = some g) (hissue : canIssue (s.slot s.curPlace) g s.curStream = true) (x : EncError) :
    exec (.illegalEncoding x) s = .next (s.traps g (.plain (encCause x))) := by
  show execIllegalEncoding x s = _
  simp only [execIllegalEncoding, hg, hissue]
  cases x <;> rfl

/-- Settles O46: TRAP and BRK retire and then raise; TRET, by what it waits for and what it finds; and the cause of each encoding error. -/
theorem trapInstructionsComplete : Obligations.TrapInstructionsComplete := by
  unfold Obligations.TrapInstructionsComplete
  refine ⟨fun s g r n k hc => ?_, fun s g hg hissue => ?_⟩
  · intro e u raises
    have hdbg : (u.slot s.curPlace).dbg = (s.slot s.curPlace).dbg := by
      simp only [u]
      rw [retire_setGroup, State.slot_setGroup]
      exact (congrArg Slot.dbg (State.slot_setGroup s s.curPlace (s.taken g r)) :)
    refine ⟨plainThen_pastTrap hc, ?_, fun hx => ?_, fun x hx => ?_⟩
    · rw [← hdbg]
      exact plainThen_pastTrap hc
    · exact plainThen_trap (after := stopHandler) hc (by simp only [tret, show (s.env g r).g.trapped = none from hx])
    · have hx' : e.g.trapped = some x := hx
      intro spad stopped waits dead pages
      refine ⟨fun hw hcut => plainThen_wait (after := stopHandler) hc hcut (tret_of_waits hx' hw),
        fun hw off hd => plainThen_trap (after := stopHandler) hc (tret_of_dead hx' hw hd),
        fun hw hd hcut s0 hp => plainThen_wait (after := stopHandler) hc hcut (tret_of_unready hx' hw hd hp), fun hw hd s0 hp => ?_⟩
      have hbody := tret_of_ready hx' hw hd hp
      refine ⟨fun hbad => plainThen_trapIn (after := stopHandler) hc (hbody.trans (if_neg (Bool.eq_false_iff.1 hbad))), fun hgood _ _ => ?_⟩
      exact exec_tret_of_good hc hx (hbody.trans (if_pos hgood))
        (congrArg (fun x => x.get s.curPlace) ((slots_writeImage ..).trans (slots_of_readyPages_ready hp)))
  · exact ⟨exec_illegalEncoding hg hissue .zero, exec_illegalEncoding hg hissue .perm, exec_illegalEncoding hg hissue .major,
      exec_illegalEncoding hg hissue .func, exec_illegalEncoding hg hissue .rsvd⟩

end Sys2Proof.Machine
end

section
/-! PROOFS. What the scalar instructions compute, as numbers (R186, R187, R189 to R191). -/

namespace Sys2Proof.Machine

open Sys2Proof

/-! ## Shifts, products and quotients (R186, R187) -/

theorem shiftLeft_eq_ofNat (x : BitVec 64) (k : Nat) : x <<< k = BitVec.ofNat 64 (x.toNat * 2 ^ k) := by
  apply BitVec.eq_of_toNat_eq
  rw [BitVec.toNat_shiftLeft, BitVec.toNat_ofNat, Nat.shiftLeft_eq]

theorem ushiftRight_eq_ofNat (x : BitVec 64) (k : Nat) : x >>> k = BitVec.ofNat 64 (x.toNat / 2 ^ k) := by
  rw [← Nat.shiftRight_eq_div_pow, ← BitVec.toNat_ushiftRight, BitVec.ofNat_toNat, BitVec.setWidth_eq]

theorem sshiftRight_eq_ofInt (x : BitVec 64) (k : Nat) : x.sshiftRight k = BitVec.ofInt 64 (x.toInt / 2 ^ k) := by
  rw [BitVec.sshiftRight_eq, Int.shiftRight_eq_div_pow]
  rfl

theorem divS_eq (x y : BitVec 64) : divS x y = if y = 0 then BitVec.ofInt 64 (-1) else BitVec.ofInt 64 (x.toInt.tdiv y.toInt) := by
  have hquot : x.sdiv y = BitVec.ofInt 64 (x.toInt.tdiv y.toInt) :=
    BitVec.eq_of_toInt_eq (by rw [BitVec.toInt_sdiv, BitVec.toInt_ofInt])
  rw [divS, hquot]
  rfl

theorem divU_eq (x y : BitVec 64) : divU x y = if y = 0 then BitVec.ofInt 64 (-1) else BitVec.ofNat 64 (x.toNat / y.toNat) := by
  rw [divU, ← BitVec.toNat_udiv, BitVec.ofNat_toNat, BitVec.setWidth_eq]
  rfl

theorem remS_eq (x y : BitVec 64) : remS x y = if y = 0 then x else BitVec.ofInt 64 (x.toInt.tmod y.toInt) := by
  rw [remS, ← BitVec.toInt_srem, BitVec.ofInt_toInt]

theorem remU_eq (x y : BitVec 64) : remU x y = if y = 0 then x else BitVec.ofNat 64 (x.toNat % y.toNat) := by
  rw [remU, ← BitVec.toNat_umod, BitVec.ofNat_toNat, BitVec.setWidth_eq]

/-! ## Leading and trailing zeros (R186) -/

/-- How many numbers from 0 on pass a test: each of them does, and the next one does not. -/
theorem length_takeWhile_range (n : Nat) (f : Nat → Bool) : let k := ((List.range n).takeWhile (fun i => !f i)).length
    k ≤ n ∧ (∀ i, i < k → f i = false) ∧ (k < n → f k = true) := by
  intro k
  have hk : k = (List.range n).findIdx f := by
    have hle := List.findIdx_le_length (p := f) (xs := List.range n)
    simp only [k, List.takeWhile_eq_take_findIdx_not, Bool.not_not, List.length_take, Nat.min_eq_left hle]
  have hle : k ≤ n := (List.length_range (n := n)) ▸ hk ▸ List.findIdx_le_length
  refine ⟨hle, fun i hi => ?_, fun hlt => ?_⟩
  · have hnot := List.not_of_lt_findIdx (hk ▸ hi)
    rwa [List.getElem_range] at hnot
  · have hidx : (List.range n).findIdx f < (List.range n).length := by rw [List.length_range, ← hk]; exact hlt
    have hyes := List.findIdx_getElem (w := hidx)
    rwa [List.getElem_range, ← hk] at hyes

/-! ## Bit fields and concatenations (R189, R191) -/

/-- The value of LIHI: the upper bits given, the lower ones kept (R189). -/
theorem append_eq_ofNat (v : BitVec 21) (x : BitVec 64) : v ++ x.extractLsb' 0 43 = BitVec.ofNat 64 (v.toNat * 2 ^ 43 + x.toNat % 2 ^ 43) := by
  have hv := v.isLt
  have hlow : x.toNat % 2 ^ 43 < 2 ^ 43 := Nat.mod_lt _ (by decide)
  apply BitVec.eq_of_toNat_eq
  rw [BitVec.toNat_append, BitVec.extractLsb'_toNat, Nat.shiftRight_zero, ← Nat.shiftLeft_add_eq_or_of_lt hlow, Nat.shiftLeft_eq, BitVec.toNat_ofNat]
  exact (Nat.mod_eq_of_lt (by omega)).symm

theorem zext64_eq_ofNat (x : BitVec 64) (n : Nat) : zext64 x n = BitVec.ofNat 64 (x.toNat % 2 ^ n) := by
  have hx := x.isLt
  unfold zext64
  split
  next h =>
    have hpow : 2 ^ 64 ≤ 2 ^ n := Nat.pow_le_pow_right (by decide) h
    rw [Nat.mod_eq_of_lt (by omega), BitVec.ofNat_toNat, BitVec.setWidth_eq]
  next h =>
    have hpow : 2 ^ n < 2 ^ 64 := Nat.pow_lt_pow_right (by decide) (by omega)
    have hmod : x.toNat % 2 ^ n ≤ x.toNat := Nat.mod_le _ _
    apply BitVec.eq_of_toNat_eq
    rw [BitVec.toNat_and, BitVec.toNat_ofNat, BitVec.toNat_ofNat, Nat.mod_eq_of_lt (a := 2 ^ n - 1) (by omega), Nat.and_two_pow_sub_one_eq_mod]
    exact (Nat.mod_eq_of_lt (by omega)).symm

/-- The bits of BFI: the field comes from the second operand, the rest from the first (R191). -/
theorem bitInsert_bits (x y : BitVec 64) (pos len i : Nat) (hi : i < 64) :
    (bitInsert x y pos len).getLsbD i = if pos ≤ i ∧ i < pos + len then y.getLsbD (i - pos) else x.getLsbD i := by
  have hmask : (BitVec.ofNat 64 (2 ^ len - 1) <<< pos).getLsbD i = decide (pos ≤ i ∧ i < pos + len) := by
    rw [BitVec.getLsbD_shiftLeft, BitVec.getLsbD_ofNat, Nat.testBit_two_pow_sub_one]
    by_cases h : pos ≤ i
    · have h1 : i - pos < 64 := by omega
      have h2 : i - pos < len ↔ i < pos + len := by omega
      simp [hi, h, h1, h2]
    · simp [h, Nat.lt_of_not_le h]
  simp only [bitInsert, BitVec.getLsbD_or, BitVec.getLsbD_and, BitVec.getLsbD_not, hmask, BitVec.getLsbD_shiftLeft, hi]
  by_cases h : pos ≤ i ∧ i < pos + len
  · simp [h]
  · simp [h]

theorem lea_eq_ofNat (x y : BitVec 64) (k : Nat) : x + y <<< k = BitVec.ofNat 64 (x.toNat + y.toNat * 2 ^ k) := by
  rw [BitVec.ofNat_add, BitVec.ofNat_toNat, BitVec.setWidth_eq, shiftLeft_eq_ofNat]

/-- An unsigned field (R191). -/
theorem zext64_field (x : BitVec 64) (pos n : Nat) : zext64 (x >>> pos) n = BitVec.ofNat 64 (x.toNat / 2 ^ pos % 2 ^ n) := by
  rw [zext64_eq_ofNat, BitVec.toNat_ushiftRight, Nat.shiftRight_eq_div_pow]

/-- A signed field (R191). -/
theorem sext64_field (x : BitVec 64) (pos : Nat) {n : Nat} (h0 : 0 < n) (h64 : n ≤ 64) :
    sext64 (x >>> pos) n = (BitVec.ofNat n (x.toNat / 2 ^ pos)).signExtend 64 := by
  rw [sext64_eq_signExtend _ h0 h64, ← BitVec.ofNat_toNat n, BitVec.toNat_ushiftRight, Nat.shiftRight_eq_div_pow]

/-! ## Comparisons that choose (R186) -/

theorem ite_slt (x y a b : BitVec 64) : (if x.slt y then a else b) = if x.toInt < y.toInt then a else b := if_congr BitVec.slt_iff_toInt_lt rfl rfl

theorem ite_ult (x y a b : BitVec 64) : (if x.ult y then a else b) = if x.toNat < y.toNat then a else b := if_congr BitVec.ult_iff_toNat_lt rfl rfl

end Sys2Proof.Machine
end

section
/-! PROOFS. The register-register, immediate, constant, move, bit-field and select instructions (R186 to R191). -/

namespace Sys2Proof.Machine

open Sys2Proof

/-! ## Bodies that read full registers and write one (R65, R186) -/

section
variable {s : State} {g : Group} {r ev : BitVec 4} {d a b : BitVec 6} (hc : CanRun s g anyStream r)

theorem fulls_taken {rs : List (BitVec 6)} (h : (s.here g).fulls rs) : (s.here (s.taken g r)).fulls rs := fulls_env h

section
variable (hf : (s.here g).fulls [a, b, d])
include hf

theorem fulls_pair_taken : (s.here (s.taken g r)).fulls [a, b] := fulls_taken (fulls_of_subset hf (by simp))

theorem fulls_first_taken : (s.here (s.taken g r)).fulls [a] := fulls_taken (fulls_of_subset hf (by simp))

theorem isFull_dest_taken : (s.here (s.taken g r)).isFull d = true := (isFull_taken s g r d).trans (List.all_eq_true.1 hf d (by simp))

include hc

/-- An operation on two full registers into a third, which may look at the rest of its stream (R186, R191). -/
theorem plain_op2 {f : Stream → BitVec 64 → BitVec 64 → BitVec 64} {v : BitVec 64} (hv : f (s.here (s.taken g r)) ((s.here g).getX a) ((s.here g).getX b) = v) :
    plain anyStream r ev (onStream (fun t => t.op2 d a b (f t))) s = .next (s.after g r ev (fun t => t.setX d v)) := by
  refine onStream_done hc ?_
  rw [Stream.op2, reads_of_fulls (fulls_pair_taken hf), writes_of_full (isFull_dest_taken hf), getX_taken, getX_taken, hv]

/-- An operation on one full register into another (R186, R188). -/
theorem plain_op1 {f : BitVec 64 → BitVec 64} {v : BitVec 64} (hv : f ((s.here g).getX a) = v) :
    plain anyStream r ev (onStream (fun t => t.op1 d a f)) s = .next (s.after g r ev (fun t => t.setX d v)) := by
  refine onStream_done hc ?_
  rw [Stream.op1, reads_of_fulls (fulls_first_taken hf), writes_of_full (isFull_dest_taken hf), getX_taken, hv]

/-- A value that the stream gives without a scalar operand (R189, R190). -/
theorem plain_setX {f : Stream → BitVec 64} {v : BitVec 64} (hv : f (s.here (s.taken g r)) = v) :
    plain anyStream r ev (onStream (fun t => t.writes d (.done (t.setX d (f t))))) s = .next (s.after g r ev (fun t => t.setX d v)) := by
  refine onStream_done hc ?_
  rw [writes_of_full (isFull_dest_taken hf), hv]

end

end

/-- Settles O10: each instruction is one operation on full registers, and the operation is the number the table names. -/
theorem scalarRegisterOperationsGiveTheirResults : Obligations.ScalarRegisterOperationsGiveTheirResults := by
  unfold Obligations.ScalarRegisterOperationsGiveTheirResults
  intro s g r d a b hc hf A B gives
  refine ⟨plain_op2 hc hf rfl, plain_op2 hc hf rfl, plain_op2 hc hf rfl, plain_op2 hc hf rfl, plain_op2 hc hf rfl, ?shl, ?shr, ?sra, plain_op2 hc hf rfl,
    plain_op2 hc hf rfl, plain_op2 hc hf rfl, ?div, ?divu, ?rem, ?remu, ?min, ?max, ?minu, ?maxu, ?clz, ?ctz, ?popc, ?brev⟩
  case shl => exact plain_op2 hc hf (shiftLeft_eq_ofNat A _)
  case shr => exact plain_op2 hc hf (ushiftRight_eq_ofNat A _)
  case sra => exact plain_op2 hc hf (sshiftRight_eq_ofInt A _)
  case div => exact plain_op2 hc hf (divS_eq A B)
  case divu => exact plain_op2 hc hf (divU_eq A B)
  case rem => exact plain_op2 hc hf (remS_eq A B)
  case remu => exact plain_op2 hc hf (remU_eq A B)
  case min => exact plain_op2 hc hf (ite_slt A B A B)
  case max => exact plain_op2 hc hf (ite_slt B A A B)
  case minu => exact plain_op2 hc hf (ite_ult A B A B)
  case maxu => exact plain_op2 hc hf (ite_ult B A A B)
  case clz => exact ⟨_, plain_op1 hc hf rfl, length_takeWhile_range 64 (fun i => A.getLsbD (63 - i))⟩
  case ctz => exact ⟨_, plain_op1 hc hf rfl, length_takeWhile_range 64 (fun i => A.getLsbD i)⟩
  case popc => exact plain_op1 hc hf (congrArg (BitVec.ofNat 64) List.countP_eq_length_filter.symm)
  case brev =>
    refine ⟨_, plain_op1 hc hf rfl, fun i hi => ?_⟩
    rw [BitVec.getLsbD_reverse, BitVec.getMsbD, decide_eq_true hi, Bool.true_and]

/-! ## Bit fields (R191) -/

section
variable {s : State} {g : Group} {r ev : BitVec 4} {d a b pos len : BitVec 6} (hc : CanRun s g anyStream r) (hf : (s.here g).fulls [a, b, d])
include hc hf

section
variable (hin : pos.toNat + (len.toNat + 1) ≤ 64)
include hin

theorem exec_bfx_in_range (sg : BitVec 1) : exec (.bfx r ev d a pos len sg) s = .next (s.after g r ev (fun t => t.setX d
    (if sg = 1#1 then sext64 ((s.here g).getX a >>> pos.toNat) (len.toNat + 1) else zext64 ((s.here g).getX a >>> pos.toNat) (len.toNat + 1)))) := by
  show execBfx r ev d a pos len sg s = _
  unfold execBfx
  refine onStream_done hc ?_
  rw [reads_of_fulls (fulls_first_taken hf), if_neg (Nat.not_lt.2 hin), writes_of_full (isFull_dest_taken hf), getX_taken]

theorem exec_bfi_in_range : exec (.bfi r ev d a b pos len) s = .next (s.after g r ev (fun t => t.setX d
    (bitInsert ((s.here g).getX a) ((s.here g).getX b) pos.toNat (len.toNat + 1)))) := by
  show execBfi r ev d a b pos len s = _
  unfold execBfi
  refine onStream_done hc ?_
  rw [reads_of_fulls (fulls_pair_taken hf), if_neg (Nat.not_lt.2 hin), writes_of_full (isFull_dest_taken hf), getX_taken, getX_taken]

end

section
variable (hout : 64 < pos.toNat + (len.toNat + 1))
include hout

theorem exec_bfx_out_of_range (sg : BitVec 1) : exec (.bfx r ev d a pos len sg) s = .next (s.traps g (.plain Cause.opRange)) :=
  onStream_trap hc ((reads_of_fulls (fulls_first_taken hf) _).trans (if_pos hout))

theorem exec_bfi_out_of_range : exec (.bfi r ev d a b pos len) s = .next (s.traps g (.plain Cause.opRange)) :=
  onStream_trap hc ((reads_of_fulls (fulls_pair_taken hf) _).trans (if_pos hout))

end

/-- LIHI reads and writes one register (R189). -/
theorem exec_lihi_of_full (v : BitVec 21) : exec (.lihi r ev d v) s =
    .next (s.after g r ev (fun t => t.setX d (v ++ ((s.here g).getX d).extractLsb' 0 43))) := by
  show execLihi r ev d v s = _
  unfold execLihi
  refine onStream_done hc ?_
  rw [reads_of_fulls (fulls_singleton (isFull_dest_taken hf)), getX_taken]

/-- The tag of a full vector register (R190). -/
theorem exec_mvtV_of_full {x : BitVec 6} (hx : (g.v.get x.toFin).full = true) :
    exec (.mvtV r d x) s = .next (s.after g r 0 (fun t => t.setX d ((g.v.get x.toFin).tag.zeroExtend 64))) := by
  show execMvtV r d x s = _
  unfold execMvtV
  exact plain_onStream hc rfl ((if_pos hx).trans (writes_of_full (isFull_dest_taken hf) _))

/-- The tag of a full tile register (R190). -/
theorem exec_mvtT_of_full {x : BitVec 2} (hx : (g.t.get x.toFin).full = true) :
    exec (.mvtT r d x) s = .next (s.after g r 0 (fun t => t.setX d ((g.t.get x.toFin).tag.zeroExtend 64))) := by
  show execMvtT r d x s = _
  unfold execMvtT
  exact plain_onStream hc rfl ((if_pos hx).trans (writes_of_full (isFull_dest_taken hf) _))

end

/-- Settles O11: an operation on full registers, a constant, a move or a bit field, and its value as the number the table names; a bit field that reaches past
bit 63 raises its cause before it writes. -/
theorem immediatesConstantsAndMovesGiveTheirResults : Obligations.ImmediatesConstantsAndMovesGiveTheirResults := by
  unfold Obligations.ImmediatesConstantsAndMovesGiveTheirResults
  intro s g r ev d a b hc hf A B D gives givesE bad
  refine ⟨fun i => ⟨plain_op1 hc hf rfl, plain_op1 hc hf rfl, plain_op1 hc hf rfl, plain_op1 hc hf rfl⟩, ?shifts, fun i => plain_setX hc hf rfl,
    fun ih il => plain_setX hc hf rfl, ?lihi, fun k => plain_op2 hc hf (lea_eq_ofNat A B _), ?mvc, ?mvb, fun x hx => exec_mvtV_of_full hc hf hx,
    fun x hx => exec_mvtT_of_full hc hf hx, ?fields, fun pos len sg hout => ⟨exec_bfx_out_of_range hc hf hout sg, exec_bfi_out_of_range hc hf hout⟩, ?sel⟩
  case shifts =>
    exact fun k => ⟨plain_op1 hc hf (shiftLeft_eq_ofNat A _), plain_op1 hc hf (ushiftRight_eq_ofNat A _), plain_op1 hc hf (sshiftRight_eq_ofInt A _)⟩
  case lihi =>
    intro v
    rw [exec_lihi_of_full hc hf, append_eq_ofNat]
  case mvc => exact fun c => plain_setX hc hf (by rw [getC_taken])
  case mvb => exact fun x => plain_setX hc hf (by rw [here_taken]; rfl)
  case fields =>
    intro pos len hin
    refine ⟨?_, ?_, _, exec_bfi_in_range hc hf hin, fun i hi => bitInsert_bits A B _ _ i hi⟩
    · rw [exec_bfx_in_range hc hf hin, if_neg (by decide), zext64_field]
    · rw [exec_bfx_in_range hc hf hin, if_pos (show (1 : BitVec 1) = 1#1 from rfl), sext64_field _ _ (by omega) (by omega)]
  case sel => exact fun c => plain_op2 (f := fun t x y => if t.getC c then x else y) hc hf (by rw [getC_taken])

end Sys2Proof.Machine
end

section
/-! PROOFS. CMP, CMPI, CAND, COR, CNOT, VANY and VALL (R178, R192 to R194). -/

namespace Sys2Proof.Machine

open Sys2Proof

/-! ## The cond codes (R178) -/

theorem condInt_eq (k : BitVec 3) (x y : BitVec 64) : condInt k x y =
    if k = 0 then decide (x = y) else if k = 1 then decide (x ≠ y) else if k = 2 then decide (x.toInt < y.toInt) else
    if k = 3 then decide (y.toInt ≤ x.toInt) else if k = 4 then decide (x.toNat < y.toNat) else if k = 5 then decide (y.toNat ≤ x.toNat) else
    if k = 6 then decide (x &&& y ≠ 0) else decide (x &&& y = 0) := by
  have hnot {p q : Prop} [Decidable p] [Decidable q] (h : q ↔ ¬ p) : (!decide p) = decide q := by rw [← decide_not]; exact decide_eq_decide.2 h.symm
  have hcode : k = 0 ∨ k = 1 ∨ k = 2 ∨ k = 3 ∨ k = 4 ∨ k = 5 ∨ k = 6 ∨ k = 7 := by revert k; decide
  rcases hcode with rfl | rfl | rfl | rfl | rfl | rfl | rfl | rfl
  · rfl
  · exact hnot Iff.rfl
  · rfl
  · exact hnot Int.not_lt.symm
  · rfl
  · exact hnot Nat.not_lt.symm
  · exact hnot Iff.rfl
  · rfl

/-! ## The bits of a predicate that VANY, VALL and PCNT look at (R194) -/

theorem predBits_all : predBits 0 = List.range 1024 := if_neg (by decide)
theorem predBits_even : predBits 1 = (List.range 512).map (2 * ·) := if_pos rfl

theorem any_predBits (f : Nat → Bool) : (predBits 0).any f = decide (∃ j : Fin 1024, f j.val = true) := by
  rw [predBits_all, Bool.eq_iff_iff, List.any_eq_true, decide_eq_true_iff]
  simp [Fin.exists_iff]

theorem any_predBits_even (f : Nat → Bool) : (predBits 1).any f = decide (∃ i : Fin 512, f (2 * i.val) = true) := by
  rw [predBits_even, Bool.eq_iff_iff, List.any_eq_true, decide_eq_true_iff]
  simp [Fin.exists_iff]

theorem all_predBits (f : Nat → Bool) : (predBits 0).all f = decide (∀ j : Fin 1024, f j.val = true) := by
  rw [predBits_all, Bool.eq_iff_iff, List.all_eq_true, decide_eq_true_iff]
  simp [Fin.forall_iff]

theorem all_predBits_even (f : Nat → Bool) : (predBits 1).all f = decide (∀ i : Fin 512, f (2 * i.val) = true) := by
  rw [predBits_even, Bool.eq_iff_iff, List.all_eq_true, decide_eq_true_iff]
  simp [Fin.forall_iff]

/-! ## Condition instructions -/

section
variable {s : State} {g : Group} {r : BitVec 4} {a b : BitVec 6} {c x : BitVec 3} (hc : CanRun s g anyStream r)
include hc

/-- A comparison of two full registers (R192). -/
theorem exec_cmp_of_fulls (hf : (s.here g).fulls [a, b]) (k : BitVec 3) :
    exec (.cmp r c a b k) s = .next (s.after g r 0 (fun t => t.setC c (condInt k ((s.here g).getX a) ((s.here g).getX b)))) := by
  show execCmp r c a b k s = _
  unfold execCmp
  refine onStream_done hc ?_
  rw [reads_of_fulls (fulls_taken hf), getX_taken, getX_taken]

/-- A comparison of a full register with an immediate (R192). -/
theorem exec_cmpi_of_full (hf : (s.here g).fulls [a]) (k : BitVec 3) (i : BitVec 9) :
    exec (.cmpi r k c a i) s = .next (s.after g r 0 (fun t => t.setC c (condInt k ((s.here g).getX a) (i.signExtend 64)))) := by
  show execCmpi r k c a i s = _
  unfold execCmpi
  refine onStream_done hc ?_
  rw [reads_of_fulls (fulls_taken hf), getX_taken]
  rfl

/-- A function of the conditions of the stream (R193). -/
theorem plain_setC {f : Stream → Bool} {v : Bool} (hv : f (s.here (s.taken g r)) = v) :
    plain anyStream r 0 (onStream (fun t => .done (t.setC c (f t)))) s = .next (s.after g r 0 (fun t => t.setC c v)) := by
  refine onStream_done hc ?_
  rw [hv]

/-- A test of a predicate that is whole (R194, R416). -/
theorem plain_readPred {f : BitVec 1024 → Bool} {v : Bool} (hx : predDamaged g x = false) (hv : f (g.pred x) = v) :
    plain anyStream r 0 (readPred x (fun p t => t.setC c (f p))) s = .next (s.after g r 0 (fun t => t.setC c v)) := by
  subst hv
  exact plain_onStream hc (if_neg (Bool.eq_false_iff.1 hx)) rfl

end

/-- Settles O14: a comparison, a connective or a test of a whole predicate, and its value as the table names it. -/
theorem conditionInstructionsGiveTheirResults : Obligations.ConditionInstructionsGiveTheirResults := by
  unfold Obligations.ConditionInstructionsGiveTheirResults
  intro s g r a b c x y hc hf A B gives holds
  refine ⟨fun k => ?cmp, fun k i => ?cmpi, ?cand, ?cor, ?cnot, fun hx => ?tests⟩
  case cmp =>
    rw [exec_cmp_of_fulls hc hf, condInt_eq]
  case cmpi =>
    rw [exec_cmpi_of_full hc (fulls_of_subset hf (by simp)), condInt_eq]
  case cand => exact plain_setC hc (by rw [getC_taken, getC_taken])
  case cor => exact plain_setC hc (by rw [getC_taken, getC_taken])
  case cnot => exact plain_setC hc (by rw [getC_taken])
  case tests =>
    exact ⟨plain_readPred hc hx (any_predBits _), plain_readPred hc hx (any_predBits_even _), plain_readPred hc hx (all_predBits _),
      plain_readPred hc hx (all_predBits_even _)⟩

end Sys2Proof.Machine
end

section
/-! PROOFS. PREP and PREPR (R197, R198). -/

namespace Sys2Proof.Machine

open Sys2Proof

/-- The address of PREP wraps at 2^57, whatever the width it is added in (R197). -/
theorem prepAddr_eq (pc : BitVec 64) (i : BitVec 18) : prepAddr pc i = BitVec.ofInt 57 (pc.toNat + 4 * i.toInt) := by
  have hsum : pc + i.signExtend 64 * 4 = BitVec.ofInt 64 (pc.toNat + 4 * i.toInt) := by
    rw [BitVec.ofInt_add, BitVec.ofInt_mul, BitVec.ofInt_natCast, BitVec.ofNat_toNat, BitVec.setWidth_eq, BitVec.mul_comm]
    rfl
  apply BitVec.eq_of_toNat_eq
  rw [prepAddr, hsum, BitVec.extractLsb'_toNat, Nat.shiftRight_zero, BitVec.toNat_ofInt, BitVec.toNat_ofInt]
  omega

theorem lowTwoBits_eq_zero_iff (v : BitVec 64) : v.extractLsb' 0 2 = 0#2 ↔ v.toNat % 4 = 0 := by
  rw [← BitVec.toNat_inj, BitVec.extractLsb'_toNat, Nat.shiftRight_zero]; rfl

theorem bitsFrom57_eq_zero_iff (v : BitVec 64) : v.extractLsb' 57 7 = 0#7 ↔ v.toNat < 2 ^ 57 := by
  have hv := v.isLt
  rw [← BitVec.toNat_inj, BitVec.extractLsb'_toNat, Nat.shiftRight_eq_div_pow, BitVec.toNat_ofNat]
  omega

/-! ## Target registers -/

theorem isPrep_setB_self (t : Stream) (b : BitVec 3) (v : BitVec 57) : (t.setB b v).isPrep b = true := by
  have hb : b.toNat < 8 := b.isLt
  simp [Stream.isPrep, Stream.setB, hb]

theorem isPrep_setB_ne (t : Stream) {b j : BitVec 3} (h : j ≠ b) (v : BitVec 57) : (t.setB b v).isPrep j = t.isPrep j := by
  have hne : b.toNat ≠ j.toNat := fun e => h (BitVec.eq_of_toNat_eq e.symm)
  have hbit : (1#8 <<< b.toNat).getLsbD j.toNat = false := by
    rw [← BitVec.twoPow_eq, BitVec.getLsbD_twoPow, decide_eq_false hne, Bool.and_false]
  rw [Stream.isPrep, Stream.setB, BitVec.getLsbD_or, hbit, Bool.or_false]
  rfl

theorem b_setB_self (t : Stream) (b : BitVec 3) (v : BitVec 57) : (t.setB b v).b.get b.toFin = v := by
  simp [Stream.setB, Vector.get_eq_getElem, BitVec.val_toFin]

theorem b_setB_ne (t : Stream) {b j : BitVec 3} (h : j ≠ b) (v : BitVec 57) : (t.setB b v).b.get j.toFin = t.b.get j.toFin := by
  have hne : b.toNat ≠ j.toNat := fun e => h (BitVec.eq_of_toNat_eq e.symm)
  simp [Stream.setB, Vector.get_eq_getElem, BitVec.val_toFin, hne]

section
variable {s : State} {g : Group} {r : BitVec 4} {b : BitVec 3} {a : BitVec 6} (hc : CanRun s g anyStream r)
include hc

theorem exec_prep (i : BitVec 18) : exec (.prep r b i) s = .next (s.after g r 0 (fun t => t.setB b (prepAddr (s.here g).pc i))) := by
  show execPrep r b i s = _
  unfold execPrep
  refine onStream_done hc ?_
  rw [pc_taken]

variable (ha : (s.here g).isFull a = true)
include ha

theorem exec_prepr_of_address (h4 : ((s.here g).getX a).toNat % 4 = 0) (h57 : ((s.here g).getX a).toNat < 2 ^ 57) :
    exec (.prepr r b a) s = .next (s.after g r 0 (fun t => t.setB b (((s.here g).getX a).extractLsb' 0 57))) := by
  show execPrepr r b a s = _
  unfold execPrepr
  refine onStream_done hc ?_
  rw [reads_of_fulls (fulls_taken (fulls_singleton ha)), getX_taken]
  exact if_neg (fun h => h.elim (fun h => h ((lowTwoBits_eq_zero_iff _).2 h4)) (fun h => h ((bitsFrom57_eq_zero_iff _).2 h57)))

theorem exec_prepr_of_bad_address (h : ((s.here g).getX a).toNat % 4 ≠ 0 ∨ 2 ^ 57 ≤ ((s.here g).getX a).toNat) :
    exec (.prepr r b a) s = .next (s.traps g (.plain Cause.tgtAlign)) := by
  show execPrepr r b a s = _
  unfold execPrepr
  refine onStream_trap hc ?_
  rw [reads_of_fulls (fulls_taken (fulls_singleton ha)), getX_taken]
  exact if_pos (h.imp (mt (lowTwoBits_eq_zero_iff _).1) (fun h57 k => Nat.not_lt.2 h57 ((bitsFrom57_eq_zero_iff _).1 k)))

end

/-- Settles O16: PREP and PREPR write and prepare one target register, at the address the tables name. -/
theorem targetPreparationCompletes : Obligations.TargetPreparationCompletes := by
  unfold Obligations.TargetPreparationCompletes
  intro s g r b a hc A
  refine ⟨fun i => ?_, exec_prepr_of_address hc, exec_prepr_of_bad_address hc,
    fun t v => ⟨isPrep_setB_self t b v, b_setB_self t b v, fun j h => ⟨isPrep_setB_ne t h v, b_setB_ne t h v⟩⟩⟩
  rw [exec_prep hc, prepAddr_eq]

end Sys2Proof.Machine
end

section
/-! PROOFS. XFER, XFER.c and XFER.nc (R200 to R202, R207). -/

namespace Sys2Proof.Machine

open Sys2Proof

section
variable {e : Env} {b : BitVec 3} {tk : Stream → Bool} {s2 : State} {w : BitVec 32}

theorem transfer_of_unprepared (h : e.t.isPrep b = false) : transfer b tk e = .trap (.plain Cause.tgtUnprep) := if_pos h

section
variable (hprep : e.t.isPrep b = true) (hw : fetch e.s e.p e.g e.st e.t.npc = .word s2 w)
include hprep hw

/-- With the slot's word at hand the slot is checked first (R202). -/
theorem transfer_of_forbidden (h : slotForbidden w = true) : transfer b tk e = .trapIn s2 (.plain Cause.xferSlot) := by
  simp only [transfer, hprep, hw, h, if_true, Bool.true_eq_false, if_false]

variable (hslot : slotForbidden w = false)
include hslot

theorem transfer_of_loopTail (h : e.t.loops.toList.any (fun l => l.endsIn e.t.pc 4 || l.endsIn e.t.npc (lengthOf w)) = true) :
    transfer b tk e = .trapIn s2 (.plain Cause.loopTail) := by
  simp only [transfer, hprep, hw, hslot, h, if_true, Bool.true_eq_false, Bool.false_eq_true, if_false]

/-- A transfer that passes its checks (R201). -/
theorem transfer_of_checked {g2 : Group} (h : e.t.loops.toList.any (fun l => l.endsIn e.t.pc 4 || l.endsIn e.t.npc (lengthOf w)) = false)
    (hg : s2.group e.p = some g2) : transfer b tk e =
      if tk (g2.stream e.st) then
        .jump (s2.setGroup e.p (g2.setStream e.st (aimThrough (leaveLoops (g2.stream e.st) (((g2.stream e.st).b.get b.toFin).zeroExtend 64 : BitVec 64).toNat) b)))
          (g2.stream e.st).npc (some (((g2.stream e.st).b.get b.toFin).zeroExtend 64))
      else .jump s2 (g2.stream e.st).npc (some ((g2.stream e.st).npc + BitVec.ofNat 64 (lengthOf w))) := by
  simp only [transfer, hprep, hw, hslot, h, hg, Bool.true_eq_false, Bool.false_eq_true, if_false]

end
end

/-- The state after a transfer through b(b) that is taken, s2 the state with the slot's word fetched and g2 the group in it (R201, R207). -/
def State.xferTaken (s s2 : State) (g2 : Group) (r : BitVec 4) (b : BitVec 3) : State :=
  (s2.setGroup s.curPlace (g2.setStream s.curStream (aimThrough (leaveLoops (g2.stream s.curStream) ((g2.stream s.curStream).b.get b.toFin).toNat) b))).jumpAt
    s.curPlace s.curStream r 0 (g2.stream s.curStream).npc (((g2.stream s.curStream).b.get b.toFin).zeroExtend 64)

/-- The state after one that is not taken: NPC lies past the slot's word w (R201). -/
def State.xferFalls (s s2 : State) (g2 : Group) (r : BitVec 4) (w : BitVec 32) : State :=
  s2.jumpAt s.curPlace s.curStream r 0 (g2.stream s.curStream).npc ((g2.stream s.curStream).npc + BitVec.ofNat 64 (lengthOf w))

section
variable {s s2 : State} {g g2 : Group} {r : BitVec 4} {b : BitVec 3} {w : BitVec 32} {tk : Stream → Bool} (hc : CanRun s g anyStream r)

theorem isPrep_taken (s : State) (g : Group) (r : BitVec 4) (b : BitVec 3) : (s.here (s.taken g r)).isPrep b = (s.here g).isPrep b := by
  rw [here_taken]; rfl

include hc

theorem plain_transfer_of_unprepared (h : (s.here g).isPrep b = false) : plain anyStream r 0 (transfer b tk) s = .next (s.traps g (.plain Cause.tgtUnprep)) :=
  plain_trap hc (transfer_of_unprepared ((isPrep_taken s g r b).trans h))

section
variable (hprep : (s.here g).isPrep b = true) (hw : fetch (s.env g r).s (s.env g r).p (s.env g r).g (s.env g r).st (s.env g r).t.npc = .word s2 w)
include hprep hw

theorem plain_transfer_of_forbidden (h : slotForbidden w = true) :
    plain anyStream r 0 (transfer b tk) s = .next (s.trapsIn s2 g (.plain Cause.xferSlot)) :=
  plain_trapIn hc (transfer_of_forbidden ((isPrep_taken s g r b).trans hprep) hw h)

variable (hslot : slotForbidden w = false)
include hslot

theorem plain_transfer_of_loopTail
    (h : (s.env g r).t.loops.toList.any (fun l => l.endsIn (s.env g r).t.pc 4 || l.endsIn (s.env g r).t.npc (lengthOf w)) = true) :
    plain anyStream r 0 (transfer b tk) s = .next (s.trapsIn s2 g (.plain Cause.loopTail)) :=
  plain_trapIn hc (transfer_of_loopTail ((isPrep_taken s g r b).trans hprep) hw hslot h)

theorem plain_transfer_of_checked
    (h : (s.env g r).t.loops.toList.any (fun l => l.endsIn (s.env g r).t.pc 4 || l.endsIn (s.env g r).t.npc (lengthOf w)) = false)
    (hg : s2.group s.curPlace = some g2) :
    plain anyStream r 0 (transfer b tk) s = .next (if tk (g2.stream s.curStream) then s.xferTaken s2 g2 r b else s.xferFalls s2 g2 r w) := by
  have hbody := transfer_of_checked (tk := tk) ((isPrep_taken s g r b).trans hprep) hw hslot h hg
  rw [show (((g2.stream (s.env g r).st).b.get b.toFin).zeroExtend 64 : BitVec 64).toNat = ((g2.stream (s.env g r).st).b.get b.toFin).toNat from
    BitVec.toNat_setWidth_of_le (by decide)] at hbody
  by_cases htk : tk (g2.stream s.curStream) = true
  · rw [if_pos htk]
    exact plain_jump hc (hbody.trans (if_pos htk))
  · rw [if_neg htk]
    exact plain_jump hc (hbody.trans (if_neg htk))

end
end

/-- Settles O17: the three are one body over whether the transfer is taken, which the checks come before. -/
theorem transfersSetThePcPair : Obligations.TransfersSetThePcPair := by
  unfold Obligations.TransfersSetThePcPair
  intro s s2 g g2 r b c w hc e taken falls
  refine ⟨fun h => ?_, fun hprep hw hg => ⟨fun h => ?_, fun hslot h => ?_, fun hslot h => ?_⟩⟩
  · exact ⟨plain_transfer_of_unprepared hc h, plain_transfer_of_unprepared hc h, plain_transfer_of_unprepared hc h⟩
  · exact ⟨plain_transfer_of_forbidden hc hprep hw h, plain_transfer_of_forbidden hc hprep hw h, plain_transfer_of_forbidden hc hprep hw h⟩
  · exact ⟨plain_transfer_of_loopTail hc hprep hw hslot h, plain_transfer_of_loopTail hc hprep hw hslot h, plain_transfer_of_loopTail hc hprep hw hslot h⟩
  · have hrun (tk : Stream → Bool) := plain_transfer_of_checked (tk := tk) hc hprep hw hslot h hg
    refine ⟨hrun (fun _ => true), hrun (fun t => t.getC c), (hrun (fun t => !t.getC c)).trans ?_⟩
    cases (g2.stream s.curStream).getC c <;> rfl

end Sys2Proof.Machine
end

section
/-! PROOFS. The end of a loop body with one pair active (R205, R206). -/

namespace Sys2Proof.Machine

open Sys2Proof

/-- A stream whose pair i begins its next pass (R206). -/
def Stream.loopAgain (t : Stream) (i : Fin 2) : Stream :=
  { t with loops := t.loops.set i.val { t.loops.get i with count := (t.loops.get i).count - 1 } }

/-- A stream whose pair i has ended its last pass (R206). -/
def Stream.loopOver (t : Stream) (i : Fin 2) : Stream :=
  { t with loops := t.loops.set i.val { t.loops.get i with count := 0, act := false } }

section
variable {t : Stream} {len : Nat} {i : Fin 2}

/-- A pair that is not active ends no body. -/
theorem loopBack_of_idle (h : (t.loops.get i).act = false) (rest : List (Fin 2)) : loopBack t len (i :: rest) = loopBack t len rest := by
  simp only [loopBack, LoopPair.endsIn, h, Bool.false_and, Bool.false_eq_true, if_false]

theorem loopBack_of_count (hend : (t.loops.get i).endsIn t.pc len = true) (hcount : 1 < (t.loops.get i).count.toNat) (rest : List (Fin 2)) :
    loopBack t len (i :: rest) = (t.loopAgain i, some ((t.loops.get i).start.zeroExtend 64)) := by
  simp only [loopBack, hend, if_true, hcount, Stream.loopAgain]

theorem loopBack_of_last_pass (hend : (t.loops.get i).endsIn t.pc len = true) (hcount : (t.loops.get i).count.toNat = 1) (rest : List (Fin 2)) :
    loopBack t len (i :: rest) = loopBack (t.loopOver i) len rest := by
  simp only [loopBack, hend, if_true, hcount, Nat.lt_irrefl, if_false, gt_iff_lt, Stream.loopOver]

theorem loops_get_set_self (ls : Vector LoopPair 2) (i : Fin 2) (l : LoopPair) : (ls.set i.val l).get i = l := by
  simp [Vector.get_eq_getElem]

theorem loops_get_set_ne (ls : Vector LoopPair 2) {i j : Fin 2} (h : j ≠ i) (l : LoopPair) : (ls.set i.val l).get j = ls.get j := by
  have hne : i.val ≠ j.val := fun e => h (Fin.ext e.symm)
  simp [Vector.get_eq_getElem, hne]

/-- The order in which the pairs are tried has the pair i first or last. -/
theorem loopOrder_cases (late : BitVec 1) (i : Fin 2) : ∃ j, j ≠ i ∧ (loopOrder late = [i, j] ∨ loopOrder late = [j, i]) := by
  revert late i; decide

section
variable (honly : ∀ j, j ≠ i → (t.loops.get j).act = false) (hend : (t.loops.get i).endsIn t.pc len = true)
include honly hend

/-- The one active pair goes back to the start of its body while its count is above 1, in whichever order the pairs are tried. -/
theorem loopBack_only_of_count (hcount : 1 < (t.loops.get i).count.toNat) (late : BitVec 1) : loopBack t len (loopOrder late) =
    (t.loopAgain i, some ((t.loops.get i).start.zeroExtend 64)) := by
  obtain ⟨j, hj, h | h⟩ := loopOrder_cases late i
  · rw [h, loopBack_of_count hend hcount]
  · rw [h, loopBack_of_idle (honly j hj), loopBack_of_count hend hcount]

/-- In its last pass it becomes inactive, and the stream goes on. -/
theorem loopBack_only_of_last_pass (hcount : (t.loops.get i).count.toNat = 1) (late : BitVec 1) : loopBack t len (loopOrder late) =
    (t.loopOver i, none) := by
  obtain ⟨j, hj, h | h⟩ := loopOrder_cases late i
  · rw [h, loopBack_of_last_pass hend hcount, loopBack_of_idle ((congrArg LoopPair.act (loops_get_set_ne t.loops hj _)).trans (honly j hj))]
    rfl
  · rw [h, loopBack_of_idle (honly j hj), loopBack_of_last_pass hend hcount]
    rfl

end
end

/-- Settles O9: the loop-back of the one active pair, and the PC pair that follows from it. -/
theorem loopBackRestartsTheBody : Obligations.LoopBackRestartsTheBody := by
  unfold Obligations.LoopBackRestartsTheBody
  intro s p g t i n k hact honly _ hfrom hto hn hk
  have hend : (t.loops.get i).endsIn t.pc t.len = true := by
    rw [LoopPair.endsIn, hact, Bool.true_and]
    exact decide_eq_true ⟨hfrom, hto⟩
  refine ⟨fun hcount => ?_, fun hcount => ?_⟩
  · have hlen : lengthAt s p g (t.loopAgain i).landAnew ((t.loops.get i).start.zeroExtend 64) = some n := hn
    rw [advance, loopBack_only_of_count honly hend hcount]
    dsimp only
    rw [Stream.goAt, hlen]
    exact ⟨rfl, rfl, loops_get_set_self ..⟩
  · have hlen : lengthAt s p g (t.loopOver i).land t.npc = some k := hk
    rw [advance, loopBack_only_of_last_pass honly hend hcount]
    dsimp only
    rw [Stream.goAt, hlen]
    exact ⟨rfl, rfl, loops_get_set_self ..⟩

end Sys2Proof.Machine
end

section
/-! PROOFS. PAND, POR, PXOR, PNOT, PCNT and PSET at a ready head (R194 to R196). -/

namespace Sys2Proof.Machine

open Sys2Proof

/-- The even numbers below an even bound that pass a test. -/
theorem length_filter_even (f : Nat → Bool) (n : Nat) :
    (((List.range n).map (2 * ·)).filter f).length = (List.range (2 * n)).countP (fun j => j % 2 == 0 && f j) := by
  induction n with
  | zero => rfl
  | succ n ih =>
    rw [show 2 * (n + 1) = 2 * n + 1 + 1 from rfl, List.range_succ, List.range_succ, List.range_succ]
    simp only [List.map_append, List.filter_append, List.length_append, ih, List.countP_append]
    have hodd : (2 * n + 1) % 2 = 1 := by omega
    cases h : f (2 * n) <;> simp [h, hodd]

theorem length_filter_predBits (f : Nat → Bool) (w : BitVec 1) :
    ((predBits w).filter f).length = (List.range 1024).countP (fun j => (w == 0 || j % 2 == 0) && f j) := by
  have hw : w = 0 ∨ w = 1 := by revert w; decide
  rcases hw with rfl | rfl
  · rw [predBits_all, ← List.countP_eq_length_filter]
    simp only [BEq.rfl, Bool.true_or, Bool.true_and]
  · rw [predBits_even, length_filter_even]
    simp only [show ((1 : BitVec 1) == 0) = false from rfl, Bool.false_or]

/-- PSET sets the bits below its clamped sum: the clamp cannot be seen in a bit of the predicate (R196). -/
theorem pSet_bits (x : BitVec 64) (i : BitVec 9) {j : Nat} (hj : j < 1024) : (pSet x i).getLsbD j = decide ((j : Int) < x.toInt + i.toInt) := by
  rw [pSet, BitVec.getLsbD_ofNat, Nat.testBit_two_pow_sub_one, decide_eq_true hj, Bool.true_and, decide_eq_decide, clampInt]
  split
  · omega
  · split <;> omega

/-- Settles O36: the event answers as the command at the ready head does, and the result of each command bit by bit. -/
theorem predicateCommandsGiveTheirResults : Obligations.PredicateCommandsGiveTheirResults := by
  unfold Obligations.PredicateCommandsGiveTheirResults
  intro s p g e r d a b x i h v P gives bits
  have starts : ∀ {j : Instr} {w : Work}, e.instr = j → startCommand { v with e := { v.e with instr := j } } = .start v.s w → gives w :=
    fun hi hs => engineHeadStart_start h ((startCommand_of_instr hi).trans hs)
  refine ⟨?and, ?or, ?xor, ?not, ?count, ?set⟩
  case and => exact fun hi => ⟨P a &&& P b, fun j _ => BitVec.getLsbD_and, starts hi rfl⟩
  case or => exact fun hi => ⟨P a ||| P b, fun j _ => BitVec.getLsbD_or, starts hi rfl⟩
  case xor => exact fun hi => ⟨P a ^^^ P b, fun j _ => BitVec.getLsbD_xor, starts hi rfl⟩
  case not => exact fun hi => ⟨~~~P a, fun j hj => by rw [BitVec.getLsbD_not, decide_eq_true hj, Bool.true_and], starts hi rfl⟩
  case count =>
    intro w hi
    rw [← length_filter_predBits]
    exact starts hi rfl
  case set =>
    intro hi
    refine ⟨pSet (e.xops.get 0) i, fun j hj => pSet_bits _ _ hj, starts hi ?_⟩
    rw [← show v.x 0 = e.xops.get 0 from v.x_eq_get 0]
    rfl

end Sys2Proof.Machine
end

section
/-! PROOFS. PREF, CLWB and CLINV (R66, R75, R221, R222). -/

namespace Sys2Proof.Machine

open Sys2Proof

/-! ## PREF (R221) -/

/-- The state in which PREF looks for the leaf of its address: a walk has made its requests where the core caches no translation (R75, R84). -/
def prefWalked (e : Env) (va : BitVec 64) : State :=
  if (tlbFind e.s (coreOf e.p) e.g.lr.asid va.toNat).isSome then e.s else walkTouch e.s (dieOfPlace e.p) e.g.lr.asid va

/-- Whether PREF asks for the line that a leaf gives its address: the page grants the right its form needs, and no link holds the request (R221, R430). -/
def prefAsks (e : Env) (va : BitVec 64) (w : BitVec 1) (x : BitVec 64) (lg : Nat) : Bool :=
  permits x (w.zeroExtend 2) e.g.trapped.isSome && !farHeld (prefWalked e va) (dieOfPlace e.p) (leafAddr x lg va)

/-- PREF once its register is read (R221). -/
def prefBody (va : BitVec 64) (w ef : BitVec 1) (e : Env) : Act State :=
  if inWindow va then .done e.s
  else
    match findLeaf (prefWalked e va) (coreOf e.p) e.g.lr.asid va with
    | .bad _ _ => .done (prefWalked e va)
    | .leaf x _ lg =>
      if prefAsks e va w x lg then .done (l2Touch (prefWalked e va) (leafAddr x lg va) (some (e.g.lr.asid, va.toNat)) (ef == 1#1) (w == 1#1))
      else .done (prefWalked e va)

theorem execPref_of_full {s : State} {g : Group} {r : BitVec 4} {a : BitVec 6} {w ef : BitVec 1} (hc : CanRun s g anyStream r) (hf : (s.here g).fulls [a]) :
    exec (.pref r a w ef) s = plain anyStream r 0 (prefBody ((s.here g).getX a) w ef) s := by
  show execPref r a w ef s = _
  unfold execPref
  refine plain_congr hc ?_
  rw [reads_of_fulls (fulls_env hf), ← getX_taken s g r a]
  rfl

section
variable {e : Env} {va : BitVec 64} {w ef : BitVec 1}

theorem prefBody_in_window (h : inWindow va = true) : prefBody va w ef e = .done e.s := if_pos h

theorem prefBody_unmapped (h : inWindow va = false) {c : BitVec 10} {l : BitVec 3}
    (hx : findLeaf (prefWalked e va) (coreOf e.p) e.g.lr.asid va = .bad c l) : prefBody va w ef e = .done (prefWalked e va) := by
  rw [prefBody, if_neg (by rw [h]; decide), hx]

theorem prefBody_mapped (h : inWindow va = false) {x : BitVec 64} {pte lg : Nat}
    (hx : findLeaf (prefWalked e va) (coreOf e.p) e.g.lr.asid va = .leaf x pte lg) : prefBody va w ef e = .done (if prefAsks e va w x lg then
      l2Touch (prefWalked e va) (leafAddr x lg va) (some (e.g.lr.asid, va.toNat)) (ef == 1#1) (w == 1#1) else prefWalked e va) := by
  rw [prefBody, if_neg (by rw [h]; decide), hx, apply_ite Act.done]

end

/-! ## CLWB and CLINV (R222) -/

/-- An address that reaches memory lies outside the scratchpad window (R66). -/
theorem not_inWindow_of_reach_mem {e : Env} {va : BitVec 64} {kind : BitVec 2} {setD : Bool} {s2 : State} {pa : Nat} {ht : Bool}
    (h : reach e va kind setD = .ok s2 (.mem pa ht)) : inWindow va = false := by
  by_contra hw
  rw [reach, if_pos (Bool.of_not_eq_false hw)] at h
  split at h <;> cases h

/-- The store-queue entry of CLWB or CLINV at the line of an address (R222). -/
def cleanPart (op : StoreOp) (va : BitVec 64) (pa : Nat) : StorePart := { loc := .mem (pa / 128 * 128), va := va.toNat, op := op, scale := none }

section
variable {op : StoreOp} {kind : BitVec 2} {a : BitVec 6} {e : Env} {va : BitVec 64} {s2 : State} (hf : e.t.fulls [a]) (hva : e.t.getX a = va)
include hf hva

theorem cleanLine_in_window (h : inWindow va = true) : cleanLine op kind a e = .done e.s := by
  subst hva
  rw [cleanLine, reads_of_fulls hf]
  exact if_pos h

theorem cleanLine_of_hbm {pa : Nat} {ht : Bool} (hr : reach e va kind false = .ok s2 (.mem pa ht)) (hh : (region s2 pa).isHbm = true)
    (hroom : e.t.stores.length < 16) :
    cleanLine op kind a e = .done (s2.setGroup e.p (e.g.setStream e.st (e.t.pushStore s2.now false [cleanPart op va pa] none))) := by
  subst hva
  rw [cleanLine, reads_of_fulls hf]
  dsimp only
  rw [if_neg (by rw [not_inWindow_of_reach_mem hr]; decide), hr]
  dsimp only
  rw [if_pos hh, if_neg (Nat.not_le.2 hroom)]
  rfl

/-- Where an address reaches no line of HBM there is nothing to clean. -/
theorem cleanLine_elsewhere {tgt : Target} (hw : inWindow va = false) (hr : reach e va kind false = .ok s2 tgt)
    (htgt : (∃ pa ht, tgt = .mem pa ht ∧ (region s2 pa).isHbm = false) ∨ ∃ die off, tgt = .dcr die off) : cleanLine op kind a e = .done s2 := by
  subst hva
  rw [cleanLine, reads_of_fulls hf]
  dsimp only
  rw [if_neg (by rw [hw]; decide), hr]
  obtain ⟨pa, ht, rfl, hh⟩ | ⟨die, off, rfl⟩ := htgt
  · exact if_neg (by rw [hh]; decide)
  · rfl

end

/-- Settles O27: PREF by the leaf of its address, CLWB and CLINV by where theirs leads. -/
theorem cacheControlInstructionsComplete : Obligations.CacheControlInstructionsComplete := by
  unfold Obligations.CacheControlInstructionsComplete
  intro s s2 g r a hc ha e A walked goes
  have hf : (s.here g).fulls [a] := fulls_singleton ha
  have hfe : e.t.fulls [a] := fulls_env hf
  have hA : e.t.getX a = A := getX_taken s g r a
  have hstores : e.t.stores = (s.here g).stores := by rw [env_t]
  refine ⟨fun w ef => ⟨fun hw => ?_, fun hw hx => ?_, fun x pte lg hw hx => ?_⟩, fun pa ht hh hroom => ?_, fun tgt hw htgt => ?_, fun hw => ?_⟩
  · exact (execPref_of_full hc hf).trans (plain_finish hc (prefBody_in_window hw))
  · obtain ⟨c, l, hx⟩ := hx
    exact (execPref_of_full hc hf).trans (plain_finish hc (prefBody_unmapped hw hx))
  · have hbody := prefBody_mapped (w := w) (ef := ef) hw hx
    refine ⟨fun (hasks : prefAsks e A w x lg = false) => ?_, fun hasks => ?_⟩
    · exact (execPref_of_full hc hf).trans (plain_finish hc (hbody.trans (congrArg Act.done (if_neg (by rw [hasks]; decide)))))
    · exact (execPref_of_full hc hf).trans (plain_finish hc (hbody.trans (congrArg Act.done (if_pos hasks))))
  · have hroom' : e.t.stores.length < 16 := by rw [hstores]; exact hroom
    exact ⟨fun hr => plain_finish hc (cleanLine_of_hbm hfe hA hr hh hroom'), fun hr => plain_finish hc (cleanLine_of_hbm hfe hA hr hh hroom')⟩
  · exact ⟨fun hr => plain_finish hc (cleanLine_elsewhere hfe hA hw hr htgt), fun hr => plain_finish hc (cleanLine_elsewhere hfe hA hw hr htgt)⟩
  · exact ⟨plain_finish hc (cleanLine_in_window hfe hA hw), plain_finish hc (cleanLine_in_window hfe hA hw)⟩

end Sys2Proof.Machine
end

section
/-! PROOFS. BARA, BAREX and BARW (R226 to R229, R444). -/

namespace Sys2Proof.Machine

open Sys2Proof

/-! ## The object (R227, R444) -/

section
variable {a : BitVec 6} {kind : BitVec 2} {e : Env} {va : BitVec 64} {s2 : State} {pa : Nat} {bar : Barrier} {k : State → Nat → Barrier → Nat → Act State}
  (hva : e.t.getX a = va) (ho : object e va 64 64 kind Cause.barPlace = .ok s2 pa)
include hva ho

theorem withBarrier_of_malformed (hb : readBarrier s2 pa = none) : withBarrier a kind e k = .trapIn s2 (.plain Cause.barDesc) := by
  subst hva
  simp only [withBarrier, ho, hb]

/-- A barrier object that reads well goes by its level (R227). -/
theorem withBarrier_of_barrier (hb : readBarrier s2 pa = some bar) : withBarrier a kind e k =
    if e.g.lr.nlev < bar.level then .trapIn s2 (.plain Cause.levelRange) else k s2 pa bar (levelScope e.g.lr bar.level) := by
  subst hva
  simp only [withBarrier, ho, hb]

theorem withBarrier_of_level (hb : readBarrier s2 pa = some bar) (hl : bar.level ≤ e.g.lr.nlev) :
    withBarrier a kind e k = k s2 pa bar (levelScope e.g.lr bar.level) :=
  (withBarrier_of_barrier hva ho hb).trans (if_neg (BitVec.not_lt.2 hl))

end

/-- Updates of one object in a cycle are tested together, once (R228). -/
theorem settleBarriers_of_one {u : State} {pa : Nat} {bar : Barrier} (ht : u.touched = [pa]) (hb : readBarrier { u with touched := [] } pa = some bar) :
    settleBarriers u = writeBarrier { u with touched := [] } pa bar.test := by
  simp only [settleBarriers, ht, List.foldl_cons, List.foldl_nil, hb]

/-! ## What each does at the slice (R228, R229) -/

/-- Whether a BARA is the next to be applied at its barrier. -/
def nextArrival (s : State) (pa : Nat) (p : Place) (st : StreamId) : Bool := (firstArrival s pa).all (· == (pa, p, st))

/-- The next BARA at a barrier is the first that waits there, or any where none waits (R228). -/
theorem nextArrival_iff {s : State} {pa : Nat} {p : Place} {st : StreamId} :
    nextArrival s pa p st = true ↔ firstArrival s pa = none ∨ firstArrival s pa = some (pa, p, st) := by
  unfold nextArrival
  cases firstArrival s pa with
  | none => simp
  | some x => simp

/-- A barrier with the release of a BARA or BAREX published and its object updated to c (R228, R229). -/
def barrierReached (e : Env) (s : State) (pa scope : Nat) (c : Barrier) : State := updateBarrier (publish s e.p e.st e.t scope [(.mem pa, 24)]) pa c

/-- The stream as a release at a barrier leaves it, with a later mark and the set that goes with its later tokens (R97, R229). -/
def Stream.releasedAt (t : Stream) (e : Env) (u : State) : Stream := { t with mark := e.t.mark + 1, fenced := liveSet u e.p e.t }

/-- BARA at a barrier, x(b) read. -/
def baraAt (d : BitVec 6) (y : BitVec 64) (e : Env) (s : State) (pa : Nat) (bar : Barrier) (scope : Nat) : Act State :=
  let u := barrierReached e s pa scope { bar with arrive := bar.arrive + 1, pend := bar.pend + y }
  if !releaseDone s e.p e.t scope then e.waitFor s e.g .other d
  else if bar.arrive = bar.count || !nextArrival s pa e.p e.st then
    e.waitFor (queueArrival s pa e.p e.st) (e.g.setStream e.st { e.t with atSlice := true }) .other d
  else
    .done (({ u with barriers := u.barriers.filter (fun x => !(x.2 == (e.p, e.st))) } : State).setGroup e.p
      (e.g.setStream e.st ((e.t.setX d (bar.phase.zeroExtend 64)).releasedAt e u)))

/-- BAREX at a barrier, x(b) read. -/
def barexAt (y : BitVec 64) (e : Env) (s : State) (pa : Nat) (bar : Barrier) (scope : Nat) : Act State :=
  let u := barrierReached e s pa scope { bar with pend := bar.pend + y }
  if !releaseDone s e.p e.t scope then .wait s else .done (u.setGroup e.p (e.g.setStream e.st (e.t.releasedAt e u)))

/-- BARW at a barrier, x(b) read. -/
def barwAt (d : BitVec 6) (y : BitVec 64) (e : Env) (s : State) (pa : Nat) (bar : Barrier) (scope : Nat) : Act State :=
  if bar.phase = y.extractLsb' 0 32 then e.waitFor s e.g .other d
  else .done (s.setGroup e.p (e.g.setStream e.st ((e.t.setX d (bar.phase.zeroExtend 64)).acquire e.p e.st scope
    (pairedWith s e.p e.st ((List.range 24).map (fun i => .mem (pa + i)))))))

section
variable {a b d : BitVec 6} {e : Env} {y : BitVec 64} (hf : e.t.fulls [a, b]) (hy : e.t.getX b = y)
include hf hy

theorem barex_of_full : barex a b e = withBarrier a 1 e (barexAt y e) := by
  subst hy
  rw [barex, reads_of_fulls hf]
  rfl

variable (hd : e.t.isFull d = true)
include hd

theorem bara_of_full : bara d a b e = withBarrier a 1 e (baraAt d y e) := by
  subst hy
  rw [bara, reads_of_fulls hf, writes_of_full hd]
  congr 1
  funext s pa bar scope
  rw [baraAt, nextArrival]
  dsimp only
  cases firstArrival s pa <;> rfl

theorem barw_of_full : barw d a b e = withBarrier a 0 e (barwAt d y e) := by
  subst hy
  rw [barw, reads_of_fulls hf, writes_of_full hd]
  rfl

end

section
variable {d : BitVec 6} {y : BitVec 64} {e : Env} {s : State} {pa : Nat} {bar : Barrier} {scope : Nat}

theorem baraAt_unreleased (h : releaseDone s e.p e.t scope = false) : baraAt d y e s pa bar scope = e.waitFor s e.g .other d :=
  if_pos (by rw [h]; rfl)

theorem baraAt_full (h : releaseDone s e.p e.t scope = true) (hw : bar.arrive = bar.count ∨ ¬ nextArrival s pa e.p e.st = true) :
    baraAt d y e s pa bar scope = e.waitFor (queueArrival s pa e.p e.st) (e.g.setStream e.st { e.t with atSlice := true }) .other d :=
  (if_neg (by rw [h]; decide)).trans (if_pos (by simpa using hw))

theorem baraAt_next (h : releaseDone s e.p e.t scope = true) (hne : bar.arrive ≠ bar.count) (hn : nextArrival s pa e.p e.st = true) {u : State}
    (hu : u = barrierReached e s pa scope { bar with arrive := bar.arrive + 1, pend := bar.pend + y }) : baraAt d y e s pa bar scope =
      .done (({ u with barriers := u.barriers.filter (fun x => !(x.2 == (e.p, e.st))) } : State).setGroup e.p
        (e.g.setStream e.st ((e.t.setX d (bar.phase.zeroExtend 64)).releasedAt e u))) := by
  subst hu
  exact (if_neg (by rw [h]; decide)).trans (if_neg (by simp [hne, hn]))

theorem barexAt_unreleased (h : releaseDone s e.p e.t scope = false) : barexAt y e s pa bar scope = .wait s := if_pos (by rw [h]; rfl)

theorem barexAt_released (h : releaseDone s e.p e.t scope = true) {u : State} (hu : u = barrierReached e s pa scope { bar with pend := bar.pend + y }) :
    barexAt y e s pa bar scope = .done (u.setGroup e.p (e.g.setStream e.st (e.t.releasedAt e u))) := by
  subst hu
  exact if_neg (by rw [h]; decide)

end

/-- Settles O29: each instruction by what its object reads as; BARA further by the phase and by the arrivals that wait. -/
theorem barrierInstructionsComplete : Obligations.BarrierInstructionsComplete := by
  unfold Obligations.BarrierInstructionsComplete
  intro s s2 g r d a b pa bar hc hfull e X tested traps waits released put
  have hf : e.t.fulls [a, b] := fulls_env_of_subset hfull (by simp)
  have hd : e.t.isFull d = true := isFull_env_of_mem hfull (by simp)
  have hA : e.t.getX a = (s.here g).getX a := getX_taken s g r a
  have hX : e.t.getX b = X := getX_taken s g r b
  have hbara := bara_of_full hf hX hd
  have hbarex := barex_of_full hf hX
  have hbarw := barw_of_full hf hX hd
  have hput (c : Barrier) : barrierReached e s2 pa (levelScope g.lr bar.level) c = put c := rfl
  refine ⟨fun ho => ⟨fun hb => ⟨?_, ?_⟩, fun hb hl => ⟨?_, ?_⟩, fun hb hl hrel => ⟨fun hcut => ?_, fun hcut => ?_⟩, fun hb hl hrel => ?_⟩,
    fun u => settleBarriers_of_one, fun ho hb hl => ⟨fun hp hcut => ?_, fun hp => ?_⟩⟩
  · exact plain_trapIn hc (hbara.trans (withBarrier_of_malformed hA ho hb))
  · exact plain_trapIn hc (hbarex.trans (withBarrier_of_malformed hA ho hb))
  · exact plain_trapIn hc (hbara.trans ((withBarrier_of_barrier hA ho hb).trans (if_pos hl)))
  · exact plain_trapIn hc (hbarex.trans ((withBarrier_of_barrier hA ho hb).trans (if_pos hl)))
  · exact plain_wait hc hcut (hbara.trans ((withBarrier_of_level hA ho hb hl).trans (baraAt_unreleased hrel)))
  · exact plain_wait hc hcut (hbarex.trans ((withBarrier_of_level hA ho hb hl).trans (barexAt_unreleased hrel)))
  · intro first written added
    refine ⟨fun hne hfirst => ?_, fun hw hcut => ?_, ?_⟩
    · exact plain_finish hc (hbara.trans ((withBarrier_of_level hA ho hb hl).trans (baraAt_next hrel hne (nextArrival_iff.2 hfirst) (hput _).symm)))
    · exact plain_wait hc hcut (hbara.trans ((withBarrier_of_level hA ho hb hl).trans (baraAt_full hrel (hw.imp id (mt nextArrival_iff.1)))))
    · exact plain_finish hc (hbarex.trans ((withBarrier_of_level hA ho hb hl).trans (barexAt_released hrel (hput _).symm)))
  · exact plain_wait hc hcut (hbarw.trans ((withBarrier_of_level hA ho hb hl).trans (if_pos hp)))
  · exact plain_finish hc (hbarw.trans ((withBarrier_of_level hA ho hb hl).trans (if_neg hp)))

end Sys2Proof.Machine
end

section
/-! PROOFS. WPSET and WPCLR (R235, R237 to R239; log 36). -/

namespace Sys2Proof.Machine

open Sys2Proof

/-! ## WPSET (R237, R238) -/

/-- The entry that WPSET takes for a descriptor whose range begins at an address of its home slice (R238). -/
def watchFor (once : BitVec 1) (bs : List Byte) (g : Group) (pa : Nat) (i : Fin 16) : Watch :=
  { slice := sliceOf pa, entry := i, lo := pa, hi := pa + ((dwordOf bs 1).toNat - (dwordOf bs 0).toNat), mask := dwordOf bs 2, value := dwordOf bs 3,
    task := taskForClass (taskOf (bs.drop 32)) g.cls, once := once == 1#1, owner := g.lr.id, asid := g.lr.asid }

/-- Whether an entry of the home slice of an address is taken (R238). -/
def entryUsed (s : State) (pa : Nat) (i : Fin 16) : Bool := (s.dies.get (dieOf pa)).watch.any (fun w => w.slice == sliceOf pa && w.entry == i)

/-- The lowest free entry of the home slice of an address (R238). -/
def freeEntry (s : State) (pa : Nat) : Option (Fin 16) := (List.finRange 16).find? (fun i => !entryUsed s pa i)

theorem freeEntry_eq_none {s : State} {pa : Nat} (h : ∀ i, entryUsed s pa i = true) : freeEntry s pa = none :=
  List.find?_eq_none.2 (fun i _ => by rw [h i]; decide)

theorem freeEntry_eq_some {s : State} {pa : Nat} {i : Fin 16} (hi : entryUsed s pa i = false) (hlt : ∀ j, j < i → entryUsed s pa j = true) :
    freeEntry s pa = some i := find_finRange_first (by rw [hi]; rfl) (fun j hj => by rw [hlt j hj]; rfl)

/-- WPSET of a descriptor whose fields and card are good: its range is translated, and an entry of the home slice taken (R238). -/
def takeEntry (d : BitVec 6) (once : BitVec 1) (bs : List Byte) (e : Env) (s : State) : Act State :=
  match translateAs s e.p e.g e.st (dwordOf bs 0) 0 false with
  | .wait s => .wait s
  | .bad s cause lvl => faultStream s e.p e.g e.st (dwordOf bs 0) 0 cause lvl .wait .trapIn
  | .ok s pa _ =>
    if (region s pa).isHbm = false then .trapIn s (.plain Cause.wpDesc)
    else
      match freeEntry s pa with
      | none => .trapIn s (.plain Cause.wpNoslot)
      | some i =>
        let die := s.dies.get (dieOf pa)
        .done ((s.setDie (dieOf pa) { die with watch := die.watch ++ [watchFor once bs e.g pa i] }).setGroup e.p
          (e.g.setStream e.st (e.t.setX d (BitVec.ofNat 64 ((dieOf pa).val * 256 + (sliceOf pa).val * 16 + i.val)))))

/-- Whether LO, HI or TASK of a watch record breaks its form (R237, R238; log 36). -/
abbrev watchMalformed (bs : List Byte) : Prop :=
  (dwordOf bs 0).toNat % 8 ≠ 0 ∨ (dwordOf bs 1).toNat % 8 ≠ 7 ∨ (dwordOf bs 0).toNat / 128 ≠ (dwordOf bs 1).toNat / 128 ∨ dwordOf bs 1 < dwordOf bs 0 ∨
    taskOk (taskOf (bs.drop 32)) = false

/-- WPSET of a descriptor that it has read (R237, R238; log 36). -/
def watchRecord (d : BitVec 6) (once : BitVec 1) (e : Env) (s : State) (bs : List Byte) : Act State :=
  let t := taskOf (bs.drop 32)
  if watchMalformed bs then .trapIn s (.plain Cause.wpDesc)
  else if inWindow (dwordOf bs 0) then .trapIn s (.plain Cause.wpDesc)
  else if t[0].extractLsb' 60 4 = 1#4 then checkCard e s t[1] Cause.wpDesc (takeEntry d once bs e)
  else takeEntry d once bs e s

section
variable {d a : BitVec 6} {once : BitVec 1} {e : Env} {va : BitVec 64} (hf : e.t.fulls [a]) (hd : e.t.isFull d = true) (hva : e.t.getX a = va)
include hf hd hva

theorem wpset_of_misaligned (h : va.toNat % 64 ≠ 0) : wpset d a once e = .trap (.plain Cause.wpDesc) := by
  subst hva
  rw [wpset, reads_of_fulls hf, writes_of_full hd]
  exact if_pos h

theorem wpset_of_aligned (h : va.toNat % 64 = 0) : wpset d a once e = recordAt e va 64 (watchRecord d once e) := by
  subst hva
  rw [wpset, reads_of_fulls hf, writes_of_full hd]
  exact if_neg (by rw [h]; decide)

end

section
variable {d : BitVec 6} {once : BitVec 1} {e : Env} {s s4 s5 : State} {bs : List Byte} {pa : Nat} {ht : Bool}

theorem watchRecord_malformed (h : watchMalformed bs ∨ inWindow (dwordOf bs 0) = true) : watchRecord d once e s bs = .trapIn s (.plain Cause.wpDesc) := by
  rw [watchRecord]
  split
  · rfl
  · exact if_pos (by tauto)

/-- A descriptor with good fields: a KIND 2 record needs nothing more, a KIND 1 record a card that names a launch record (R235; log 36). -/
theorem watchRecord_good (hform : ¬ watchMalformed bs) (hw : inWindow (dwordOf bs 0) = false)
    (hcard : ((taskOf (bs.drop 32))[0].extractLsb' 60 4 = 2#4 ∧ s4 = s) ∨ ((taskOf (bs.drop 32))[0].extractLsb' 60 4 = 1#4 ∧
      ∃ (pc : Nat) (c : Card), object { e with s := s } (taskOf (bs.drop 32))[1] 64 64 0 Cause.wpDesc = .ok s4 pc ∧ readCard s4 pc = some c ∧ c.launch ≠ 0)) :
    watchRecord d once e s bs = takeEntry d once bs e s4 := by
  rw [watchRecord, if_neg hform, if_neg (by rw [hw]; decide)]
  obtain ⟨hkind, rfl⟩ | ⟨hkind, pc, c, ho, hr, hl⟩ := hcard
  · exact if_neg (by rw [hkind]; decide)
  · rw [if_pos hkind, checkCard_of_card ho hr, if_neg hl]

variable (hx : translateAs s4 e.p e.g e.st (dwordOf bs 0) 0 false = .ok s5 pa ht)
include hx

theorem takeEntry_outside_hbm (hh : (region s5 pa).isHbm = false) : takeEntry d once bs e s4 = .trapIn s5 (.plain Cause.wpDesc) := by
  rw [takeEntry, hx]
  exact if_pos hh

theorem takeEntry_of_none (hh : (region s5 pa).isHbm = true) (hfree : freeEntry s5 pa = none) : takeEntry d once bs e s4 = .trapIn s5 (.plain Cause.wpNoslot) := by
  rw [takeEntry, hx]
  dsimp only
  rw [if_neg (by rw [hh]; decide), hfree]

theorem takeEntry_of_free (hh : (region s5 pa).isHbm = true) {i : Fin 16} (hfree : freeEntry s5 pa = some i) : takeEntry d once bs e s4 =
    .done ((s5.setDie (dieOf pa) { s5.dies.get (dieOf pa) with watch := (s5.dies.get (dieOf pa)).watch ++ [watchFor once bs e.g pa i] }).setGroup e.p
      (e.g.setStream e.st (e.t.setX d (BitVec.ofNat 64 ((dieOf pa).val * 256 + (sliceOf pa).val * 16 + i.val))))) := by
  rw [takeEntry, hx]
  dsimp only
  rw [if_neg (by rw [hh]; decide), hfree]

end

/-! ## WPCLR (R239) -/

/-- The handle of a watch entry (R238). -/
def watchHandle (dd : DieId) (sl i : Fin 16) : BitVec 64 := BitVec.ofNat 64 (dd.val * 256 + sl.val * 16 + i.val)

theorem watchHandle_toNat (dd : DieId) (sl i : Fin 16) : (watchHandle dd sl i).toNat = dd.val * 256 + sl.val * 16 + i.val := by
  rw [watchHandle, BitVec.toNat_ofNat, Nat.mod_eq_of_lt (by omega)]

theorem fieldOf_eq_div_mod {w : Nat} (x : BitVec w) (hi lo : Nat) : fieldOf x hi lo = x.toNat / 2 ^ lo % 2 ^ (hi + 1 - lo) := by
  rw [fieldOf, BitVec.extractLsb'_toNat, Nat.shiftRight_eq_div_pow]

/-- A handle has its die in bits 9:8, its slice in bits 7:4 and its entry in bits 3:0. -/
theorem watchHandle_fields (dd : DieId) (sl i : Fin 16) : fin4 (fieldOf (watchHandle dd sl i) 9 8) = dd ∧ fieldOf (watchHandle dd sl i) 7 4 = sl.val ∧
    fieldOf (watchHandle dd sl i) 3 0 = i.val := by
  simp only [fieldOf_eq_div_mod, watchHandle_toNat, fin4, Fin.ext_iff]
  omega

/-- The words with no bit set above those of a handle are the handles (R239). -/
theorem is_watchHandle_iff (v : BitVec 64) : v.extractLsb' 10 54 = 0#54 ↔ ∃ dd sl i, v = watchHandle dd sl i := by
  rw [extractLsb'_upper_eq_zero_iff (k := 10) (m := 54) v]
  constructor
  · intro hlt
    refine ⟨⟨v.toNat / 256, by omega⟩, ⟨v.toNat / 16 % 16, by omega⟩, ⟨v.toNat % 16, by omega⟩, BitVec.eq_of_toNat_eq ?_⟩
    rw [watchHandle_toNat]
    dsimp only
    omega
  · rintro ⟨dd, sl, i, rfl⟩
    rw [watchHandle_toNat]
    omega

section
variable {a : BitVec 6} {e : Env} (hf : e.t.fulls [a])
include hf

theorem wpclr_of_no_handle (h : ∀ dd sl i, e.t.getX a ≠ watchHandle dd sl i) : wpclr a e = .trap (.plain Cause.wpHandle) := by
  rw [wpclr, reads_of_fulls hf]
  refine if_pos (.inl fun hv => ?_)
  obtain ⟨dd, sl, i, hv⟩ := (is_watchHandle_iff _).1 hv
  exact h dd sl i hv

/-- WPCLR of a handle goes by whether its launch holds the entry (R239). -/
theorem wpclr_of_handle {dd : DieId} {sl i : Fin 16} (hv : e.t.getX a = watchHandle dd sl i) : wpclr a e =
    if (e.s.dies.get dd).watch.any (fun w => w.slice == sl && w.entry == i && w.owner == e.g.lr.id) = false then .trap (.plain Cause.wpHandle)
    else .done (e.s.setDie dd { e.s.dies.get dd with watch := (e.s.dies.get dd).watch.filter (fun w => !(w.slice == sl && w.entry == i)) }) := by
  obtain ⟨hdie, hslice, hentry⟩ := watchHandle_fields dd sl i
  have hhigh := (is_watchHandle_iff (watchHandle dd sl i)).2 ⟨dd, sl, i, rfl⟩
  have hval (x y : Fin 16) : (x.val == y.val) = (x == y) := by rw [Bool.eq_iff_iff, beq_iff_eq, beq_iff_eq, Fin.ext_iff]
  rw [wpclr, reads_of_fulls hf]
  simp only [hv, hhigh, hdie, hslice, hentry, hval, ne_eq, not_true_eq_false, false_or]

end

/-- Settles O33: WPSET by its descriptor, the page of its range and the entries of the home slice, WPCLR by the entry that its handle names. -/
theorem watchpointInstructionsComplete : Obligations.WatchpointInstructionsComplete := by
  unfold Obligations.WatchpointInstructionsComplete
  intro s s2 s3 s4 s5 g r ev d a once hc hfull e A traps
  have hf : e.t.fulls [a] := fulls_env_of_subset hfull (by simp)
  have hd : e.t.isFull d = true := isFull_env_of_mem hfull (by simp)
  have hA : e.t.getX a = A := getX_taken s g r a
  refine ⟨fun h => plain_trap hc (wpset_of_misaligned hf hd hA h), fun tgt pa ht halign hreach hdcr hlock hpages hbad => ?_,
    fun dd sl i hv => ?_, fun h => plain_trap hc (wpclr_of_no_handle hf (fun dd sl i hv => h dd sl i (hA.symm.trans hv)))⟩
  · intro u bs lo hi t
    have hu : tgt.asked s3 e.g.lr.asid A 64 = u := by cases tgt <;> rfl
    have hrec : wpset d a once e = watchRecord d once e u bs := by
      rw [wpset_of_aligned hf hd hA halign, recordAt_of_whole hreach hdcr hlock hpages hbad, hu]
    refine ⟨fun h => plain_trapIn hc (hrec.trans (watchRecord_malformed ?_)), fun h0 h7 hline hle hok hw hcard hx => ?_⟩
    · simp only [watchMalformed, or_assoc]
      exact h
    have hform : ¬ watchMalformed bs := by
      rintro (h | h | h | h | h)
      exacts [h h0, h h7, h hline, hle h, Bool.false_ne_true (h.symm.trans hok)]
    replace hrec := hrec.trans (watchRecord_good hform hw hcard)
    refine ⟨fun hh => plain_trapIn hc (hrec.trans (takeEntry_outside_hbm hx hh)), fun hh => ⟨fun hused => ?_, fun i hi hlt => ?_⟩⟩
    · exact plain_trapIn hc (hrec.trans (takeEntry_of_none hx hh (freeEntry_eq_none hused)))
    · exact plain_finish hc (hrec.trans (takeEntry_of_free hx hh (freeEntry_eq_some hi hlt)))
  · have hclr := wpclr_of_handle hf (hA.trans hv)
    refine ⟨fun ⟨w, hmem, hslice, hentry, howner⟩ => plain_finish hc (hclr.trans (if_neg ?_)), fun hno => plain_trap hc (hclr.trans (if_pos ?_))⟩
    · replace howner : w.owner = e.g.lr.id := howner
      rw [Bool.not_eq_false, List.any_eq_true]
      exact ⟨w, hmem, by simp [hslice, hentry, howner]⟩
    · refine List.any_eq_false.2 (fun w hmem h => ?_)
      simp only [Bool.and_eq_true, beq_iff_eq] at h
      obtain ⟨⟨hslice, hentry⟩, howner⟩ := h
      exact hno w hmem hslice hentry howner

end Sys2Proof.Machine
end

section
/-! PROOFS. The events of a collective's load, of a port's window and of a copy's barrier bytes (R228, R292, R338, R343, R344, R347, R373, R414). -/

namespace Sys2Proof.Machine

open Sys2Proof

/-! ## Weights (R343) -/

section
variable {s : State} {d : DieId} {i : Fin 64} {c : Ctx} {ws : List Nat}

theorem pathWeights_fixed (h : c.graph.fixw = true) (host : Bool) : pathWeights s d i c host ws = some (c.graph.paths.map (·.weight)) := if_pos h

/-- The host's weights are taken path by path. -/
theorem pathWeights_host (h : c.graph.fixw = false) :
    pathWeights s d i c true ws = some ((List.range c.graph.paths.length).map (fun k => ws.getD k 0)) := by
  rw [List.range_eq_range', ← List.zipIdx_map_snd 0 c.graph.paths, List.map_map]
  exact (if_neg (by rw [h]; decide)).trans (if_pos rfl)

/-- No context of the package has a part in the weights that the host returns. -/
theorem pathWeights_host_congr (t : State) : pathWeights t d i c true ws = pathWeights s d i c true ws := by
  cases h : c.graph.fixw with
  | true => rw [pathWeights_fixed h, pathWeights_fixed h]
  | false => rw [pathWeights_host h, pathWeights_host h]

end

/-! ## The answer of a load (R343, R344) -/

/-- The load that a command of a place waits for becomes x; every other load stays. -/
def loadAnswer (p : Place) (id : Nat) (x : Ctx) (y : Fin 64 × Ctx) : Fin 64 × Ctx :=
  match y.2.phase with
  | .loading q k => if q = p ∧ k = id then (y.1, x) else y
  | _ => y

theorem loadAnswer_of_loading {p : Place} {id : Nat} {x : Ctx} {y : Fin 64 × Ctx} (h : y.2.phase = .loading p id) : loadAnswer p id x y = (y.1, x) := by
  rw [loadAnswer, h]
  exact if_pos ⟨rfl, rfl⟩

theorem loadAnswer_of_other {p : Place} {id : Nat} {x : Ctx} {y : Fin 64 × Ctx} (h : y.2.phase ≠ .loading p id) : loadAnswer p id x y = y := by
  unfold loadAnswer
  split
  · rename_i q k hq
    exact if_neg (fun ⟨hp, hk⟩ => h (by rw [hq, hp, hk]))
  · rfl

/-- The loads of the die of a place with the one that its command waits for become x. -/
def putLoad (s : State) (p : Place) (id : Nat) (x : Ctx) : State :=
  s.setDie (dieOfPlace p) { s.dies.get (dieOfPlace p) with loads := (s.dies.get (dieOfPlace p)).loads.map (loadAnswer p id x) }

theorem putLoad_die (s : State) (p : Place) (id : Nat) (x : Ctx) : (putLoad s p id x).dies.get (dieOfPlace p) =
    { s.dies.get (dieOfPlace p) with loads := (s.dies.get (dieOfPlace p)).loads.map (loadAnswer p id x) } := by
  simp [putLoad, State.setDie, Vector.get_eq_getElem]

/-- An event answers the load of a context with x: the graph loaded before and the other loads of the die stay. -/
def LoadAnswered (s : State) (p : Place) (i : Fin 64) (id : Nat) (o : Host.Outcome State Fault Refusal) (x : Ctx) : Prop :=
  ∃ t, o = .next t ∧ (i, x) ∈ (t.dies.get (dieOfPlace p)).loads ∧ (t.dies.get (dieOfPlace p)).ctxs = (s.dies.get (dieOfPlace p)).ctxs ∧
    (∀ y ∈ (s.dies.get (dieOfPlace p)).loads, y.2.phase ≠ .loading p id → y ∈ (t.dies.get (dieOfPlace p)).loads) ∧ t.mem = s.mem

section
variable {s : State} {p : Place} {i : Fin 64} {c : Ctx} {id : Nat} (h : loadingCtx s p = some (i, c, id))
include h

theorem loadingCtx_mem : (i, c) ∈ (s.dies.get (dieOfPlace p)).loads ∧ c.phase = .loading p id := by
  obtain ⟨x, hx, hf⟩ := List.exists_of_findSome?_eq_some h
  split at hf
  · rename_i q k hphase
    split at hf
    · rename_i hq
      subst hq
      cases hf
      exact ⟨hx, hphase⟩
    · cases hf
  · cases hf

theorem putLoad_answered (x : Ctx) : LoadAnswered s p i id (.next (putLoad s p id x)) x := by
  obtain ⟨hmem, hphase⟩ := loadingCtx_mem h
  unfold LoadAnswered
  refine ⟨_, rfl, ?_⟩
  rw [putLoad_die]
  exact ⟨List.mem_map.2 ⟨(i, c), hmem, loadAnswer_of_loading hphase⟩, rfl, fun y hy hne => List.mem_map.2 ⟨y, hy, loadAnswer_of_other hne⟩, rfl⟩

variable {host : Bool} {ws : List Nat}

theorem answerLoad_refused : answerLoad s p host false ws = putLoad s p id { c with phase := .answered p id Cause.colResv } := by
  simp only [answerLoad, h]
  rfl

theorem answerLoad_unweighed (hw : pathWeights s (dieOfPlace p) i c host ws = none) : answerLoad s p host true ws = s := by
  simp only [answerLoad, h, hw]
  rfl

variable {nws : List Nat} (hw : pathWeights s (dieOfPlace p) i c host ws = some nws)
include hw

theorem answerLoad_unsplit (hs : splitPaths c.graph nws = none) :
    answerLoad s p host true ws = putLoad s p id { c with phase := .answered p id Cause.colDesc } := by
  simp only [answerLoad, h, hw, hs]
  rfl

theorem answerLoad_split {ps : List GPath} (hs : splitPaths c.graph nws = some ps) :
    answerLoad s p host true ws = putLoad s p id { c with graph := { c.graph with paths := ps }, phase := .answered p id 0 } := by
  simp only [answerLoad, h, hw, hs]
  rfl

end

/-- A load is refused, or granted with what the split of its weights gives (R343, R344). -/
theorem answerLoad_answers {s : State} {p : Place} {i : Fin 64} {c : Ctx} {id : Nat} (h : loadingCtx s p = some (i, c, id)) (host : Bool) (ws : List Nat) :
    LoadAnswered s p i id (.next (answerLoad s p host false ws)) { c with phase := .answered p id Cause.colResv } ∧
    ∀ nws, pathWeights s (dieOfPlace p) i c host ws = some nws →
      (splitPaths c.graph nws = none → LoadAnswered s p i id (.next (answerLoad s p host true ws)) { c with phase := .answered p id Cause.colDesc }) ∧
      ∀ ps, splitPaths c.graph nws = some ps →
        LoadAnswered s p i id (.next (answerLoad s p host true ws)) { c with graph := { c.graph with paths := ps }, phase := .answered p id 0 } := by
  refine ⟨?_, fun nws hw => ⟨fun hs => ?_, fun ps hs => ?_⟩⟩
  · rw [answerLoad_refused h]; exact putLoad_answered h _
  · rw [answerLoad_unsplit h hw hs]; exact putLoad_answered h _
  · rw [answerLoad_split h hw hs]; exact putLoad_answered h _

/-! ## COLLD_READY and COL_ACK (R343, R373) -/

/-- COLLD_READY leaves a load to the host that has been asked for it. -/
theorem execColldReady_of_load {s : State} {p : Place} (h : (loadingCtx s p).isSome = true) (granted : Bool) (told : List Nat × List (BitVec 32)) :
    execColldReady p granted told s =
      if s.dawn.colReqs.any (fun x => x.2 == p) then .next s else .next (answerLoad s p false granted told.1) := if_pos h

/-- The state without the host's request that a COL_ACK answers. -/
def withoutReq (s : State) (seq : BitVec 32) : State := { s with dawn := { s.dawn with colReqs := s.dawn.colReqs.filter (fun y => y.1 ≠ seq) } }

theorem execColAck_of_req {s : State} {p : Place} {seq : BitVec 32} (h : s.dawn.colReqs.find? (fun x => x.1 == seq) = some (seq, p)) (granted : Bool)
    (ws : List Nat) : execColAck seq granted ws s = .next (answerLoad (withoutReq s seq) p true granted ws) := by
  simp only [execColAck, h]
  rfl

/-! ## The exchange of a replay (R344, R347) -/

/-- A search whose one hit is known finds it. -/
theorem findSome?_eq_some_of_unique {α β : Type} {f : α → Option β} {l : List α} {a : α} {b : β} (ha : a ∈ l) (hb : f a = some b)
    (hone : ∀ a' ∈ l, ∀ b', f a' = some b' → b' = b) : l.findSome? f = some b := by
  cases hf : l.findSome? f with
  | none => exact absurd (hb.symm.trans (List.findSome?_eq_none_iff.1 hf a ha)) (by simp)
  | some b' =>
    obtain ⟨a', ha', hb'⟩ := List.exists_of_findSome?_eq_some hf
    rw [hone a' ha' b' hb']

/-- The replay of a place that waits on a context for its exchange of weights. -/
def waitingReplay (s : State) (p : Place) (d : DieId) (i : Fin 64) : Option (DieId × Fin 64 × Ctx × Replay) :=
  match ctxAt s d i with
  | some c => match c.replays with
    | r :: _ => if r.place = p ∧ r.asked = true ∧ r.split = false then some (d, i, c, r) else none
    | [] => none
  | none => none

theorem waitingReplay_eq_some {s : State} {p : Place} {d : DieId} {i : Fin 64} {x : DieId × Fin 64 × Ctx × Replay} (h : waitingReplay s p d i = some x) :
    ∃ c r, ctxAt s d i = some c ∧ c.replays.head? = some r ∧ r.place = p ∧ r.asked = true ∧ r.split = false ∧ x = (d, i, c, r) := by
  unfold waitingReplay at h
  split at h
  · rename_i c hc
    split at h
    · rename_i r rest hr
      split at h
      · rename_i hw
        obtain ⟨hp, ha, hsplit⟩ := hw
        exact ⟨c, r, hc, by rw [hr]; rfl, hp, ha, hsplit, (Option.some.inj h).symm⟩
      · cases h
    · cases h
  · cases h

/-- The first replay of a place, by die and context, that waits for its exchange of weights. -/
def firstWaiting (s : State) (p : Place) : Option (DieId × Fin 64 × Ctx × Replay) :=
  (List.finRange 4).findSome? fun d => (List.finRange 64).findSome? fun i => waitingReplay s p d i

section
variable {s : State} {p : Place} {d : DieId} {i : Fin 64} {c : Ctx} {r : Replay} {rest : List Replay} (hc : ctxAt s d i = some c) (hr : c.replays = r :: rest)
include hc hr

/-- The one replay of a place that waits is the first that does. -/
theorem firstWaiting_of_only (hp : r.place = p) (ha : r.asked = true) (hs : r.split = false)
    (honly : ∀ d' i' c' r', ctxAt s d' i' = some c' → c'.replays.head? = some r' → r'.place = p → r'.asked = true → r'.split = false →
      d' = d ∧ i' = i) :
    firstWaiting s p = some (d, i, c, r) := by
  have hone : ∀ d' i' x, waitingReplay s p d' i' = some x → x = (d, i, c, r) := by
    intro d' i' x hx
    obtain ⟨c', r', hc', hr', hp', ha', hs', rfl⟩ := waitingReplay_eq_some hx
    obtain ⟨rfl, rfl⟩ := honly d' i' c' r' hc' hr' hp' ha' hs'
    obtain rfl := Option.some.inj (hc'.symm.trans hc)
    rw [hr] at hr'
    rw [Option.some.inj hr']
  have hhere : waitingReplay s p d i = some (d, i, c, r) := by simp only [waitingReplay, hc, hr, hp, ha, hs, and_self, if_true]
  refine findSome?_eq_some_of_unique (List.mem_finRange d) (findSome?_eq_some_of_unique (List.mem_finRange i) hhere (fun i' _ => hone d i')) ?_
  intro d' _ x hx
  obtain ⟨i', -, hx⟩ := List.exists_of_findSome?_eq_some hx
  exact hone d' i' x hx

end

section
variable {s : State} {p : Place} {d : DieId} {i : Fin 64} {c : Ctx} {r : Replay} {ok : Bool} {ws nws : List Nat} {sigs : List (BitVec 32)}
  (hl : loadingCtx s p = none) (hf : firstWaiting s p = some (d, i, c, r)) (hw : pathWeights s d i c false ws = some nws)
include hl hf hw

/-- A replay whose weights have come fails, or goes on with the shares of the weights (R344, R347). -/
theorem execColldReady_of_exchange :
    (otherSig s d i c sigs = true → execColldReady p ok (ws, sigs) s = .next (advanceCtx (setReplay s d i (r.fail Cause.colSig r.step)) d i)) ∧
    (otherSig s d i c sigs = false → splitPaths c.graph nws = none →
      execColldReady p ok (ws, sigs) s = .next (advanceCtx (setReplay s d i (r.fail Cause.colDesc r.step)) d i)) ∧
    (otherSig s d i c sigs = false → ∀ ps, splitPaths c.graph nws = some ps → execColldReady p ok (ws, sigs) s =
      .next (advanceCtx (setReplay (setCtx s d i (some { c with graph := { c.graph with paths := ps } })) d i { r with split := true }) d i)) := by
  unfold execColldReady
  dsimp only
  rw [if_neg (by rw [hl]; decide)]
  split
  · rename_i hnone
    exact absurd (hf.symm.trans hnone) (by simp)
  · rename_i hsome
    obtain ⟨rfl, rfl, rfl, rfl⟩ := Option.some.inj (hf.symm.trans hsome)
    rw [hw]
    refine ⟨fun ho => if_pos ho, fun ho hs => (if_neg (by rw [ho]; decide)).trans ?_, fun ho ps hs => (if_neg (by rw [ho]; decide)).trans ?_⟩ <;> rw [hs]

end

/-! ## The end of a port's window (R338) -/

/-- A port at the end of a window whose use is u in 1,024 (R338). -/
def Port.windowEnded (q : Port) (u w : Nat) : Port :=
  { q with util := BitVec.ofNat 11 u, avail := BitVec.ofNat 11 (q.bwm.toNat * (1024 - u) / 1024), window := w }

theorem execPortWindowEnd_eq (q : Fin 18) (util : BitVec 11) (s : State) :
    let w := (s.dies.get (portDie q.val)).cycle.toNat / 2 ^ 20
    execPortWindowEnd q util s = if w = (s.ports.get q).window then .next s
      else .next { s with ports := s.ports.set q.val ((s.ports.get q).windowEnded (Nat.min 1024 util.toNat) w) } := rfl

/-! ## The bytes that a copy owes its barrier (R228, R292, R414) -/

@[simp] theorem inCycle_refreshLine (s : State) (line : Nat) : (refreshLine s line).inCycle = s.inCycle := by
  unfold refreshLine; dsimp only; split <;> rfl

@[simp] theorem inCycle_setL2 (s : State) (d : DieId) (die : Die) : (setL2 s d die).inCycle = s.inCycle := by
  have h : (writtenBack (s.setDie d die) d (s.dies.get d).l2).inCycle = s.inCycle := by
    unfold writtenBack; split <;> rfl
  unfold setL2 shedPoison
  dsimp only
  split <;> exact h

@[simp] theorem inCycle_l2Touch (s : State) (pa : Nat) (tag : ReqTag) (ef write : Bool) : (l2Touch s pa tag ef write).inCycle = s.inCycle := by
  unfold l2Touch
  split
  · rw [inCycle_setL2, inCycle_refreshLine]
  · rfl

/-- An update outside a cycle that is worked off is tested at once (R228). -/
theorem updateBarrier_at_once {s : State} (h : s.inCycle = false) (pa : Nat) (b : Barrier) : updateBarrier s pa b = writeBarrier s pa b.test :=
  if_neg (by rw [h]; decide)

/-- An update inside a cycle is written, and its object tested with the others of the cycle (R228). -/
theorem updateBarrier_in_cycle {s : State} (h : s.inCycle = true) (pa : Nat) (b : Barrier) : (updateBarrier s pa b).mem = (writeBarrier s pa b).mem ∧
    (updateBarrier s pa b).slots = s.slots ∧ pa ∈ (updateBarrier s pa b).touched := by
  rw [updateBarrier, if_pos h]
  refine ⟨rfl, slots_homeWrite _ _ _, ?_⟩
  dsimp only
  split
  · rename_i hin
    exact List.contains_iff_mem.1 hin
  · exact List.mem_append_right _ (List.mem_singleton.2 rfl)

theorem subtractPend_of_barrier {s : State} {pa n : Nat} {b : Barrier} (h : readBarrier s pa = some b) :
    subtractPend s pa n = updateBarrier s pa { b with pend := b.pend - BitVec.ofNat 64 n } := by
  simp only [subtractPend, h]

/-- The bytes of the portion that a copy pays now (R292). -/
def portion (s : State) (c : CopyRun) : Nat := (Config.freeBits s.fresh 11).toNat % Nat.min 2048 c.owed + 1

theorem portion_bounds {s : State} {c : CopyRun} (h : c.owed ≠ 0) : 1 ≤ portion s c ∧ portion s c ≤ 2048 ∧ portion s c ≤ c.owed := by
  have hpos : 0 < Nat.min 2048 c.owed := Nat.lt_min.2 ⟨by decide, Nat.pos_of_ne_zero h⟩
  have hlt := Nat.mod_lt (Config.freeBits s.fresh 11).toNat hpos
  have hl : Nat.min 2048 c.owed ≤ 2048 := Nat.min_le_left ..
  have hr : Nat.min 2048 c.owed ≤ c.owed := Nat.min_le_right ..
  unfold portion
  omega

/-- The group once the copy of a command has paid n bytes. -/
def paidGroup (g : Group) (q : QueueId) (e : QEntry) (w : Work) (c : CopyRun) (n : Nat) : Group :=
  g.mapEntry q e.id (fun e => { e with work := some { w with copies := [{ c with owed := c.owed - n }] } })

/-- The state once the copy of a command has paid n bytes, before its barrier is reached. -/
def paidState (s : State) (p : Place) (g : Group) : State := { s with fresh := s.fresh + 1 }.setGroup p g

section
variable {s : State} {p : Place} {q : QueueId} {k : Nat} {g : Group} {e : QEntry} {w : Work} {c : CopyRun} {pa : Nat} (hg : s.group p = some g)
  (he : (g.queue q)[k]? = some e) (hw : e.work = some w) (hcopies : w.copies = [c]) (hb : c.barrier = some pa) (ho : c.owed ≠ 0)
include hg he hw hcopies hb ho

/-- A copy that owes its barrier bytes waits for a link, or pays a portion: a poisoned barrier takes none of it (R292, R414, R430; log 44). -/
theorem execCopyBarrierPortion_of_owed : execCopyBarrierPortion p q k s =
    if farHeld s (dieOfPlace p) pa then .next s
    else if poisoned s pa then
      .next (raise (paidState s p (paidGroup g q e w c (portion s c))) p { stream := e.stream, queue := none, async := true, fpc := e.fpc } (.plain Cause.mcEcc))
    else .next (subtractPend (l2Touch (paidState s p (paidGroup g q e w c (portion s c))) pa (some (g.lr.asid, c.barVa)) false true) pa (portion s c)) := by
  have hfind : w.copies.find? (fun c => c.barrier.isSome && c.owed != 0) = some c := by simp [hcopies, hb, ho]
  have hpay (n : Nat) : payPortion n w.copies = [{ c with owed := c.owed - n }] := by simp [payPortion, hcopies, hb, ho]
  simp only [execCopyBarrierPortion, paidGroup, hg, he, hw, hfind, hb, hpay]
  rfl

end

/-- A cause that a running group takes outside a queue's head is its primary cause, and the group is cut (R386, R389). -/
theorem raise_off_queue {s : State} {p : Place} {g : Group} {w : RaisedAt} {t : Trap} (hg : s.group p = some g) (hrun : (s.slot p).state = .running)
    (hno : g.stopping = .no) (hq : w.queue = none) :
    ∃ g' cut, (raise s p w t).group p = some g' ∧ g'.stopping = .trap cut ∧ cut.cause = t.cause ∧ cut.isq = false := by
  have hslot : (s.slot p).group = some g := hg
  have hhalt : (s.slot p).state ≠ .halted := by rw [hrun]; decide
  unfold raise
  dsimp only
  rw [hslot]
  dsimp only
  rw [if_neg hhalt, hno, hq]
  exact ⟨_, _, congrArg Slot.group (State.slot_setSlot s p _), rfl, rfl, rfl⟩

/-- Settles O53: a load by its answer and its weights, a replay by the signatures and the split, a port's window by its arithmetic, a copy's portion by its
barrier. -/
theorem collectiveLoadAndPortEventsComplete : Obligations.CollectiveLoadAndPortEventsComplete := by
  unfold Obligations.CollectiveLoadAndPortEventsComplete
  intro s
  refine ⟨fun p i c id ws h => ?load, fun p d i c r rest ok ws nws sigs hl hc hr hp ha hs honly hw => ?exchange, fun q util => ?port,
    fun p q k g e w c pa hg he hw hcopies hb ho => ?copy⟩
  case load =>
    intro d answered answers
    have hsome : (loadingCtx s p).isSome = true := by rw [h]; rfl
    refine ⟨fun host hfix => pathWeights_fixed hfix host, pathWeights_host, fun hreq granted told => ?_,
      fun hreq => ⟨fun sigs => ?_, fun hw sigs => ?_⟩, fun seq hseq => ?_⟩
    · exact (execColldReady_of_load hsome granted told).trans (if_pos hreq)
    · have hrun (granted : Bool) : exec (.colldReady p granted (ws, sigs)) s = .next (answerLoad s p false granted ws) :=
        (execColldReady_of_load hsome granted (ws, sigs)).trans (if_neg (by rw [hreq]; decide))
      have hans := answerLoad_answers h false ws
      rw [← hrun true, ← hrun false] at hans
      exact hans
    · refine (execColldReady_of_load hsome true (ws, sigs)).trans ((if_neg (by rw [hreq]; decide)).trans ?_)
      rw [answerLoad_unweighed h hw]
    · have hrun (granted : Bool) : exec (.colAck seq granted ws) s = .next (answerLoad (withoutReq s seq) p true granted ws) := execColAck_of_req hseq granted ws
      have hans := answerLoad_answers (s := withoutReq s seq) h true ws
      rw [← hrun true, ← hrun false, pathWeights_host_congr (s := s)] at hans
      exact hans
  case exchange => exact execColldReady_of_exchange hl (firstWaiting_of_only hc hr hp ha hs honly) hw
  case port =>
    intro window
    have hend := execPortWindowEnd_eq q util s
    refine ⟨fun hsame => hend.trans (if_pos hsame), fun hnew => ⟨_, hend.trans (if_neg hnew), ?_⟩⟩
    have hu : Nat.min 1024 util.toNat ≤ 1024 := Nat.min_le_left ..
    have hport : (s.ports.set q.val ((s.ports.get q).windowEnded (Nat.min 1024 util.toNat) window)).get q =
        (s.ports.get q).windowEnded (Nat.min 1024 util.toNat) window := by simp [Vector.get_eq_getElem]
    refine ⟨?_, congrArg Port.avail hport, (congrArg Port.bwm hport).trans rfl, fun k hk => ?_, rfl⟩
    · refine (congrArg (fun x => x.util.toNat) hport).trans ?_
      exact (BitVec.toNat_ofNat ..).trans (Nat.mod_eq_of_lt (by omega))
    · have hne : q.val ≠ k.val := fun h => hk (Fin.ext h.symm)
      simp [Vector.get_eq_getElem, hne]
  case copy =>
    intro run
    have hrun : run = _ := execCopyBarrierPortion_of_owed hg he hw hcopies hb ho
    refine ⟨fun hfar => hrun.trans (if_pos hfar), fun hfar => ?_⟩
    replace hrun := hrun.trans (if_neg (by rw [hfar]; decide))
    obtain ⟨h1, h2, h3⟩ := portion_bounds (s := s) ho
    refine ⟨portion s c, h1, h2, h3, ?_⟩
    intro g' u
    refine ⟨fun hclean b hread => ?_, fun hbad hstate hno => ?_⟩
    · replace hrun := hrun.trans ((if_neg (by rw [hclean]; decide)).trans (congrArg Host.Outcome.next (subtractPend_of_barrier hread)))
      have hu : u.inCycle = s.inCycle := inCycle_l2Touch ..
      have hslots : u.slots = (paidState s p g').slots := slots_l2Touch ..
      intro less
      refine ⟨fun hcycle => hrun.trans (congrArg Host.Outcome.next (updateBarrier_at_once (hu.trans hcycle) pa less)), fun hcycle => ⟨_, hrun, ?_⟩⟩
      · obtain ⟨hmem, hkept, htouched⟩ := updateBarrier_in_cycle (hu.trans hcycle) pa less
        exact ⟨hmem, htouched, (congrArg (fun l => (Vector.get l p).group) (hkept.trans hslots)).trans (State.group_setGroup _ p g')⟩
    · replace hrun := hrun.trans (if_pos hbad)
      have hslot : ((paidState s p g').slot p).state = .running := by rw [paidState, State.slot_setGroup]; exact hstate
      obtain ⟨g2, cut, hg2, hstop, hcause, hisq⟩ := raise_off_queue (w := { stream := e.stream, queue := none, async := true, fpc := e.fpc })
        (t := .plain Cause.mcEcc) (State.group_setGroup { s with fresh := s.fresh + 1 } p g') hslot hno rfl
      obtain ⟨sl, hsl⟩ := raise_slot (paidState s p g') p { stream := e.stream, queue := none, async := true, fpc := e.fpc } (.plain Cause.mcEcc)
      exact ⟨_, g2, cut, hrun, (congrArg State.mem hsl).trans rfl, hg2, hstop, hcause, hisq⟩

end Sys2Proof.Machine
end
